-- ==== Sys2Proof/Word.lean ====
section
/-! DEFINITION. The word types of the DN240 (R5, R29, R59) and their plainest arithmetic. -/

namespace Sys2Proof

/-- One 32-bit register value (R59). -/
abbrev Word := BitVec 32
/-- One 64-bit value: a register pair, a wide control register (R33, R62). -/
abbrev DWord := BitVec 64
/-- One byte of memory (R5). -/
abbrev Byte := BitVec 8
/-- A set of lanes of a squad: bit i stands for lane i (R35). -/
abbrev Lanes := BitVec 32
/-- A program counter. Only bits 56:0 are ever an instruction's address, but a branch through a
register pair may set the upper bits, and the fetch then raises cause 0x011 (R29, R236). -/
abbrev Pc := BitVec 64
/-- One 96-bit instruction word (R30). -/
abbrev InsnWord := BitVec 96

/-- The pair of two 32-bit halves, the low one first (R34). -/
def DWord.ofHalves (lo hi : Word) : DWord := hi ++ lo
/-- Bits 31:0 of a 64-bit value. -/
def DWord.lo (x : DWord) : Word := x.extractLsb' 0 32
/-- Bits 63:32 of a 64-bit value. -/
def DWord.hi (x : DWord) : Word := x.extractLsb' 32 32

end Sys2Proof
end

