-- ==== Sys2Proof/Config.lean ====
section
/-! DEFINITION. What an implementation fixes and the specification leaves open: opaque constants,
of which nothing can be proved but that they are values (assumption log, entries 5, 25, 40, 50, 74, 85, 111 and 112). -/

namespace Sys2Proof.Config

/-- The SHA-384 digest that GET_MEASUREMENTS returns under an index (R372): the specification names
what is measured and gives no digest. Index, and the retired-core map for the index that covers it. -/
opaque measurement : Nat → BitVec 240 → BitVec 384

/-- The entry of a full remote-data cache that makes room for a fill (R180): the specification names no
victim. Die, stamp, number of entries. Log entry 85. -/
opaque rdcVictim : Nat → Nat → Nat → Nat

/-- The home slice of a 64-byte line, by line number, modulo the 48 of its die (R13, R14, R173): the specification
gives no map. Log entry 25. -/
opaque sliceOf : Nat → Nat

/-- How many save areas the firmware memory of the package holds (R286, R304): the specification gives no size of an
area. Log entry 40. -/
opaque saveAreas : Nat

/-- Which of the ports of its medium a message takes, or a pair of class O or U is held to (R368): the specification
says only that messages are spread. Stamp. Log entry 50. -/
opaque portPick : Nat → Nat

/-- Which line of a full home slice's L2 makes room for another (R13, R14): the specification names no victim. Slice,
stamp, number of lines. Log entry 111. -/
opaque l2Victim : Nat → Nat → Nat → Nat

/-- The drain group that system software keeps for its own use, modulo 16 (R261). Log entry 74. -/
opaque systemGroup : Nat

/-- The package power limit that a DN240-M module sets for itself, in watts (R374, R375); none on a DN240-P. Log entry
112. -/
opaque moduleLimit : Option Nat

end Sys2Proof.Config
end

