-- ==== Sys2Proof/Syntax.lean ====
section
/-! DEFINITION. The instructions and events of the DN240: one constructor for each row of the
operation table. An instruction row carries the fields of its word (R30) in typed form; an event row
(what the host, the fabric, the scheduler or an engine does) carries what names the occurrence. -/

namespace Sys2Proof

/-- The constants and read-only specials of R60, codes 480 to 504 in order. -/
inductive Special where
  | zero | one | lane | squad | block | flask | stage | clock | pblk | fx | fy | fz | nfx | nfy | nfz
  | nblk | nsq | dsegl | dsegh | prml | prmh | core | tag | half | slot
  deriving DecidableEq, Repr

/-- What a 9-bit operand field names (R33). `bad` is a code that R33 or R60 leaves unassigned: a word
that uses one raises cause 0x012. -/
inductive Opnd where
  | v (n : BitVec 8)
  | s (n : BitVec 6)
  | t (n : BitVec 4)
  | acc (n : BitVec 3)
  | p (n : BitVec 3)
  | sp (x : Special)
  | bad (code : BitVec 9)
  deriving DecidableEq, Repr

/-- The TY sub-field (R43). -/
inductive Ty where
  | i8 | i16 | i32 | i64 | n8 | n16 | n32 | n64 | b32
  deriving DecidableEq, Repr

/-- The FMT and FMT2 sub-fields (R43, R70). -/
inductive Fmt where
  | f32 | bf16 | f16 | e4m3 | e5m2 | e2m1 | i4e | e8m0 | i8
  deriving DecidableEq, Repr

/-- The CMP sub-field (R43). -/
inductive Cmp where
  | eq | ne | lt | le | gt | ge | un
  deriving DecidableEq, Repr

/-- The SZ sub-field (R43): 8, 16, 32, 64, 128 bits. -/
inductive Sz where
  | b8 | b16 | b32 | b64 | b128
  deriving DecidableEq, Repr

/-- The RQ sub-field (R43, R171): the request type of a global access. -/
inductive Rq where
  | uc | wt | si | ow
  deriving DecidableEq, Repr

/-- The scopes of R8; the SC sub-field (R43) holds none or one of them. -/
inductive Scope where
  | sq | blk | fl | die | pkg | sys
  deriving DecidableEq, Repr

/-- The ORD sub-field (R43). -/
inductive MemOrd where
  | relaxed | acq | rel | ar | sc
  deriving DecidableEq, Repr

/-- The FMC sub-field (R43): the feature-map codec of a copy. -/
inductive Fmc where
  | plain | fmc2 | fmc4
  deriving DecidableEq, Repr

/-- The two engines of a core that run engine programs (R258). -/
inductive Engine where
  | copy | matrix
  deriving DecidableEq, Repr

/-- The control registers that R62 lists. -/
inductive Cr where
  | tshape (n : BitVec 4)
  | skew (n : BitVec 2)
  | stklim | tagmap | cause | trappc | skidct | rstpc | asgen | viewgen | dtsel | prio | drgrp | audfrac
  deriving DecidableEq, Repr

/-- The scheduling hints (R40). `res` is HNT bit 88, ignored whatever its value. -/
structure Hint where
  space : BitVec 3 := 0
  cede : BitVec 2 := 0
  latch : BitVec 2 := 0
  res : Bool := false
  deriving DecidableEq, Repr

/-- The guard (R35): the predicate and whether it is negated. An absent guard is p7, not negated. -/
structure Guard where
  neg : Bool := false
  sel : BitVec 3 := 7
  deriving DecidableEq, Repr

/-- The fields of an instruction word (R30), with the modifiers of its family in `mod`. An operand
position that the instruction does not use holds v0, which encodes as 0 (R31). -/
structure Args (μ : Type) where
  hint : Hint := {}
  guard : Guard := {}
  fea : Bool := false
  feb : Bool := false
  fec : Bool := false
  d : Opnd := .v 0
  a : Opnd := .v 0
  b : Opnd := .v 0
  c : Opnd := .v 0
  imm : Word := 0
  mod : μ
  deriving DecidableEq, Repr

/-- Integer and address modifiers (R42). -/
structure IntMod where
  ty : Ty
  sat : Bool := false
  cmp : Cmp := .eq
  var : BitVec 4 := 0
  deriving DecidableEq, Repr

/-- Floating-point and conversion modifiers (R42). -/
structure FpMod where
  fmt : Fmt := .f32
  sat : Bool := false
  cmp : Cmp := .eq
  fmt2 : Fmt := .f32
  deriving DecidableEq, Repr

/-- Quantise and narrow modifiers (R42). -/
structure QMod where
  fmt : Fmt
  sat : Bool := false
  deriving DecidableEq, Repr

/-- Matrix modifiers (R42, R122). -/
structure MatMod where
  fmt : Fmt := .f32
  trb : Bool := false
  skew : Bool := false
  var : BitVec 4 := 0
  deriving DecidableEq, Repr

/-- Global memory modifiers (R42). -/
structure GMod where
  sz : Sz := .b8
  sx : Bool := false
  rq : Rq := .uc
  sc : Option Scope := none
  ord : MemOrd := .relaxed
  deriving DecidableEq, Repr

/-- Pooled and stack memory modifiers (R42). -/
structure PMod where
  sz : Sz := .b8
  sx : Bool := false
  skew : Bool := false
  sc : Option Scope := none
  ord : MemOrd := .relaxed
  deriving DecidableEq, Repr

/-- Copy-engine modifiers (R42). -/
structure CMod where
  tag : BitVec 6 := 0
  fmc : Fmc := .plain
  crc : Bool := false
  fol : Bool := false
  que : BitVec 2 := 0
  deriving DecidableEq, Repr

/-- Synchronisation modifiers (R42). -/
structure SMod where
  idx : BitVec 7 := 0
  sc : Option Scope := none
  loc : Bool := false
  deriving DecidableEq, Repr

/-- The launch-queue modifier of `pour` (R42). -/
structure LMod where
  que : BitVec 4 := 0
  deriving DecidableEq, Repr

/-- The kinds of request that a fabric peer sends (R184, R307). -/
inductive PeerOp where
  | read (len : Nat)
  | write (data : List Byte) (ordered urgent : Bool)
  | atomic (op : Nat) (wide : Bool) (operand cmp : DWord)
  deriving DecidableEq, Repr

/-- A request arriving from a fabric peer (R307): its source endpoint, the context tag it names, the
address in that context, the identity of an atomic (R183), what it asks, whether it is the retry of an atomic, the
port at which it arrives (die × 10 + port), and the reset epoch of the home die that the identity of an atomic carries. -/
structure PeerReq where
  src : Nat
  ptag : Nat
  addr : DWord
  ident : Nat
  op : PeerOp
  retry : Bool := false
  port : Nat := 0
  epoch : Nat := 0
  deriving DecidableEq, Repr

/-- The host registers without behaviour of their own (R363): the handler entry of a context, a
tenant's aperture select, an outbound and an inbound window entry, the mailbox's command bytes, and any
other offset. -/
inductive HostReg where
  | hentry (tag : Nat)
  | aperture (tenant : Nat)
  | outWindow (tenant idx : Nat)
  | inWindow (tag idx : Nat)
  | mailboxCmd
  | other (ofs : Nat)
  deriving DecidableEq, Repr

/-- One constructor for each row of the operation table. -/
inductive Instr where
  /-- NOP (R240). Changes no state; its hints act as on any instruction. -/
  | nop (a : Args Unit)
  /-- BRA (R235). Sets each passing lane's next PC to the direct target, splitting the sub-group where lanes diverge. -/
  | bra (a : Args Unit)
  /-- BRX (R235). Branches each passing lane to an entry of a jump table indexed by its own signed operand. -/
  | brx (a : Args Unit)
  /-- CALL (R236). Writes the return PC into a pair and branches each passing lane to a direct label. -/
  | call (a : Args Unit)
  /-- CALL_IND (R236). Writes the return PC into a pair and branches each passing lane to the address held in a
  register pair. -/
  | callInd (a : Args Unit)
  /-- RET (R236). Branches each passing lane to the address held in its register pair. -/
  | ret (a : Args Unit)
  /-- MEET (R237). Sets the meeting register of each passing lane to the target address. -/
  | meet (a : Args Unit)
  /-- MEET_SAVE (R237). Writes each passing lane's previous meeting register into a pair and then sets the new meeting
  address. -/
  | meetSave (a : Args Unit)
  /-- REJOIN (R231). Settles companion sets, holding threads whose awaited lanes have not arrived and releasing held
  threads that this issue satisfies. -/
  | rejoin (a : Args Unit)
  /-- REJOIN_REST (R238). Acts as rejoin and then sets each passing lane's meeting register from a register pair. -/
  | rejoinRest (a : Args Unit)
  /-- EXIT (R239). Ends each passing lane's thread, withdrawing it from meetings, companion sets and barriers, and
  sends its combined stores. -/
  | exit (a : Args Unit)
  /-- YIELD (R240). Places the squad last in age order and gives its next issue to another ready sub-group. -/
  | yield (a : Args Unit)
  /-- VOTE_ANY (R241). Writes the OR of a predicate over the passing lanes into each passing lane's bit. -/
  | voteAny (a : Args Unit)
  /-- VOTE_ALL (R241). Writes the AND of a predicate over the passing lanes into each passing lane's bit. -/
  | voteAll (a : Args Unit)
  /-- VOTE_MASK (R241). Writes the predicate masked by the passing lanes into an s or v register. -/
  | voteMask (a : Args Unit)
  /-- SHFL_PICK (R242). Gives each passing lane the value of a fixed lane of its segment. -/
  | shflPick (a : Args Unit)
  /-- SHFL_ROT (R242). Gives each passing lane the value of the lane a rotation distance away in its segment. -/
  | shflRot (a : Args Unit)
  /-- SHFL_SLIDE (R242). Gives each passing lane the value of the lane a signed distance away, or its own value out of
  range. -/
  | shflSlide (a : Args Unit)
  /-- SHFL_MIR (R242). Gives each passing lane the value of the lane at its position XOR a distance within its
  segment. -/
  | shflMir (a : Args Unit)
  /-- ADD (R88). Integer addition, wrapping or saturating. -/
  | add (a : Args IntMod)
  /-- SUB (R88). Integer subtraction, wrapping or saturating. -/
  | sub (a : Args IntMod)
  /-- MUL_LO (R88). Low half of an integer product, wrapping or saturating. -/
  | mulLo (a : Args IntMod)
  /-- MUL_HI (R88). High half of the double-width integer product. -/
  | mulHi (a : Args IntMod)
  /-- MAD (R88). Integer multiply-add at one width. -/
  | mad (a : Args IntMod)
  /-- MAD_WIDE (R88). 32-bit multiply added to a 64-bit addend, giving a 64-bit pair. -/
  | madWide (a : Args IntMod)
  /-- DIV (R89). Integer quotient truncated towards zero, with defined results for division by zero and signed
  overflow. -/
  | div (a : Args IntMod)
  /-- REM (R89). Integer remainder with the sign of the dividend, with a defined result for division by zero. -/
  | rem (a : Args IntMod)
  /-- MIN (R88). Smaller of two integers by the type's order. -/
  | min (a : Args IntMod)
  /-- MAX (R88). Larger of two integers by the type's order. -/
  | max (a : Args IntMod)
  /-- ABS (R88). Absolute value of a signed integer. -/
  | abs (a : Args IntMod)
  /-- NEG (R88). Negation of a signed integer. -/
  | neg (a : Args IntMod)
  /-- AND (R88). Bitwise AND. -/
  | and (a : Args IntMod)
  /-- OR (R88). Bitwise OR. -/
  | or (a : Args IntMod)
  /-- XOR (R88). Bitwise exclusive OR. -/
  | xor (a : Args IntMod)
  /-- NOT (R88). Bitwise complement. -/
  | not (a : Args IntMod)
  /-- SHL (R90). Logical shift left by an unmasked amount. -/
  | shl (a : Args IntMod)
  /-- SHR (R90). Logical shift right by an unmasked amount. -/
  | shr (a : Args IntMod)
  /-- SAR (R90). Arithmetic shift right by an unmasked amount. -/
  | sar (a : Args IntMod)
  /-- ROT (R90). Rotation left by the amount modulo the width. -/
  | rot (a : Args IntMod)
  /-- CLZ (R88). Count of leading zero bits. -/
  | clz (a : Args IntMod)
  /-- POPC (R88). Count of one bits. -/
  | popc (a : Args IntMod)
  /-- BREV (R88). Bit reversal. -/
  | brev (a : Args IntMod)
  /-- BFX (R91). Extracts a bit field, sign- or zero-extended. -/
  | bfx (a : Args IntMod)
  /-- BFI (R91). Inserts a bit field into a copy of operand c. -/
  | bfi (a : Args IntMod)
  /-- LEA (R92). Forms a 64-bit address from a pair plus a scaled index. -/
  | lea (a : Args IntMod)
  /-- SETP (R93). Writes each passing lane's predicate bit from an integer comparison. -/
  | setp (a : Args IntMod)
  /-- SEL (R93). Selects per lane between two sources by a predicate bit. -/
  | sel (a : Args IntMod)
  /-- PLOP (R94). Combines predicate masks through a four-bit truth table ANDed with a third mask. -/
  | plop (a : Args IntMod)
  /-- MOV (R68). Copies a 32-bit or 64-bit register value. -/
  | mov (a : Args IntMod)
  /-- MOVI (R68). Writes an immediate, extended as the type requires. -/
  | movi (a : Args IntMod)
  /-- DP4 (R95). Four-element 8-bit dot product added to a 32-bit accumulator. -/
  | dp4 (a : Args IntMod)
  /-- ADD_IMM (R88). Integer addition with an immediate operand B. -/
  | addImm (a : Args IntMod)
  /-- SUB_IMM (R88). Integer subtraction with an immediate operand B. -/
  | subImm (a : Args IntMod)
  /-- MUL_LO_IMM (R88). Low half of a product with an immediate operand B. -/
  | mulLoImm (a : Args IntMod)
  /-- MUL_HI_IMM (R88). High half of a product with an immediate operand B. -/
  | mulHiImm (a : Args IntMod)
  /-- DIV_IMM (R89). Integer quotient with an immediate divisor. -/
  | divImm (a : Args IntMod)
  /-- REM_IMM (R89). Integer remainder with an immediate divisor. -/
  | remImm (a : Args IntMod)
  /-- MIN_IMM (R88). Integer minimum with an immediate operand B. -/
  | minImm (a : Args IntMod)
  /-- MAX_IMM (R88). Integer maximum with an immediate operand B. -/
  | maxImm (a : Args IntMod)
  /-- AND_IMM (R88). Bitwise AND with an immediate. -/
  | andImm (a : Args IntMod)
  /-- OR_IMM (R88). Bitwise OR with an immediate. -/
  | orImm (a : Args IntMod)
  /-- XOR_IMM (R88). Bitwise exclusive OR with an immediate. -/
  | xorImm (a : Args IntMod)
  /-- SHL_IMM (R90). Logical shift left by an immediate amount. -/
  | shlImm (a : Args IntMod)
  /-- SHR_IMM (R90). Logical shift right by an immediate amount. -/
  | shrImm (a : Args IntMod)
  /-- SAR_IMM (R90). Arithmetic shift right by an immediate amount. -/
  | sarImm (a : Args IntMod)
  /-- ROT_IMM (R90). Rotation left by an immediate amount. -/
  | rotImm (a : Args IntMod)
  /-- LEA_IMM (R92). Address formation with an immediate index. -/
  | leaImm (a : Args IntMod)
  /-- SETP_IMM (R93). Integer comparison against an immediate, written to a predicate. -/
  | setpImm (a : Args IntMod)
  /-- MUL_LO_MAP2 (R51). Low half of a product under the generation 2 opcode at 0x043. -/
  | mulLoMap2 (a : Args IntMod)
  /-- MUL_HI_MAP2 (R51). High half of a product under the generation 2 opcode at 0x042. -/
  | mulHiMap2 (a : Args IntMod)
  /-- FADD (R100). FP32 addition rounded once. -/
  | fadd (a : Args FpMod)
  /-- FSUB (R100). FP32 subtraction rounded once. -/
  | fsub (a : Args FpMod)
  /-- FMUL (R100). FP32 multiplication rounded once. -/
  | fmul (a : Args FpMod)
  /-- FMA (R100). FP32 fused multiply-add with one rounding. -/
  | fma (a : Args FpMod)
  /-- FMIN (R101). Returns the smaller FP32 source, with NaN and signed-zero rules. -/
  | fmin (a : Args FpMod)
  /-- FMAX (R101). Returns the larger FP32 source, with NaN and signed-zero rules. -/
  | fmax (a : Args FpMod)
  /-- FSETP (R102). Writes a predicate bit per lane from an FP32 comparison. -/
  | fsetp (a : Args FpMod)
  /-- FCLASS (R103). Writes a one-hot mask of the source's floating-point class. -/
  | fclass (a : Args FpMod)
  /-- FRCP (R104). Correctly rounded reciprocal. -/
  | frcp (a : Args FpMod)
  /-- FRSQ (R104). Correctly rounded reciprocal square root. -/
  | frsq (a : Args FpMod)
  /-- FSQRT (R104). Correctly rounded square root. -/
  | fsqrt (a : Args FpMod)
  /-- FDIV (R104). Correctly rounded division. -/
  | fdiv (a : Args FpMod)
  /-- FEXP2 (R104). Correctly rounded base-2 exponential. -/
  | fexp2 (a : Args FpMod)
  /-- FLOG2 (R104). Correctly rounded base-2 logarithm. -/
  | flog2 (a : Args FpMod)
  /-- FSIN (R104). Correctly rounded sine with exact range reduction. -/
  | fsin (a : Args FpMod)
  /-- FCOS (R104). Correctly rounded cosine with exact range reduction. -/
  | fcos (a : Args FpMod)
  /-- FTANH (R104). Correctly rounded hyperbolic tangent. -/
  | ftanh (a : Args FpMod)
  /-- HADD2 (R105). Adds two packed 16-bit float elements independently. -/
  | hadd2 (a : Args FpMod)
  /-- HMUL2 (R105). Multiplies two packed 16-bit float elements independently. -/
  | hmul2 (a : Args FpMod)
  /-- HFMA2 (R105). Fused multiply-add on two packed 16-bit float elements. -/
  | hfma2 (a : Args FpMod)
  /-- CVT (R107). Converts one element between float formats and integer types by the kind of R76. -/
  | cvt (a : Args FpMod)
  /-- FADD_IMM (R100). FP32 addition with an immediate FP32 operand B. -/
  | faddImm (a : Args FpMod)
  /-- FSUB_IMM (R100). FP32 subtraction with an immediate FP32 operand B. -/
  | fsubImm (a : Args FpMod)
  /-- FMUL_IMM (R100). FP32 multiplication with an immediate FP32 operand B. -/
  | fmulImm (a : Args FpMod)
  /-- FMIN_IMM (R101). FP32 minimum with an immediate operand B. -/
  | fminImm (a : Args FpMod)
  /-- FMAX_IMM (R101). FP32 maximum with an immediate operand B. -/
  | fmaxImm (a : Args FpMod)
  /-- FSETP_IMM (R102). FP32 comparison against an immediate, written to a predicate. -/
  | fsetpImm (a : Args FpMod)
  /-- QBLK (R110). Quantises 32 lanes of FP32 into one block image and writes its scale byte. -/
  | qblk (a : Args QMod)
  /-- DQBLK (R111). Expands one block image and its scale into 32 FP32 values. -/
  | dqblk (a : Args QMod)
  /-- PK4 (R112). Packs 32 lane values into a 16-byte I4E image without a scale. -/
  | pk4 (a : Args QMod)
  /-- UPK4 (R112). Unpacks a 16-byte I4E image into 32 lane values. -/
  | upk4 (a : Args QMod)
  /-- AMAX (R113). Writes the largest magnitude over 32 lanes, combined with operand b. -/
  | amax (a : Args QMod)
  /-- TLD (R126). Queues a command that copies shaped rows from pooled space into a tile. -/
  | tld (a : Args MatMod)
  /-- TST (R126). Queues a command that copies a tile's shaped rows out to pooled space. -/
  | tst (a : Args MatMod)
  /-- TZERO (R126). Queues a command that sets all 8 KiB of a tile to zero. -/
  | tzero (a : Args Unit)
  /-- MMA (R123). Checks shapes and queues a tile product accumulated in fixed chunk order. -/
  | mma (a : Args MatMod)
  /-- MMAS (R124). Checks shapes and queues a block-scaled tile product of one chunk. -/
  | mmas (a : Args MatMod)
  /-- ACCZ (R127). Queues a command that sets every accumulator element to +0. -/
  | accz (a : Args Unit)
  /-- ACCMUL (R127). Queues a command that multiplies every accumulator element by an FP32 factor. -/
  | accmul (a : Args Unit)
  /-- ACCRD (R128). Marks the destination empty and queues a read of one accumulator row. -/
  | accrd (a : Args Unit)
  /-- ACCWR (R128). Queues a write of lane values into one accumulator row. -/
  | accwr (a : Args Unit)
  /-- ACCST (R126). Queues a store of the accumulator's 32 rows to pooled space in FP32, BF16 or FP16. -/
  | accst (a : Args MatMod)
  /-- ACCDECL_RETAIN (R136). Queues a command that marks an accumulator retain under pre-emption. -/
  | accdeclRetain (a : Args Unit)
  /-- ACCDECL_RECOMPUTE (R136). Queues a command that marks an accumulator recompute under pre-emption. -/
  | accdeclRecompute (a : Args Unit)
  /-- RSTLBL (R137). Sets the block's restart PC to the target label. -/
  | rstlbl (a : Args Unit)
  /-- MATRIX_COMMAND_EXECUTE (R118). The matrix engine takes the oldest queued command and executes it to completion. -/
  | matrixCommandExecute (core : Nat)
  /-- LDS (R191). Loads from pooled space in each passing lane. -/
  | lds (a : Args PMod)
  /-- STS (R191). Stores to pooled space in each passing lane. -/
  | sts (a : Args PMod)
  /-- LDG (R193). Marks destinations empty and issues global loads of the named request type. -/
  | ldg (a : Args GMod)
  /-- STG (R193). Issues posted global stores of the named request type. -/
  | stg (a : Args GMod)
  /-- LDK (R195). Loads from the thread's own stack after the limit and size checks. -/
  | ldk (a : Args PMod)
  /-- STK (R195). Stores to the thread's own stack after the limit and size checks. -/
  | stk (a : Args PMod)
  /-- FENCE (R200). Orders the thread's accesses at a scope, sending combined stores and owned words as required. -/
  | fence (a : Args GMod)
  /-- CRDECL (R198). Declares a commutative range at every home and zeroes its shadow area. -/
  | crdecl (a : Args GMod)
  /-- CRFOLD (R199). Posts folds of range elements into their home values. -/
  | crfold (a : Args GMod)
  /-- CRED (R199). Posts contributions into each addressed element's contributor slot. -/
  | cred (a : Args GMod)
  /-- ATOMS_ADD (R197). Returning pooled atomic addition. -/
  | atomsAdd (a : Args PMod)
  /-- ATOMS_MIN (R197). Returning pooled atomic signed minimum. -/
  | atomsMin (a : Args PMod)
  /-- ATOMS_MAX (R197). Returning pooled atomic signed maximum. -/
  | atomsMax (a : Args PMod)
  /-- ATOMS_AND (R197). Returning pooled atomic AND. -/
  | atomsAnd (a : Args PMod)
  /-- ATOMS_OR (R197). Returning pooled atomic OR. -/
  | atomsOr (a : Args PMod)
  /-- ATOMS_XOR (R197). Returning pooled atomic XOR. -/
  | atomsXor (a : Args PMod)
  /-- ATOMS_EXCH (R197). Returning pooled atomic exchange. -/
  | atomsExch (a : Args PMod)
  /-- ATOMS_CAS (R197). Returning pooled atomic compare-and-swap. -/
  | atomsCas (a : Args PMod)
  /-- ATOMS_INC (R197). Returning pooled atomic wrapping increment. -/
  | atomsInc (a : Args PMod)
  /-- ATOMS_DEC (R197). Returning pooled atomic wrapping decrement. -/
  | atomsDec (a : Args PMod)
  /-- ATOMS_FADD (R197). Returning pooled atomic FP32 addition. -/
  | atomsFadd (a : Args PMod)
  /-- ATOMS_FMIN (R197). Returning pooled atomic FP32 minimum. -/
  | atomsFmin (a : Args PMod)
  /-- ATOMS_FMAX (R197). Returning pooled atomic FP32 maximum. -/
  | atomsFmax (a : Args PMod)
  /-- ATOMG_ADD (R197). Returning global atomic addition. -/
  | atomgAdd (a : Args GMod)
  /-- ATOMG_MIN (R197). Returning global atomic signed minimum. -/
  | atomgMin (a : Args GMod)
  /-- ATOMG_MAX (R197). Returning global atomic signed maximum. -/
  | atomgMax (a : Args GMod)
  /-- ATOMG_AND (R197). Returning global atomic AND. -/
  | atomgAnd (a : Args GMod)
  /-- ATOMG_OR (R197). Returning global atomic OR. -/
  | atomgOr (a : Args GMod)
  /-- ATOMG_XOR (R197). Returning global atomic XOR. -/
  | atomgXor (a : Args GMod)
  /-- ATOMG_EXCH (R197). Returning global atomic exchange. -/
  | atomgExch (a : Args GMod)
  /-- ATOMG_CAS (R197). Returning global atomic compare-and-swap. -/
  | atomgCas (a : Args GMod)
  /-- ATOMG_INC (R197). Returning global atomic wrapping increment. -/
  | atomgInc (a : Args GMod)
  /-- ATOMG_DEC (R197). Returning global atomic wrapping decrement. -/
  | atomgDec (a : Args GMod)
  /-- ATOMG_FADD (R197). Returning global atomic FP32 addition. -/
  | atomgFadd (a : Args GMod)
  /-- ATOMG_FMIN (R197). Returning global atomic FP32 minimum. -/
  | atomgFmin (a : Args GMod)
  /-- ATOMG_FMAX (R197). Returning global atomic FP32 maximum. -/
  | atomgFmax (a : Args GMod)
  /-- REDG_ADD (R197). Posted global reduction by addition. -/
  | redgAdd (a : Args GMod)
  /-- REDG_MIN (R197). Posted global reduction by signed minimum. -/
  | redgMin (a : Args GMod)
  /-- REDG_MAX (R197). Posted global reduction by signed maximum. -/
  | redgMax (a : Args GMod)
  /-- REDG_AND (R197). Posted global reduction by AND. -/
  | redgAnd (a : Args GMod)
  /-- REDG_OR (R197). Posted global reduction by OR. -/
  | redgOr (a : Args GMod)
  /-- REDG_XOR (R197). Posted global reduction by XOR. -/
  | redgXor (a : Args GMod)
  /-- REDG_INC (R197). Posted global wrapping increment. -/
  | redgInc (a : Args GMod)
  /-- REDG_DEC (R197). Posted global wrapping decrement. -/
  | redgDec (a : Args GMod)
  /-- REDG_FADD (R197). Posted global FP32 addition. -/
  | redgFadd (a : Args GMod)
  /-- REDG_FMIN (R197). Posted global FP32 minimum. -/
  | redgFmin (a : Args GMod)
  /-- REDG_FMAX (R197). Posted global FP32 maximum. -/
  | redgFmax (a : Args GMod)
  /-- CPY (R211). Reads and checks a copy descriptor and queues a global-to-pooled or global-to-tile multicast copy on
  a tag. -/
  | cpy (a : Args CMod)
  /-- CPYL (R212). Queues per-lane 32-byte copies from global memory into pooled space, zero-filled beyond the valid
  count. -/
  | cpyl (a : Args CMod)
  /-- CPYW (R213). Reads a window descriptor and queues a window gather into pooled space or a tile. -/
  | cpyw (a : Args CMod)
  /-- CPYP (R213). Reads a window descriptor and queues a max or sum pooling copy with an optional divisor plane. -/
  | cpyp (a : Args CMod)
  /-- CPYO (R214). Queues a copy from pooled space out to global memory, optionally FMC-encoded. -/
  | cpyo (a : Args CMod)
  /-- CPYX_PUT (R215). Queues a copy of pooled rows to a fabric peer in class O, N or U. -/
  | cpyxPut (a : Args CMod)
  /-- CPYX_GET (R215). Queues class-Q reads from a fabric peer whose answers land as in cpy. -/
  | cpyxGet (a : Args CMod)
  /-- TWAIT_ANY (R219). Waits until at least one masked tag is DONE and writes the failure map. -/
  | twaitAny (a : Args Unit)
  /-- TWAIT_ALL (R219). Waits until every masked tag is DONE and writes the failure map. -/
  | twaitAll (a : Args Unit)
  /-- TFIND (R220). Returns the lowest DONE masked tag with its status, without waiting. -/
  | tfind (a : Args Unit)
  /-- TCLR (R221). Makes DONE tags IDLE and cancels the copy commands of BUSY tags. -/
  | tclr (a : Args Unit)
  /-- COPY_START (R203). A queued copy command at the head of its queue starts when the engine has a free stream. -/
  | copyStart (core que : Nat)
  /-- COPY_LANDING (R217). Bytes of a copy land in a receiving block and are counted into its barrier. -/
  | copyLanding (core cmd n : Nat)
  /-- COPY_COMPLETE (R218). A copy command's completing event lowers its tag count, closes any CRC chain and queues
  any follow-on. -/
  | copyComplete (core cmd : Nat)
  /-- BINI (R248). Reinitialises the block's barrier instance with an enrolment mask and expected bytes. -/
  | bini (a : Args SMod)
  /-- BARV (R249). Records an arrival of each passing lane's thread at a barrier and runs its check. -/
  | barv (a : Args SMod)
  /-- BEXP (R250). Adds expected bytes to the current phase of a barrier. -/
  | bexp (a : Args SMod)
  /-- BWAIT (R252). Waits in each passing lane until the awaited barrier phase has completed. -/
  | bwait (a : Args SMod)
  /-- BTEST (R252). Writes per lane whether a bwait would return, consuming the arrival where it would. -/
  | btest (a : Args SMod)
  /-- BINI_MAP2 (R51). bini under the generation 2 opcode map. -/
  | biniMap2 (a : Args SMod)
  /-- BARV_MAP2 (R51). barv under the generation 2 opcode map. -/
  | barvMap2 (a : Args SMod)
  /-- BEXP_MAP2 (R51). bexp under the generation 2 opcode map. -/
  | bexpMap2 (a : Args SMod)
  /-- BWAIT_MAP2 (R51). bwait under the generation 2 opcode map. -/
  | bwaitMap2 (a : Args SMod)
  /-- BTEST_MAP2 (R51). btest under the generation 2 opcode map. -/
  | btestMap2 (a : Args SMod)
  /-- SEAM_PHASE_COMPLETE (R254). A straddling flask's barrier completes once both dies' local phases have crossed the
  seam bridge. -/
  | seamPhaseComplete (flask bar : Nat)
  /-- RINIT (R256). Places a runner's ring and sets its allowance and count. -/
  | rinit (a : Args SMod)
  /-- PUSH (R257). Pushes a handle into a runner once its count is below the allowance. -/
  | push (a : Args SMod)
  /-- POP (R257). Marks the destination empty and appends a pop request to the runner. -/
  | pop (a : Args SMod)
  /-- FORK_COPY (R258). Starts a copy engine program of n instructions. -/
  | forkCopy (a : Args SMod)
  /-- FORK_MATRIX (R258). Starts a matrix engine program of n instructions. -/
  | forkMatrix (a : Args SMod)
  /-- FORK_MAP2 (R51). fork under the generation 2 opcode map. -/
  | forkMap2 (a : Args SMod)
  /-- RDV_COPY (R260). Waits until the squad's copy program has ended and its commands completed. -/
  | rdvCopy (a : Args SMod)
  /-- RDV_MATRIX (R260). Waits until the squad's matrix program has ended and its commands executed. -/
  | rdvMatrix (a : Args SMod)
  /-- RDV_MAP2 (R51). rdv under the generation 2 opcode map. -/
  | rdvMap2 (a : Args SMod)
  /-- ENGINE_PROGRAM_START (R258). A sequencer begins the next held program in fork order. -/
  | engineProgramStart (core : Nat) (eng : Engine)
  /-- ENGINE_PROGRAM_END (R260). An engine program ends, normally or by a fault, and its joining rdv may return. -/
  | engineProgramEnd (core : Nat) (eng : Engine)
  /-- DRAIN_DIE (R261). Waits until the drain group's idle tree of its die has held for 600 cc. -/
  | drainDie (a : Args SMod)
  /-- DRAIN_PKG (R261). Waits until both dies' idle trees of the group have held for 1,400 cc and raises the view
  generation. -/
  | drainPkg (a : Args SMod)
  /-- DRAIN_MAP2 (R51). drain under the generation 2 opcode map. -/
  | drainMap2 (a : Args SMod)
  /-- DRAIN_COMPLETE (R261). The idle condition has held without a break for T cc and the drain completes. -/
  | drainComplete (squad : Nat)
  /-- POUR (R273). Reads a launch descriptor, its kernel record and header, and accepts, queues or refuses a child
  pour. -/
  | pour (a : Args LMod)
  /-- CWAIT (R274). Waits until a pour retires and writes its final status. -/
  | cwait (a : Args Unit)
  /-- TKNXT (R278). Requests the next tile of a work set into a register that becomes full with the answer. -/
  | tknxt (a : Args Unit)
  /-- TKNXT_POOLED (R278). Requests the next tile of a work set as an operation on a tag, answered into pooled space. -/
  | tknxtPooled (a : Args Unit)
  /-- TKNXT_ANSWER (R277). The work distributor serves a request from its counter and delivers the answer. -/
  | tknxtAnswer (req : Nat)
  /-- SPARM (R281). Reads and checks a sprue descriptor and arms a sprue. -/
  | sparm (a : Args Unit)
  /-- PROG (R276). Sets the block's progress estimate. -/
  | prog (a : Args Unit)
  /-- MOVCR (R68). Writes a control register under its access rights and value checks. -/
  | movcr (a : Args Cr)
  /-- MOVRC (R68). Reads a control register into an s register or pair. -/
  | movrc (a : Args Cr)
  /-- RDCLK (R69). Reads the 64-bit core cycle counter. -/
  | rdclk (a : Args Unit)
  /-- SYS_VERSION (R333). Firmware service 0 returns the version and map. -/
  | sysVersion (a : Args Unit)
  /-- SYS_RECOVERY_STATE (R333). Firmware service 1 returns the side-effect bit and relaunch count. -/
  | sysRecoveryState (a : Args Unit)
  /-- SYS_SET_SIDE_EFFECT (R333). Firmware service 2 sets the flask's side-effect bit and returns its previous value. -/
  | sysSetSideEffect (a : Args Unit)
  /-- SYS_POUR_NUMBER (R333). Firmware service 3 returns the running pour's number. -/
  | sysPourNumber (a : Args Unit)
  /-- TRAP (R331). Raises a software cause with a sub-code. -/
  | trap (a : Args Unit)
  /-- RFT (R332). Ends masked lanes, clears the served squad's cause and serves the next trapped squad or resumes the
  block. -/
  | rft (a : Args Unit)
  /-- RFT_ABORT (R332). Ends masked lanes and kills the flask, reporting the cause. -/
  | rftAbort (a : Args Unit)
  /-- ASGEN (R334). Fences and raises a context's address-space generation on every core. -/
  | asgen (a : Args Unit)
  /-- SPLINT (R335). Starts splitting a large page leaf into a supplied node as an operation on a tag. -/
  | splint (a : Args Unit)
  /-- TAGKILL (R336). Ends a context: kills its flasks, removes its pours and sprues, and disables it. -/
  | tagkill (a : Args Unit)
  /-- DTLOAD (R337). Loads, checks and installs a decode table in a context slot. -/
  | dtload (a : Args Unit)
  /-- SPLINTER_COMPLETE (R312). After the longest lease has passed, the splinter signals its tag with its status. -/
  | splinterComplete (id : Nat)
  /-- HANDLER_START (R326). The block's handler squad starts at the handler entry to serve the lowest trapped squad. -/
  | handlerStart (blk : Nat)
  /-- ACCESS_RESPONSE (R321). An answer or abort completion to an open access arrives, filling registers or restoring
  the checkpoint. -/
  | accessResponse (id : Nat)
  /-- SI_COMBINE_TIMEOUT (R171). A combined .si store is sent when its 256 cc window ends. -/
  | siCombineTimeout (squad id : Nat)
  /-- HOME_REQUEST (R174). A home slice serves, holds or recalls a request according to the word's owner state. -/
  | homeRequest (id : Nat)
  /-- RECALL (R175). The owning core's copy engine writes owned words back and frees the buffer line. -/
  | recallOwner (line : Nat)
  /-- OWNER_WRITEBACK (R176). Owned words written back reach the home, clearing the record and serving held requests. -/
  | ownerWriteback (id : Nat)
  /-- SEAM_FENCE (R347). Once the quiescing die is idle and clean, the seam is fenced and the die reset. -/
  | seamFence (die : Nat)
  /-- QUIESCE_DEADLINE (R348). Expiry of the quiesce deadline forces the fence, ending crossing requests in flight. -/
  | quiesceDeadline (die : Nat)
  /-- DIE_REJOIN (R347). The reset die is released, raises DGEN, clears both remote-data caches and resumes placement.
  -/
  | dieRejoin (die : Nat)
  /-- SCRUB_READ (R350). The patrol scrubber reads the next HBM line and records or corrects what it finds. -/
  | scrubRead (die : Nat)
  /-- SCRUB_WRITEBACK (R351). A queued corrected write-back is performed or dropped behind a program write. -/
  | scrubWriteback (die : Nat)
  /-- LEASE_EXPIRY (R310). An engine or ingress translation entry expires at the end of its lease. -/
  | leaseExpiry (unit idx : Nat)
  /-- MIGRATION_HANDOVER (R181). A migrating line's value, held requests and memo entries move to the new home. -/
  | migrationHandover
  /-- MIGRATION_FORWARDING_END (R181). Forwarding ends after the system drain, DGEN is raised and the migration
  completes. -/
  | migrationForwardingEnd
  /-- FLASK_PLACE (R270). The scheduler places a new or returning flask whole on candidate cores. -/
  | flaskPlace
  /-- H_WAIT_TIMEOUT (R285). An H flask that has waited 33,000 cc triggers pre-emption of N and B flasks. -/
  | hWaitTimeout (flask : Nat)
  /-- SAVE_COMPLETE (R286). A victim flask's save into its save area completes and its slots are freed. -/
  | saveComplete (flask : Nat)
  /-- BLOCK_RETIRE (R222). A block whose threads have exited retires once its commands and programs have completed. -/
  | blockRetire (blk : Nat) (draw : BitVec 16)
  /-- FETTLER_REPLAY_START (R354). A chosen flask's replay or third run is placed on other cores. -/
  | fettlerReplayStart (flask : Nat)
  /-- FETTLER_SKIP (R354). A sample with no free cores for 2^24 cc is skipped and counted. -/
  | fettlerSkip (flask : Nat)
  /-- REPLAY_END (R357). A replay or third run ends and its signatures are compared and judged. -/
  | replayEnd (flask : Nat)
  /-- POUR_RETIRE (R269). A pour's record is released, DGEN raised and its final status recorded. -/
  | pourRetire (pour : Nat)
  /-- SPRUE_FIRE (R282). A met trigger launches the sprue's pour into its queue and moves the sprue to its next state.
  -/
  | sprueFire (tenant handle : Nat)
  /-- FABRIC_INGRESS_REQUEST (R307). A request from a peer is admitted by an inbound window and translated, or
  aborted. -/
  | fabricIngressRequest (req : PeerReq)
  /-- U_CAP_RELEASE (R185). A class-U message held beyond the port cap is released from its source port. -/
  | uCapRelease (port : Nat)
  /-- KEY_ROLLOVER_DUE (R315). The flit count or time limit is reached and the sender installs a new link key. -/
  | keyRolloverDue (link : Nat)
  /-- KEY_READY (R315). The receiver reports the new key ready and new flits go out under it. -/
  | keyReady (link : Nat)
  /-- REPLAY_DRAINED (R315). No flit under the old index remains in the replay buffer, and retire-key is sent. -/
  | replayDrained (link : Nat)
  /-- RETIRE_KEY (R315). The receiver erases the retired key index. -/
  | retireKey (link : Nat)
  /-- LINK_INTEGRITY_FAILURE (R315). A flit under an index with no key makes the link retrain. -/
  | linkIntegrityFailure (link : Nat)
  /-- LANE_LOSS (R369). A link loses its lanes and starts to retrain. -/
  | laneLoss (link : Nat)
  /-- RETRAIN_TIMEOUT (R369). A link not recovered in 100 µs is counted failed, aborting and logging its traffic. -/
  | retrainTimeout (link : Nat)
  /-- DOORBELL (R365). A host doorbell write launches a pour into a tenant queue and writes the result word. -/
  | doorbell (tenant queue : Nat) (desc : DWord) (tail : DWord)
  /-- BAR2_ACCESS (R366). A host access through BAR2 acts as a .uc access of the aperture's context. -/
  | bar2Access (tenant : Nat) (ofs : Nat) (write : Option (List Byte)) (len : Nat)
  /-- LAUNCH_QUEUE_CONFIG_WRITE (R265). A write to a launch-queue configuration block, refused where fields are locked
  or illegal. -/
  | launchQueueConfigWrite (tenant queue : Nat) (val : BitVec 512)
  /-- TENANT_WORD_WRITE (R296). The PF writes a tenant configuration word, refused where locked or out of limits. -/
  | tenantWordWrite (tenant : Nat) (val : DWord)
  /-- CONTEXT_ENTRY_WRITE (R297). The PF writes a context entry; enabling starts key generation. -/
  | contextEntryWrite (tag : Nat) (val : BitVec 128)
  /-- CONTEXT_KEY_LOADED (R373). Both memory controllers acknowledge the new key and the context entry reads enabled. -/
  | contextKeyLoaded (tag : Nat)
  /-- FABCFG_WRITE (R364). A write to the fabric configuration, refused outside its limits. -/
  | fabcfgWrite (val : DWord)
  /-- MEMCFG_WRITE (R364). A write to lease, retry window and remote-data cache sizes, which empties a resized cache. -/
  | memcfgWrite (val : DWord)
  /-- LINKCFG_WRITE (R364). A write to the link key rollover limits, applying from the next rollover. -/
  | linkcfgWrite (val : DWord)
  /-- CONTCFG_WRITE (R352). A write to the containment configuration, refused outside its limits. -/
  | contcfgWrite (val : DWord)
  /-- REGISTER_WRITE (R363). A write to a register that has no behaviour of its own. -/
  | registerWrite (reg : HostReg) (val : BitVec 512)
  /-- FRAME_OWNER (R375). Mailbox command 0x01 writes a frame ownership entry, zeroing the frame on a change of owner.
  -/
  | frameOwner (frame : Nat) (entry : BitVec 16)
  /-- RESERVED_SLOTS (R271). Mailbox command 0x02 reserves block slot 1 on a set of cores for U pours. -/
  | reservedSlots (map : BitVec 240)
  /-- RETIRE_UNIT (R375). Mailbox command 0x03 retires a home slice or a fabric port. -/
  | retireUnit (kind die index : Nat)
  /-- PRE_EMPT (R375). Mailbox command 0x04 pre-empts named flasks, optionally holding them. -/
  | preEmpt (tag pour flask action deadline : Nat) (hold : Bool)
  /-- MIGRATE_PAGE (R181). Mailbox command 0x05 starts the migration of a 64 KiB page to a new frame. -/
  | migratePage (tag : Nat) (va frame : DWord)
  /-- ENDPOINT_MAP (R368). Mailbox command 0x06 sets or removes an Ethernet endpoint entry. -/
  | endpointMap (ep : Nat) (ip : BitVec 128) (valid : Bool)
  /-- RELEASE_HELD (R375). Mailbox command 0x07 makes held flasks ready for placement. -/
  | releaseHeld (tag pour : Nat)
  /-- POWER_LIMIT (R374). Mailbox command 0x08 sets the package power limit. -/
  | powerLimit (watts : Nat)
  /-- MAILBOX_DONE (R375). A mailbox command finishes, writing its result and signalling the PF. -/
  | mailboxDone
  /-- PFRESP_SERVE (R376). A page-fault answer with DECLINE = 0 frees its slot and resumes attached accesses. -/
  | pfrespServe (tenant fid : Nat)
  /-- PFRESP_DECLINE (R376). A page-fault answer with DECLINE = 1 ends every attached access with its fault outcome. -/
  | pfrespDecline (tenant fid : Nat)
  /-- PAGE_FAULT_ENQUEUE (R376). A waiting fault is placed in a freed page-fault slot and vector 1 is signalled. -/
  | pageFaultEnqueue (tenant : Nat)
  /-- LOST_CLEAR (R377). A write to a log's LOST counter sets it to 0. -/
  | lostClear (log : Option Nat)
  /-- SPARMREQ (R378). A host write arms a sprue as sparm does and writes SPARMRES. -/
  | sparmreq (tenant : Nat) (desc : DWord) (tail : DWord)
  /-- SPDIS (R378). A host write disarms a sprue and writes SPDISRES. -/
  | spdis (tenant : Nat) (val : DWord)
  /-- INVALIDATE_REQUEST (R362). An ATS Invalidate Request clears every matching translation entry. -/
  | invalidateRequest (va len : Nat)
  /-- INVALIDATE_COMPLETION (R362). Once no access using the cleared entries is in flight, the device sends the
  Invalidate Completion. -/
  | invalidateCompletion
  /-- GET_MEASUREMENTS (R372). An SPDM request returns signed SHA-384 measurement digests. -/
  | getMeasurements (fn index : Nat)
  /-- BOOT (R370). Power-on reset runs the measured boot sequence of the trust die and both compute dies. -/
  | boot
  /-- CLOCK_THROTTLE (R374). Package power or a junction sensor over its limit lowers the core clock by 100 MHz. -/
  | clockThrottle
  /-- CLOCK_RESTORE (R374). Power and temperature back within limits raise the core clock by 100 MHz. -/
  | clockRestore
  /-- POSTED_ACCESS_ANSWER (R322). An acknowledgement or abort completion arrives for a lane of a posted store,
  reduction, contribution or spill, settling it and possibly holding a deferred cause. -/
  | postedAccessAnswer (id : Nat)
  /-- LINK_RETRAINED (R369). A retraining fabric link recovers within 100 µs and its replay buffer sends again. -/
  | linkRetrained (link : Nat)
  /-- FLIT_CHECK_FAILURE (R315). A receiver refuses a flit whose check fails and the sender replays from its buffer
  with the original key index. -/
  | flitCheckFailure (link : Nat)
  /-- MEMO_ENTRY_AGED (R183). A fabric-ingress response memo entry for a peer requester ages past the retry window, so
  a later retry is answered outcome unknown. -/
  | memoEntryAged (peer idx : Nat)
  /-- MIGRATION_LEASE_WAIT_END (R181). The longest lease has passed after the migration's ASGEN raise, so the
  migration goes on to the recall or to the drain that ends forwarding. -/
  | migrationLeaseWaitEnd
  /-- REMOTE_DATA_CACHE_CLEAR_END (R180). The 4,096 cc clear of both remote-data caches ends and the caches serve hits
  again. -/
  | remoteDataCacheClearEnd
  deriving DecidableEq, Repr

end Sys2Proof
end

