-- ==== Sys2Proof/Machine/Shape.lean ====
section
/-! DEFINITION. The form of each instruction: its form class (R31), the modifier values it accepts
(R44), the operand kinds and widths of each position (R33, R34), and the values its immediate may
take. The decoder makes checks 5 to 7 of R48 from these, and the issue stage takes from them which
registers an instruction reads and writes. -/

namespace Sys2Proof

/-- The form classes of R31. -/
inductive Form where
  | two | three | mem | ctl
  deriving DecidableEq, Repr

/-- The operand kinds that a position accepts (R34). `ssp` is the "s/sp" of the tables: an s register
or a special other than `lane`. -/
inductive KSet where
  | vsp | vs | vonly | vlow | sonly | ssp | ponly | plow | tonly | aonly | svp | vspp | vor
  deriving DecidableEq, Repr

/-- One operand position: unused, or a set of kinds, a width in registers (1, 2 for a pair, 4 for a
group), whether the instruction writes it, and whether it reads it in all 32 lanes (R109, R124). A position
with both marks is the scale register of `qblk`, which is read and written (R110). -/
inductive Pos where
  | unused
  | use (k : KSet) (w : Nat) (dst cross : Bool)
  deriving DecidableEq, Repr

/-- A source position. -/
def Pos.src (k : KSet) (w : Nat := 1) : Pos := .use k w false false
/-- A destination position. -/
def Pos.dst (k : KSet) (w : Nat := 1) : Pos := .use k w true false
/-- A source read in all 32 lanes whether or not they pass (R109, R124). -/
def Pos.all (k : KSet) : Pos := .use k 1 false true

/-- What R31, R34 and R44 fix for an instruction. `mods` and `imm` say whether its modifiers and its
immediate hold accepted values; `free` exempts it from the rule of R34 against an s or p destination
with a v source; `scale` is the lane of source B that holds a scale byte (R110, R111). -/
structure Shape where
  form : Form := .two
  mods : Bool := true
  d : Pos := .unused
  a : Pos := .unused
  b : Pos := .unused
  c : Pos := .unused
  imm : Bool := true
  free : Bool := false
  scale : Option Nat := none
  deriving DecidableEq, Repr

/-- Whether a kind set accepts an operand of a given width; a special is one 32-bit value and is
refused where a pair or group stands (R34). -/
def KSet.accepts (k : KSet) (w : Nat) : Opnd → Bool
  | .v n => match k with
    | .vsp | .vs | .vonly | .svp | .vspp | .vor => true
    | .vlow => n != 255
    | _ => false
  | .s _ => match k with
    | .vsp | .vs | .sonly | .ssp | .svp | .vspp => true
    | _ => false
  | .t _ => k == .tonly
  | .acc _ => k == .aonly
  | .p n => match k with
    | .ponly | .svp | .vspp => true
    | .plow => n != 7
    | _ => false
  | .sp x => w == 1 && (match k with
    | .vsp | .vspp | .vor => true
    | .ssp => x != .lane
    | _ => false)
  | .bad _ => false

/-- The width in bits of a type (R86). -/
def Ty.bits : Ty → Nat
  | .i8 | .n8 => 8
  | .i16 | .n16 => 16
  | .i32 | .n32 | .b32 => 32
  | .i64 | .n64 => 64

/-- Whether a type is signed (R43). -/
def Ty.signed : Ty → Bool
  | .i8 | .i16 | .i32 | .i64 => true
  | _ => false

/-- The number of registers that an operand of a type occupies (R86). -/
def Ty.regs (t : Ty) : Nat := if t.bits = 64 then 2 else 1

/-- The width in bytes of a size (R43). -/
def Sz.bytes : Sz → Nat
  | .b8 => 1
  | .b16 => 2
  | .b32 => 4
  | .b64 => 8
  | .b128 => 16

/-- The number of registers that a size occupies (R187). -/
def Sz.regs : Sz → Nat
  | .b64 => 2
  | .b128 => 4
  | _ => 1

namespace Ty

/-- All `.i` and `.n` types. -/
def arith (t : Ty) : Bool := t != .b32
/-- `.i32 .n32 .i64 .n64`. -/
def wide (t : Ty) : Bool := t == .i32 || t == .n32 || t == .i64 || t == .n64
/-- `.b32 .n64`. -/
def raw (t : Ty) : Bool := t == .b32 || t == .n64

end Ty

/-- The shape of an integer instruction: accepted type, SAT, zero CMP and VAR, and operands. -/
def intShape (m : IntMod) (ty sat : Bool) (d a : Pos) (b : Pos := .unused) (imm : Bool := true) : Shape :=
  { mods := ty && (sat || !m.sat) && m.cmp == .eq && m.var == 0, d, a, b, imm }

/-- An integer instruction of two sources of the type's width (R88). -/
def int2 (m : IntMod) (ty sat imm : Bool) : Shape :=
  intShape m ty sat (.dst .vs m.ty.regs) (.src .vsp m.ty.regs) (.src .vsp m.ty.regs) imm
/-- Its immediate-B form (R88). -/
def int2i (m : IntMod) (ty sat : Bool) : Shape :=
  intShape m ty sat (.dst .vs m.ty.regs) (.src .vsp m.ty.regs)

/-- `.un` stands only in `fsetp` (R43). -/
def Cmp.ordered (c : Cmp) : Bool := c != .un

/-- The shape of `setp` (R93). -/
def setpShape (m : IntMod) (b : Pos) (imm : Bool) : Shape :=
  { mods := (m.ty.arith || (m.ty == .b32 && (m.cmp == .eq || m.cmp == .ne))) && !m.sat && m.cmp.ordered && m.var == 0
    d := .dst .ponly, a := .src .vsp m.ty.regs, b, imm, free := true }

/-- A scalar FP32 instruction (R99, R104): FMT 0, FMT2 0, CMP 0. -/
def fpShape (m : FpMod) (sat : Bool) (b : Pos := .unused) (c : Pos := .unused) (form : Form := .two)
    (imm : Bool := true) : Shape :=
  { form, mods := m.fmt == .f32 && (sat || !m.sat) && m.cmp == .eq && m.fmt2 == .f32
    d := .dst .vs, a := .src .vsp, b, c, imm }

/-- A packed-half instruction (R105). -/
def halfShape (m : FpMod) (b : Pos) (c : Pos := .unused) (form : Form := .two) (imm : Bool := true) : Shape :=
  { form, mods := (m.fmt == .bf16 || m.fmt == .f16) && m.cmp == .eq && m.fmt2 == .f32
    d := .dst .vs, a := .src .vsp, b, c, imm }

/-- The kinds of conversion of R76. -/
inductive CvtKind where
  | exact | narrow | toInt | scale
  deriving DecidableEq, Repr

/-- The table of R76: the kind of each pair (source, destination), none where no `cvt` exists. An
integer type takes the INT8 row and column (R107). -/
def cvtKind : Fmt → Fmt → Option CvtKind
  | .f32, .f32 | .bf16, .bf16 | .f16, .f16 | .e4m3, .e4m3 | .e5m2, .e5m2 | .e2m1, .e2m1
  | .e8m0, .e8m0 | .i8, .i8 => none
  | .i4e, _ | _, .i4e => none
  | .i8, .e8m0 | .e8m0, .i8 | .e4m3, .e8m0 | .e5m2, .e8m0 | .e2m1, .e8m0 => none
  | .e8m0, .e4m3 | .e8m0, .e5m2 | .e8m0, .e2m1 => none
  | .i8, _ => some .narrow
  | _, .i8 => some .toInt
  | .f32, .e8m0 | .bf16, .e8m0 | .f16, .e8m0 => some .scale
  | .f32, _ => some .narrow
  | .bf16, .f32 => some .exact
  | .bf16, _ => some .narrow
  | .f16, .f32 => some .exact
  | .f16, _ => some .narrow
  | .e4m3, .e5m2 | .e4m3, .e2m1 => some .narrow
  | .e4m3, _ => some .exact
  | .e5m2, .e4m3 | .e5m2, .e2m1 => some .narrow
  | .e5m2, _ => some .exact
  | .e2m1, _ => some .exact
  | .e8m0, .f16 => some .narrow
  | .e8m0, _ => some .exact

/-- Whether the immediate of `cvt` names a 64-bit integer type (R106). -/
def imm64 (imm : Word) : Bool := imm.extractLsb' 0 4 == 3 || imm.extractLsb' 0 4 == 7

/-- The registers of one side of a `cvt` (R107). -/
def cvtRegs (f : Fmt) (imm : Word) : Nat := if f == .i8 && imm64 imm then 2 else 1

/-- The shape of `cvt` (R106, R107). -/
def cvtShape (a : Args FpMod) : Shape :=
  let m := a.mod
  { mods := m.cmp == .eq && (match cvtKind m.fmt2 m.fmt with
      | some k => !m.sat || k == .narrow
      | none => false)
    imm := if m.fmt == .i8 || m.fmt2 == .i8 then a.imm.extractLsb' 3 29 == 0 else a.imm == 0
    d := .dst .vs (cvtRegs m.fmt a.imm), a := .src .vsp (cvtRegs m.fmt2 a.imm) }

/-- The block formats that `qblk` and `dqblk` take (R110). -/
def Fmt.block (f : Fmt) : Bool := f == .e4m3 || f == .e5m2 || f == .e2m1 || f == .i8 || f == .i4e

/-- The acquire or release orderings of a memory instruction: which ORD values are accepted, and SC
given exactly when ORD is not 0 (R156). -/
def ordOk (acq rel both : Bool) (o : MemOrd) (sc : Option Scope) : Bool :=
  match o with
  | .relaxed => sc == none
  | .acq => acq && sc != none
  | .rel => rel && sc != none
  | .ar => both && sc != none
  | .sc => sc != none

/-- SX = 1 stands only with 8 and 16 bits, and only on loads (R43, R187). -/
def sxOk (load : Bool) (sz : Sz) (sx : Bool) : Bool := !sx || (load && (sz == .b8 || sz == .b16))

/-- `lds`, `sts`, `ldk`, `stk` (R186, R187). -/
def pooledShape (m : PMod) (load stack : Bool) : Shape :=
  { form := .mem
    mods := sxOk load m.sz m.sx && (if stack then !m.skew && m.ord == .relaxed && m.sc == none
      else ordOk load (!load) false m.ord m.sc)
    d := if load then .dst .vs m.sz.regs else .src .vsp m.sz.regs, a := .src .vsp }

/-- The sizes of an atomic (R146, R187): 32 bits for the float operations, else 32 or 64. -/
def atomSz (fp : Bool) (sz : Sz) : Bool := sz == .b32 || (!fp && sz == .b64)

/-- `atoms` (R186, R187); `.cas` doubles the width of B. -/
def atomsShape (m : PMod) (fp cas : Bool) : Shape :=
  { form := .mem, mods := atomSz fp m.sz && !m.sx && ordOk true true true m.ord m.sc
    d := .dst .vs m.sz.regs, a := .src .vsp, b := .src .vsp (if cas then 2 * m.sz.regs else m.sz.regs) }

/-- `ldg`, `stg` (R186, R187). -/
def globalShape (m : GMod) (load : Bool) : Shape :=
  { form := .mem, mods := sxOk load m.sz m.sx && ordOk load (!load) false m.ord m.sc
    d := if load then .dst .vs m.sz.regs else .src .vsp m.sz.regs, a := .src .vsp 2 }

/-- `atomg` and `redg` (R186, R187). -/
def atomgShape (m : GMod) (fp cas ret : Bool) : Shape :=
  { form := .mem
    mods := atomSz fp m.sz && !m.sx && m.rq == .uc && (if ret then ordOk true true true m.ord m.sc else ordOk false true false m.ord m.sc)
    d := if ret then .dst .vs m.sz.regs else .unused
    a := .src .vsp 2, b := .src .vsp (if cas then 2 * m.sz.regs else m.sz.regs) }

/-- `cred` and `crfold` (R186, R187). -/
def rangeShape (m : GMod) (b : Pos) : Shape :=
  { form := .mem
    mods := (m.sz == .b16 || m.sz == .b32) && !m.sx && m.rq == .uc && ordOk false true false m.ord m.sc
    a := .src .vsp 2, b }

/-- A matrix transfer (R121, R122, R125). -/
def tileMove (m : MatMod) (fmt : Bool) (k : KSet) (dst : Bool) : Shape :=
  { form := .mem, mods := fmt && !m.trb && m.var == 0
    d := .use k 1 dst false, a := .src .ssp, b := .src .ssp }

/-- A synchronisation instruction (R246): index limit, scope, LOC accepted, operands. -/
def syncShape (m : SMod) (lim : Nat) (sc : Option Scope) (loc : Bool) (d a b : Pos) (imm : Bool) : Shape :=
  { mods := decide (m.idx.toNat < lim) && m.sc == sc && (loc || !m.loc), d, a, b, imm }

/-- A copy whose descriptor lies in pooled space (R205, R206). -/
def copyShape (m : CMod) (fmc fol : Bool) : Shape :=
  { form := .mem, mods := (fmc || m.fmc == .plain) && (fol || !m.fol)
    d := if m.crc then .src .ssp else .unused, a := .src .ssp, b := if m.crc then .src .ssp else .unused }

/-- A window copy (R205, R206). -/
def windowShape (m : CMod) : Shape :=
  { form := .mem, mods := m.fmc == .plain && !m.crc, a := .src .ssp }

/-- The registers of a control register (R62). -/
def Cr.regs : Cr → Nat
  | .tagmap | .trappc | .rstpc => 2
  | _ => 1

/-- The shape of every instruction. An event has no word and the default shape. B of `cpyl` is a v, s or special operand
of R205, and the special `lane` stands as a v source there, as R60 says (log entry 102). -/
def shape : Instr → Shape
  | .nop a => { imm := a.imm == 0 }
  | .bra _ => { form := .ctl }
  | .brx _ => { form := .ctl, a := .src .vsp }
  | .call _ => { form := .ctl, d := .dst .vonly 2 }
  | .callInd a => { form := .ctl, d := .dst .vonly 2, a := .src .vs 2, imm := a.imm == 0 }
  | .ret a => { form := .ctl, a := .src .vs 2, imm := a.imm == 0 }
  | .meet _ => { form := .ctl }
  | .meetSave _ => { form := .ctl, d := .dst .vonly 2 }
  | .rejoin a => { form := .ctl, imm := a.imm == 0 }
  | .rejoinRest a => { form := .ctl, a := .src .vs 2, imm := a.imm == 0 }
  | .exit a => { form := .ctl, imm := a.imm == 0 }
  | .yield a => { imm := a.imm == 0 }
  | .voteAny a => { d := .dst .ponly, a := .src .ponly, imm := a.imm == 0, free := true }
  | .voteAll a => { d := .dst .ponly, a := .src .ponly, imm := a.imm == 0, free := true }
  | .voteMask a => { d := .dst .vs, a := .src .ponly, imm := a.imm == 0, free := true }
  | .shflPick a | .shflRot a | .shflSlide a | .shflMir a =>
    { d := .dst .vonly, a := .src .vsp, b := .src .vsp, imm := a.imm == 0 }
  | .add a | .sub a | .mulLo a | .mulLoMap2 a => int2 a.mod a.mod.ty.arith true (a.imm == 0)
  | .mulHi a | .mulHiMap2 a => int2 a.mod a.mod.ty.wide false (a.imm == 0)
  | .mad a => { int2 a.mod a.mod.ty.wide true (a.imm == 0) with form := .three, c := .src .vsp a.mod.ty.regs }
  | .madWide a =>
    { intShape a.mod (a.mod.ty == .i32 || a.mod.ty == .n32) false (.dst .vs 2) (.src .vsp) (.src .vsp) (a.imm == 0)
      with form := .three, c := .src .vsp 2 }
  | .div a => int2 a.mod a.mod.ty.wide a.mod.ty.signed (a.imm == 0)
  | .rem a => int2 a.mod a.mod.ty.wide false (a.imm == 0)
  | .min a | .max a => int2 a.mod a.mod.ty.arith false (a.imm == 0)
  | .abs a | .neg a =>
    intShape a.mod a.mod.ty.signed true (.dst .vs a.mod.ty.regs) (.src .vsp a.mod.ty.regs) .unused (a.imm == 0)
  | .and a | .or a | .xor a => int2 a.mod a.mod.ty.raw false (a.imm == 0)
  | .not a | .brev a =>
    intShape a.mod a.mod.ty.raw false (.dst .vs a.mod.ty.regs) (.src .vsp a.mod.ty.regs) .unused (a.imm == 0)
  | .shl a | .shr a | .rot a =>
    intShape a.mod a.mod.ty.raw false (.dst .vs a.mod.ty.regs) (.src .vsp a.mod.ty.regs) (.src .vsp) (a.imm == 0)
  | .sar a =>
    intShape a.mod (a.mod.ty == .i32 || a.mod.ty == .i64) false (.dst .vs a.mod.ty.regs) (.src .vsp a.mod.ty.regs)
      (.src .vsp) (a.imm == 0)
  | .clz a | .popc a =>
    intShape a.mod a.mod.ty.raw false (.dst .vs) (.src .vsp a.mod.ty.regs) .unused (a.imm == 0)
  | .bfx a =>
    intShape a.mod a.mod.ty.wide false (.dst .vs a.mod.ty.regs) (.src .vsp a.mod.ty.regs) (.src .vsp) (a.imm == 0)
  | .bfi a =>
    { intShape a.mod a.mod.ty.raw false (.dst .vs a.mod.ty.regs) (.src .vsp a.mod.ty.regs) (.src .vsp) (a.imm == 0)
      with form := .three, c := .src .vsp a.mod.ty.regs }
  | .lea a =>
    { intShape { a.mod with var := 0 } (a.mod.ty == .i32 || a.mod.ty == .n32) false (.dst .vs 2) (.src .vsp 2)
        (.src .vsp) (a.imm == 0) with
      mods := (a.mod.ty == .i32 || a.mod.ty == .n32) && !a.mod.sat && a.mod.cmp == .eq && decide (a.mod.var.toNat ≤ 4) }
  | .setp a => setpShape a.mod (.src .vsp a.mod.ty.regs) (a.imm == 0)
  | .sel a =>
    { mods := a.mod.ty.raw && !a.mod.sat && a.mod.cmp == .eq && a.mod.var == 0, form := .three
      d := .dst .vonly a.mod.ty.regs, a := .src .vsp a.mod.ty.regs, b := .src .vsp a.mod.ty.regs, c := .src .ponly
      imm := a.imm == 0 }
  | .plop a =>
    { mods := a.mod.ty == .i8 && !a.mod.sat && a.mod.cmp == .eq, form := .three
      d := .dst .ponly, a := .src .ponly, b := .src .ponly, c := .src .ponly, imm := a.imm == 0, free := true }
  | .mov a =>
    { mods := (a.mod.ty == .b32 || a.mod.ty == .n64 || a.mod.ty == .i64) && !a.mod.sat && a.mod.cmp == .eq && a.mod.var == 0
      d := .dst (if a.mod.ty == .b32 then .svp else .vs) a.mod.ty.regs
      a := .src (if a.mod.ty == .b32 then .vspp else .vs) a.mod.ty.regs, imm := a.imm == 0 }
  | .movi a =>
    { mods := (a.mod.ty == .b32 || a.mod.ty == .n64 || a.mod.ty == .i64) && !a.mod.sat && a.mod.cmp == .eq && a.mod.var == 0
      d := .dst (if a.mod.ty == .b32 then .svp else .vs) a.mod.ty.regs }
  | .dp4 a =>
    { intShape a.mod (a.mod.ty == .i8 || a.mod.ty == .n8) true (.dst .vs) (.src .vsp) (.src .vsp) (a.imm == 0)
      with form := .three, c := .src .vsp }
  | .addImm a | .subImm a | .mulLoImm a => int2i a.mod a.mod.ty.arith true
  | .mulHiImm a => int2i a.mod a.mod.ty.wide false
  | .divImm a => int2i a.mod a.mod.ty.wide a.mod.ty.signed
  | .remImm a => int2i a.mod a.mod.ty.wide false
  | .minImm a | .maxImm a => int2i a.mod a.mod.ty.arith false
  | .andImm a | .orImm a | .xorImm a => int2i a.mod a.mod.ty.raw false
  | .shlImm a | .shrImm a | .rotImm a => int2i a.mod a.mod.ty.raw false
  | .sarImm a => int2i a.mod (a.mod.ty == .i32 || a.mod.ty == .i64) false
  | .leaImm a =>
    { mods := (a.mod.ty == .i32 || a.mod.ty == .n32) && !a.mod.sat && a.mod.cmp == .eq && decide (a.mod.var.toNat ≤ 4)
      d := .dst .vs 2, a := .src .vsp 2 }
  | .setpImm a => setpShape a.mod .unused true
  | .fadd a | .fsub a | .fmul a | .fdiv a => fpShape a.mod true (.src .vsp) (imm := a.imm == 0)
  | .fma a => fpShape a.mod true (.src .vsp) (.src .vsp) .three (a.imm == 0)
  | .fmin a | .fmax a => fpShape a.mod false (.src .vsp) (imm := a.imm == 0)
  | .fsetp a =>
    { mods := a.mod.fmt == .f32 && !a.mod.sat && a.mod.fmt2 == .f32
      d := .dst .ponly, a := .src .vsp, b := .src .vsp, imm := a.imm == 0, free := true }
  | .fclass a =>
    { mods := (a.mod.fmt == .f32 || a.mod.fmt == .bf16 || a.mod.fmt == .f16) && !a.mod.sat && a.mod.cmp == .eq && a.mod.fmt2 == .f32
      d := .dst .vs, a := .src .vsp, imm := a.imm == 0 }
  | .frcp a | .frsq a | .fsqrt a | .fexp2 a | .flog2 a | .fsin a | .fcos a | .ftanh a =>
    fpShape a.mod true (imm := a.imm == 0)
  | .hadd2 a | .hmul2 a => halfShape a.mod (.src .vsp) (imm := a.imm == 0)
  | .hfma2 a => halfShape a.mod (.src .vsp) (.src .vsp) .three (a.imm == 0)
  | .cvt a => cvtShape a
  | .faddImm a | .fsubImm a | .fmulImm a => fpShape a.mod true
  | .fminImm a | .fmaxImm a => fpShape a.mod false
  | .fsetpImm a =>
    { mods := a.mod.fmt == .f32 && !a.mod.sat && a.mod.fmt2 == .f32, d := .dst .ponly, a := .src .vsp, free := true }
  | .qblk a =>
    { mods := a.mod.fmt.block && !a.mod.sat, d := .dst .vonly, a := .all .vor, b := .use .vonly 1 true true
      imm := a.imm.extractLsb' 7 25 == 0, scale := some (a.imm.toNat % 32) }
  | .dqblk a =>
    { mods := a.mod.fmt.block, d := .dst .vonly, a := .all .vor, b := .src .vonly, imm := a.imm.extractLsb' 7 25 == 0
      scale := some (a.imm.toNat % 32) }
  | .pk4 a | .upk4 a =>
    { mods := (a.mod.fmt == .f32 || a.mod.fmt == .i8) && !a.mod.sat, d := .dst .vonly, a := .all .vor, imm := a.imm == 0 }
  | .amax a =>
    { mods := a.mod.fmt == .f32 && !a.mod.sat, d := .dst .vs, a := .all .vor
      -- with an s destination `lane` is refused as b: R60 counts it as a v source (log entry 144)
      b := .src (match a.d with | .s _ => .ssp | _ => .vsp), imm := a.imm == 0, free := true }
  | .tld a => tileMove a.mod (a.mod.fmt == .f32) .tonly true
  | .tst a => tileMove a.mod (a.mod.fmt == .f32) .tonly false
  | .tzero a => { d := .dst .tonly, imm := a.imm == 0 }
  | .mma a =>
    { mods := a.mod.fmt != .f32 && a.mod.fmt != .e8m0 && !a.mod.skew && a.mod.var == 0
      d := .dst .aonly, a := .src .tonly, b := .src .tonly, imm := a.imm == 0 }
  | .mmas a =>
    { form := .three, mods := a.mod.fmt.block && !a.mod.skew
      d := .dst .aonly, a := .src .tonly, b := .src .tonly, c := .all .vlow, imm := a.imm == 0 }
  | .accz a => { d := .dst .aonly, imm := a.imm == 0 }
  | .accmul a => { d := .dst .aonly, a := .src .ssp, imm := a.imm == 0 }
  | .accrd a => { d := .dst .vonly, a := .src .aonly, imm := a.imm.extractLsb' 5 27 == 0 }
  | .accwr a => { d := .dst .aonly, a := .src .vonly, imm := a.imm.extractLsb' 5 27 == 0 }
  | .accst a => tileMove a.mod (a.mod.fmt == .f32 || a.mod.fmt == .bf16 || a.mod.fmt == .f16) .aonly false
  | .accdeclRetain a => { d := .dst .aonly, imm := a.imm == 0 }
  | .accdeclRecompute a => { d := .dst .aonly, imm := a.imm == 0 }
  | .rstlbl _ => { form := .ctl }
  | .lds a => pooledShape a.mod true false
  | .sts a => pooledShape a.mod false false
  | .ldk a => pooledShape a.mod true true
  | .stk a => pooledShape a.mod false true
  | .ldg a => globalShape a.mod true
  | .stg a => globalShape a.mod false
  | .fence a =>
    { mods := a.mod.sz == .b8 && !a.mod.sx && a.mod.rq == .uc && a.mod.ord != .relaxed && a.mod.sc != none, imm := a.imm == 0 }
  | .crdecl a =>
    { mods := a.mod.sz == .b8 && !a.mod.sx && a.mod.rq == .uc && a.mod.ord == .relaxed && a.mod.sc == none
      d := .src .ssp, a := .src .sonly 2, b := .src .sonly 2
      imm := a.imm.extractLsb' 10 22 == 0 && a.imm.extractLsb' 8 2 != 3 }
  | .crfold a => rangeShape a.mod .unused
  | .cred a => rangeShape a.mod (.src .vsp)
  | .atomsAdd a | .atomsMin a | .atomsMax a | .atomsAnd a | .atomsOr a | .atomsXor a | .atomsExch a | .atomsInc a
  | .atomsDec a => atomsShape a.mod false false
  | .atomsCas a => atomsShape a.mod false true
  | .atomsFadd a | .atomsFmin a | .atomsFmax a => atomsShape a.mod true false
  | .atomgAdd a | .atomgMin a | .atomgMax a | .atomgAnd a | .atomgOr a | .atomgXor a | .atomgExch a | .atomgInc a
  | .atomgDec a => atomgShape a.mod false false true
  | .atomgCas a => atomgShape a.mod false true true
  | .atomgFadd a | .atomgFmin a | .atomgFmax a => atomgShape a.mod true false true
  | .redgAdd a | .redgMin a | .redgMax a | .redgAnd a | .redgOr a | .redgXor a | .redgInc a | .redgDec a =>
    atomgShape a.mod false false false
  | .redgFadd a | .redgFmin a | .redgFmax a => atomgShape a.mod true false false
  | .cpy a => copyShape a.mod true true
  | .cpyo a => copyShape a.mod true false
  | .cpyxPut a | .cpyxGet a => copyShape a.mod false true
  | .cpyl a =>
    { form := .mem, mods := a.mod.fmc == .plain && !a.mod.crc && !a.mod.fol
      d := .src .vonly, a := .src .vonly 2, b := .src .vsp }
  | .cpyw a | .cpyp a => windowShape a.mod
  | .twaitAny a | .twaitAll a => { d := .dst .sonly 2, a := .src .sonly 2, imm := a.imm == 0 }
  | .tfind a => { d := .dst .sonly, a := .src .sonly 2, imm := a.imm == 0 }
  | .tclr a => { a := .src .sonly 2, imm := a.imm == 0 }
  | .bini a | .biniMap2 a => syncShape a.mod 96 none false .unused (.src .ssp) (.src .ssp) (a.imm == 0)
  | .barv a | .barvMap2 a => syncShape a.mod 96 none false .unused .unused .unused (a.imm == 0)
  | .bexp a | .bexpMap2 a => syncShape a.mod 96 none false .unused (.src .ssp) .unused (a.imm == 0)
  | .bwait a | .bwaitMap2 a => syncShape a.mod 96 none true .unused .unused .unused (a.imm == 0)
  | .btest a | .btestMap2 a => syncShape a.mod 96 none true (.dst .ponly) .unused .unused (a.imm == 0)
  | .rinit a => syncShape a.mod 16 none false .unused (.src .ssp) (.src .ssp) (a.imm == 0)
  | .push a => syncShape a.mod 16 none false .unused (.src .ssp) .unused (a.imm == 0)
  | .pop a => syncShape a.mod 16 none false (.dst .sonly) .unused .unused (a.imm == 0)
  | .forkCopy a => syncShape a.mod 1 none false .unused .unused .unused true
  | .forkMatrix a => { syncShape a.mod 2 none false .unused .unused .unused true with mods := a.mod.idx == 1 && a.mod.sc == none && !a.mod.loc }
  | .forkMap2 a => syncShape a.mod 2 none false .unused .unused .unused true
  | .rdvCopy a => syncShape a.mod 1 none false .unused .unused .unused (a.imm == 0)
  | .rdvMatrix a => { mods := a.mod.idx == 1 && a.mod.sc == none && !a.mod.loc, imm := a.imm == 0 }
  | .rdvMap2 a => syncShape a.mod 2 none false .unused .unused .unused (a.imm == 0)
  | .drainDie a => syncShape a.mod 1 (some .die) false .unused .unused .unused (a.imm == 0)
  | .drainPkg a => syncShape a.mod 1 (some .pkg) false .unused .unused .unused (a.imm == 0)
  | .drainMap2 a =>
    { mods := a.mod.idx == 0 && (a.mod.sc == some .die || a.mod.sc == some .pkg) && !a.mod.loc, imm := a.imm == 0 }
  | .pour a => { d := .dst .sonly, a := .src .sonly 2, b := .dst .plow, imm := a.imm == 0 }
  | .cwait a => { d := .dst .sonly, a := .src .ssp, imm := a.imm == 0 }
  | .tknxt a => { d := .dst .sonly, imm := a.imm.extractLsb' 2 30 == 0 }
  | .tknxtPooled a => { a := .src .ssp, imm := a.imm.extractLsb' 9 23 == 0 && a.imm.extractLsb' 2 1 == 1 }
  | .sparm a => { d := .dst .sonly, a := .src .sonly 2, imm := a.imm == 0 }
  | .prog a => { a := .src .ssp, imm := a.imm == 0 }
  | .movcr a => { a := .src (if a.mod.regs = 2 then .sonly else .ssp) a.mod.regs, imm := a.imm == 0 }
  | .movrc a => { d := .dst .sonly a.mod.regs, imm := a.imm == 0 }
  | .rdclk a => { d := .dst .vs 2, imm := a.imm == 0 }
  | .sysVersion a => { d := .dst .sonly, imm := a.imm.extractLsb' 16 16 == 0 && !(a.imm == 1 || a.imm == 2 || a.imm == 3) }
  | .sysRecoveryState a => { d := .dst .sonly, imm := a.imm == 1 }
  | .sysSetSideEffect a => { d := .dst .sonly, imm := a.imm == 2 }
  | .sysPourNumber a => { d := .dst .sonly, imm := a.imm == 3 }
  | .trap a => { a := .src .ssp, imm := decide (0x380 ≤ a.imm.toNat ∧ a.imm.toNat ≤ 0x3FF) }
  | .rft a => { a := .src .ssp, imm := a.imm == 0 }
  | .rftAbort a => { a := .src .ssp, imm := a.imm == 1 }
  | .asgen a => { d := .dst .sonly, a := .src .ssp, imm := a.imm == 0 }
  | .splint a => { d := .src .ssp, a := .src .sonly 2, b := .src .sonly 2, imm := a.imm.extractLsb' 6 26 == 0 }
  | .tagkill a => { d := .dst .sonly, a := .src .ssp, imm := a.imm == 0 }
  | .dtload a => { d := .dst .sonly, a := .src .sonly 2, b := .src .ssp, imm := a.imm == 0 }
  | .matrixCommandExecute _ | .copyStart _ _ | .copyLanding _ _ _ | .copyComplete _ _ | .seamPhaseComplete _ _
  | .engineProgramStart _ _ | .engineProgramEnd _ _ | .drainComplete _ | .tknxtAnswer _ | .splinterComplete _
  | .handlerStart _ | .accessResponse _ | .siCombineTimeout _ _ | .homeRequest _ | .recallOwner _ | .ownerWriteback _
  | .seamFence _ | .quiesceDeadline _ | .dieRejoin _ | .scrubRead _ | .scrubWriteback _ | .leaseExpiry _ _
  | .migrationHandover | .migrationForwardingEnd | .flaskPlace | .hWaitTimeout _ | .saveComplete _ | .blockRetire _ _
  | .fettlerReplayStart _ | .fettlerSkip _ | .replayEnd _ | .pourRetire _ | .sprueFire _ _ | .fabricIngressRequest _
  | .uCapRelease _ | .keyRolloverDue _ | .keyReady _ | .replayDrained _ | .retireKey _ | .linkIntegrityFailure _
  | .laneLoss _ | .retrainTimeout _ | .doorbell _ _ _ _ | .bar2Access _ _ _ _ | .launchQueueConfigWrite _ _ _
  | .tenantWordWrite _ _ | .contextEntryWrite _ _ | .contextKeyLoaded _ | .fabcfgWrite _ | .memcfgWrite _
  | .linkcfgWrite _ | .contcfgWrite _ | .registerWrite _ _ | .frameOwner _ _ | .reservedSlots _ | .retireUnit _ _ _
  | .preEmpt _ _ _ _ _ _ | .migratePage _ _ _ | .endpointMap _ _ _ | .releaseHeld _ _ | .powerLimit _ | .mailboxDone
  | .pfrespServe _ _ | .pfrespDecline _ _ | .pageFaultEnqueue _ | .lostClear _ | .sparmreq _ _ _ | .spdis _ _
  | .invalidateRequest _ _ | .invalidateCompletion | .getMeasurements _ _ | .boot | .clockThrottle | .clockRestore
  | .postedAccessAnswer _ | .linkRetrained _ | .flitCheckFailure _ | .memoEntryAged _ _ | .migrationLeaseWaitEnd
  | .remoteDataCacheClearEnd => {}

/-- The general fields of an instruction word, common to every family. -/
structure Heads where
  fea : Bool
  feb : Bool
  fec : Bool
  d : Opnd
  a : Opnd
  b : Opnd
  c : Opnd
  deriving DecidableEq, Repr

/-- The operand fields of an argument record. -/
def Args.heads {μ : Type} (x : Args μ) : Heads := ⟨x.fea, x.feb, x.fec, x.d, x.a, x.b, x.c⟩

/-- An operand that the hardware may mark empty, so that an FE bit is allowed on it (R37). -/
def Opnd.fe : Opnd → Bool
  | .v _ | .s _ => true
  | _ => false

/-- An unused position holds code 0 and FE 0; a used source may carry FE only on v and s (R31, R37). -/
def Pos.fieldOk (p : Pos) (o : Opnd) (fe : Bool) : Bool :=
  match p with
  | .unused => o == .v 0 && !fe
  | .use _ _ _ _ => !fe || o.fe

/-- Check 5 of R48 for the operand fields and the modifiers. -/
def Shape.check5 (s : Shape) (h : Heads) : Bool :=
  s.mods && s.imm && s.d.fieldOk h.d false && s.a.fieldOk h.a h.fea && s.b.fieldOk h.b h.feb && s.c.fieldOk h.c h.fec

/-- Whether an operand code is assigned (check 6 of R48). -/
def Opnd.legal : Opnd → Bool
  | .bad _ => false
  | _ => true

/-- Check 6 of R48: the position of the first illegal operand, in the order D, A, B, C. -/
def Heads.check6 (h : Heads) : Option Nat :=
  if !h.d.legal then some 0 else if !h.a.legal then some 1 else if !h.b.legal then some 2
  else if !h.c.legal then some 3 else none

/-- An operand that counts as a v source (R34, R60). -/
def Opnd.isV : Opnd → Bool
  | .v _ => true
  | .sp .lane => true
  | _ => false

/-- A position that reads a v register or `lane`. -/
def Pos.readsV (p : Pos) (o : Opnd) : Bool :=
  match p with
  | .use _ _ false _ => o.isV
  | _ => false

/-- Whether a destination is squad-wide: an s or p register. -/
def Opnd.uniformDst : Opnd → Bool
  | .s _ | .p _ => true
  | _ => false

/-- The registers of a v operand all lie below the block's count, v255 apart (R34, sub-code 1). -/
def Opnd.inRegs (o : Opnd) (w regs : Nat) : Bool :=
  match o with
  | .v n => (List.range w).all fun k => decide (n.toNat + k < regs) || n.toNat + k == 255
  | _ => true

/-- Whether a pair or group starts at a multiple of its size (R34, sub-code 2). -/
def Opnd.aligned (o : Opnd) (w : Nat) : Bool :=
  match o with
  | .v n => n.toNat % w == 0
  | .s n => n.toNat % w == 0
  | _ => true

/-- One operand of check 7: the sub-code of the first reason that holds, in the order 3, 0, 2, 1. `clash`
is the rule of R34 against an s or p destination with a v source. -/
def Pos.check7 (p : Pos) (o : Opnd) (regs : Nat) (clash : Bool) : Option Nat :=
  match p with
  | .unused => none
  | .use k w dst _ =>
    if dst && (match o with | .sp _ => true | _ => false) then some 3
    else if !k.accepts w o || clash then some 0
    else if !o.aligned w then some 2
    else if !o.inRegs w regs then some 1 else none

/-- Whether an instruction breaks the rule of R34 against an s or p destination with a v source. -/
def Shape.clash (s : Shape) (h : Heads) : Bool :=
  !s.free && (match s.d with | .use _ _ true _ => h.d.uniformDst | _ => false)
    && (s.a.readsV h.a || s.b.readsV h.b || s.c.readsV h.c)

/-- Check 7 of R48: the sub-code of the first operand that is not permitted, in the order D, A, B, C. -/
def Shape.check7 (s : Shape) (h : Heads) (regs : Nat) : Option Nat :=
  match s.d.check7 h.d regs (s.clash h) with
  | some k => some k
  | none =>
    match s.a.check7 h.a regs false with
    | some k => some k
    | none =>
      match s.b.check7 h.b regs false with
      | some k => some k
      | none => s.c.check7 h.c regs false

end Sys2Proof
end

