-- ==== Sys2Proof/WellFormed.lean ====
section
/-! DEFINITION. The operand fields of each instruction, and well-formedness: an instruction that some word
encodes and that passes checks 5 to 7 of R48 in a block of a given register count. -/

namespace Sys2Proof

/-- The operand fields of an instruction that has a word; none for an event. -/
def Instr.heads : Instr → Option Heads
  | .nop a | .bra a | .brx a | .call a | .callInd a | .ret a | .meet a | .meetSave a | .rejoin a
    | .rejoinRest a | .exit a | .yield a | .voteAny a | .voteAll a | .voteMask a | .shflPick a | .shflRot a
    | .shflSlide a | .shflMir a | .tzero a | .accz a | .accmul a | .accrd a | .accwr a | .accdeclRetain a
    | .accdeclRecompute a | .rstlbl a | .twaitAny a | .twaitAll a | .tfind a | .tclr a | .cwait a | .tknxt a
    | .tknxtPooled a | .sparm a | .prog a | .rdclk a | .sysVersion a | .sysRecoveryState a
    | .sysSetSideEffect a | .sysPourNumber a | .trap a | .rft a | .rftAbort a | .asgen a | .splint a
    | .tagkill a | .dtload a => some a.heads
  | .add a | .sub a | .mulLo a | .mulHi a | .mad a | .madWide a | .div a | .rem a | .min a | .max a | .abs a
    | .neg a | .and a | .or a | .xor a | .not a | .shl a | .shr a | .sar a | .rot a | .clz a | .popc a
    | .brev a | .bfx a | .bfi a | .lea a | .setp a | .sel a | .plop a | .mov a | .movi a | .dp4 a
    | .addImm a | .subImm a | .mulLoImm a | .mulHiImm a | .divImm a | .remImm a | .minImm a | .maxImm a
    | .andImm a | .orImm a | .xorImm a | .shlImm a | .shrImm a | .sarImm a | .rotImm a | .leaImm a
    | .setpImm a | .mulLoMap2 a | .mulHiMap2 a => some a.heads
  | .fadd a | .fsub a | .fmul a | .fma a | .fmin a | .fmax a | .fsetp a | .fclass a | .frcp a | .frsq a
    | .fsqrt a | .fdiv a | .fexp2 a | .flog2 a | .fsin a | .fcos a | .ftanh a | .hadd2 a | .hmul2 a
    | .hfma2 a | .cvt a | .faddImm a | .fsubImm a | .fmulImm a | .fminImm a | .fmaxImm a | .fsetpImm a => some a.heads
  | .qblk a | .dqblk a | .pk4 a | .upk4 a | .amax a => some a.heads
  | .tld a | .tst a | .mma a | .mmas a | .accst a => some a.heads
  | .lds a | .sts a | .ldk a | .stk a | .atomsAdd a | .atomsMin a | .atomsMax a | .atomsAnd a | .atomsOr a
    | .atomsXor a | .atomsExch a | .atomsCas a | .atomsInc a | .atomsDec a | .atomsFadd a | .atomsFmin a
    | .atomsFmax a => some a.heads
  | .ldg a | .stg a | .fence a | .crdecl a | .crfold a | .cred a | .atomgAdd a | .atomgMin a | .atomgMax a
    | .atomgAnd a | .atomgOr a | .atomgXor a | .atomgExch a | .atomgCas a | .atomgInc a | .atomgDec a
    | .atomgFadd a | .atomgFmin a | .atomgFmax a | .redgAdd a | .redgMin a | .redgMax a | .redgAnd a
    | .redgOr a | .redgXor a | .redgInc a | .redgDec a | .redgFadd a | .redgFmin a | .redgFmax a => some a.heads
  | .cpy a | .cpyl a | .cpyw a | .cpyp a | .cpyo a | .cpyxPut a | .cpyxGet a => some a.heads
  | .bini a | .barv a | .bexp a | .bwait a | .btest a | .biniMap2 a | .barvMap2 a | .bexpMap2 a
    | .bwaitMap2 a | .btestMap2 a | .rinit a | .push a | .pop a | .forkCopy a | .forkMatrix a | .forkMap2 a
    | .rdvCopy a | .rdvMatrix a | .rdvMap2 a | .drainDie a | .drainPkg a | .drainMap2 a => some a.heads
  | .pour a => some a.heads
  | .movcr a | .movrc a => some a.heads
  | .matrixCommandExecute _ | .copyStart _ _ | .copyLanding _ _ _ | .copyComplete _ _
    | .seamPhaseComplete _ _ | .engineProgramStart _ _ | .engineProgramEnd _ _ | .drainComplete _
    | .tknxtAnswer _ | .splinterComplete _ | .handlerStart _ | .accessResponse _ | .siCombineTimeout _ _
    | .homeRequest _ | .recallOwner _ | .ownerWriteback _ | .seamFence _ | .quiesceDeadline _ | .dieRejoin _
    | .scrubRead _ | .scrubWriteback _ | .leaseExpiry _ _ | .migrationHandover | .migrationForwardingEnd
    | .flaskPlace | .hWaitTimeout _ | .saveComplete _ | .blockRetire _ _ | .fettlerReplayStart _
    | .fettlerSkip _ | .replayEnd _ | .pourRetire _ | .sprueFire _ _ | .fabricIngressRequest _
    | .uCapRelease _ | .keyRolloverDue _ | .keyReady _ | .replayDrained _ | .retireKey _
    | .linkIntegrityFailure _ | .laneLoss _ | .retrainTimeout _ | .doorbell _ _ _ _ | .bar2Access _ _ _ _
    | .launchQueueConfigWrite _ _ _ | .tenantWordWrite _ _ | .contextEntryWrite _ _ | .contextKeyLoaded _
    | .fabcfgWrite _ | .memcfgWrite _ | .linkcfgWrite _ | .contcfgWrite _ | .registerWrite _ _
    | .frameOwner _ _ | .reservedSlots _ | .retireUnit _ _ _ | .preEmpt _ _ _ _ _ _ | .migratePage _ _ _
    | .endpointMap _ _ _ | .releaseHeld _ _ | .powerLimit _ | .mailboxDone | .pfrespServe _ _
    | .pfrespDecline _ _ | .pageFaultEnqueue _ | .lostClear _ | .sparmreq _ _ _ | .spdis _ _
    | .invalidateRequest _ _ | .invalidateCompletion | .getMeasurements _ _ | .boot | .clockThrottle
    | .clockRestore | .postedAccessAnswer _ | .linkRetrained _ | .flitCheckFailure _ | .memoEntryAged _ _
    | .migrationLeaseWaitEnd | .remoteDataCacheClearEnd => none

/-- Whether a constructor has an instruction word. -/
def Instr.isWord (i : Instr) : Bool := i.heads.isSome

/-- Checks 5, 6 and 7 of R48 in order: the cause and sub-code of the first that fails. `opc` is the
opcode of the word and `regs` the register count of the block that runs it. -/
def Instr.check (i : Instr) (opc regs : Nat) : Option (Nat × Nat) :=
  match i.heads with
  | none => none
  | some h =>
    if !(shape i).check5 h then some (0x010, opc)
    else match h.check6 with
      | some k => some (0x012, k)
      | none => ((shape i).check7 h regs).map fun k => (0x013, k)

/-- An instruction that a word encodes and that passes the decode checks of R48. -/
def Instr.wf (regs : Nat) (i : Instr) : Bool := i.isWord && i.check 0 regs == none

end Sys2Proof
end

