-- ==== Sys2Proof/Decode.lean ====
section
/-! DEFINITION. The decoder: an instruction word, through a context's decode table, to an instruction or
to the decode cause it raises (R29 to R51). After it, in the same encoding tables, the encoder. -/

namespace Sys2Proof

/-! ## The fields of the word (R30) -/

/-- The raw fields of R30. -/
structure Fields where
  hnt : BitVec 8
  mod : BitVec 12
  imm : Word
  fec : Bool
  feb : Bool
  fea : Bool
  b : BitVec 9
  a : BitVec 9
  d : BitVec 9
  gneg : Bool
  gsel : BitVec 3
  opc : BitVec 10
  deriving DecidableEq, Repr

/-- The word that holds the fields (R30). -/
def Fields.pack (f : Fields) : InsnWord :=
  (f.hnt ++ (f.mod ++ (f.imm ++ (BitVec.ofBool f.fec ++ (BitVec.ofBool f.feb ++ (BitVec.ofBool f.fea ++
    (f.b ++ (f.a ++ (f.d ++ (BitVec.ofBool f.gneg ++ (f.gsel ++ f.opc)))))))))) : BitVec 96)

/-- The fields of a word (R30). -/
def unpack (w : InsnWord) : Fields where
  hnt := w.extractLsb' 88 8
  mod := w.extractLsb' 76 12
  imm := w.extractLsb' 44 32
  fec := w.getLsbD 43
  feb := w.getLsbD 42
  fea := w.getLsbD 41
  b := w.extractLsb' 32 9
  a := w.extractLsb' 23 9
  d := w.extractLsb' 14 9
  gneg := w.getLsbD 13
  gsel := w.extractLsb' 10 3
  opc := w.extractLsb' 0 10

/-! ## Operand codes (R33, R60) -/

/-- The specials in the order of their codes 480 to 504. -/
def specials : List Special :=
  [.zero, .one, .lane, .squad, .block, .flask, .stage, .clock, .pblk, .fx, .fy, .fz, .nfx, .nfy, .nfz,
   .nblk, .nsq, .dsegl, .dsegh, .prml, .prmh, .core, .tag, .half, .slot]

/-- The code of a special (R60). -/
def Special.code : Special → Nat
  | .zero => 480 | .one => 481 | .lane => 482 | .squad => 483 | .block => 484 | .flask => 485 | .stage => 486
  | .clock => 487 | .pblk => 488 | .fx => 489 | .fy => 490 | .fz => 491 | .nfx => 492 | .nfy => 493 | .nfz => 494
  | .nblk => 495 | .nsq => 496 | .dsegl => 497 | .dsegh => 498 | .prml => 499 | .prmh => 500 | .core => 501
  | .tag => 502 | .half => 503 | .slot => 504

/-- The operand that a 9-bit code names (R33). -/
def Opnd.ofCode (c : BitVec 9) : Opnd :=
  if c.toNat < 256 then .v (c.setWidth 8)
  else if c.toNat < 320 then .s (c.setWidth 6)
  else if c.toNat < 336 then .t (c.setWidth 4)
  else if c.toNat < 344 then .acc (c.setWidth 3)
  else if c.toNat < 352 then .p (c.setWidth 3)
  else if c.toNat < 480 then .bad c
  else match specials[c.toNat - 480]? with
    | some x => .sp x
    | none => .bad c

/-- The 9-bit code of an operand (R33). -/
def Opnd.code : Opnd → BitVec 9
  | .v n => n.setWidth 9
  | .s n => 256#9 ||| n.setWidth 9
  | .t n => 320#9 ||| n.setWidth 9
  | .acc n => 336#9 ||| n.setWidth 9
  | .p n => 344#9 ||| n.setWidth 9
  | .sp x => BitVec.ofNat 9 x.code
  | .bad c => c

/-! ## Modifiers (R42, R43) -/

/-- The TY sub-field. -/
def Ty.dec (n : BitVec 4) : Option Ty :=
  match n.toNat with
  | 0 => some .i8 | 1 => some .i16 | 2 => some .i32 | 3 => some .i64
  | 4 => some .n8 | 5 => some .n16 | 6 => some .n32 | 7 => some .n64
  | 8 => some .b32
  | _ => none
/-- Its code. -/
def Ty.enc : Ty → BitVec 4
  | .i8 => 0 | .i16 => 1 | .i32 => 2 | .i64 => 3 | .n8 => 4 | .n16 => 5 | .n32 => 6 | .n64 => 7 | .b32 => 8

/-- The FMT sub-field. -/
def Fmt.dec (n : BitVec 4) : Option Fmt :=
  match n.toNat with
  | 0 => some .f32 | 1 => some .bf16 | 2 => some .f16 | 3 => some .e4m3 | 4 => some .e5m2
  | 5 => some .e2m1 | 6 => some .i4e | 7 => some .e8m0 | 8 => some .i8
  | _ => none
/-- Its code. -/
def Fmt.enc : Fmt → BitVec 4
  | .f32 => 0 | .bf16 => 1 | .f16 => 2 | .e4m3 => 3 | .e5m2 => 4 | .e2m1 => 5 | .i4e => 6 | .e8m0 => 7 | .i8 => 8

/-- The CMP sub-field. -/
def Cmp.dec (n : BitVec 3) : Option Cmp :=
  match n.toNat with
  | 0 => some .eq | 1 => some .ne | 2 => some .lt | 3 => some .le | 4 => some .gt | 5 => some .ge | 6 => some .un
  | _ => none
/-- Its code. -/
def Cmp.enc : Cmp → BitVec 3
  | .eq => 0 | .ne => 1 | .lt => 2 | .le => 3 | .gt => 4 | .ge => 5 | .un => 6

/-- The SZ sub-field. -/
def Sz.dec (n : BitVec 3) : Option Sz :=
  match n.toNat with
  | 0 => some .b8 | 1 => some .b16 | 2 => some .b32 | 3 => some .b64 | 4 => some .b128
  | _ => none
/-- Its code. -/
def Sz.enc : Sz → BitVec 3
  | .b8 => 0 | .b16 => 1 | .b32 => 2 | .b64 => 3 | .b128 => 4

/-- The RQ sub-field: every value is assigned. -/
def Rq.dec (n : BitVec 2) : Rq :=
  match n.toNat with
  | 0 => .uc | 1 => .wt | 2 => .si | _ => .ow
/-- Its code. -/
def Rq.enc : Rq → BitVec 2
  | .uc => 0 | .wt => 1 | .si => 2 | .ow => 3

/-- The SC sub-field: none is an unassigned value, some none the value 0. -/
def Scope.dec (n : BitVec 3) : Option (Option Scope) :=
  match n.toNat with
  | 0 => some none | 1 => some (some .sq) | 2 => some (some .blk) | 3 => some (some .fl) | 4 => some (some .die)
  | 5 => some (some .pkg) | 6 => some (some .sys)
  | _ => none
/-- Its code. -/
def Scope.enc : Option Scope → BitVec 3
  | none => 0 | some .sq => 1 | some .blk => 2 | some .fl => 3 | some .die => 4 | some .pkg => 5 | some .sys => 6

/-- The ORD sub-field. -/
def MemOrd.dec (n : BitVec 3) : Option MemOrd :=
  match n.toNat with
  | 0 => some .relaxed | 1 => some .acq | 2 => some .rel | 3 => some .ar | 4 => some .sc
  | _ => none
/-- Its code. -/
def MemOrd.enc : MemOrd → BitVec 3
  | .relaxed => 0 | .acq => 1 | .rel => 2 | .ar => 3 | .sc => 4

/-- The FMC sub-field. -/
def Fmc.dec (n : BitVec 2) : Option Fmc :=
  match n.toNat with
  | 0 => some .plain | 1 => some .fmc2 | 2 => some .fmc4
  | _ => none
/-- Its code. -/
def Fmc.enc : Fmc → BitVec 2
  | .plain => 0 | .fmc2 => 1 | .fmc4 => 2

/-- The integer and address row of R42. -/
def IntMod.dec (m : BitVec 12) : Option IntMod :=
  match Ty.dec (m.extractLsb' 8 4), Cmp.dec (m.extractLsb' 4 3) with
  | some ty, some cmp => some ⟨ty, m.getLsbD 7, cmp, m.extractLsb' 0 4⟩
  | _, _ => none
/-- Its encoding. -/
def IntMod.enc (m : IntMod) : BitVec 12 := m.ty.enc ++ (BitVec.ofBool m.sat ++ (m.cmp.enc ++ m.var))

/-- The floating-point and conversion row of R42. -/
def FpMod.dec (m : BitVec 12) : Option FpMod :=
  match Fmt.dec (m.extractLsb' 8 4), Cmp.dec (m.extractLsb' 4 3), Fmt.dec (m.extractLsb' 0 4) with
  | some fmt, some cmp, some fmt2 => some ⟨fmt, m.getLsbD 7, cmp, fmt2⟩
  | _, _, _ => none
/-- Its encoding. -/
def FpMod.enc (m : FpMod) : BitVec 12 := m.fmt.enc ++ (BitVec.ofBool m.sat ++ (m.cmp.enc ++ m.fmt2.enc))

/-- The quantise and narrow row of R42; its reserved bits must be 0. -/
def QMod.dec (m : BitVec 12) : Option QMod :=
  if m.extractLsb' 0 7 == 0 then (Fmt.dec (m.extractLsb' 8 4)).map fun fmt => ⟨fmt, m.getLsbD 7⟩ else none
/-- Its encoding. -/
def QMod.enc (m : QMod) : BitVec 12 := m.fmt.enc ++ (BitVec.ofBool m.sat ++ 0#7)

/-- The matrix row of R42; its reserved bits must be 0. -/
def MatMod.dec (m : BitVec 12) : Option MatMod :=
  if m.extractLsb' 4 2 == 0 then
    (Fmt.dec (m.extractLsb' 8 4)).map fun fmt => ⟨fmt, m.getLsbD 7, m.getLsbD 6, m.extractLsb' 0 4⟩
  else none
/-- Its encoding. -/
def MatMod.enc (m : MatMod) : BitVec 12 :=
  m.fmt.enc ++ (BitVec.ofBool m.trb ++ (BitVec.ofBool m.skew ++ (0#2 ++ m.var)))

/-- The global memory row of R42. -/
def GMod.dec (m : BitVec 12) : Option GMod :=
  match Sz.dec (m.extractLsb' 9 3), Scope.dec (m.extractLsb' 3 3), MemOrd.dec (m.extractLsb' 0 3) with
  | some sz, some sc, some ord => some ⟨sz, m.getLsbD 8, Rq.dec (m.extractLsb' 6 2), sc, ord⟩
  | _, _, _ => none
/-- Its encoding. -/
def GMod.enc (m : GMod) : BitVec 12 :=
  m.sz.enc ++ (BitVec.ofBool m.sx ++ (m.rq.enc ++ (Scope.enc m.sc ++ m.ord.enc)))

/-- The pooled and stack memory row of R42; its reserved bit must be 0. -/
def PMod.dec (m : BitVec 12) : Option PMod :=
  if m.getLsbD 6 then none
  else match Sz.dec (m.extractLsb' 9 3), Scope.dec (m.extractLsb' 3 3), MemOrd.dec (m.extractLsb' 0 3) with
    | some sz, some sc, some ord => some ⟨sz, m.getLsbD 8, m.getLsbD 7, sc, ord⟩
    | _, _, _ => none
/-- Its encoding. -/
def PMod.enc (m : PMod) : BitVec 12 :=
  m.sz.enc ++ (BitVec.ofBool m.sx ++ (BitVec.ofBool m.skew ++ (0#1 ++ (Scope.enc m.sc ++ m.ord.enc))))

/-- The copy-engine row of R42. -/
def CMod.dec (m : BitVec 12) : Option CMod :=
  (Fmc.dec (m.extractLsb' 4 2)).map fun fmc => ⟨m.extractLsb' 6 6, fmc, m.getLsbD 3, m.getLsbD 2, m.extractLsb' 0 2⟩
/-- Its encoding. -/
def CMod.enc (m : CMod) : BitVec 12 :=
  m.tag ++ (m.fmc.enc ++ (BitVec.ofBool m.crc ++ (BitVec.ofBool m.fol ++ m.que)))

/-- The synchronisation row of R42; its reserved bit must be 0. -/
def SMod.dec (m : BitVec 12) : Option SMod :=
  if m.getLsbD 0 then none
  else (Scope.dec (m.extractLsb' 2 3)).map fun sc => ⟨m.extractLsb' 5 7, sc, m.getLsbD 1⟩
/-- Its encoding. -/
def SMod.enc (m : SMod) : BitVec 12 := m.idx ++ (Scope.enc m.sc ++ (BitVec.ofBool m.loc ++ 0#1))

/-- The launch and work row of R42; its reserved bits must be 0. -/
def LMod.dec (m : BitVec 12) : Option LMod := if m.extractLsb' 0 8 == 0 then some ⟨m.extractLsb' 8 4⟩ else none
/-- Its encoding. -/
def LMod.enc (m : LMod) : BitVec 12 := m.que ++ 0#8

/-- CRSEL (R62): an unlisted value is unassigned. -/
def Cr.dec (m : BitVec 12) : Option Cr :=
  if m.toNat < 16 then some (.tshape (m.setWidth 4))
  else if m.toNat < 20 then some (.skew (m.setWidth 2))
  else match m.toNat with
    | 0x20 => some .stklim | 0x21 => some .tagmap | 0x30 => some .cause | 0x31 => some .trappc | 0x32 => some .skidct
    | 0x33 => some .rstpc | 0x40 => some .asgen | 0x41 => some .viewgen | 0x42 => some .dtsel | 0x43 => some .prio
    | 0x44 => some .drgrp | 0x45 => some .audfrac
    | _ => none
/-- Its code. -/
def Cr.enc : Cr → BitVec 12
  | .tshape n => n.setWidth 12
  | .skew n => 0x010#12 ||| n.setWidth 12
  | .stklim => 0x020 | .tagmap => 0x021 | .cause => 0x030 | .trappc => 0x031 | .skidct => 0x032 | .rstpc => 0x033
  | .asgen => 0x040 | .viewgen => 0x041 | .dtsel => 0x042 | .prio => 0x043 | .drgrp => 0x044 | .audfrac => 0x045

/-- The hint field (R40). -/
def Hint.dec (h : BitVec 8) : Hint := ⟨h.extractLsb' 5 3, h.extractLsb' 3 2, h.extractLsb' 1 2, h.getLsbD 0⟩
/-- Its encoding. -/
def Hint.enc (h : Hint) : BitVec 8 := h.space ++ (h.cede ++ (h.latch ++ BitVec.ofBool h.res))

/-! ## Words and arguments -/

/-- The MOD field of a family whose instruction is selected by VAR alone (R42). -/
def Fields.unitMod (f : Fields) (k : BitVec 12) : Option Unit := if f.mod == k then some () else none

/-- The arguments that the fields give under a form class (R31): in class 1, IMM bits 8:0 are operand C
and the bits above stay in `imm`. -/
def Fields.args {μ : Type} (f : Fields) (form : Form) (m : μ) : Args μ where
  hint := Hint.dec f.hnt
  guard := ⟨f.gneg, f.gsel⟩
  fea := f.fea
  feb := f.feb
  fec := f.fec
  d := Opnd.ofCode f.d
  a := Opnd.ofCode f.a
  b := Opnd.ofCode f.b
  c := if form = .three then Opnd.ofCode (f.imm.setWidth 9) else .v 0
  imm := if form = .three then f.imm.extractLsb' 9 23 ++ 0#9 else f.imm
  mod := m

/-- The word of an instruction: its arguments under a form class, its opcode and its MOD field (R30). -/
def Args.word {μ : Type} (x : Args μ) (form : Form) (opc : BitVec 10) (mod : BitVec 12) : InsnWord :=
  Fields.pack {
    hnt := x.hint.enc, mod
    imm := if form = .three then x.imm.extractLsb' 9 23 ++ x.c.code else x.imm
    fec := x.fec, feb := x.feb, fea := x.fea
    b := x.b.code, a := x.a.code, d := x.d.code
    gneg := x.guard.neg, gsel := x.guard.sel, opc }

/-! ## The decode table (R45, R49, R51) -/

/-- A decode table: one of the two maps of R49 and R51, or one that `dtload` read (R46, R337): whether its
map is 3, and 1,024 entries. -/
inductive DTable where
  | map3
  | map2
  | loaded (three : Bool) (entries : List (BitVec 16))
  deriving DecidableEq, Repr

/-- The Control family: the instruction of an internal operation, none where a modifier value is unassigned. -/
def buildControl (iop : Nat) (f : Fields) : Option Instr :=
  match iop with
  | 0x000 => (f.unitMod 0).map fun m => .nop (f.args .two m)
  | 0x001 => (f.unitMod 0).map fun m => .bra (f.args .ctl m)
  | 0x002 => (f.unitMod 0).map fun m => .brx (f.args .ctl m)
  | 0x003 => if f.mod == 0 then some (.call (f.args .ctl ())) else
    if f.mod == 1 then some (.callInd (f.args .ctl ())) else none
  | 0x004 => (f.unitMod 0).map fun m => .ret (f.args .ctl m)
  | 0x005 => if f.mod == 0 then some (.meet (f.args .ctl ())) else
    if f.mod == 1 then some (.meetSave (f.args .ctl ())) else none
  | 0x006 => if f.mod == 0 then some (.rejoin (f.args .ctl ())) else
    if f.mod == 1 then some (.rejoinRest (f.args .ctl ())) else none
  | 0x007 => (f.unitMod 0).map fun m => .exit (f.args .ctl m)
  | 0x008 => (f.unitMod 0).map fun m => .yield (f.args .two m)
  | 0x009 => if f.mod == 0 then some (.voteAny (f.args .two ())) else
    if f.mod == 1 then some (.voteAll (f.args .two ())) else
    if f.mod == 2 then some (.voteMask (f.args .two ())) else none
  | 0x00A => if f.mod == 0 then some (.shflPick (f.args .two ())) else
    if f.mod == 1 then some (.shflRot (f.args .two ())) else
    if f.mod == 2 then some (.shflSlide (f.args .two ())) else
    if f.mod == 3 then some (.shflMir (f.args .two ())) else none
  | _ => none

/-- The Int family: the instruction of an internal operation, none where a modifier value is unassigned. -/
def buildInt (iop : Nat) (f : Fields) : Option Instr :=
  match iop with
  | 0x040 => (IntMod.dec f.mod).map fun m => .add (f.args .two m)
  | 0x041 => (IntMod.dec f.mod).map fun m => .sub (f.args .two m)
  | 0x042 => (IntMod.dec f.mod).map fun m => .mulLo (f.args .two m)
  | 0x043 => (IntMod.dec f.mod).map fun m => .mulHi (f.args .two m)
  | 0x044 => (IntMod.dec f.mod).map fun m => .mad (f.args .three m)
  | 0x045 => (IntMod.dec f.mod).map fun m => .madWide (f.args .three m)
  | 0x046 => (IntMod.dec f.mod).map fun m => .div (f.args .two m)
  | 0x047 => (IntMod.dec f.mod).map fun m => .rem (f.args .two m)
  | 0x048 => (IntMod.dec f.mod).map fun m => .min (f.args .two m)
  | 0x049 => (IntMod.dec f.mod).map fun m => .max (f.args .two m)
  | 0x04A => (IntMod.dec f.mod).map fun m => .abs (f.args .two m)
  | 0x04B => (IntMod.dec f.mod).map fun m => .neg (f.args .two m)
  | 0x04C => (IntMod.dec f.mod).map fun m => .and (f.args .two m)
  | 0x04D => (IntMod.dec f.mod).map fun m => .or (f.args .two m)
  | 0x04E => (IntMod.dec f.mod).map fun m => .xor (f.args .two m)
  | 0x04F => (IntMod.dec f.mod).map fun m => .not (f.args .two m)
  | 0x050 => (IntMod.dec f.mod).map fun m => .shl (f.args .two m)
  | 0x051 => (IntMod.dec f.mod).map fun m => .shr (f.args .two m)
  | 0x052 => (IntMod.dec f.mod).map fun m => .sar (f.args .two m)
  | 0x053 => (IntMod.dec f.mod).map fun m => .rot (f.args .two m)
  | 0x054 => (IntMod.dec f.mod).map fun m => .clz (f.args .two m)
  | 0x055 => (IntMod.dec f.mod).map fun m => .popc (f.args .two m)
  | 0x056 => (IntMod.dec f.mod).map fun m => .brev (f.args .two m)
  | 0x057 => (IntMod.dec f.mod).map fun m => .bfx (f.args .two m)
  | 0x058 => (IntMod.dec f.mod).map fun m => .bfi (f.args .three m)
  | 0x059 => (IntMod.dec f.mod).map fun m => .lea (f.args .two m)
  | 0x05A => (IntMod.dec f.mod).map fun m => .setp (f.args .two m)
  | 0x05B => (IntMod.dec f.mod).map fun m => .sel (f.args .three m)
  | 0x05C => (IntMod.dec f.mod).map fun m => .plop (f.args .three m)
  | 0x05D => (IntMod.dec f.mod).map fun m => .mov (f.args .two m)
  | 0x05E => (IntMod.dec f.mod).map fun m => .movi (f.args .two m)
  | 0x05F => (IntMod.dec f.mod).map fun m => .dp4 (f.args .three m)
  | _ => none

/-- The IntImm family: the instruction of an internal operation, none where a modifier value is unassigned. -/
def buildIntImm (iop : Nat) (f : Fields) : Option Instr :=
  match iop with
  | 0x080 => (IntMod.dec f.mod).map fun m => .addImm (f.args .two m)
  | 0x081 => (IntMod.dec f.mod).map fun m => .subImm (f.args .two m)
  | 0x082 => (IntMod.dec f.mod).map fun m => .mulLoImm (f.args .two m)
  | 0x083 => (IntMod.dec f.mod).map fun m => .mulHiImm (f.args .two m)
  | 0x086 => (IntMod.dec f.mod).map fun m => .divImm (f.args .two m)
  | 0x087 => (IntMod.dec f.mod).map fun m => .remImm (f.args .two m)
  | 0x088 => (IntMod.dec f.mod).map fun m => .minImm (f.args .two m)
  | 0x089 => (IntMod.dec f.mod).map fun m => .maxImm (f.args .two m)
  | 0x08C => (IntMod.dec f.mod).map fun m => .andImm (f.args .two m)
  | 0x08D => (IntMod.dec f.mod).map fun m => .orImm (f.args .two m)
  | 0x08E => (IntMod.dec f.mod).map fun m => .xorImm (f.args .two m)
  | 0x090 => (IntMod.dec f.mod).map fun m => .shlImm (f.args .two m)
  | 0x091 => (IntMod.dec f.mod).map fun m => .shrImm (f.args .two m)
  | 0x092 => (IntMod.dec f.mod).map fun m => .sarImm (f.args .two m)
  | 0x093 => (IntMod.dec f.mod).map fun m => .rotImm (f.args .two m)
  | 0x099 => (IntMod.dec f.mod).map fun m => .leaImm (f.args .two m)
  | 0x09A => (IntMod.dec f.mod).map fun m => .setpImm (f.args .two m)
  | _ => none

/-- The Float family: the instruction of an internal operation, none where a modifier value is unassigned. -/
def buildFloat (iop : Nat) (f : Fields) : Option Instr :=
  match iop with
  | 0x0C0 => (FpMod.dec f.mod).map fun m => .fadd (f.args .two m)
  | 0x0C1 => (FpMod.dec f.mod).map fun m => .fsub (f.args .two m)
  | 0x0C2 => (FpMod.dec f.mod).map fun m => .fmul (f.args .two m)
  | 0x0C3 => (FpMod.dec f.mod).map fun m => .fma (f.args .three m)
  | 0x0C4 => (FpMod.dec f.mod).map fun m => .fmin (f.args .two m)
  | 0x0C5 => (FpMod.dec f.mod).map fun m => .fmax (f.args .two m)
  | 0x0C6 => (FpMod.dec f.mod).map fun m => .fsetp (f.args .two m)
  | 0x0C7 => (FpMod.dec f.mod).map fun m => .fclass (f.args .two m)
  | 0x0C8 => (FpMod.dec f.mod).map fun m => .frcp (f.args .two m)
  | 0x0C9 => (FpMod.dec f.mod).map fun m => .frsq (f.args .two m)
  | 0x0CA => (FpMod.dec f.mod).map fun m => .fsqrt (f.args .two m)
  | 0x0CB => (FpMod.dec f.mod).map fun m => .fdiv (f.args .two m)
  | 0x0CC => (FpMod.dec f.mod).map fun m => .fexp2 (f.args .two m)
  | 0x0CD => (FpMod.dec f.mod).map fun m => .flog2 (f.args .two m)
  | 0x0CE => (FpMod.dec f.mod).map fun m => .fsin (f.args .two m)
  | 0x0CF => (FpMod.dec f.mod).map fun m => .fcos (f.args .two m)
  | 0x0D0 => (FpMod.dec f.mod).map fun m => .ftanh (f.args .two m)
  | 0x0D1 => (FpMod.dec f.mod).map fun m => .hadd2 (f.args .two m)
  | 0x0D2 => (FpMod.dec f.mod).map fun m => .hmul2 (f.args .two m)
  | 0x0D3 => (FpMod.dec f.mod).map fun m => .hfma2 (f.args .three m)
  | 0x0D4 => (FpMod.dec f.mod).map fun m => .cvt (f.args .two m)
  | _ => none

/-- The FloatImm family: the instruction of an internal operation, none where a modifier value is unassigned. -/
def buildFloatImm (iop : Nat) (f : Fields) : Option Instr :=
  match iop with
  | 0x100 => (FpMod.dec f.mod).map fun m => .faddImm (f.args .two m)
  | 0x101 => (FpMod.dec f.mod).map fun m => .fsubImm (f.args .two m)
  | 0x102 => (FpMod.dec f.mod).map fun m => .fmulImm (f.args .two m)
  | 0x104 => (FpMod.dec f.mod).map fun m => .fminImm (f.args .two m)
  | 0x105 => (FpMod.dec f.mod).map fun m => .fmaxImm (f.args .two m)
  | 0x106 => (FpMod.dec f.mod).map fun m => .fsetpImm (f.args .two m)
  | _ => none

/-- The Quant family: the instruction of an internal operation, none where a modifier value is unassigned. -/
def buildQuant (iop : Nat) (f : Fields) : Option Instr :=
  match iop with
  | 0x140 => (QMod.dec f.mod).map fun m => .qblk (f.args .two m)
  | 0x141 => (QMod.dec f.mod).map fun m => .dqblk (f.args .two m)
  | 0x142 => (QMod.dec f.mod).map fun m => .pk4 (f.args .two m)
  | 0x143 => (QMod.dec f.mod).map fun m => .upk4 (f.args .two m)
  | 0x144 => (QMod.dec f.mod).map fun m => .amax (f.args .two m)
  | _ => none

/-- The Matrix family: the instruction of an internal operation, none where a modifier value is unassigned. -/
def buildMatrix (iop : Nat) (f : Fields) : Option Instr :=
  match iop with
  | 0x180 => (MatMod.dec f.mod).map fun m => .tld (f.args .mem m)
  | 0x181 => (MatMod.dec f.mod).map fun m => .tst (f.args .mem m)
  | 0x182 => (f.unitMod 0).map fun m => .tzero (f.args .two m)
  | 0x183 => (MatMod.dec f.mod).map fun m => .mma (f.args .two m)
  | 0x184 => (MatMod.dec f.mod).map fun m => .mmas (f.args .three m)
  | 0x185 => (f.unitMod 0).map fun m => .accz (f.args .two m)
  | 0x186 => (f.unitMod 0).map fun m => .accmul (f.args .two m)
  | 0x187 => (f.unitMod 0).map fun m => .accrd (f.args .two m)
  | 0x188 => (f.unitMod 0).map fun m => .accwr (f.args .two m)
  | 0x189 => (MatMod.dec f.mod).map fun m => .accst (f.args .mem m)
  | 0x18A => if f.mod == 0 then some (.accdeclRetain (f.args .two ())) else
    if f.mod == 1 then some (.accdeclRecompute (f.args .two ())) else none
  | 0x18B => (f.unitMod 0).map fun m => .rstlbl (f.args .ctl m)
  | _ => none

/-- The Memory family: the instruction of an internal operation, none where a modifier value is unassigned. -/
def buildMemory (iop : Nat) (f : Fields) : Option Instr :=
  match iop with
  | 0x200 => (PMod.dec f.mod).map fun m => .lds (f.args .mem m)
  | 0x201 => (PMod.dec f.mod).map fun m => .sts (f.args .mem m)
  | 0x202 => (GMod.dec f.mod).map fun m => .ldg (f.args .mem m)
  | 0x203 => (GMod.dec f.mod).map fun m => .stg (f.args .mem m)
  | 0x204 => (PMod.dec f.mod).map fun m => .ldk (f.args .mem m)
  | 0x205 => (PMod.dec f.mod).map fun m => .stk (f.args .mem m)
  | 0x206 => (GMod.dec f.mod).map fun m => .fence (f.args .two m)
  | 0x207 => (GMod.dec f.mod).map fun m => .crdecl (f.args .two m)
  | 0x208 => (GMod.dec f.mod).map fun m => .crfold (f.args .mem m)
  | 0x209 => (GMod.dec f.mod).map fun m => .cred (f.args .mem m)
  | 0x210 => (PMod.dec f.mod).map fun m => .atomsAdd (f.args .mem m)
  | 0x211 => (PMod.dec f.mod).map fun m => .atomsMin (f.args .mem m)
  | 0x212 => (PMod.dec f.mod).map fun m => .atomsMax (f.args .mem m)
  | 0x213 => (PMod.dec f.mod).map fun m => .atomsAnd (f.args .mem m)
  | 0x214 => (PMod.dec f.mod).map fun m => .atomsOr (f.args .mem m)
  | 0x215 => (PMod.dec f.mod).map fun m => .atomsXor (f.args .mem m)
  | 0x216 => (PMod.dec f.mod).map fun m => .atomsExch (f.args .mem m)
  | 0x217 => (PMod.dec f.mod).map fun m => .atomsCas (f.args .mem m)
  | 0x218 => (PMod.dec f.mod).map fun m => .atomsInc (f.args .mem m)
  | 0x219 => (PMod.dec f.mod).map fun m => .atomsDec (f.args .mem m)
  | 0x21A => (PMod.dec f.mod).map fun m => .atomsFadd (f.args .mem m)
  | 0x21B => (PMod.dec f.mod).map fun m => .atomsFmin (f.args .mem m)
  | 0x21C => (PMod.dec f.mod).map fun m => .atomsFmax (f.args .mem m)
  | 0x220 => (GMod.dec f.mod).map fun m => .atomgAdd (f.args .mem m)
  | 0x221 => (GMod.dec f.mod).map fun m => .atomgMin (f.args .mem m)
  | 0x222 => (GMod.dec f.mod).map fun m => .atomgMax (f.args .mem m)
  | 0x223 => (GMod.dec f.mod).map fun m => .atomgAnd (f.args .mem m)
  | 0x224 => (GMod.dec f.mod).map fun m => .atomgOr (f.args .mem m)
  | 0x225 => (GMod.dec f.mod).map fun m => .atomgXor (f.args .mem m)
  | 0x226 => (GMod.dec f.mod).map fun m => .atomgExch (f.args .mem m)
  | 0x227 => (GMod.dec f.mod).map fun m => .atomgCas (f.args .mem m)
  | 0x228 => (GMod.dec f.mod).map fun m => .atomgInc (f.args .mem m)
  | 0x229 => (GMod.dec f.mod).map fun m => .atomgDec (f.args .mem m)
  | 0x22A => (GMod.dec f.mod).map fun m => .atomgFadd (f.args .mem m)
  | 0x22B => (GMod.dec f.mod).map fun m => .atomgFmin (f.args .mem m)
  | 0x22C => (GMod.dec f.mod).map fun m => .atomgFmax (f.args .mem m)
  | 0x230 => (GMod.dec f.mod).map fun m => .redgAdd (f.args .mem m)
  | 0x231 => (GMod.dec f.mod).map fun m => .redgMin (f.args .mem m)
  | 0x232 => (GMod.dec f.mod).map fun m => .redgMax (f.args .mem m)
  | 0x233 => (GMod.dec f.mod).map fun m => .redgAnd (f.args .mem m)
  | 0x234 => (GMod.dec f.mod).map fun m => .redgOr (f.args .mem m)
  | 0x235 => (GMod.dec f.mod).map fun m => .redgXor (f.args .mem m)
  | 0x238 => (GMod.dec f.mod).map fun m => .redgInc (f.args .mem m)
  | 0x239 => (GMod.dec f.mod).map fun m => .redgDec (f.args .mem m)
  | 0x23A => (GMod.dec f.mod).map fun m => .redgFadd (f.args .mem m)
  | 0x23B => (GMod.dec f.mod).map fun m => .redgFmin (f.args .mem m)
  | 0x23C => (GMod.dec f.mod).map fun m => .redgFmax (f.args .mem m)
  | _ => none

/-- The Copy family: the instruction of an internal operation, none where a modifier value is unassigned. -/
def buildCopy (iop : Nat) (f : Fields) : Option Instr :=
  match iop with
  | 0x280 => (CMod.dec f.mod).map fun m => .cpy (f.args .mem m)
  | 0x281 => (CMod.dec f.mod).map fun m => .cpyl (f.args .mem m)
  | 0x282 => (CMod.dec f.mod).map fun m => .cpyw (f.args .mem m)
  | 0x283 => (CMod.dec f.mod).map fun m => .cpyp (f.args .mem m)
  | 0x284 => (CMod.dec f.mod).map fun m => .cpyo (f.args .mem m)
  | 0x285 => (CMod.dec f.mod).map fun m => .cpyxPut (f.args .mem m)
  | 0x286 => (f.unitMod 0).map fun m => .twaitAny (f.args .two m)
  | 0x287 => (f.unitMod 0).map fun m => .twaitAll (f.args .two m)
  | 0x288 => (f.unitMod 0).map fun m => .tfind (f.args .two m)
  | 0x289 => (f.unitMod 0).map fun m => .tclr (f.args .two m)
  | _ => none

/-- The Sync family: the instruction of an internal operation, none where a modifier value is unassigned. -/
def buildSync (iop : Nat) (f : Fields) : Option Instr :=
  match iop with
  | 0x300 => (SMod.dec f.mod).map fun m => .bini (f.args .two m)
  | 0x301 => (SMod.dec f.mod).map fun m => .barv (f.args .two m)
  | 0x302 => (SMod.dec f.mod).map fun m => .bexp (f.args .two m)
  | 0x303 => (SMod.dec f.mod).map fun m => .bwait (f.args .two m)
  | 0x304 => (SMod.dec f.mod).map fun m => .btest (f.args .two m)
  | 0x305 => (SMod.dec f.mod).map fun m => .rinit (f.args .two m)
  | 0x306 => (SMod.dec f.mod).map fun m => .push (f.args .two m)
  | 0x307 => (SMod.dec f.mod).map fun m => .pop (f.args .two m)
  | 0x308 => (SMod.dec f.mod).map fun m => if m.idx == 1 then .forkMatrix (f.args .two m) else .forkCopy (f.args .two m)
  | 0x309 => (SMod.dec f.mod).map fun m => if m.idx == 1 then .rdvMatrix (f.args .two m) else .rdvCopy (f.args .two m)
  | 0x30A => (SMod.dec f.mod).map fun m => if m.sc == some .pkg then .drainPkg (f.args .two m) else .drainDie (f.args .two m)
  | _ => none

/-- The Launch family: the instruction of an internal operation, none where a modifier value is unassigned. -/
def buildLaunch (iop : Nat) (f : Fields) : Option Instr :=
  match iop with
  | 0x340 => (LMod.dec f.mod).map fun m => .pour (f.args .two m)
  | 0x341 => (f.unitMod 0).map fun m => .cwait (f.args .two m)
  | 0x342 => (f.unitMod 0).map fun m => if f.imm.getLsbD 2 then .tknxtPooled (f.args .two m) else .tknxt (f.args .two m)
  | 0x343 => (f.unitMod 0).map fun m => .sparm (f.args .two m)
  | 0x344 => (f.unitMod 0).map fun m => .prog (f.args .two m)
  | _ => none

/-- The System family: the instruction of an internal operation, none where a modifier value is unassigned. -/
def buildSystem (iop : Nat) (f : Fields) : Option Instr :=
  match iop with
  | 0x380 => (Cr.dec f.mod).map fun m => .movcr (f.args .two m)
  | 0x381 => (Cr.dec f.mod).map fun m => .movrc (f.args .two m)
  | 0x382 => (f.unitMod 0).map fun m => .rdclk (f.args .two m)
  | 0x383 => (f.unitMod 0).map fun m =>
    if f.imm == 1 then .sysRecoveryState (f.args .two m) else if f.imm == 2 then .sysSetSideEffect (f.args .two m)
    else if f.imm == 3 then .sysPourNumber (f.args .two m) else .sysVersion (f.args .two m)
  | 0x384 => (f.unitMod 0).map fun m => .trap (f.args .two m)
  | 0x385 => (f.unitMod 0).map fun m => if f.imm == 1 then .rftAbort (f.args .two m) else .rft (f.args .two m)
  | 0x386 => (f.unitMod 0).map fun m => .asgen (f.args .two m)
  | 0x387 => (f.unitMod 0).map fun m => .splint (f.args .two m)
  | 0x388 => (f.unitMod 0).map fun m => .tagkill (f.args .two m)
  | 0x389 => (f.unitMod 0).map fun m => .dtload (f.args .two m)
  | _ => none

/-- The instruction of an internal operation (R45, R49), as its native opcode names it. -/
def buildNative (iop : Nat) (f : Fields) : Option Instr :=
  if iop < 0x040 then buildControl iop f
  else if iop < 0x080 then buildInt iop f
  else if iop < 0x0C0 then buildIntImm iop f
  else if iop < 0x100 then buildFloat iop f
  else if iop < 0x140 then buildFloatImm iop f
  else if iop < 0x180 then buildQuant iop f
  else if iop < 0x200 then buildMatrix iop f
  else if iop < 0x280 then buildMemory iop f
  else if iop < 0x300 then buildCopy iop f
  else if iop < 0x340 then buildSync iop f
  else if iop < 0x380 then buildLaunch iop f
  else buildSystem iop f

/-- The map-2 code of the operations that R51 moves. -/
def map2Code (iop : Nat) : Option Nat :=
  match iop with
  | 0x042 => some 0x043
  | 0x043 => some 0x042
  | 0x300 => some 0x3C0
  | 0x301 => some 0x3C1
  | 0x302 => some 0x3C2
  | 0x303 => some 0x3C3
  | 0x304 => some 0x3C4
  | 0x308 => some 0x3C5
  | 0x309 => some 0x3C6
  | 0x30A => some 0x3C7
  | _ => none

/-- The same operation under its map-2 code (R51). -/
def Instr.toMap2 : Instr → Instr
  | .mulLo a => .mulLoMap2 a
  | .mulHi a => .mulHiMap2 a
  | .bini a => .biniMap2 a
  | .barv a => .barvMap2 a
  | .bexp a => .bexpMap2 a
  | .bwait a => .bwaitMap2 a
  | .btest a => .btestMap2 a
  | .forkCopy a => .forkMap2 a
  | .forkMatrix a => .forkMap2 a
  | .rdvCopy a => .rdvMap2 a
  | .rdvMatrix a => .rdvMap2 a
  | .drainDie a => .drainMap2 a
  | .drainPkg a => .drainMap2 a
  | i => i

/-- The instruction of an internal operation reached under an opcode: the map-2 constructor where R51
gives that operation this code. -/
def build (iop opc : Nat) (f : Fields) : Option Instr :=
  if map2Code iop = some opc then (buildNative iop f).map Instr.toMap2 else buildNative iop f

/-- The native operations: the opcodes that R49 assigns. -/
def assigned (iop : Nat) : Bool :=
  decide (iop ≤ 0x00A) || decide (0x040 ≤ iop ∧ iop ≤ 0x05F)
  || (decide (0x080 ≤ iop ∧ iop ≤ 0x09A) && decide (iop - 0x080 ∈
      [0x00, 0x01, 0x02, 0x03, 0x06, 0x07, 0x08, 0x09, 0x0C, 0x0D, 0x0E, 0x10, 0x11, 0x12, 0x13, 0x19, 0x1A]))
  || decide (0x0C0 ≤ iop ∧ iop ≤ 0x0D4)
  || (decide (0x100 ≤ iop ∧ iop ≤ 0x106) && iop != 0x103)
  || decide (0x140 ≤ iop ∧ iop ≤ 0x144) || decide (0x180 ≤ iop ∧ iop ≤ 0x18B)
  || decide (0x200 ≤ iop ∧ iop ≤ 0x209) || decide (0x210 ≤ iop ∧ iop ≤ 0x21C)
  || decide (0x220 ≤ iop ∧ iop ≤ 0x22C)
  || (decide (0x230 ≤ iop ∧ iop ≤ 0x23C) && iop != 0x236 && iop != 0x237)
  || decide (0x280 ≤ iop ∧ iop ≤ 0x289) || decide (0x300 ≤ iop ∧ iop ≤ 0x30A)
  || decide (0x340 ≤ iop ∧ iop ≤ 0x344) || decide (0x380 ≤ iop ∧ iop ≤ 0x389)

/-- The form class of a native operation, as its code (R31, R49). -/
def formCode (iop : Nat) : Nat :=
  if iop ∈ [0x044, 0x045, 0x058, 0x05B, 0x05C, 0x05F, 0x0C3, 0x0D3, 0x184] then 1
  else if (0x001 ≤ iop ∧ iop ≤ 0x007) ∨ iop = 0x18B then 3
  else if iop ∈ [0x180, 0x181, 0x189] ∨ (0x200 ≤ iop ∧ iop ≤ 0x205) ∨ (0x208 ≤ iop ∧ iop ≤ 0x23C)
    ∨ (0x280 ≤ iop ∧ iop ≤ 0x285) then 2
  else 0

/-- The privileged operations (R49). -/
def privileged (iop : Nat) : Bool := decide (0x386 ≤ iop ∧ iop ≤ 0x389)

/-- The entry of the native table for an opcode that carries an internal operation (R45, R49). -/
def nativeEntry (iop : Nat) : BitVec 16 :=
  BitVec.ofNat 16 (iop * 16 + (if privileged iop then 8 else 0) + formCode iop)

/-- The internal operation of an opcode under map 2 (R51). -/
def map2Iop (opc : Nat) : Option Nat :=
  if opc = 0x042 then some 0x043
  else if opc = 0x043 then some 0x042
  else if 0x300 ≤ opc ∧ opc < 0x340 then none
  else if 0x3C0 ≤ opc ∧ opc ≤ 0x3C4 then some (opc - 0x0C0)
  else if 0x3C5 ≤ opc ∧ opc ≤ 0x3C7 then some (opc - 0x0BD)
  else if assigned opc then some opc else none

/-- A table's entry for an opcode (R45). -/
def DTable.entry (t : DTable) (opc : Nat) : BitVec 16 :=
  match t with
  | .map3 => if assigned opc then nativeEntry opc else 0xFFF0
  | .map2 => match map2Iop opc with
    | some iop => nativeEntry iop
    | none => 0xFFF0
  | .loaded _ es => (es[opc]?).getD 0xFFF0

/-! ## Decoding (R48) -/

/-- What decoding needs beside the word: the table of the pour, whether its context is privileged, and
the register count of the block. -/
structure DecEnv where
  table : DTable
  priv : Bool
  regs : Nat
  deriving DecidableEq, Repr

/-- What a word decodes to: an instruction, or a decode cause with its sub-code. -/
inductive Decoded where
  | ok (i : Instr)
  | trap (cause sub : Nat)
  deriving DecidableEq, Repr

/-- Checks 2 to 7 of R48 in order. -/
def decode (env : DecEnv) (w : InsnWord) : Decoded :=
  let f := unpack w
  let opc := f.opc.toNat
  let e := env.table.entry opc
  let iop := (e.extractLsb' 4 12).toNat
  if iop = 0xFFF then .trap 0x010 opc
  else if e.getLsbD 3 && !env.priv then .trap 0x014 opc
  else if e.getLsbD 2 then .trap 0x015 opc
  else match build iop opc f with
    | none => .trap 0x010 opc
    | some i =>
      match i.check opc env.regs with
      | some (c, k) => .trap c k
      | none => .ok i

/-- The word of 12 bytes in address order (R29). -/
def wordOfBytes (bs : List Byte) : InsnWord := bs.foldr (fun b acc => (acc <<< 8) ||| b.setWidth 96) 0

/-- The 12 bytes of a word in address order (R29). -/
def bytesOfWord (w : InsnWord) : List Byte := (List.range 12).map fun k => w.extractLsb' (8 * k) 8

/-- The word of nbits bits of the operation table, as its 12 bytes lie in memory. -/
def tableBytes (nbits w : Nat) : List Byte := bytesOfWord (BitVec.ofNat 96 (w % 2 ^ nbits))

/-- The native map under which a word is read: map 3, or map 2 for a word that only map 2 decodes. -/
def tableFor (word : InsnWord) : DTable :=
  match decode ⟨.map3, true, 255⟩ word with
  | .ok _ => .map3
  | .trap _ _ => match decode ⟨.map2, true, 255⟩ word with
    | .ok _ => .map2
    | .trap _ _ => .map3

/-- The instruction that the decoder reads from a word of the operation table, under a native map in a
privileged context with every vector register: none where a decode cause is raised. -/
def decodeTableWord (nbits w : Nat) : Option Instr :=
  let word := wordOfBytes (tableBytes nbits w)
  match decode ⟨tableFor word, true, 255⟩ word with
  | .ok i => some i
  | .trap _ _ => none

/-! ## Encoding -/

/-- The word of an instruction (R30, R49, R51); none for an event. -/
def encode : Instr → Option InsnWord
  | .nop a => some (a.word .two 0x000 0)
  | .bra a => some (a.word .ctl 0x001 0)
  | .brx a => some (a.word .ctl 0x002 0)
  | .call a => some (a.word .ctl 0x003 0)
  | .callInd a => some (a.word .ctl 0x003 1)
  | .ret a => some (a.word .ctl 0x004 0)
  | .meet a => some (a.word .ctl 0x005 0)
  | .meetSave a => some (a.word .ctl 0x005 1)
  | .rejoin a => some (a.word .ctl 0x006 0)
  | .rejoinRest a => some (a.word .ctl 0x006 1)
  | .exit a => some (a.word .ctl 0x007 0)
  | .yield a => some (a.word .two 0x008 0)
  | .voteAny a => some (a.word .two 0x009 0)
  | .voteAll a => some (a.word .two 0x009 1)
  | .voteMask a => some (a.word .two 0x009 2)
  | .shflPick a => some (a.word .two 0x00A 0)
  | .shflRot a => some (a.word .two 0x00A 1)
  | .shflSlide a => some (a.word .two 0x00A 2)
  | .shflMir a => some (a.word .two 0x00A 3)
  | .add a => some (a.word .two 0x040 a.mod.enc)
  | .sub a => some (a.word .two 0x041 a.mod.enc)
  | .mulLo a => some (a.word .two 0x042 a.mod.enc)
  | .mulHi a => some (a.word .two 0x043 a.mod.enc)
  | .mad a => some (a.word .three 0x044 a.mod.enc)
  | .madWide a => some (a.word .three 0x045 a.mod.enc)
  | .div a => some (a.word .two 0x046 a.mod.enc)
  | .rem a => some (a.word .two 0x047 a.mod.enc)
  | .min a => some (a.word .two 0x048 a.mod.enc)
  | .max a => some (a.word .two 0x049 a.mod.enc)
  | .abs a => some (a.word .two 0x04A a.mod.enc)
  | .neg a => some (a.word .two 0x04B a.mod.enc)
  | .and a => some (a.word .two 0x04C a.mod.enc)
  | .or a => some (a.word .two 0x04D a.mod.enc)
  | .xor a => some (a.word .two 0x04E a.mod.enc)
  | .not a => some (a.word .two 0x04F a.mod.enc)
  | .shl a => some (a.word .two 0x050 a.mod.enc)
  | .shr a => some (a.word .two 0x051 a.mod.enc)
  | .sar a => some (a.word .two 0x052 a.mod.enc)
  | .rot a => some (a.word .two 0x053 a.mod.enc)
  | .clz a => some (a.word .two 0x054 a.mod.enc)
  | .popc a => some (a.word .two 0x055 a.mod.enc)
  | .brev a => some (a.word .two 0x056 a.mod.enc)
  | .bfx a => some (a.word .two 0x057 a.mod.enc)
  | .bfi a => some (a.word .three 0x058 a.mod.enc)
  | .lea a => some (a.word .two 0x059 a.mod.enc)
  | .setp a => some (a.word .two 0x05A a.mod.enc)
  | .sel a => some (a.word .three 0x05B a.mod.enc)
  | .plop a => some (a.word .three 0x05C a.mod.enc)
  | .mov a => some (a.word .two 0x05D a.mod.enc)
  | .movi a => some (a.word .two 0x05E a.mod.enc)
  | .dp4 a => some (a.word .three 0x05F a.mod.enc)
  | .addImm a => some (a.word .two 0x080 a.mod.enc)
  | .subImm a => some (a.word .two 0x081 a.mod.enc)
  | .mulLoImm a => some (a.word .two 0x082 a.mod.enc)
  | .mulHiImm a => some (a.word .two 0x083 a.mod.enc)
  | .divImm a => some (a.word .two 0x086 a.mod.enc)
  | .remImm a => some (a.word .two 0x087 a.mod.enc)
  | .minImm a => some (a.word .two 0x088 a.mod.enc)
  | .maxImm a => some (a.word .two 0x089 a.mod.enc)
  | .andImm a => some (a.word .two 0x08C a.mod.enc)
  | .orImm a => some (a.word .two 0x08D a.mod.enc)
  | .xorImm a => some (a.word .two 0x08E a.mod.enc)
  | .shlImm a => some (a.word .two 0x090 a.mod.enc)
  | .shrImm a => some (a.word .two 0x091 a.mod.enc)
  | .sarImm a => some (a.word .two 0x092 a.mod.enc)
  | .rotImm a => some (a.word .two 0x093 a.mod.enc)
  | .leaImm a => some (a.word .two 0x099 a.mod.enc)
  | .setpImm a => some (a.word .two 0x09A a.mod.enc)
  | .mulLoMap2 a => some (a.word .two 0x043 a.mod.enc)
  | .mulHiMap2 a => some (a.word .two 0x042 a.mod.enc)
  | .fadd a => some (a.word .two 0x0C0 a.mod.enc)
  | .fsub a => some (a.word .two 0x0C1 a.mod.enc)
  | .fmul a => some (a.word .two 0x0C2 a.mod.enc)
  | .fma a => some (a.word .three 0x0C3 a.mod.enc)
  | .fmin a => some (a.word .two 0x0C4 a.mod.enc)
  | .fmax a => some (a.word .two 0x0C5 a.mod.enc)
  | .fsetp a => some (a.word .two 0x0C6 a.mod.enc)
  | .fclass a => some (a.word .two 0x0C7 a.mod.enc)
  | .frcp a => some (a.word .two 0x0C8 a.mod.enc)
  | .frsq a => some (a.word .two 0x0C9 a.mod.enc)
  | .fsqrt a => some (a.word .two 0x0CA a.mod.enc)
  | .fdiv a => some (a.word .two 0x0CB a.mod.enc)
  | .fexp2 a => some (a.word .two 0x0CC a.mod.enc)
  | .flog2 a => some (a.word .two 0x0CD a.mod.enc)
  | .fsin a => some (a.word .two 0x0CE a.mod.enc)
  | .fcos a => some (a.word .two 0x0CF a.mod.enc)
  | .ftanh a => some (a.word .two 0x0D0 a.mod.enc)
  | .hadd2 a => some (a.word .two 0x0D1 a.mod.enc)
  | .hmul2 a => some (a.word .two 0x0D2 a.mod.enc)
  | .hfma2 a => some (a.word .three 0x0D3 a.mod.enc)
  | .cvt a => some (a.word .two 0x0D4 a.mod.enc)
  | .faddImm a => some (a.word .two 0x100 a.mod.enc)
  | .fsubImm a => some (a.word .two 0x101 a.mod.enc)
  | .fmulImm a => some (a.word .two 0x102 a.mod.enc)
  | .fminImm a => some (a.word .two 0x104 a.mod.enc)
  | .fmaxImm a => some (a.word .two 0x105 a.mod.enc)
  | .fsetpImm a => some (a.word .two 0x106 a.mod.enc)
  | .qblk a => some (a.word .two 0x140 a.mod.enc)
  | .dqblk a => some (a.word .two 0x141 a.mod.enc)
  | .pk4 a => some (a.word .two 0x142 a.mod.enc)
  | .upk4 a => some (a.word .two 0x143 a.mod.enc)
  | .amax a => some (a.word .two 0x144 a.mod.enc)
  | .tld a => some (a.word .mem 0x180 a.mod.enc)
  | .tst a => some (a.word .mem 0x181 a.mod.enc)
  | .tzero a => some (a.word .two 0x182 0)
  | .mma a => some (a.word .two 0x183 a.mod.enc)
  | .mmas a => some (a.word .three 0x184 a.mod.enc)
  | .accz a => some (a.word .two 0x185 0)
  | .accmul a => some (a.word .two 0x186 0)
  | .accrd a => some (a.word .two 0x187 0)
  | .accwr a => some (a.word .two 0x188 0)
  | .accst a => some (a.word .mem 0x189 a.mod.enc)
  | .accdeclRetain a => some (a.word .two 0x18A 0)
  | .accdeclRecompute a => some (a.word .two 0x18A 1)
  | .rstlbl a => some (a.word .ctl 0x18B 0)
  | .lds a => some (a.word .mem 0x200 a.mod.enc)
  | .sts a => some (a.word .mem 0x201 a.mod.enc)
  | .ldg a => some (a.word .mem 0x202 a.mod.enc)
  | .stg a => some (a.word .mem 0x203 a.mod.enc)
  | .ldk a => some (a.word .mem 0x204 a.mod.enc)
  | .stk a => some (a.word .mem 0x205 a.mod.enc)
  | .fence a => some (a.word .two 0x206 a.mod.enc)
  | .crdecl a => some (a.word .two 0x207 a.mod.enc)
  | .crfold a => some (a.word .mem 0x208 a.mod.enc)
  | .cred a => some (a.word .mem 0x209 a.mod.enc)
  | .atomsAdd a => some (a.word .mem 0x210 a.mod.enc)
  | .atomsMin a => some (a.word .mem 0x211 a.mod.enc)
  | .atomsMax a => some (a.word .mem 0x212 a.mod.enc)
  | .atomsAnd a => some (a.word .mem 0x213 a.mod.enc)
  | .atomsOr a => some (a.word .mem 0x214 a.mod.enc)
  | .atomsXor a => some (a.word .mem 0x215 a.mod.enc)
  | .atomsExch a => some (a.word .mem 0x216 a.mod.enc)
  | .atomsCas a => some (a.word .mem 0x217 a.mod.enc)
  | .atomsInc a => some (a.word .mem 0x218 a.mod.enc)
  | .atomsDec a => some (a.word .mem 0x219 a.mod.enc)
  | .atomsFadd a => some (a.word .mem 0x21A a.mod.enc)
  | .atomsFmin a => some (a.word .mem 0x21B a.mod.enc)
  | .atomsFmax a => some (a.word .mem 0x21C a.mod.enc)
  | .atomgAdd a => some (a.word .mem 0x220 a.mod.enc)
  | .atomgMin a => some (a.word .mem 0x221 a.mod.enc)
  | .atomgMax a => some (a.word .mem 0x222 a.mod.enc)
  | .atomgAnd a => some (a.word .mem 0x223 a.mod.enc)
  | .atomgOr a => some (a.word .mem 0x224 a.mod.enc)
  | .atomgXor a => some (a.word .mem 0x225 a.mod.enc)
  | .atomgExch a => some (a.word .mem 0x226 a.mod.enc)
  | .atomgCas a => some (a.word .mem 0x227 a.mod.enc)
  | .atomgInc a => some (a.word .mem 0x228 a.mod.enc)
  | .atomgDec a => some (a.word .mem 0x229 a.mod.enc)
  | .atomgFadd a => some (a.word .mem 0x22A a.mod.enc)
  | .atomgFmin a => some (a.word .mem 0x22B a.mod.enc)
  | .atomgFmax a => some (a.word .mem 0x22C a.mod.enc)
  | .redgAdd a => some (a.word .mem 0x230 a.mod.enc)
  | .redgMin a => some (a.word .mem 0x231 a.mod.enc)
  | .redgMax a => some (a.word .mem 0x232 a.mod.enc)
  | .redgAnd a => some (a.word .mem 0x233 a.mod.enc)
  | .redgOr a => some (a.word .mem 0x234 a.mod.enc)
  | .redgXor a => some (a.word .mem 0x235 a.mod.enc)
  | .redgInc a => some (a.word .mem 0x238 a.mod.enc)
  | .redgDec a => some (a.word .mem 0x239 a.mod.enc)
  | .redgFadd a => some (a.word .mem 0x23A a.mod.enc)
  | .redgFmin a => some (a.word .mem 0x23B a.mod.enc)
  | .redgFmax a => some (a.word .mem 0x23C a.mod.enc)
  | .cpy a => some (a.word .mem 0x280 a.mod.enc)
  | .cpyl a => some (a.word .mem 0x281 a.mod.enc)
  | .cpyw a => some (a.word .mem 0x282 a.mod.enc)
  | .cpyp a => some (a.word .mem 0x283 a.mod.enc)
  | .cpyo a => some (a.word .mem 0x284 a.mod.enc)
  | .cpyxPut a => some (a.word .mem 0x285 a.mod.enc)
  | .cpyxGet a => some (a.word .mem 0x285 a.mod.enc)
  | .twaitAny a => some (a.word .two 0x286 0)
  | .twaitAll a => some (a.word .two 0x287 0)
  | .tfind a => some (a.word .two 0x288 0)
  | .tclr a => some (a.word .two 0x289 0)
  | .bini a => some (a.word .two 0x300 a.mod.enc)
  | .barv a => some (a.word .two 0x301 a.mod.enc)
  | .bexp a => some (a.word .two 0x302 a.mod.enc)
  | .bwait a => some (a.word .two 0x303 a.mod.enc)
  | .btest a => some (a.word .two 0x304 a.mod.enc)
  | .biniMap2 a => some (a.word .two 0x3C0 a.mod.enc)
  | .barvMap2 a => some (a.word .two 0x3C1 a.mod.enc)
  | .bexpMap2 a => some (a.word .two 0x3C2 a.mod.enc)
  | .bwaitMap2 a => some (a.word .two 0x3C3 a.mod.enc)
  | .btestMap2 a => some (a.word .two 0x3C4 a.mod.enc)
  | .rinit a => some (a.word .two 0x305 a.mod.enc)
  | .push a => some (a.word .two 0x306 a.mod.enc)
  | .pop a => some (a.word .two 0x307 a.mod.enc)
  | .forkCopy a => some (a.word .two 0x308 a.mod.enc)
  | .forkMatrix a => some (a.word .two 0x308 a.mod.enc)
  | .forkMap2 a => some (a.word .two 0x3C5 a.mod.enc)
  | .rdvCopy a => some (a.word .two 0x309 a.mod.enc)
  | .rdvMatrix a => some (a.word .two 0x309 a.mod.enc)
  | .rdvMap2 a => some (a.word .two 0x3C6 a.mod.enc)
  | .drainDie a => some (a.word .two 0x30A a.mod.enc)
  | .drainPkg a => some (a.word .two 0x30A a.mod.enc)
  | .drainMap2 a => some (a.word .two 0x3C7 a.mod.enc)
  | .pour a => some (a.word .two 0x340 a.mod.enc)
  | .cwait a => some (a.word .two 0x341 0)
  | .tknxt a => some (a.word .two 0x342 0)
  | .tknxtPooled a => some (a.word .two 0x342 0)
  | .sparm a => some (a.word .two 0x343 0)
  | .prog a => some (a.word .two 0x344 0)
  | .movcr a => some (a.word .two 0x380 a.mod.enc)
  | .movrc a => some (a.word .two 0x381 a.mod.enc)
  | .rdclk a => some (a.word .two 0x382 0)
  | .sysVersion a => some (a.word .two 0x383 0)
  | .sysRecoveryState a => some (a.word .two 0x383 0)
  | .sysSetSideEffect a => some (a.word .two 0x383 0)
  | .sysPourNumber a => some (a.word .two 0x383 0)
  | .trap a => some (a.word .two 0x384 0)
  | .rft a => some (a.word .two 0x385 0)
  | .rftAbort a => some (a.word .two 0x385 0)
  | .asgen a => some (a.word .two 0x386 0)
  | .splint a => some (a.word .two 0x387 0)
  | .tagkill a => some (a.word .two 0x388 0)
  | .dtload a => some (a.word .two 0x389 0)
  | .matrixCommandExecute _ | .copyStart _ _ | .copyLanding _ _ _ | .copyComplete _ _
    | .seamPhaseComplete _ _ | .engineProgramStart _ _ | .engineProgramEnd _ _ | .drainComplete _
    | .tknxtAnswer _ | .splinterComplete _ | .handlerStart _ | .accessResponse _ | .siCombineTimeout _ _
    | .homeRequest _ | .recallOwner _ | .ownerWriteback _ | .seamFence _ | .quiesceDeadline _ | .dieRejoin _
    | .scrubRead _ | .scrubWriteback _ | .leaseExpiry _ _ | .migrationHandover | .migrationForwardingEnd
    | .flaskPlace | .hWaitTimeout _ | .saveComplete _ | .blockRetire _ _ | .fettlerReplayStart _
    | .fettlerSkip _ | .replayEnd _ | .pourRetire _ | .sprueFire _ _ | .fabricIngressRequest _
    | .uCapRelease _ | .keyRolloverDue _ | .keyReady _ | .replayDrained _ | .retireKey _
    | .linkIntegrityFailure _ | .laneLoss _ | .retrainTimeout _ | .doorbell _ _ _ _ | .bar2Access _ _ _ _
    | .launchQueueConfigWrite _ _ _ | .tenantWordWrite _ _ | .contextEntryWrite _ _ | .contextKeyLoaded _
    | .fabcfgWrite _ | .memcfgWrite _ | .linkcfgWrite _ | .contcfgWrite _ | .registerWrite _ _
    | .frameOwner _ _ | .reservedSlots _ | .retireUnit _ _ _ | .preEmpt _ _ _ _ _ _ | .migratePage _ _ _
    | .endpointMap _ _ _ | .releaseHeld _ _ | .powerLimit _ | .mailboxDone | .pfrespServe _ _
    | .pfrespDecline _ _ | .pageFaultEnqueue _ | .lostClear _ | .sparmreq _ _ _ | .spdis _ _
    | .invalidateRequest _ _ | .invalidateCompletion | .getMeasurements _ _ | .boot | .clockThrottle
    | .clockRestore | .postedAccessAnswer _ | .linkRetrained _ | .flitCheckFailure _ | .memoEntryAged _ _
    | .migrationLeaseWaitEnd | .remoteDataCacheClearEnd => none

end Sys2Proof
end

