-- ==== Sys2Proof/Machine/Table.lean ====
section
/-! DEFINITION. Sparse tables as plain data: lists of (key, value) pairs in rising order of their keys, and
the memory of bytes in canonical form. -/

namespace Sys2Proof

/-- A finite map from numbers. -/
abbrev Table (α : Type) := List (Nat × α)

namespace Table

/-- The value under a key, if one is listed. -/
def get? {α : Type} : Table α → Nat → Option α
  | [], _ => none
  | (k, v) :: r, n => if k = n then some v else get? r n

/-- The value under a key, or a default. -/
def get {α : Type} (t : Table α) (n : Nat) (d : α) : α := (get? t n).getD d

/-- The table with a value put under a key. -/
def put {α : Type} : Table α → Nat → α → Table α
  | [], n, x => [(n, x)]
  | (k, v) :: r, n, x => if k < n then (k, v) :: put r n x else if k = n then (n, x) :: r else (n, x) :: (k, v) :: r

/-- The table without a key. -/
def erase {α : Type} : Table α → Nat → Table α
  | [], _ => []
  | (k, v) :: r, n => if k = n then erase r n else (k, v) :: erase r n

/-- Whether a key is listed. -/
def has {α : Type} (t : Table α) (n : Nat) : Bool := (get? t n).isSome

/-- The keys are strictly rising and all at least a bound. -/
def sortedFrom {α : Type} : Nat → Table α → Bool
  | _, [] => true
  | lo, (k, _) :: r => decide (lo ≤ k) && sortedFrom (k + 1) r

end Table

/-- Memory as bytes by address: canonical, so that an address not listed reads as 0 (R301) and no listed
byte is 0. -/
abbrev Memory := Table Byte

/-- One byte. -/
def Memory.read (m : Memory) (a : Nat) : Byte := Table.get m a 0

/-- One byte written: a zero leaves the list. -/
def Memory.write (m : Memory) (a : Nat) (b : Byte) : Memory := if b = 0 then Table.erase m a else Table.put m a b

/-- Consecutive bytes from an address. -/
def Memory.readBytes (m : Memory) (a n : Nat) : List Byte := (List.range n).map fun k => Memory.read m (a + k)

/-- Consecutive bytes written from an address. -/
def Memory.writeBytes (m : Memory) (a : Nat) : List Byte → Memory
  | [] => m
  | b :: r => Memory.writeBytes (Memory.write m a b) (a + 1) r

/-- The canonical form: strictly rising addresses and no zero byte. -/
def Memory.wf (m : Memory) : Bool := Table.sortedFrom 0 m && m.all fun c => c.2 != 0

/-- The number that bytes denote, the lowest address first (R5). -/
def leNat : List Byte → Nat
  | [] => 0
  | b :: r => b.toNat + 256 * leNat r

/-- The n bytes of a number, the lowest first (R5). -/
def leBytes (n x : Nat) : List Byte := (List.range n).map fun k => BitVec.ofNat 8 (x / 256 ^ k)

end Sys2Proof
end

