-- ==== Sys2Proof/Machine/Squad.lean ====
section
/-! DEFINITION. The state of a squad, a block and a flask (R19, R59, R62, R227, R247, R256, R321, R322):
plain data. -/

namespace Sys2Proof.Machine

open Sys2Proof

/-- The register file of a squad (R59): v by register × 32 + lane, the lanes in which a v register is
empty, s, the empty s registers, and the predicates p0 to p6. -/
structure RegFile where
  v : Table Word := []
  vE : Table Lanes := []
  s : Table Word := []
  sE : BitVec 64 := 0
  p : Table Word := []
  deriving DecidableEq, Repr

/-- The run state of a sub-group (R227, R230, R231, R233): running, held at a meeting, held at a rejoin, or
parked on page faults, each with the lanes that touch its page; `declined` holds by page the lanes whose fault
system software has declined, and `fetch` says that an instruction fetch parked. -/
inductive GKind where
  | running
  | meet
  | rejoin
  | parked (faults : List (Nat × Lanes)) (declined : Table Lanes) (fetch : Bool)
  deriving DecidableEq, Repr

/-- A sub-group (R228): its lanes, its PC, when it last issued, the lanes in which the instruction at its
PC is already done (R321, R324) and, by page, those whose page fault system software declined (R233), the phases that
its lanes await at a `bwait` (R252), and the meeting addresses that held lanes take after a `rejoin.rest`
(R238). -/
structure Group where
  lanes : Lanes
  pc : Pc
  kind : GKind := .running
  issued : Nat := 0
  done : Lanes := 0
  declined : Table Lanes := []
  await : Table Word := []
  rest : List (Nat × Pc) := []
  deriving DecidableEq, Repr

/-- The control state of a squad (R227, R228): its sub-groups, the meeting registers that are not NONE, and
the companion sets that are not empty. -/
structure Ctl where
  groups : List Group := []
  mr : Table Pc := []
  aw : Table Lanes := []
  deriving DecidableEq, Repr

/-- The kind of a logged register (R321): a tile is logged by the `tld` that writes it. -/
inductive RegKind where
  | v | s | p | t
  deriving DecidableEq, Repr

/-- One logged register write (R321): the lanes written and the value that each lane held before. -/
structure LogEntry where
  seq : Nat
  kind : RegKind
  reg : Nat
  lanes : Lanes
  old : List Word
  deriving DecidableEq, Repr

/-- An open returning access (R321): its sequence number, PC and the control state before it issued, with
its sub-group's position and the lanes that make it; its destination, its width in bytes and whether it is sign-extended; the
bytes received by lane × 32 + offset; the lanes not yet answered, those performed, those refused, and the sub-group of
those that parked at it; every lane of the instruction; the cause, sub-code and
lane of an abort (R324); and whether it is an acquire, and one that raises the view (R160). -/
structure OpenAcc where
  id : Nat
  seq : Nat
  pc : Pc
  ctl : Ctl
  lanes : Lanes
  d : Opnd
  size : Nat
  sx : Bool := false
  got : Table Byte := []
  left : Lanes
  good : Lanes := 0
  bad : Lanes := 0
  park : Option Group := none
  all : Lanes := 0
  cause : Option (Nat × Nat) := none
  acq : Bool := false
  raises : Bool := false
  deriving DecidableEq, Repr

/-- One line of the stack cache (R196): its key, its bytes, and whether it differs from its backing. -/
structure StackLine where
  key : Nat
  bytes : List Byte
  dirty : Bool
  deriving DecidableEq, Repr

/-- A posted instruction with lanes not yet answered (R322), whether a handler made it, and the lowest
aborted lane with its cause and sub-code; a stack spill that waits for the page fault of its page (R376) holds
its line. -/
structure PostedInst where
  id : Nat
  left : Lanes
  byHandler : Bool := false
  cause : Option (Nat × Nat × Nat) := none
  spill : Option (Nat × StackLine) := none
  deriving DecidableEq, Repr

/-- A combined `.si` store of a thread (R171): its number, the line and the virtual address of its first byte,
the bytes held by offset in the line, its deadline, and the posted instructions that it carries out. -/
structure Combine where
  id : Nat
  lane : Nat
  line : Nat
  va : Nat
  bytes : Table Byte
  deadline : Nat
  insts : List Nat := []
  deriving DecidableEq, Repr

/-- A program forked and not yet joined (R258): the engine and its number at the sequencer. -/
structure ForkRef where
  eng : Engine
  prog : Nat
  deriving DecidableEq, Repr

/-- A drain at which a squad waits (R261): whether its scope is the package, the cycle since which its group
has been idle, and whether that has lasted long enough. -/
structure DrainWait where
  pkg : Bool
  since : Option Nat := none
  done : Bool := false
  deriving DecidableEq, Repr

/-- A squad (R19). `stopped` holds a squad that was not ready when its block halted (R319), `log` and `opens` are the
checkpoint of R321, `deferred` and `lost` the held causes of R322, `aph` the unconsumed arrivals of R247 by barrier ×
32 + lane, `turn` the next entry of the replay record (R279), `waitsAt` the sub-group whose instruction makes the
whole squad wait (R257, R258, R260, R261, R274), `cwaits` the pour that it awaits in a `cwait` (R275), `forks` the
programs not yet joined, `combine` the combined stores, `seq` the number of its next instruction, `issued` when it
last issued (R229), `ceded` the lanes of the sub-group that ceded its next issue (R40, R240), `spaceUntil` the end of
a SPACE gap (R40), `stack` its stack cache with the words of it that have been `written` to memory (R196), and `kept` the
lines that an audit's replay has spilled, in place of writes to memory (R355). -/
structure Squad where
  rf : RegFile := {}
  ctl : Ctl := {}
  cause : Word := 0
  trapPc : Pc := 0
  trapLanes : Lanes := 0
  skid : BitVec 4 := 0
  stopped : Bool := false
  seq : Nat := 0
  opens : List OpenAcc := []
  log : List LogEntry := []
  posted : List PostedInst := []
  deferred : List Word := []
  lost : Bool := false
  combine : List Combine := []
  aph : Table Word := []
  turn : Nat := 0
  forks : List ForkRef := []
  drain : Option DrainWait := none
  cwaits : Option Nat := none
  waitsAt : Option (Pc × Lanes) := none
  issued : Nat := 0
  ceded : Lanes := 0
  spaceUntil : Nat := 0
  stack : List StackLine := []
  written : List Nat := []
  kept : List StackLine := []
  deriving DecidableEq, Repr

/-- The state of a copy tag (R204). -/
inductive TagState where
  | idle | busy | done
  deriving DecidableEq, Repr

/-- A copy tag of a block (R204): its state, status code and count of operations. -/
structure Tag where
  st : TagState := .idle
  status : Nat := 0
  count : Nat := 0
  deriving DecidableEq, Repr

/-- One instance of a barrier (R247): thread sets by squad × 32 + lane, and completed phases modulo 2^32. `localMet`,
`second` and `due` belong to a straddling flask (R254): whether the local phase of the die is complete, whether the
flask's phase in progress is the second of its event, and the events that came while the seam phase was due. `cb` is below 0 only where
a `bexp` came in that time (log entry 33). -/
structure Bar where
  enr : BitVec 1024 := 0
  eb0 : Nat := 0
  eb : Nat := 0
  cb : Int := 0
  arr0 : BitVec 1024 := 0
  arr1 : BitVec 1024 := 0
  ph : Word := 0
  localMet : Bool := false
  second : Bool := false
  due : Nat := 0
  deriving DecidableEq, Repr

/-- The handler squad of a block (R326): the squad it serves and that squad's kept control state, its entry
and code segment. -/
structure Handler where
  sq : Nat
  kept : Ctl
  entry : Pc
  codeLo : Nat
  codeHi : Nat
  deriving DecidableEq, Repr

/-- A block (R19, R62): its flask and index, its place, and the block-held control registers, copy tags and
barriers, its PROG (R276), whether it is halted (R319), whether the halt is of this turn, by what handler, and whether
it has retired (R222). `deferred` and `lost` are the held causes of the posted accesses of its handler squad (R322, R328),
and `accRc` holds a bit for each accumulator under `recompute` (R138). -/
structure Block where
  flask : Nat
  idx : Nat
  half : Nat := 0
  slot : Nat := 0
  tshape : Table Word := []
  skew : Table Word := []
  stklim : Word := 0
  rstpc : Pc := 0
  tags : Table Tag := []
  bars : Table Bar := []
  accRc : BitVec 8 := 0
  progress : Nat := 0
  halted : Bool := false
  halting : Bool := false
  handler : Option Handler := none
  deferred : List Word := []
  lost : Bool := false
  retired : Bool := false
  deriving DecidableEq, Repr

/-- A pop that waits at a runner (R257): block, squad and destination s register. -/
structure PopReq where
  bid : Nat
  sq : Nat
  reg : Nat
  deriving DecidableEq, Repr

/-- A runner (R256): its ring once initialised, as block index × 2^19 + offset, its allowance, count, head and tail, the
waiting pops, the squads whose push waits, and the stages of its last push and pop (R283). -/
structure Runner where
  ring : Option Nat := none
  allow : Nat := 0
  n : Nat := 0
  head : Nat := 0
  tail : Nat := 0
  waiting : List PopReq := []
  pushers : List Nat := []
  pushStage : Option Nat := none
  popStage : Option Nat := none
  deriving DecidableEq, Repr

/-- The kinds of recorded instruction (R279). -/
inductive ReplayKind where
  | pour (que : Nat)
  | sparm
  | cwait
  | tknxt (ws : Nat)
  deriving DecidableEq, Repr

/-- One recorded result (R279). -/
structure ReplayRec where
  kind : ReplayKind
  val : Word
  deriving DecidableEq, Repr

/-- Where a flask stands (R270, R286, R344): resident, being saved, saved, waiting to run again, retired, or
reported to its tenant. -/
inductive FlaskStatus where
  | resident | saving | saved | again | retired | reported
  deriving DecidableEq, Repr

/-- Which run of a flask this is (R354): the first, the fettler's replay, or its third run. -/
inductive RunKind where
  | first | replay | third
  deriving DecidableEq, Repr

/-- A flask (R10, R22): its pour and index, its blocks in order of block index with the die of block 0, and its view
generation; the side-effect bit and the kill count (R343); its runners; the replay record by (block × 32 + squad) ×
2^32 + place (R279); the signatures of its stores by block (R353); the number and the slots of each range it
contributed to (R152); whether system software holds it back (R375); the stamp of its placement and that of its wait
among the returning flasks (R270); whether it is only drained (R286); the pour whose retirement lets it resume (R275);
whether an audit of it is awaited (R354); the cores it has run on; the core of each block at its last placement; and the stamp of its last return to
slots, since when its loads are served from remote-data caches only by entries filled on its present dies (R178, log entry
126). -/
structure Flask where
  pour : Nat
  idx : Nat
  run : RunKind := .first
  status : FlaskStatus := .resident
  blocks : List Nat := []
  home : Nat := 0
  straddle : Bool := false
  viewGen : Nat := 0
  side : Bool := false
  relaunches : Nat := 0
  runners : Table Runner := []
  replay : Table ReplayRec := []
  resumeAfter : Option Nat := none
  sigs : Table DWord := []
  creds : List (Nat × Nat) := []
  placedAt : Nat := 0
  waitFrom : Nat := 0
  drainOnly : Bool := false
  hold : Bool := false
  chosen : Bool := false
  cores : List Nat := []
  sites : List Nat := []
  movedAt : Nat := 0
  deriving DecidableEq, Repr

end Sys2Proof.Machine
end

