-- ==== Sys2Proof/Machine/MemState.lean ====
section
/-! DEFINITION. The state of the memory system (R171 to R185, R302 to R313): translations, requests on
their way to a home, owner records and buffers, remote-data caches, memos and commutative ranges. -/

namespace Sys2Proof.Machine

open Sys2Proof

/-- The fields of a leaf that an access uses (R303). -/
structure Leaf where
  kind : Nat := 0
  uco : Bool := false
  prv : Bool := false
  x : Bool := false
  w : Bool := false
  r : Bool := false
  addr : Nat := 0
  deriving DecidableEq, Repr

/-- An entry of a core's TLB (R308), or, with `expires`, of an engine or ingress lease cache (R310). `gen`
is the address-space generation at the start of the walk; `ats` holds the 64 KiB host pages whose ATS translation the
entry holds (R362). -/
structure TlbEntry where
  tag : Nat
  gen : Nat := 0
  base : Nat
  size : Nat
  leaf : Leaf
  expires : Nat := 0
  ats : List Nat := []
  deriving DecidableEq, Repr

/-- The operations of R50 and R146. -/
inductive AtomOp where
  | add | min | max | and | or | xor | exch | cas | inc | dec | fadd | fmin | fmax
  deriving DecidableEq, Repr

/-- What a request asks of its home (R174): `owned` marks an `.ow` load or store that asks for the words. -/
inductive ReqOp where
  | load (owned : Bool)
  | store (owned : Bool)
  | atom (op : AtomOp) (ret : Bool)
  | cred
  | crfold
  deriving DecidableEq, Repr

/-- Where a request goes (R303): device memory, host memory over PCIe, or a fabric peer. -/
inductive Target where
  | device
  | host
  | peer (ep ptag cls : Nat)
  deriving DecidableEq, Repr

/-- The part of one lane's access that lies in one line: lane, byte offset in the access, virtual address and
address at the target, number of bytes, the bytes stored or the operand, and the value compared. -/
structure Piece where
  lane : Nat
  ofs : Nat
  va : Nat
  addr : Nat
  n : Nat
  data : List Byte := []
  cmp : Nat := 0
  deriving DecidableEq, Repr

/-- Where a request stands: on its way, held at its home (R174), performed, or lost on its way, so that an
abort completion answers it (R338, R340, R348). -/
inductive ReqStatus where
  | sent | held | performed | lost
  deriving DecidableEq, Repr

/-- A request to a home (R174): who made it, which instruction, the type, and the pieces of its lanes in one
64-byte line, in ascending lane order. `arrived` numbers the arrival of a request that its home holds; `acq`,
`rel` and `sc` are its ordering, and `raises` says that its acquire raises the view (R160); `sx` extends a
load; `ident` and `epoch` are the identity of R183 and `tries` its retries; `results` are the bytes that go
back by lane and offset, and `bad` the lanes refused with their cause and sub-code. A combined store (`comb`,
R171) belongs to the instructions in `also` as well. `left` is the device generation when a fill request left its
cache (R179), `stamp` the stamp of an `.sc` access (R166), and `port` the fabric port through which a request to a peer
has left (R368). -/
structure Req where
  bid : Nat
  sq : Nat
  flask : Nat
  tag : Nat
  inst : Nat
  rq : Rq := .uc
  op : ReqOp
  target : Target := .device
  line : Nat
  pieces : List Piece
  status : ReqStatus := .sent
  arrived : Nat := 0
  results : List (Nat × Nat × List Byte) := []
  bad : List (Nat × Nat × Nat) := []
  acq : Bool := false
  rel : Bool := false
  sc : Bool := false
  raises : Bool := false
  ident : Nat := 0
  epoch : Nat := 0
  tries : Nat := 0
  comb : Bool := false
  also : List Nat := []
  left : Option Nat := none
  stamp : DWord := 0
  port : Option Nat := none
  deriving DecidableEq, Repr

/-- An owner record of a home (R173): the owned words of a line, their owner, and the words whose recall is
pending. -/
structure OwnerRec where
  words : BitVec 16
  bid : Nat
  tag : Nat
  pending : BitVec 16 := 0
  deriving DecidableEq, Repr

/-- A line of an owner buffer (R173). -/
structure OwnerLine where
  line : Nat
  bid : Nat
  tag : Nat
  words : BitVec 16
  bytes : List Byte
  deriving DecidableEq, Repr

/-- Owned words of a block on their way back to the home (R176). -/
structure WriteBack where
  line : Nat
  bid : Nat
  words : BitVec 16
  bytes : List Byte
  deriving DecidableEq, Repr

/-- A remote-data cache entry (R178): the words that the home `held` at its fill, neither owned nor damaged; and the
stamp of its fill. -/
structure RdcEntry where
  bytes : List Byte
  tag : Nat
  fgen : Nat
  held : BitVec 16 := 0xFFFF
  filled : Nat := 0
  valid : Bool := true
  deriving DecidableEq, Repr

/-- The formats of a commutative range (R149). -/
inductive RangeFmt where
  | f32 | bf16 | i32
  deriving DecidableEq, Repr

/-- A commutative range (R149, R198): a number that no other declaration has, its context, home and shadow bases, the device addresses of the 64 KiB pages that the
two areas touch as they were when it was declared, length, contributor slots, format, and the pour whose
retirement ends it. The bases are virtual addresses of the context. -/
structure Range where
  id : Nat := 0
  tag : Nat := 0
  home : Nat
  shadow : Nat
  homeMap : List Nat
  shadowMap : List Nat
  len : Nat
  slots : Nat
  fmt : RangeFmt
  pour : Nat
  deriving DecidableEq, Repr

/-- A memo of a returning atomic (R183): who asked, at which home slice or peer, under which identity, by which
instruction, for which line, the result, and the lanes refused. -/
structure Memo where
  core : Nat
  home : Nat
  ident : Nat
  inst : Nat
  line : Nat
  result : List (Nat × Nat × List Byte)
  bad : List (Nat × Nat × Nat) := []
  deriving DecidableEq, Repr

/-- A memo of a peer's atomic at the fabric ingress (R183): who asked, under which identity, the result, and
since when. -/
structure PeerMemo where
  peer : Nat
  ident : Nat
  result : DWord
  since : Nat
  deriving DecidableEq, Repr

/-- One lane of a pooled atomic on its way (R197): the lane, the block and offset of its word, its operand and
the value compared. -/
structure PoolPiece where
  lane : Nat
  bid : Nat
  ofs : Nat
  data : Nat
  cmp : Nat
  deriving DecidableEq, Repr

/-- A pooled atomic that is not yet performed (R36, R197): its number, block and squad, the operation, size and
placement, its destination and lanes, and its ordering. -/
structure PoolAtom where
  id : Nat
  bid : Nat
  sq : Nat
  op : AtomOp
  n : Nat
  skew : Bool
  d : Opnd
  pieces : List PoolPiece
  acq : Bool := false
  raises : Bool := false
  sc : Bool := false
  deriving DecidableEq, Repr

/-- A page fault (R376): the context, the page's address, KIND, SRC, how many accesses are attached, and which
of the 64 slots of its tenant's queue it holds; none where it waits for one. -/
structure PageFault where
  tag : Nat
  va : Nat
  kind : Nat
  src : Nat
  count : Nat := 1
  slot : Option Nat := none
  deriving DecidableEq, Repr

end Sys2Proof.Machine
end

