-- ==== Sys2Proof/Machine/LaunchState.lean ====
section
/-! DEFINITION. The state of launches and of isolation: kernel records, launch records, queues, sprues,
contexts and tenants (R58, R265 to R282, R296 to R307, R325, R376). -/

namespace Sys2Proof.Machine

open Sys2Proof

/-- An accepted kernel record with its image's map and code segment (R58). -/
structure Kernel where
  entry : Nat := 0
  codeLo : Nat := 0
  codeHi : Nat := 0
  map : Nat := 3
  flask : Nat := 1
  stages : Nat := 1
  regs : Nat := 32
  idem : Bool := false
  audit : Bool := false
  tiles : Nat := 0
  accs : Nat := 0
  tags : Nat := 0
  bars : Nat := 0
  runners : Nat := 0
  accRc : BitVec 8 := 0
  squads : List Nat := [1]
  shared : Nat := 0
  bscope : BitVec 96 := 0
  depths : List Nat := []
  deriving DecidableEq, Repr

/-- A launch descriptor (R267). -/
structure Desc where
  kimg : Nat := 0
  prm : Nat := 0
  dseg : Nat := 0
  stkb : Nat := 0
  stksz : Nat := 0
  gx : Nat := 1
  gy : Nat := 1
  gz : Nat := 1
  drgrp : Nat := 0
  immut : Bool := false
  usersv : Bool := false
  ws : List (Nat × Nat) := []
  deriving DecidableEq, Repr

/-- A launch record (R269): the pour, its table and class, the counters of its work sets, how many flasks
have been placed for the first time and how many have ended, its final status so far, and the cycle of its
acceptance; `code` holds the code words that were readable in device memory at its acceptance, by address (R58). -/
structure Pour where
  tag : Nat := 0
  num : Nat := 0
  que : Nat := 0
  cls : Nat := 2
  desc : Desc := {}
  kern : Kernel := {}
  table : DTable := .map3
  counters : List Nat := [0, 0, 0, 0]
  placed : Nat := 0
  ended : Nat := 0
  status : Nat := 0
  since : Nat := 0
  code : Table InsnWord := []
  deriving DecidableEq, Repr

/-- A launch queue: its configuration block (R265), the accepted pours in it and in its overflow ring. -/
structure Queue where
  en : Bool := false
  cls : Nat := 2
  depthM1 : Nat := 0
  mask : BitVec 240 := 0
  ovfBase : Nat := 0
  ovfQuota : Nat := 0
  entries : List Nat := []
  overflow : List Nat := []
  deriving DecidableEq, Repr

/-- The states of a sprue (R282). -/
inductive SprueState where
  | armed (b : Nat)
  | busy
  | spent
  | fault
  deriving DecidableEq, Repr

/-- A sprue (R280): its context and descriptor, state, count, whether the doorbell granule of the armed
buffer was written, and the last pour fired for each buffer. -/
structure Sprue where
  tag : Nat
  ldesc : Nat
  buf0 : Nat
  buf1 : Nat
  len : Nat
  trig : Nat
  msg : Bool
  rearm : Bool
  que : Nat
  st : SprueState := .armed 0
  count : Nat := 0
  bell : Bool := false
  fired : List (Nat × Nat) := []
  deriving DecidableEq, Repr

/-- An outbound window (R306). -/
structure OutWindow where
  en : Bool := false
  ep : Nat := 0
  ptag : Nat := 0
  npgm1 : Nat := 0
  pbase : Nat := 0
  deriving DecidableEq, Repr

/-- An inbound window (R307). -/
structure InWindow where
  en : Bool := false
  r : Bool := false
  w : Bool := false
  a : Bool := false
  dtag : Nat := 0
  ephi : Nat := 0
  eplo : Nat := 0
  deriving DecidableEq, Repr

/-- A context: its entry (R297), generation (R309), decode-table slots and selection (R45, R66), audit
fraction, handler entry (R325), the pour numbers given and the table of retired pours (R269), its
commutative ranges (R198), and the frames that it owned when it was ended and that have not been reassigned (R314).
`loading` holds while its key is not yet loaded (R373). A slot that `tables` does not name is empty: every entry of it has
the reset value of R45. -/
structure Context where
  en : Bool := false
  priv : Bool := false
  tenant : Nat := 0
  root : Nat := 0
  loading : Bool := false
  asgen : Word := 0
  tables : Table DTable := []
  dtsel : Nat := 0
  audfrac : Nat := 0
  hentry : Nat := 0
  lastNum : Nat := 0
  wrapped : Bool := false
  retired : List (Nat × Nat) := []
  ranges : List Range := []
  stale : List Nat := []
  deriving DecidableEq, Repr

/-- A tenant: its configuration word (R296), queues, windows, sprues, page-fault queue, the save areas it
holds, and the words its host interface reads back (R365, R378). -/
structure Tenant where
  en : Bool := false
  urt : Bool := false
  nwin : Nat := 0
  ninb : Nat := 0
  nvec : Nat := 0
  nq : Nat := 0
  nsave : Nat := 0
  queues : Table Queue := []
  windows : Table OutWindow := []
  inbound : Table InWindow := []
  sprues : Table Sprue := []
  faults : Table PageFault := []
  aperture : Nat := 0
  results : Table Word := []
  spRes : Word := 0
  spdisRes : Word := 0
  saves : Nat := 0
  deriving DecidableEq, Repr

end Sys2Proof.Machine
end

