-- ==== Sys2Proof/Machine/EngineState.lean ====
section
/-! DEFINITION. The state of a core's engines: the matrix queue, the copy queues and CRC chains, the
sequencers, and what else a core holds (R17, R118, R203, R224, R258). -/

namespace Sys2Proof.Machine

open Sys2Proof

/-- A matrix command with the shapes in force at its issue (R118, R121). Pooled addresses are those of row
0; scales are the 32 lanes of the scale register with X and Y. -/
inductive MatOp where
  | tld (t addr pitch : Nat) (skew : Bool) (shape : Word)
  | tst (t addr pitch : Nat) (skew : Bool) (shape : Word)
  | tzero (t : Nat)
  | mma (acc ta tb : Nat) (fmt : Fmt) (trb : Bool) (sa sb : Word) (scales : Option (List Word × Nat × Nat))
  | accz (acc : Nat)
  | accmul (acc : Nat) (factor : Word)
  | accrd (acc row sq reg : Nat) (lanes : Lanes)
  | accwr (acc row : Nat) (lanes : Lanes) (vals : List Word)
  | accst (acc addr pitch : Nat) (skew : Bool) (fmt : Fmt)
  | accdecl (acc : Nat) (recompute : Bool)
  deriving DecidableEq, Repr

/-- A queued matrix command: its block, the squad that issued it with the number of the instruction, and the
engine program it comes from. A `tld`, `tst` or `accst` of a squad is an access of that squad (R129). -/
structure MatCmd where
  bid : Nat
  op : MatOp
  by' : Option (Nat × Nat) := none
  prog : Option Nat := none
  deriving DecidableEq, Repr

/-- Whether a command is an access of a squad to pooled space (R129). -/
def MatCmd.owned (m : MatCmd) (bid sq : Nat) : Bool :=
  m.bid == bid && m.by'.any (·.1 == sq) && (match m.op with
    | .tld _ _ _ _ _ | .tst _ _ _ _ _ | .accst _ _ _ _ _ => true
    | _ => false)

/-- The kinds of copy (R205, R215). -/
inductive CopyKind where
  | cpy | cpyl | cpyw | cpyp | cpyo | put | get
  deriving DecidableEq, Repr

/-- One lane of a `cpyl` (R212): source address, valid bytes, pooled destination. -/
structure LaneCopy where
  src : Nat
  n : Nat
  dst : Nat
  deriving DecidableEq, Repr

/-- A copy command (R203 to R218): the issuing block and its tag, queue and kind, the descriptor's fields,
the lanes of a `cpyl`, CRC phase and control, the follow-on, the number of its granules, its place in the order of its
queue, and how far it has come. `moved` holds the
granules moved, and `raw` the global-side bytes, by row × 2^17 + offset, that a CRC or later granules of an encoded block
need; a `status` that is not 0 has ended it early; `held` is a page fault that it waits for. -/
structure CopyCmd where
  bid : Nat
  sq : Nat
  flask : Nat
  ctx : Nat
  tag : Nat
  que : Nat
  kind : CopyKind
  fmc : Fmc := .plain
  gaddr : Nat := 0
  len0 : Nat := 1
  ext : List Nat := [1, 1, 1, 1]
  strides : List Int := [0, 0, 0, 0]
  paddr : Nat := 0
  ctl : Word := 0
  ppitch : Nat := 0
  win : List Word := []
  lanes : List LaneCopy := []
  crc : Option Word := none
  expect : Word := 0
  chain : Nat := 0
  follow : Option MatOp := none
  prog : Option Nat := none
  viewGen : Nat := 0
  uclass : Bool := false
  count : Nat := 0
  order : Nat := 0
  started : Bool := false
  moved : List Nat := []
  raw : Table (List Byte) := []
  status : Nat := 0
  held : Option Nat := none
  deriving DecidableEq, Repr

/-- A CRC chain (R224): its commands in the order in which they entered, the global-side bytes and the
status of those that have moved, and whether it is closed. -/
structure Chain where
  cmds : List Nat := []
  data : Table (List Byte) := []
  bad : Nat := 0
  closer : Option Nat := none
  deriving DecidableEq, Repr

/-- An engine program (R258): its squad, next PC, instructions left, the index of the next, the s registers
and the cycle at the fork, whether it has begun, how it ended, and the page fault of its code that it waits
for. -/
structure Prog where
  eng : Engine
  core : Nat
  bid : Nat
  sq : Nat
  pc : Nat
  left : Nat
  idx : Nat := 0
  s : Table Word := []
  clock : Nat := 0
  begun : Bool := false
  ended : Bool := false
  fault : Option Nat := none
  waits : Option Nat := none
  deriving DecidableEq, Repr

/-- A core (R17): the matrix queue, the commands of the four copy queues, the queue served last (R203), the open chain
of each queue × 2 + block slot, translations, the owner buffer, the sequence number of its atomics (R183), its pooled
atomics that are not yet performed (R197), its stamp counter (R166), and whether its slot 1 is reserved (R271) or it
is retired (R360). -/
structure Core where
  mq : List MatCmd := []
  copies : Table CopyCmd := []
  served : Nat := 3
  openChain : Table Nat := []
  tlb : List TlbEntry := []
  leases : List TlbEntry := []
  owner : List OwnerLine := []
  atomSeq : Nat := 0
  atoms : List PoolAtom := []
  stamp : DWord := 0
  reserved : Bool := false
  retired : Bool := false
  deriving DecidableEq, Repr

end Sys2Proof.Machine
end

