-- ==== Sys2Proof/Machine/DeviceState.lean ====
section
/-! DEFINITION. The state of the device outside cores and contexts: error records and logs, dies and their
scrubbers, fabric links, splinters, migrations, the mailbox and the configuration registers (R312, R315,
R339, R347 to R352, R363 to R378). -/

namespace Sys2Proof.Machine

open Sys2Proof

/-- An error record (R339). -/
structure ErrRec where
  ue : Bool := false
  act : Nat := 0
  tag : Nat := 0
  struct : Nat := 0
  die : Nat := 0
  loc : Nat := 0
  flask : Nat := 0
  pour : Nat := 0
  cause : Word := 0
  addr : Nat := 0
  deriving DecidableEq, Repr

/-- A log ring (R339, R377): its entries, the next slot and the count of records lost. -/
structure ErrLog where
  recs : Table ErrRec := []
  next : Nat := 0
  lost : Word := 0
  deriving DecidableEq, Repr

/-- A link-loss entry (R377). -/
structure LossRec where
  time : Nat
  count : Nat
  cls : Nat
  ep : Nat
  deriving DecidableEq, Repr

/-- A link-loss log (R377): a ring of 64 entries and the next slot. -/
structure LossLog where
  recs : Table LossRec := []
  next : Nat := 0
  deriving DecidableEq, Repr

/-- The states of a die (R347, R352, R370): held until the boot releases it; and those of a running device, `reset` being
step 5 of R347. -/
inductive DiePhase where
  | held | reset | running | quiescing | fenced | rejoining
  deriving DecidableEq, Repr

/-- A compute die: its phase, the cycle at which its counters read 0 (R69), its reset epoch (R183), the
quiesce deadline, its remote-data cache by line (R178), the end of a clear (R180), and its scrubber: the next
line and the queued write-backs by sector (R350, R351). -/
structure Die where
  phase : DiePhase := .held
  clkBase : Nat := 0
  epoch : Nat := 0
  deadline : Nat := 0
  rdc : Table RdcEntry := []
  clearing : Bool := false
  clearEnd : Nat := 0
  scrub : Nat := 0
  scrubQ : List Nat := []
  deriving DecidableEq, Repr

/-- The states of a link's sender (R315). -/
inductive KeyState where
  | steady (i : Bool) | wait (i : Bool) | drain (i : Bool)
  deriving DecidableEq, Repr

/-- Whether a link carries traffic (R369), or its port has been retired (R352). -/
inductive LinkPhase where
  | down | up | retraining | failed | retired
  deriving DecidableEq, Repr

/-- A fabric port (R185, R315, R367, R369): phase, when it began to retrain, the sender's key state, which key
indices the receiver holds, the flits under the present key and since when, the rollover limits in force, the
key indices of the flits in the replay buffer, oldest first, and the class-U messages of the last 10 µs (time,
bytes). Its times are of `Ctrl.time`. -/
structure Link where
  phase : LinkPhase := .down
  since : Nat := 0
  key : KeyState := .steady false
  recv : Bool × Bool := (true, false)
  flits : Nat := 0
  keySince : Nat := 0
  limLog : Nat := 36
  limSec : Nat := 3600
  replay : List Bool := []
  uLog : List (Nat × Nat) := []
  deriving DecidableEq, Repr

/-- A splinter in progress (R312, R335): its block, unless that has been killed, its core and tag, the target context,
address and node, the leaf's entry and the value read there until the compare-and-swap is made, its status and the time
at which the longest lease has passed. -/
structure Splinter where
  bid : Option Nat
  core : Nat
  ctag : Nat
  tag : Nat
  va : Nat
  node : Nat
  swap : Option (Nat × Nat) := none
  status : Nat
  until' : Nat
  deriving DecidableEq, Repr

/-- The steps of a page migration (R181): the page is marked and the lease wait runs, its owned words are being
recalled, its lines have been handed over and the second lease wait runs, and the drain that ends forwarding. -/
inductive MigStep where
  | marked | recalled | switched | forwarding
  deriving DecidableEq, Repr

/-- A page migration (R181): context, page, old and new frame, step, the end of its lease wait, and, in the drain that
ends forwarding, since which cycle its drain has been idle. -/
structure Migration where
  tag : Nat
  va : Nat
  old : Nat
  new : Nat
  step : MigStep := .marked
  until' : Nat := 0
  since : Option Nat := none
  deriving DecidableEq, Repr

/-- A mailbox command in progress (R375): its result; for a pre-emption, the flasks that it still waits for, those of
them that it has yet to act on, the action and the deadline; and whether it waits for a migration. -/
structure MailCmd where
  result : Nat := 0
  flasks : List Nat := []
  todo : List Nat := []
  action : Nat := 0
  deadline : Nat := 0
  hold : Bool := false
  migrating : Bool := false
  deriving DecidableEq, Repr

/-- The firmware mailbox (R375). -/
structure Mailbox where
  cmd : BitVec 512 := 0
  busy : Option MailCmd := none
  result : Nat := 0
  deriving DecidableEq, Repr

/-- A peer's request held at the fabric ingress, with the page faults to which it is attached (R282, R376). -/
structure HeldReq where
  req : PeerReq
  faults : List Nat := []
  deriving DecidableEq, Repr

/-- A message that the device has sent to the host's interrupt controller (R361): its address and its data. -/
structure Message where
  addr : DWord
  data : Word
  deriving DecidableEq, Repr

/-- An access of the host that waits in the device (R365, R366, R378): an access through a tenant's aperture, with the
aperture select that it found, at an offset, with the bytes written or the number read; a doorbell of a queue; and a
request to arm a sprue. -/
inductive HostReq where
  | bar2 (tenant aperture ofs : Nat) (write : Option (List Byte)) (len : Nat)
  | doorbell (tenant queue : Nat) (desc tail : DWord)
  | sparmreq (tenant : Nat) (desc tail : DWord)
  deriving DecidableEq, Repr

/-- An entry of a function's MSI-X table (R361): the message's address and data, and whether it is masked. -/
structure MsixEntry where
  addr : DWord := 0
  data : Word := 0
  masked : Bool := false
  deriving DecidableEq, Repr

/-- An interrupt raised (R316): the tenant, none for the PF, and the vector. -/
structure Irq where
  tenant : Option Nat
  vector : Nat
  deriving DecidableEq, Repr

/-- The PF's registers with the fields of R352, R364, R371 and R374: `slices` are the retired home slices, by die ×
48 + index. -/
structure Regs where
  bootStep : Nat := 0
  bootFail : Nat := 0
  fetEn : Bool := true
  ceThr : Nat := 64
  scrubH : Nat := 24
  qdl : Nat := 50
  repReq : Bool := false
  slices : List Nat := []
  nLink : Nat := 0
  podHi : Nat := 0
  podLo : Nat := 0x3FFFF
  epid : Nat := 0x3FFFF
  lease : Nat := 100
  retryW : Nat := 10
  rdcSz0 : Nat := 0
  rdcSz1 : Nat := 0
  rkLog2 : Nat := 36
  rkSec : Nat := 3600
  power : Nat := 2200
  mhz : Nat := 3300
  deriving DecidableEq, Repr

end Sys2Proof.Machine
end

