-- ==== Sys2Proof/Machine/State.lean ====
section
/-! DEFINITION. The state of the machine, the reasons a step can stop, and the state after reset. State is
plain data: every table is a list in rising order of its keys. -/

namespace Sys2Proof.Machine

open Sys2Proof

/-- The place of an issue: a block (core × 2 + block slot), a squad and one of its sub-groups. -/
structure Site where
  bid : Nat := 0
  sq : Nat := 0
  grp : Nat := 0
  deriving DecidableEq, Repr

/-- What happens next. `issue` gives a sub-group its issue, where the sub-groups named with it are those that the
latency of a result or a busy unit still keeps back (log entry 8); `event` is an occurrence outside the squads
(an event row of the operation table); `engine` lets a sequencer run its next instruction; the others are what
the outside world does to the machine without the device being asked: the host's and the peers' own memory
change, a peer's memo of an atomic ages, a peer refuses accesses or no longer does, homes write dirty lines to HBM, a
unit is damaged or found damaged, a step of the boot fails a check, a fabric port comes up or has flits acknowledged,
the answer to an atomic is lost on its way back (R183), the power and temperature sensors change, a 64 KiB page of host
memory is unmapped or mapped by the host (R361), the firmware of a die or the configuration of its base dies is altered
(R371), a changed code word of a pour is fetched as it now stands (R58), the host reads or writes registers through BAR0 of
a function (R363), reads or writes its MSI-X table or reads its pending bits, or resizes its BAR2 (R361). -/
inductive Act where
  | issue (at' : Site) (late : List Site := [])
  | event (i : Instr)
  | engine (core : Nat) (eng : Engine)
  | hostWrites (addr : Nat) (bytes : List Byte)
  | peerWrites (key : Nat) (bytes : List Byte)
  | peerAged (ep core ident : Nat)
  | peerRefuses (ep : Nat) (on : Bool)
  | writeBack (lines : List Nat)
  | damage (struct addr : Nat)
  | detect (struct addr : Nat)
  | bootFails (step check : Nat)
  | abortAnswer (req : Nat)
  | codeChanged (pour va : Nat)
  | linkUp (link : Nat)
  | linkAck (link n : Nat)
  | sensors (watts celsius : Nat)
  | hostPage (page : Nat) (present : Bool)
  | altersDie (die : Nat)
  | bar0Read (fn ofs len : Nat)
  | bar0Write (fn ofs : Nat) (bytes : List Byte)
  | msixWrite (fn vector : Nat) (entry : MsixEntry)
  | msixRead (fn vector : Nat)
  | pbaRead (fn : Nat)
  | resizeBar2 (fn log : Nat)
  | idle
  deriving DecidableEq, Repr

/-- One turn: how many core cycles pass before it, and what happens. -/
structure Turn where
  dt : Nat := 1
  act : Act
  deriving DecidableEq, Repr

/-- An issue: its cycle, its squad and its instruction (R229). -/
structure Issued where
  at' : Nat
  key : Nat
  insn : Instr
  deriving DecidableEq, Repr

/-- The model's own part of the state: the turns to come, the site of the issue in progress, whether the
last issue found its instruction not ready, the pick that the turn makes with its instruction, the issues of the last 1,024
cycles, oldest first, whose results or units may still keep others back (R97, R114, R229), the last pick of each issue slot (its
cycle, and whether it was a handler), since when each squad, and each sub-group by squad × 32 + lowest lane, has
been ready without issuing (R229, R283), the core cycles and the time passed since power-on (R374), and the counters
that number issues and records: the stamps of cycle t begin at t × 2^20. -/
structure Ctrl where
  agenda : List Turn := []
  site : Site := {}
  waited : Bool := false
  picked : Option Site := none
  insn : Option Instr := none
  recent : List Issued := []
  slots : Table (Nat × Bool) := []
  ready : Table Nat := []
  groupsReady : Table Nat := []
  now : Nat := 0
  time : Nat := 0
  stamp : Nat := 0
  nextId : Nat := 1
  deriving DecidableEq, Repr

/-- The memories: device memory by physical address, scratchpads by block × 2^19 + offset, tiles by
(block × 16 + tile) × 8192 + byte, accumulators by (block × 8 + accumulator) × 1024 + element, and what the
host's and the peers' memories hold. -/
structure Memories where
  dev : Memory := []
  pooled : Memory := []
  tiles : Memory := []
  accs : Table Word := []
  host : Memory := []
  peer : Memory := []
  deriving DecidableEq, Repr

/-- The home slices and what travels to and from them (R174 to R183): requests in order of issue, owner records by
line × 512 + block slot, write-backs on their way, memos, frame ownership by frame (R300), the device generation, the
migration, frames that a migration has retired (R182), the memos of the fabric ingress by peer and identity, those of
them that have aged (R183), the identities that peers have let age for this device's atomics (endpoint, core,
identity), the last `.sc` stamp taken (R166), what HBM holds for each line that is dirty in its home's L2 (R14,
R347), by keeper × 256 + core, how many results of the core the keeper must still memoise before a missing memo again
means an atomic never applied (R340), the same at the fabric ingress by peer, and the damaged units that a turn has found, until its end acts on them: block, structure and key for a flask
that consumes one (R341), and context, structure and key for a context that one ends (R346). -/
structure Homes where
  reqs : Table Req := []
  owners : Table OwnerRec := []
  backs : Table WriteBack := []
  memos : List Memo := []
  frames : Table (BitVec 16) := []
  dgen : Nat := 0
  migration : Option Migration := none
  retired : List Nat := []
  peerMemos : List PeerMemo := []
  aged : List (Nat × Nat) := []
  farAged : List (Nat × Nat × Nat) := []
  stamp : DWord := 0
  dirty : Table (List Byte) := []
  memoHoles : Table Nat := []
  peerHoles : Table Nat := []
  ruined : List (Nat × Nat × Nat) := []
  ruinedCtx : List (Nat × Nat × Nat) := []
  deriving DecidableEq, Repr

/-- A request to the work distributor on its way (R277, R278): the squad, the work set, and where the
answer goes: a register, or a pooled address with its tag; `turn` is its place in the squad's replay record. -/
structure TkReq where
  bid : Nat
  sq : Nat
  flask : Nat
  ws : Nat
  reg : Option Nat
  addr : Nat := 0
  tag : Nat := 0
  turn : Nat := 0
  deriving DecidableEq, Repr

/-- An answer to a peer (R183, R307): bytes, an abort completion, or the word that the outcome of an atomic is
unknown. -/
inductive PeerAnswer where
  | bytes (bs : List Byte)
  | abort
  | unknown
  deriving DecidableEq, Repr

/-- The device outside the cores (R347 to R378): the configuration registers, dies, fabric ports, Ethernet endpoints,
ingress translations and the peer requests held there, splinters, mailbox, logs, interrupts raised, damaged units,
corrected errors by unit (the time at which the hour began in which they are counted, and how many), audits skipped,
LEASE values with the time at which each ended (R311), the queue last served in each class (R266), the package power and
the highest junction temperature (R374), the host requests that each outstanding Invalidate Request waits for (R362),
the digests that were returned (R372), the bytes of the last host read (R363, R366), the host's accesses that wait
(R365, R366), the pages of host memory that are absent (R361), the MSI-X tables and the pending bits by function × 64 +
vector, 64 for the PF, the messages sent from them, and the size of each function's BAR2 (R361), the dies whose next measurement differs (R371), the last answer to a peer (R307), the
endpoints that refuse this device's accesses (R218), and the port to which each pair of class O or U is held, by
endpoint × 8 + class (R368). -/
structure Device where
  regs : Regs := {}
  dies : Table Die := []
  links : Table Link := []
  endpoints : Table (BitVec 128) := []
  ingress : List TlbEntry := []
  ingressHeld : List HeldReq := []
  splinters : Table Splinter := []
  mailbox : Mailbox := {}
  deviceLog : ErrLog := {}
  tenantLogs : Table ErrLog := []
  lossLogs : Table LossLog := []
  irqs : List Irq := []
  damage : List (Nat × Nat) := []
  corrected : Table (Nat × Nat) := []
  skipped : Nat := 0
  leaseMax : List (Nat × Nat) := []
  served : Table Nat := []
  watts : Nat := 0
  celsius : Nat := 0
  invalidating : List (List Nat) := []
  measured : List (BitVec 384) := []
  hostRead : List Byte := []
  hostHeld : List HostReq := []
  hostAbsent : List Nat := []
  msix : Table MsixEntry := []
  pending : List Irq := []
  messages : List Message := []
  bar2 : Table Nat := []
  altered : List Nat := []
  answer : PeerAnswer := .abort
  refusing : List Nat := []
  pairs : Table Nat := []
  deriving DecidableEq, Repr

/-- The machine. -/
structure State where
  ctrl : Ctrl := {}
  squads : Table Squad := []
  blocks : Table Block := []
  flasks : Table Flask := []
  pours : Table Pour := []
  cores : Table Core := []
  progs : Table Prog := []
  chains : Table Chain := []
  tks : Table TkReq := []
  mem : Memories := {}
  homes : Homes := {}
  contexts : Table Context := []
  tenants : Table Tenant := []
  dev : Device := {}
  deriving DecidableEq, Repr

/-- The faults of the machine: none. R3 says that no use produces an unstated result and that every broken
rule has its stated consequence, which is a trap, an ignored write or a stated value; all of these are next
states. `never` is raised by nothing; safe. -/
inductive Fault where
  | never
  deriving DecidableEq, Repr

/-- The refusals of the machine. `notModelled` is answered by an arm of `exec` for an instruction that the
model gives no meaning; safe. -/
inductive Refusal where
  | notModelled (mnemonic : String)
  deriving DecidableEq, Repr

/-- The machine right after power-on reset, before the boot sequence of R370 has run: every register at its
reset value, and nothing placed, mapped or configured. -/
def State.reset : State := {}

end Sys2Proof.Machine
end

