-- ==== Sys2Proof/Machine/Base.lean ====
section
/-! DEFINITION. Reading and replacing the parts of the state, and the numbering of cores, blocks and flasks
(R7, R17, R20). -/

namespace Sys2Proof.Machine

open Sys2Proof

/-- A block that is not there. -/
def Block.absent : Block := { flask := 0, idx := 0 }
/-- A flask that is not there. -/
def Flask.absent : Flask := { pour := 0, idx := 0 }

/-- The key of a squad. -/
def squadKey (bid sq : Nat) : Nat := bid * 32 + sq
/-- The core that holds a block slot. -/
def coreOf (bid : Nat) : Nat := bid / 2
/-- The die of a core (R7). -/
def dieOfCore (core : Nat) : Nat := core / 120
/-- The die of a block slot. -/
def dieOfBlock (bid : Nat) : Nat := dieOfCore (coreOf bid)
/-- The key of a pour: its context's tag and its number (R269). -/
def pourKey (tag num : Nat) : Nat := tag * 2 ^ 31 + num
/-- The code of a run. -/
def RunKind.code : RunKind → Nat
  | .first => 0
  | .replay => 1
  | .third => 2
/-- The key of a flask: its pour, its index and which run it is. -/
def flaskKey (pour idx : Nat) (run : RunKind) : Nat := (pour * 2 ^ 31 + idx) * 4 + run.code

/-- A squad. -/
def State.squad (s : State) (bid sq : Nat) : Squad := s.squads.get (squadKey bid sq) {}
/-- A block. -/
def State.block (s : State) (bid : Nat) : Block := s.blocks.get bid Block.absent
/-- A flask. -/
def State.flask (s : State) (f : Nat) : Flask := s.flasks.get f Flask.absent
/-- A pour. -/
def State.pour (s : State) (p : Nat) : Pour := s.pours.get p {}
/-- A core. -/
def State.core (s : State) (c : Nat) : Core := s.cores.get c {}
/-- A context. -/
def State.context (s : State) (t : Nat) : Context := s.contexts.get t {}
/-- A tenant. -/
def State.tenant (s : State) (n : Nat) : Tenant := s.tenants.get n {}
/-- A die. -/
def State.die (s : State) (d : Nat) : Die := s.dev.dies.get d {}
/-- A fabric port. -/
def State.link (s : State) (l : Nat) : Link := s.dev.links.get l {}

/-- A squad replaced. -/
def State.setSquad (s : State) (bid sq : Nat) (x : Squad) : State := { s with squads := s.squads.put (squadKey bid sq) x }
/-- A block replaced. -/
def State.setBlock (s : State) (bid : Nat) (x : Block) : State := { s with blocks := s.blocks.put bid x }
/-- A flask replaced. -/
def State.setFlask (s : State) (f : Nat) (x : Flask) : State := { s with flasks := s.flasks.put f x }
/-- A pour replaced. -/
def State.setPour (s : State) (p : Nat) (x : Pour) : State := { s with pours := s.pours.put p x }
/-- A core replaced. -/
def State.setCore (s : State) (c : Nat) (x : Core) : State := { s with cores := s.cores.put c x }
/-- A context replaced. -/
def State.setContext (s : State) (t : Nat) (x : Context) : State := { s with contexts := s.contexts.put t x }
/-- A tenant replaced. -/
def State.setTenant (s : State) (n : Nat) (x : Tenant) : State := { s with tenants := s.tenants.put n x }
/-- A die replaced. -/
def State.setDie (s : State) (d : Nat) (x : Die) : State := { s with dev := { s.dev with dies := s.dev.dies.put d x } }
/-- A fabric port replaced. -/
def State.setLink (s : State) (l : Nat) (x : Link) : State := { s with dev := { s.dev with links := s.dev.links.put l x } }

/-- The pour that a block runs. -/
def State.pourOfBlock (s : State) (bid : Nat) : Pour := s.pour (s.flask (s.block bid).flask).pour
/-- The kernel that a block runs. -/
def State.kernel (s : State) (bid : Nat) : Kernel := (s.pourOfBlock bid).kern
/-- The context of a block. -/
def State.tagOfBlock (s : State) (bid : Nat) : Nat := (s.pourOfBlock bid).tag
/-- The tenant of a context. -/
def State.tenantOf (s : State) (tag : Nat) : Nat := (s.context tag).tenant

/-- A block's squads count as new: nothing of their slots' former squads keeps a time of readiness or a result (R229,
R283). -/
def State.forgetReady (s : State) (bid : Nat) : State :=
  { s with ctrl := { s.ctrl with
      ready := s.ctrl.ready.filter fun e => e.1 / 32 != bid
      groupsReady := s.ctrl.groupsReady.filter fun e => e.1 / 32 / 32 != bid
      recent := s.ctrl.recent.filter fun e => e.key / 32 != bid } }

/-- A fresh record number. -/
def State.bump (s : State) : State := { s with ctrl := { s.ctrl with nextId := s.ctrl.nextId + 1 } }
/-- A fresh stamp of the order of issues. -/
def State.tickStamp (s : State) : State := { s with ctrl := { s.ctrl with stamp := s.ctrl.stamp + 1 } }
/-- The state of an issue whose instruction is not ready (R229). -/
def State.notReady (s : State) : State := { s with ctrl := { s.ctrl with waited := true } }

/-- An `.sc` operation of a block takes its stamp (R166): one above its core's counter and above the last stamp taken in
the package, so that the order of stamps is the order in which the operations are performed (log entry 107). -/
def State.takeStamp (s : State) (bid : Nat) : State × DWord :=
  let c := s.core (coreOf bid)
  let st := (if c.stamp < s.homes.stamp then s.homes.stamp else c.stamp) + 1
  let s := s.setCore (coreOf bid) { c with stamp := st }
  ({ s with homes := { s.homes with stamp := st } }, st)

/-- A core that receives a completion raises its counter to at least its stamp (R166). -/
def State.raiseStamp (s : State) (bid : Nat) (st : DWord) : State :=
  let c := s.core (coreOf bid)
  if c.stamp < st then s.setCore (coreOf bid) { c with stamp := st } else s

/-- One microsecond in the unit of `Ctrl.time`: a number that every multiple of 100 MHz from 1,600 to 3,300 divides,
so that a core cycle is a whole number of units at each core clock (R374). -/
def usUnit : Nat := 14440355289360000

/-- Microseconds in the unit of `Ctrl.time`; they keep their value when the core clock changes (R5, R374). -/
def microseconds (n : Nat) : Nat := n * usUnit

/-- Core cycles passed: the cycle count, the time at the core clock of now (R6, R374), and the stamps, which begin anew
in each cycle. -/
def State.elapse (s : State) (cc : Nat) : State :=
  { s with ctrl := { s.ctrl with
      now := s.ctrl.now + cc, time := s.ctrl.time + cc * (usUnit / s.dev.regs.mhz)
      stamp := max s.ctrl.stamp ((s.ctrl.now + cc) * 2 ^ 20) } }

/-- The cycle of a stamp. -/
def stampCycle (stamp : Nat) : Nat := stamp / 2 ^ 20

/-- The squads of a block by stage (R21). -/
def Kernel.nsq (k : Kernel) : Nat := k.squads.sum

/-- The stage of a squad: the stages take the squads in order (R55). -/
def stageFrom : List Nat → Nat → Nat → Nat
  | [], _, st => st
  | n :: r, q, st => if q < n then st else stageFrom r (q - n) (st + 1)

/-- The stage of a squad of a kernel. -/
def Kernel.stageOf (k : Kernel) (q : Nat) : Nat := stageFrom k.squads q 0

/-- A set of one lane. -/
def laneBit (i : Nat) : Lanes := (1#32) <<< i
/-- The lanes of a set, lowest first. -/
def lanesOf (m : Lanes) : List Nat := (List.range 32).filter fun i => m.getLsbD i
/-- The set of some lanes. -/
def laneSet (ls : List Nat) : Lanes := ls.foldl (fun m i => m ||| laneBit i) 0
/-- The lowest lane of a set. -/
def lowestLane (m : Lanes) : Nat := (lanesOf m).headD 0

/-- The place of an interrupt in the MSI-X tables: function × 64 + vector. -/
def Irq.place (i : Irq) : Nat := i.tenant.getD 64 * 64 + i.vector

/-- An interrupt sent to the host as the message of its vector, or, where the vector is masked, kept as a pending bit
(R361). -/
def State.sendIrq (s : State) (i : Irq) : State :=
  let e := s.dev.msix.get i.place {}
  if e.masked then
    (if s.dev.pending.contains i then s else { s with dev := { s.dev with pending := s.dev.pending ++ [i] } })
  else { s with dev := { s.dev with irqs := s.dev.irqs ++ [i], messages := s.dev.messages ++ [⟨e.addr, e.data⟩] } }

/-- An interrupt raised to a tenant on a vector that it has (R316), or to the PF. -/
def State.irq (s : State) (tenant : Option Nat) (vec : Nat) : State :=
  let ok := match tenant with
    | none => true
    | some n => decide (vec < (s.tenant n).nvec)
  if ok then s.sendIrq ⟨tenant, vec⟩ else s

/-- A record put into a ring of a size (R339, R377): a full ring drops its oldest record and counts it. -/
def ErrLog.push (l : ErrLog) (size : Nat) (r : ErrRec) : ErrLog :=
  { recs := l.recs.put l.next r, next := (l.next + 1) % size
    lost := if l.recs.has l.next then l.lost + 1 else l.lost }

/-- An error record written (R339): to the device log, to the log of the tenant that owns its tag unless the
error was corrected, with the interrupt of vector 0. -/
def State.record (s : State) (r : ErrRec) : State :=
  let s := { s with dev := { s.dev with deviceLog := s.dev.deviceLog.push 1024 r } }
  if r.act = 0 then s
  else if r.tag = 0 then s.irq none 0
  else
    let n := s.tenantOf r.tag
    let s := { s with dev := { s.dev with tenantLogs := s.dev.tenantLogs.put n ((s.dev.tenantLogs.get n {}).push 256 r) } }
    s.irq (some n) 0

end Sys2Proof.Machine
end

