-- ==== Sys2Proof/Machine/Operands.lean ====
section
/-! DEFINITION. Operands: reading and writing registers and specials, the guard, full/empty state, and the
checkpoint's log of register writes (R33 to R38, R59 to R61, R321). -/

namespace Sys2Proof.Machine

open Sys2Proof

/-! ## Reading -/

/-- Bits 56:32 of an address (R60). -/
def hiHalf (a : Nat) : Word := BitVec.ofNat 32 (a / 2 ^ 32 % 2 ^ 25)
/-- Bits 31:0 of an address. -/
def loHalf (a : Nat) : Word := BitVec.ofNat 32 a

/-- The cycle counter of a block's die (R69), 0 in an audited pour (R61). -/
def State.clock (s : State) (bid : Nat) : DWord :=
  if (s.kernel bid).audit then 0 else BitVec.ofNat 64 (s.ctrl.now - (s.die (dieOfBlock bid)).clkBase)

/-- The value of a special (R60, R61). -/
def State.special (s : State) (bid sq lane : Nat) (x : Special) : Word :=
  let b := s.block bid
  let f := s.flask b.flask
  let p := s.pour f.pour
  match x with
  | .zero => 0
  | .one => 1
  | .lane => BitVec.ofNat 32 lane
  | .squad => BitVec.ofNat 32 sq
  | .block => BitVec.ofNat 32 b.idx
  | .flask => BitVec.ofNat 32 f.idx
  | .stage => BitVec.ofNat 32 (p.kern.stageOf sq)
  | .clock => (s.clock bid).lo
  | .pblk => BitVec.ofNat 32 (f.idx * p.kern.flask + b.idx)
  | .fx => BitVec.ofNat 32 (f.idx % p.desc.gx)
  | .fy => BitVec.ofNat 32 (f.idx / p.desc.gx % p.desc.gy)
  | .fz => BitVec.ofNat 32 (f.idx / (p.desc.gx * p.desc.gy))
  | .nfx => BitVec.ofNat 32 p.desc.gx
  | .nfy => BitVec.ofNat 32 p.desc.gy
  | .nfz => BitVec.ofNat 32 p.desc.gz
  | .nblk => BitVec.ofNat 32 p.kern.flask
  | .nsq => BitVec.ofNat 32 p.kern.nsq
  | .dsegl => loHalf p.desc.dseg
  | .dsegh => hiHalf p.desc.dseg
  | .prml => loHalf p.desc.prm
  | .prmh => hiHalf p.desc.prm
  | .core => if p.kern.audit then 0 else BitVec.ofNat 32 (coreOf bid)
  | .tag => BitVec.ofNat 32 p.tag
  | .half => BitVec.ofNat 32 b.half
  | .slot => BitVec.ofNat 32 b.slot

/-- A predicate register: p7 reads all ones (R33). -/
def RegFile.pred (r : RegFile) (n : Nat) : Lanes := if n = 7 then 0xFFFFFFFF else r.p.get n 0

/-- One lane of a vector register. -/
def RegFile.vec (r : RegFile) (n lane : Nat) : Word := r.v.get (n * 32 + lane) 0

/-- A scalar register. -/
def RegFile.scalar (r : RegFile) (n : Nat) : Word := r.s.get n 0

/-- The k-th register of an operand in a lane: the operand's own for k = 0, those that follow it in a pair or
group (R34). -/
def State.regWord (s : State) (bid sq : Nat) (o : Opnd) (k lane : Nat) : Word :=
  let r := (s.squad bid sq).rf
  match o with
  | .v n => r.vec (n.toNat + k) lane
  | .s n => r.scalar (n.toNat + k)
  | .p n => r.pred n.toNat
  | .sp x => if k = 0 then s.special bid sq lane x else 0
  | .t _ | .acc _ | .bad _ => 0

/-- A lane's value of an operand of w registers: one register zero-extended, or a pair. -/
def State.regVal (s : State) (bid sq : Nat) (o : Opnd) (w lane : Nat) : DWord :=
  if w = 1 then (s.regWord bid sq o 0 lane).setWidth 64
  else DWord.ofHalves (s.regWord bid sq o 0 lane) (s.regWord bid sq o 1 lane)

/-- The registers of an operand in a lane, as one number, the first register lowest. -/
def State.regNat (s : State) (bid sq : Nat) (o : Opnd) (w lane : Nat) : Nat :=
  (List.range w).foldr (fun k acc => acc * 2 ^ 32 + (s.regWord bid sq o k lane).toNat) 0

/-! ## Full and empty (R36 to R38) -/

/-- Whether every register of an operand is full in every lane of a set. -/
def RegFile.full (r : RegFile) (o : Opnd) (w : Nat) (lanes : Lanes) : Bool :=
  match o with
  | .v n => (List.range w).all fun k => (r.vE.get (n.toNat + k) 0 &&& lanes) == 0
  | .s n => (List.range w).all fun k => !r.sE.getLsbD (n.toNat + k)
  | _ => true

/-- The register file with an operand marked empty in some lanes (R36). -/
def RegFile.markEmpty (r : RegFile) (o : Opnd) (w : Nat) (lanes : Lanes) : RegFile :=
  match o with
  | .v n => { r with vE := (List.range w).foldl (fun t k => t.put (n.toNat + k) (t.get (n.toNat + k) 0 ||| lanes)) r.vE }
  | .s n => { r with sE := (List.range w).foldl (fun m k => m ||| (1#64) <<< (n.toNat + k)) r.sE }
  | _ => r

/-- The register file with an operand marked full in some lanes. -/
def RegFile.markFull (r : RegFile) (o : Opnd) (w : Nat) (lanes : Lanes) : RegFile :=
  match o with
  | .v n => { r with vE := (List.range w).foldl (fun t k => t.put (n.toNat + k) (t.get (n.toNat + k) 0 &&& ~~~lanes)) r.vE }
  | .s n => { r with sE := (List.range w).foldl (fun m k => m &&& ~~~((1#64) <<< (n.toNat + k))) r.sE }
  | _ => r

/-! ## Writing -/

/-- A table with the keys base + lane put for the lanes of a set. -/
def putLanes (t : Table Word) (base : Nat) (lanes : Lanes) (f : Nat → Word) : Table Word :=
  (List.range 32).foldl (fun t i => if lanes.getLsbD i then t.put (base + i) (f i) else t) t

/-- A vector register written in some lanes. -/
def RegFile.setVec (r : RegFile) (n : Nat) (lanes : Lanes) (f : Nat → Word) : RegFile :=
  { r with v := putLanes r.v (n * 32) lanes f }
/-- A scalar register written. -/
def RegFile.setScalar (r : RegFile) (n : Nat) (x : Word) : RegFile := { r with s := r.s.put n x }
/-- A predicate register written: p7 ignores it (R33). -/
def RegFile.setPred (r : RegFile) (n : Nat) (x : Lanes) : RegFile := if n = 7 then r else { r with p := r.p.put n x }

/-- The register file with the k-th register of an operand written in the passing lanes: a scalar or
predicate register takes the value of the lowest of them, once (R35). -/
def RegFile.write (r : RegFile) (o : Opnd) (k : Nat) (lanes : Lanes) (f : Nat → Word) : RegFile :=
  match o with
  | .v n => r.setVec (n.toNat + k) lanes f
  | .s n => r.setScalar (n.toNat + k) (f (lowestLane lanes))
  | .p n => r.setPred n.toNat (f (lowestLane lanes))
  | _ => r

/-- The log entry of a write to the k-th register of an operand (R321). -/
def Squad.entryFor (q : Squad) (o : Opnd) (k : Nat) (lanes : Lanes) : Option LogEntry :=
  match o with
  | .v n => some ⟨q.seq, .v, n.toNat + k, lanes, (List.range 32).map (q.rf.vec (n.toNat + k))⟩
  | .s n => some ⟨q.seq, .s, n.toNat + k, lanes, [q.rf.scalar (n.toNat + k)]⟩
  | .p n => some ⟨q.seq, .p, n.toNat, lanes, [q.rf.pred n.toNat]⟩
  | _ => none

/-- The squad's log with a write added while an access is open (R321). -/
def Squad.logged (q : Squad) (o : Opnd) (k : Nat) (lanes : Lanes) : Squad :=
  if q.opens.isEmpty then q
  else match q.entryFor o k lanes with
    | some e => { q with log := q.log ++ [e] }
    | none => q

/-- The squad with the k-th register of an operand written and the write logged. -/
def Squad.writeReg (q : Squad) (o : Opnd) (k : Nat) (lanes : Lanes) (f : Nat → Word) : Squad :=
  let q := q.logged o k lanes
  { q with rf := q.rf.write o k lanes f }

/-- The squad with an operand of w registers written from 64-bit values. -/
def Squad.writeVal (q : Squad) (o : Opnd) (w : Nat) (lanes : Lanes) (f : Nat → DWord) : Squad :=
  let q := q.writeReg o 0 lanes fun i => (f i).lo
  if w = 2 then q.writeReg o 1 lanes fun i => (f i).hi else q

/-- The squad with an operand of w registers written from numbers, the first register lowest. -/
def Squad.writeNat (q : Squad) (o : Opnd) (w : Nat) (lanes : Lanes) (f : Nat → Nat) : Squad :=
  (List.range w).foldl (fun q k => q.writeReg o k lanes fun i => BitVec.ofNat 32 (f i / 2 ^ (32 * k))) q

/-- The value written back by a log entry (R321). -/
def LogEntry.undo (e : LogEntry) (r : RegFile) : RegFile :=
  match e.kind with
  | .v => { r.setVec e.reg e.lanes fun i => (e.old[i]?).getD 0 with vE := r.vE.put e.reg (r.vE.get e.reg 0 &&& ~~~e.lanes) }
  | .s => { r.setScalar e.reg (e.old.headD 0) with sE := r.sE &&& ~~~((1#64) <<< e.reg) }
  | .p => r.setPred e.reg (e.old.headD 0)
  | .t => r

/-! ## The guard (R35) -/

/-- The lanes of a set that pass the guard. -/
def RegFile.passing (r : RegFile) (g : Guard) (lanes : Lanes) : Lanes :=
  let m := r.pred g.sel.toNat
  lanes &&& (if g.neg then ~~~m else m)

end Sys2Proof.Machine
end

