-- ==== Sys2Proof/Machine/Partition.lean ====
section
/-! DEFINITION. The partition of a squad into sub-groups: splitting, meetings, rejoins and the release of a
stalled squad (R228 to R232, R237 to R239). -/

namespace Sys2Proof.Machine

open Sys2Proof

/-- The threads that have not exited. -/
def Ctl.alive (c : Ctl) : Lanes := c.groups.foldl (fun m g => m ||| g.lanes) 0

/-- Whether a sub-group is held at a rejoin. -/
def Group.atRejoin (g : Group) : Bool := g.kind == .rejoin
/-- Whether a sub-group is held at a meeting. -/
def Group.atMeet (g : Group) : Bool := g.kind == .meet

/-- The lanes held at a rejoin at an address. -/
def Ctl.rejoinAt (c : Ctl) (pc : Pc) : Lanes :=
  c.groups.foldl (fun m g => if g.atRejoin && g.pc == pc then m ||| g.lanes else m) 0
/-- The lanes held at a meeting at an address. -/
def Ctl.meetAt (c : Ctl) (pc : Pc) : Lanes :=
  c.groups.foldl (fun m g => if g.atMeet && g.pc == pc then m ||| g.lanes else m) 0

/-- The lanes of a set whose meeting register is an address (R230). -/
def Ctl.meeting (c : Ctl) (lanes : Lanes) (pc : Pc) : Lanes :=
  laneSet ((lanesOf lanes).filter fun i => c.mr.get? i == some pc)

/-- The table without the keys of some lanes. -/
def eraseLanes {α : Type} (t : Table α) (lanes : Lanes) : Table α := (lanesOf lanes).foldl Table.erase t

/-- The control state with lanes arriving at an address as one running sub-group: those that meet there are
held (R230). -/
def Ctl.arrive (c : Ctl) (stamp : Nat) (pc : Pc) (lanes : Lanes) : Ctl :=
  let held := c.meeting lanes pc
  let on := lanes &&& ~~~held
  let c := if on = 0 then c else { c with groups := c.groups ++ [{ lanes := on, pc, issued := stamp }] }
  if held = 0 then c else { c with groups := c.groups ++ [{ lanes := held, pc, kind := .meet, issued := stamp }] }

/-- The lanes of a set by their next address, in the order of their lowest lanes (R228). -/
def byTarget (next : Nat → Pc) : List Nat → List (Pc × Lanes)
  | [] => []
  | i :: r =>
    let rest := byTarget next r
    let t := next i
    match rest.find? fun x => x.1 == t with
    | some x => (t, x.2 ||| laneBit i) :: rest.filter fun y => y.1 != t
    | none => (t, laneBit i) :: rest

/-- The control state with every lane of a set gone to its next address. -/
def Ctl.scatter (c : Ctl) (stamp : Nat) (lanes : Lanes) (next : Nat → Pc) : Ctl :=
  (byTarget next (lanesOf lanes)).foldl (fun c x => c.arrive stamp x.1 x.2) c

/-- The meeting release of R230 at one address, where every thread of G(m) is held. -/
def Ctl.releaseMeet (c : Ctl) (stamp : Nat) (pc : Pc) : Ctl :=
  let held := c.meetAt pc
  if held != 0 && c.meeting c.alive pc == held then
    { c with groups := (c.groups.filter fun g => !(g.atMeet && g.pc == pc)) ++ [{ lanes := held, pc, issued := stamp }]
             mr := eraseLanes c.mr held }
  else c

/-- The meeting releases that are due (R230). -/
def Ctl.releaseMeets (c : Ctl) (stamp : Nat) : Ctl :=
  ((c.groups.filter Group.atMeet).map (·.pc)).foldl (fun c pc => c.releaseMeet stamp pc) c

/-- Whether a lane's companion set lies in a set (R231). -/
def Ctl.satisfied (c : Ctl) (ok : Lanes) (i : Nat) : Bool := (c.aw.get i 0 &&& ~~~ok) == 0

/-- The meeting registers that held lanes take on their release from a `rejoin.rest` (R238): all ones is
NONE. -/
def Ctl.takeRest (c : Ctl) (rest : List (Nat × Pc)) (lanes : Lanes) : Ctl :=
  { c with mr := rest.foldl (fun t x =>
      if lanes.getLsbD x.1 then (if x.2 == 0xFFFFFFFFFFFFFFFF then t.erase x.1 else t.put x.1 x.2) else t) c.mr }

/-- The lanes of a set leave their held rejoin group. -/
def Group.without (g : Group) (lanes : Lanes) : Group := { g with lanes := g.lanes &&& ~~~lanes }

/-- The rejoin groups at an address without some lanes. -/
def Ctl.dropHeld (c : Ctl) (pc : Pc) (lanes : Lanes) : Ctl :=
  { c with groups := (c.groups.map fun g => if g.atRejoin && g.pc == pc then g.without lanes else g).filter fun g => g.lanes != 0 }

/-- The values that the held lanes at an address keep for their release. -/
def Ctl.restAt (c : Ctl) (pc : Pc) : List (Nat × Pc) :=
  c.groups.foldl (fun l g => if g.atRejoin && g.pc == pc then l ++ g.rest else l) []

/-- Lanes released from a rejoin at an address, as one sub-group at the next instruction (R231). -/
def Ctl.freeRejoin (c : Ctl) (stamp : Nat) (pc : Pc) (lanes : Lanes) : Ctl :=
  let rest := c.restAt pc
  let c := { c.dropHeld pc lanes with aw := eraseLanes c.aw lanes }
  (c.takeRest rest lanes).arrive stamp (pc + 12) lanes

/-- The rejoin release after exits (R231, R239) at one address. -/
def Ctl.releaseRejoin (c : Ctl) (stamp : Nat) (pc : Pc) : Ctl :=
  let held := c.rejoinAt pc
  let ok := ~~~c.alive ||| held
  let free := laneSet ((lanesOf held).filter (c.satisfied ok))
  if free = 0 then c else c.freeRejoin stamp pc free

/-- The rejoin releases that exits have made due. -/
def Ctl.releaseRejoins (c : Ctl) (stamp : Nat) : Ctl :=
  ((c.groups.filter Group.atRejoin).map (·.pc)).foldl (fun c pc => c.releaseRejoin stamp pc) c

/-- Whether the squad is stalled (R232): threads remain and all are held. -/
def Ctl.stalled (c : Ctl) : Bool := !c.groups.isEmpty && c.groups.all fun g => g.atMeet || g.atRejoin

/-- The lowest address at which threads are held. -/
def Ctl.lowestPc (c : Ctl) : Pc :=
  BitVec.ofNat 64 (c.groups.foldl (fun m g => min m g.pc.toNat) (2 ^ 64 - 1))

/-- The release of a stalled squad (R232). -/
def Ctl.stallRelease (c : Ctl) (stamp : Nat) : Ctl :=
  let pc := c.lowestPc
  let met := c.meetAt pc
  if met != 0 then
    { groups := (c.groups.filter fun g => !(g.atMeet && g.pc == pc)) ++ [{ lanes := met, pc, issued := stamp }]
      mr := eraseLanes c.mr met, aw := eraseLanes c.aw met }
  else c.freeRejoin stamp pc (c.rejoinAt pc)

/-- Every release that is due (R230 to R232). -/
def Ctl.settle (stamp : Nat) (exited : Bool) : Nat → Ctl → Ctl
  | 0, c => c
  | fuel + 1, c =>
    let c := c.releaseMeets stamp
    let c := if exited then (c.releaseRejoins stamp).releaseMeets stamp else c
    if c.stalled then Ctl.settle stamp exited fuel (c.stallRelease stamp) else c

/-- The control state without some threads (R239). -/
def Ctl.endThreads (c : Ctl) (lanes : Lanes) : Ctl :=
  { groups := (c.groups.map fun g => g.without lanes).filter fun g => g.lanes != 0
    mr := eraseLanes c.mr lanes, aw := eraseLanes c.aw lanes }

/-- The control state without the sub-group at a position. -/
def Ctl.removeGroup (c : Ctl) (k : Nat) : Ctl := { c with groups := c.groups.eraseIdx k }

/-- An issue of `rejoin` (R231, R238) by the passing lanes of a sub-group at an address; `others` are its lanes
that fail the guard, which are not judged and go on with it (R35), and `rest` holds the meeting registers that
passing lanes take. -/
def Ctl.rejoin (c : Ctl) (stamp : Nat) (pc : Pc) (lanes others : Lanes) (rest : List (Nat × Pc)) : Ctl :=
  let held := c.rejoinAt pc
  let ok := ~~~c.alive ||| held ||| lanes ||| others
  let on := laneSet ((lanesOf lanes).filter (c.satisfied ok))
  let stay := lanes &&& ~~~on
  let freed := laneSet ((lanesOf held).filter (c.satisfied ok))
  let old := c.restAt pc
  let c := c.dropHeld pc freed
  let c := if stay = 0 then c else
    { c with groups := c.groups ++ [{ lanes := stay, pc, kind := .rejoin, issued := stamp
                                      rest := rest.filter fun x => stay.getLsbD x.1 }] }
  let c := { c with aw := eraseLanes c.aw (on ||| freed) }
  let c := (c.takeRest old freed).takeRest rest on
  c.arrive stamp (pc + 12) (on ||| freed ||| others)

/-- Lanes that park at their instruction on page faults (R231, R233): the sub-group goes on without them, and
each side adds the other to its companion sets. -/
def Ctl.park (c : Ctl) (parked going : Lanes) : Ctl :=
  { c with aw := (List.range 32).foldl (fun t i =>
      if going.getLsbD i then t.put i (t.get i 0 ||| parked)
      else if parked.getLsbD i then t.put i (t.get i 0 ||| going) else t) c.aw }

end Sys2Proof.Machine
end

