-- ==== Sys2Proof/Machine/Arith.lean ====
section
/-! DEFINITION. The integer and address computations (R86 to R95): each on the values of one lane, a
register pair as 64 bits and a single register as the low half of 64. -/

namespace Sys2Proof

/-- The smallest value of a type (R87). -/
def Ty.minOf (t : Ty) : Int := if t.signed then -(2 ^ (t.bits - 1) : Int) else 0
/-- The largest value of a type (R87). -/
def Ty.maxOf (t : Ty) : Int := if t.signed then 2 ^ (t.bits - 1) - 1 else 2 ^ t.bits - 1

/-- The integer that a type reads from an operand (R86): its low W bits. -/
def Ty.read (t : Ty) (x : DWord) : Int :=
  let n := x.toNat % 2 ^ t.bits
  if t.signed ∧ 2 ^ (t.bits - 1) ≤ n then (n : Int) - 2 ^ t.bits else n

/-- The integer modulo 2^W, read in the type (R87). -/
def Ty.wrap (t : Ty) (x : Int) : Int :=
  let n := x.emod (2 ^ t.bits)
  if t.signed ∧ 2 ^ (t.bits - 1) ≤ n then n - 2 ^ t.bits else n

/-- The integer clamped to a range. -/
def clampInt (lo hi x : Int) : Int := if x < lo then lo else if hi < x then hi else x

/-- A value of a type as it is written (R86): 8- and 16-bit results extended to 32 bits. -/
def Ty.write (t : Ty) (x : Int) : DWord :=
  if t.bits = 64 then BitVec.ofInt 64 x else (BitVec.ofInt 32 x).setWidth 64

/-- The exact result fitted to a type (R87): clamped under `.sat`, else wrapped. -/
def Ty.fit (t : Ty) (sat : Bool) (x : Int) : DWord :=
  t.write (if sat then clampInt t.minOf t.maxOf x else t.wrap x)

/-- An immediate in the place of operand B (R54): sign-extended for `.i64`, else zero-extended. -/
def Ty.immB (t : Ty) (imm : Word) : DWord := if t = .i64 then imm.signExtend 64 else imm.setWidth 64

/-! ## The operations of R88, on the lane's values -/

/-- `add` (R88). -/
def opAdd (m : IntMod) (a b : DWord) : DWord := m.ty.fit m.sat (m.ty.read a + m.ty.read b)
/-- `sub` (R88). -/
def opSub (m : IntMod) (a b : DWord) : DWord := m.ty.fit m.sat (m.ty.read a - m.ty.read b)
/-- `mul.lo` (R88). -/
def opMulLo (m : IntMod) (a b : DWord) : DWord := m.ty.fit m.sat (m.ty.read a * m.ty.read b)
/-- `mul.hi` (R88): the high half of the product of 2W bits. -/
def opMulHi (m : IntMod) (a b : DWord) : DWord :=
  m.ty.fit false ((m.ty.read a * m.ty.read b).fdiv (2 ^ m.ty.bits))
/-- `mad` (R88). -/
def opMad (m : IntMod) (a b c : DWord) : DWord := m.ty.fit m.sat (m.ty.read a * m.ty.read b + m.ty.read c)

/-- The 64-bit type of the same signedness (R88, `mad.wide`). -/
def Ty.widen (t : Ty) : Ty := if t.signed then .i64 else .n64

/-- `mad.wide` (R88). -/
def opMadWide (m : IntMod) (a b c : DWord) : DWord :=
  m.ty.widen.fit false (m.ty.read a * m.ty.read b + m.ty.widen.read c)

/-- Quotient and remainder (R89). -/
def divRem (t : Ty) (sat : Bool) (a b : Int) : Int × Int :=
  if b = 0 then (if t.signed then -1 else t.maxOf, a)
  else if t.signed ∧ a = t.minOf ∧ b = -1 then (if sat then t.maxOf else t.minOf, 0)
  else (a.tdiv b, a.tmod b)

/-- `div` (R89). -/
def opDiv (m : IntMod) (a b : DWord) : DWord :=
  m.ty.write (divRem m.ty m.sat (m.ty.read a) (m.ty.read b)).1
/-- `rem` (R89). -/
def opRem (m : IntMod) (a b : DWord) : DWord :=
  m.ty.write (divRem m.ty m.sat (m.ty.read a) (m.ty.read b)).2
/-- `min` (R88). -/
def opMin (m : IntMod) (a b : DWord) : DWord :=
  m.ty.write (if m.ty.read b < m.ty.read a then m.ty.read b else m.ty.read a)
/-- `max` (R88). -/
def opMax (m : IntMod) (a b : DWord) : DWord :=
  m.ty.write (if m.ty.read a < m.ty.read b then m.ty.read b else m.ty.read a)
/-- `abs` (R88). -/
def opAbs (m : IntMod) (a : DWord) : DWord := m.ty.fit m.sat ((m.ty.read a).natAbs : Int)
/-- `neg` (R88). -/
def opNeg (m : IntMod) (a : DWord) : DWord := m.ty.fit m.sat (-(m.ty.read a))

/-- The low W bits of a value, zeros above: how the raw types of R86 hold a result. -/
def Ty.trim (t : Ty) (x : DWord) : DWord := if t.bits = 64 then x else (x.setWidth 32).setWidth 64

/-- `and` (R88). -/
def opAnd (m : IntMod) (a b : DWord) : DWord := m.ty.trim (a &&& b)
/-- `or` (R88). -/
def opOr (m : IntMod) (a b : DWord) : DWord := m.ty.trim (a ||| b)
/-- `xor` (R88). -/
def opXor (m : IntMod) (a b : DWord) : DWord := m.ty.trim (a ^^^ b)
/-- `not` (R88). -/
def opNot (m : IntMod) (a : DWord) : DWord := m.ty.trim (~~~a)

/-- The shift amount of R90: the whole 32-bit value of the single operand. -/
def shiftAmount (b : DWord) : Nat := b.toNat % 2 ^ 32

/-- `shl` (R90). -/
def opShl (m : IntMod) (a b : DWord) : DWord :=
  let n := shiftAmount b
  if m.ty.bits ≤ n then 0 else m.ty.trim (a <<< n)
/-- `shr` (R90). -/
def opShr (m : IntMod) (a b : DWord) : DWord :=
  let n := shiftAmount b
  if m.ty.bits ≤ n then 0 else m.ty.trim a >>> n
/-- `sar` (R90): an amount of W or more gives copies of the sign bit. -/
def opSar (m : IntMod) (a b : DWord) : DWord :=
  let n := shiftAmount b
  m.ty.write ((m.ty.read a).fdiv (2 ^ (if m.ty.bits ≤ n then m.ty.bits else n)))
/-- `rot` (R90): left, by the amount modulo W. -/
def opRot (m : IntMod) (a b : DWord) : DWord :=
  let n := shiftAmount b % m.ty.bits
  m.ty.trim (m.ty.trim a <<< n) ||| m.ty.trim a >>> (m.ty.bits - n)

/-- `clz` (R88). -/
def opClz (m : IntMod) (a : DWord) : DWord :=
  let n := a.toNat % 2 ^ m.ty.bits
  BitVec.ofNat 64 (if n = 0 then m.ty.bits else m.ty.bits - 1 - n.log2)
/-- `popc` (R88). -/
def opPopc (m : IntMod) (a : DWord) : DWord :=
  BitVec.ofNat 64 ((List.range m.ty.bits).countP fun k => a.getLsbD k)
/-- `brev` (R88). -/
def opBrev (m : IntMod) (a : DWord) : DWord :=
  if m.ty.bits = 64 then a.reverse else ((a.setWidth 32).reverse).setWidth 64

/-- The field position and cut length of R91: none where the field is empty. -/
def bitField (w : Nat) (b : DWord) : Option (Nat × Nat) :=
  let pos := b.toNat % 256
  let len := b.toNat / 256 % 256
  let cut := if len < w - pos then len else w - pos
  if w ≤ pos ∨ cut = 0 then none else some (pos, cut)

/-- `bfx` (R91). -/
def opBfx (m : IntMod) (a b : DWord) : DWord :=
  match bitField m.ty.bits b with
  | none => 0
  | some (pos, len) =>
    let n := a.toNat / 2 ^ pos % 2 ^ len
    m.ty.write (if m.ty.signed ∧ 2 ^ (len - 1) ≤ n then (n : Int) - 2 ^ len else n)
/-- `bfi` (R91). -/
def opBfi (m : IntMod) (a b c : DWord) : DWord :=
  match bitField m.ty.bits b with
  | none => m.ty.trim c
  | some (pos, len) =>
    let mask : DWord := BitVec.ofNat 64 ((2 ^ len - 1) * 2 ^ pos)
    m.ty.trim ((c &&& ~~~mask) ||| ((a <<< pos) &&& mask))

/-- `lea` (R92): a pair plus an index scaled by 2^VAR, modulo 2^64. -/
def opLea (m : IntMod) (a b : DWord) : DWord := a + BitVec.ofInt 64 (m.ty.read b * 2 ^ m.var.toNat)

/-- The result type of `dp4` (R95). -/
def Ty.dot (t : Ty) : Ty := if t.signed then .i32 else .n32

/-- Element k of a packed register, read in an 8-bit type (R95). -/
def Ty.elem8 (t : Ty) (x : DWord) (k : Nat) : Int := t.read (x >>> (8 * k))

/-- `dp4` (R95). -/
def opDp4 (m : IntMod) (a b c : DWord) : DWord :=
  m.ty.dot.fit m.sat (((List.range 4).map fun k => m.ty.elem8 a k * m.ty.elem8 b k).sum + m.ty.dot.read c)

end Sys2Proof
end

