-- ==== Sys2Proof/Machine/Real.lean ====
section
/-! DEFINITION. The number formats and the exact arithmetic behind every rounding (R70 to R78, R100 to
R105): values as signed dyadic numbers, Narrow, and the correctly rounded functions of R104. -/

namespace Sys2Proof

/-- A value before it is narrowed: NaN, an infinity, or (-1)^neg × mant × 2^exp. Zero keeps its sign. -/
inductive XVal where
  | nan
  | inf (neg : Bool)
  | fin (neg : Bool) (mant : Nat) (exp : Int)
  deriving DecidableEq, Repr

/-- What Narrow needs of a destination format (R74): significand bits, the exponent of the smallest step,
the code of the largest finite value, the code without sign of an overflow, the NaN code, and the place of
the sign bit. -/
structure FloatFmt where
  p : Nat
  q : Int
  top : Nat
  ovf : Nat
  nan : Nat
  sign : Nat
  deriving DecidableEq, Repr

/-- The float formats of R70, R71 and R74; other codes take the FP32 row, which no caller uses. -/
def Fmt.float : Fmt → FloatFmt
  | .bf16 => ⟨8, -133, 0x7F7F, 0x7F80, 0x7FC0, 15⟩
  | .f16 => ⟨11, -24, 0x7BFF, 0x7C00, 0x7E00, 15⟩
  | .e4m3 => ⟨4, -9, 0x7E, 0x7E, 0x7F, 7⟩
  | .e5m2 => ⟨3, -16, 0x7B, 0x7C, 0x7E, 7⟩
  | .e2m1 => ⟨2, -1, 0x7, 0x7, 0x0, 3⟩
  | _ => ⟨24, -149, 0x7F7FFFFF, 0x7F800000, 0x7FC00000, 31⟩

/-- The width of an element code in bits (R70). -/
def Fmt.width : Fmt → Nat
  | .f32 => 32
  | .bf16 | .f16 => 16
  | .e4m3 | .e5m2 | .e8m0 | .i8 => 8
  | .e2m1 | .i4e => 4

/-- Division by 2^s, to nearest with ties to even. -/
def shiftRne (m s : Nat) : Nat :=
  if m.log2 + 1 < s then 0
  else
    let d := 2 ^ s
    let k := m / d
    let r := 2 * (m % d)
    if r < d then k else if d < r then k + 1 else k + k % 2

/-- RoundNE of R74 on a magnitude: m × 2^e to at most p significand bits with steps of at least 2^q,
as a pair (significand, exponent of the step). -/
def roundNE (p : Nat) (q : Int) (m : Nat) (e : Int) : Nat × Int :=
  let lsb : Int := e + (m.log2 + 1 : Nat) - (p : Int)
  let step := if lsb < q then q else lsb
  if step ≤ e then (m * 2 ^ (e - step).toNat, step) else (shiftRne m (step - e).toNat, step)

/-- Narrow of R74 into a float format: the code. -/
def narrowF (f : FloatFmt) (sat : Bool) : XVal → Nat
  | .nan => f.nan
  | .inf neg => (if sat then f.top else f.ovf) + (if neg then 2 ^ f.sign else 0)
  | .fin neg m e =>
    let s := if neg then 2 ^ f.sign else 0
    if m = 0 then s
    else
      let (k, step) := roundNE f.p f.q m e
      let code := (step - f.q).toNat * 2 ^ (f.p - 1) + k
      if f.top < code then (if sat then f.top else f.ovf) + s else code + s

/-- The value that a code of a float format denotes (R70, R71): E4M3 and E2M1 have no infinities. -/
def Fmt.value (f : Fmt) (code : Nat) : XVal :=
  let ff := f.float
  let mag := code % 2 ^ ff.sign
  let neg := code / 2 ^ ff.sign % 2 = 1
  match f with
  | .e8m0 => if code % 256 = 255 then .nan else .fin false 1 ((code % 256 : Nat) - 127 : Int)
  | .i8 | .i4e =>
    let n := code % 256
    if 128 ≤ n then .fin true (256 - n) 0 else .fin false n 0
  | _ =>
    if ff.top < mag then (if ff.ovf ≠ ff.top ∧ mag = ff.ovf then .inf neg else .nan)
    else
      let e := mag / 2 ^ (ff.p - 1)
      let k := mag % 2 ^ (ff.p - 1)
      if e = 0 then .fin neg k ff.q else .fin neg (k + 2 ^ (ff.p - 1)) (ff.q + (e : Int) - 1)

/-- Narrow into an integer type (R74, R77): to nearest, ties to even, saturating; NaN gives 0. -/
def narrowInt (lo hi : Int) : XVal → Int
  | .nan => 0
  | .inf neg => if neg then lo else hi
  | .fin neg m e =>
    let k : Int := if 0 ≤ e then (if m = 0 then 0 else if 64 < e then 2 ^ 80 else (m : Int) * 2 ^ e.toNat)
      else (shiftRne m (-e).toNat : Int)
    let x := if neg then -k else k
    if x < lo then lo else if hi < x then hi else x

/-- The exact value of an integer. -/
def XVal.ofInt (x : Int) : XVal := .fin (decide (x < 0)) x.natAbs 0

/-- FloorLog2 of a non-zero m × 2^e (R78). -/
def floorLog2 (m : Nat) (e : Int) : Int := e + (m.log2 : Int)

/-- An integer clamped between two bounds. -/
def clampZ (lo hi x : Int) : Int := if x < lo then lo else if hi < x then hi else x

/-- Scale extraction (R78): the E8M0 code. -/
def scaleCode : XVal → Nat
  | .nan | .inf _ => 0xFF
  | .fin _ m e => if m = 0 then 0 else (clampZ (-127) 127 (floorLog2 m e) + 127).toNat

/-- The magnitude of a value. -/
def XVal.abs : XVal → XVal
  | .nan => .nan
  | .inf _ => .inf false
  | .fin _ m e => .fin false m e

/-- The value negated; a NaN stays NaN. -/
def XVal.neg : XVal → XVal
  | .nan => .nan
  | .inf n => .inf !n
  | .fin n m e => .fin (!n) m e

/-- A value times a power of two. -/
def XVal.scale (k : Int) : XVal → XVal
  | .fin n m e => .fin n m (e + k)
  | x => x

/-- Whether a value is NaN. -/
def XVal.isNaN : XVal → Bool
  | .nan => true
  | _ => false

/-- Whether a value is neither NaN nor an infinity. -/
def XVal.isFin : XVal → Bool
  | .fin _ _ _ => true
  | _ => false

/-- A significand with its sign. -/
def signedMant (n : Bool) (m : Nat) : Int := if n then -(m : Int) else m

/-- The exact sum (R100): an exact zero is -0 only when both addends are -0. -/
def XVal.add : XVal → XVal → XVal
  | .nan, _ | _, .nan => .nan
  | .inf a, .inf b => if a = b then .inf a else .nan
  | .inf a, _ | _, .inf a => .inf a
  | .fin n m e, .fin n' m' e' =>
    if m = 0 ∧ m' = 0 then .fin (n && n') 0 0
    else if m = 0 then .fin n' m' e'
    else if m' = 0 then .fin n m e
    else
      let lo := if e < e' then e else e'
      let s := signedMant n (m * 2 ^ (e - lo).toNat) + signedMant n' (m' * 2 ^ (e' - lo).toNat)
      if s = 0 then .fin false 0 0 else .fin (decide (s < 0)) s.natAbs lo

/-- The exact product (R100): 0 × infinity is NaN, and a zero carries the product of the signs. -/
def XVal.mul : XVal → XVal → XVal
  | .nan, _ | _, .nan => .nan
  | .inf a, .inf b => .inf (a != b)
  | .inf a, .fin n m _ | .fin n m _, .inf a => if m = 0 then .nan else .inf (a != n)
  | .fin n m e, .fin n' m' e' => .fin (n != n') (m * m') (e + e')

/-- Comparison of two values that are not NaN: −0 and +0 are equal. -/
def XVal.lt : XVal → XVal → Bool
  | .nan, _ | _, .nan => false
  | .inf a, .inf b => a && !b
  | .inf a, _ => a
  | _, .inf b => !b
  | .fin n m e, .fin n' m' e' =>
    let lo := if e < e' then e else e'
    decide (signedMant n (m * 2 ^ (e - lo).toNat) < signedMant n' (m' * 2 ^ (e' - lo).toNat))

/-- Equality by value of two values that are not NaN. -/
def XVal.eqv (x y : XVal) : Bool := !x.isNaN && !y.isNaN && !x.lt y && !y.lt x

/-- The quotient of two magnitudes to 64 bits and a sticky bit. -/
def divSticky (m m' : Nat) : Nat × Int :=
  let k := 64 + m'.log2
  let n := m * 2 ^ k
  (2 * (n / m') + (if n % m' = 0 then 0 else 1), -(k : Int) - 1)

/-- `fdiv` (R104). -/
def XVal.div : XVal → XVal → XVal
  | .nan, _ | _, .nan => .nan
  | .inf _, .inf _ => .nan
  | .inf a, .fin n _ _ => .inf (a != n)
  | .fin n _ _, .inf a => .fin (a != n) 0 0
  | .fin n m e, .fin n' m' e' =>
    if m' = 0 then (if m = 0 then .nan else .inf (n != n'))
    else if m = 0 then .fin (n != n') 0 0
    else let (k, x) := divSticky m m'; .fin (n != n') k (e - e' + x)

/-- The integer square root, one bit of the result at a time. -/
def isqrtAux (n : Nat) : Nat → Nat → Nat
  | 0, r => r
  | k + 1, r =>
    let c := r + 2 ^ k
    isqrtAux n k (if c * c ≤ n then c else r)

/-- The integer square root of n. -/
def isqrt (n : Nat) : Nat := isqrtAux n (n.log2 / 2 + 1) 0

/-- m × 2^e with an even exponent. -/
def evenExp (m : Nat) (e : Int) : Nat × Int := if e % 2 = 0 then (m, e) else (2 * m, e - 1)

/-- `fsqrt` (R104). -/
def XVal.sqrt : XVal → XVal
  | .nan => .nan
  | .inf n => if n then .nan else .inf false
  | .fin n m e =>
    if m = 0 then .fin n 0 0
    else if n then .nan
    else
      let (m, e) := evenExp m e
      let x := m * 2 ^ 128
      let r := isqrt x
      .fin false (2 * r + (if r * r = x then 0 else 1)) (e / 2 - 65)

/-- `frsq` (R104). -/
def XVal.rsqrt : XVal → XVal
  | .nan => .nan
  | .inf n => if n then .nan else .fin false 0 0
  | .fin n m e =>
    if m = 0 then .inf n
    else if n then .nan
    else
      let (m, e) := evenExp m e
      let k := 2 ^ 256
      let r := isqrt (k / m)
      .fin false (2 * r + (if r * r * m = k then 0 else 1)) (-(e / 2) - 129)

/-! ## Transcendental functions (R104)

Each is computed in fixed point with `prec` fraction bits and an error below 2^-344, and narrowed. -/

/-- The fraction bits of the fixed-point arithmetic. -/
def prec : Nat := 384
/-- The fraction bits of π, which the range reduction of R104 needs beyond `prec`. -/
def precPi : Nat := 640
/-- x^(2k+1)/(2k+1) summed for x = 1/d, with alternating signs if `alt`, in units of 2^-n. -/
def seriesInv (d : Nat) (alt : Bool) : Nat → Nat → Int → Int → Int
  | 0, _, _, acc => acc
  | fuel + 1, k, pow, acc =>
    let t := pow / (2 * k + 1 : Nat)
    seriesInv d alt fuel (k + 1) (pow / (d * d : Nat)) (if alt && k % 2 == 1 then acc - t else acc + t)

/-- π by Machin's formula, in units of 2^-precPi. -/
def piFix : Int :=
  let one : Int := 2 ^ precPi
  16 * seriesInv 5 true 150 0 (one / 5) 0 - 4 * seriesInv 239 true 60 0 (one / 239) 0

/-- ln 2 = 2 atanh(1/3), in units of 2^-prec. -/
def ln2Fix : Int := 2 * seriesInv 3 false 130 0 (2 ^ prec / 3) 0

/-- The exponential series at x, in units of 2^-prec. -/
def expSeries (x : Int) : Nat → Nat → Int → Int → Int
  | 0, _, _, acc => acc
  | fuel + 1, k, t, acc => expSeries x fuel (k + 1) (t * x / (2 ^ prec * (k + 1 : Nat))) (acc + t)

/-- e^x for 0 ≤ x ≤ 1. -/
def expFix (x : Int) : Int := expSeries x 100 0 (2 ^ prec) 0

/-- A series whose terms alternate in sign and advance two factorials at a time: sine and cosine. -/
def trigSeries (x2 : Int) : Nat → Nat → Int → Int → Int
  | 0, _, _, acc => acc
  | fuel + 1, k, t, acc => trigSeries x2 fuel (k + 2) (-(t * x2) / (2 ^ prec * ((k + 1) * (k + 2) : Nat))) (acc + t)

/-- sin r for 0 ≤ r < 2. -/
def sinFix (r : Int) : Int := trigSeries (r * r / 2 ^ prec) 60 1 r 0
/-- cos r for 0 ≤ r < 2. -/
def cosFix (r : Int) : Int := trigSeries (r * r / 2 ^ prec) 60 0 (2 ^ prec) 0

/-- 2 atanh z, in units of 2^-prec. -/
def atanhSeries (z2 : Int) : Nat → Nat → Int → Int → Int
  | 0, _, _, acc => 2 * acc
  | fuel + 1, k, pow, acc => atanhSeries z2 fuel (k + 1) (pow * z2 / 2 ^ prec) (acc + pow / (2 * k + 1 : Nat))

/-- The signed fixed-point number as a value. -/
def fixVal (x : Int) (e : Int) : XVal := .fin (decide (x < 0)) x.natAbs (e - prec)

/-- x × 2^e narrowed. The exact value lies within 2^-344 × 2^e of it, closer than any result of R104 that is not
exact comes to a rounding boundary (log entry 6). -/
def narrowFix (sat : Bool) (x e : Int) : Word := BitVec.ofNat 32 (narrowF (Fmt.float .f32) sat (fixVal x e))

/-- The fixed-point form of m × 2^e, for e of at least -prec. -/
def toFix (n : Bool) (m : Nat) (e : Int) : Int := signedMant n m * 2 ^ (e + prec).toNat

/-- `fexp2` (R104). -/
def funExp2 (sat : Bool) (src : Word) : Word :=
  match Fmt.value .f32 src.toNat with
  | .nan => 0x7FC00000
  | .inf n => if n then 0 else BitVec.ofNat 32 (narrowF (Fmt.float .f32) sat (.inf false))
  | .fin n m e =>
    if m = 0 then 0x3F800000
    else
      let x := toFix n m e
      let i := x.fdiv (2 ^ prec)
      let f := x - i * 2 ^ prec
      if f = 0 then BitVec.ofNat 32 (narrowF (Fmt.float .f32) sat (.fin false 1 i))
      else narrowFix sat (expFix (f * ln2Fix / 2 ^ prec)) i

/-- `flog2` (R104). -/
def funLog2 (sat : Bool) (src : Word) : Word :=
  match Fmt.value .f32 src.toNat with
  | .nan => 0x7FC00000
  | .inf n => if n then 0x7FC00000 else BitVec.ofNat 32 (narrowF (Fmt.float .f32) sat (.inf false))
  | .fin n m e =>
    if m = 0 then BitVec.ofNat 32 (narrowF (Fmt.float .f32) sat (.inf true))
    else if n then 0x7FC00000
    else
      let k := m.log2
      let i : Int := e + k
      if m = 2 ^ k then BitVec.ofNat 32 (narrowF (Fmt.float .f32) sat (XVal.ofInt i))
      else
        let z : Int := ((m - 2 ^ k : Nat) : Int) * 2 ^ prec / ((m + 2 ^ k : Nat) : Int)
        let l := atanhSeries (z * z / 2 ^ prec) 140 0 z 0
        narrowFix sat (i * 2 ^ prec + l * 2 ^ prec / ln2Fix) 0

/-- The quadrant and remainder of a magnitude modulo π/2, the remainder in units of 2^-prec. -/
def reduceTrig (m : Nat) (e : Int) : Nat × Int :=
  let x : Int := (m : Int) * 2 ^ (e + precPi).toNat
  let h := piFix / 2
  let k := x / h
  (k.toNat % 4, (x - k * h) / 2 ^ (precPi - prec))

/-- `fsin` and `fcos` (R104): sine of the argument with its quadrant advanced by `turn`. -/
def funTrig (cosine sat : Bool) (src : Word) : Word :=
  match Fmt.value .f32 src.toNat with
  | .nan | .inf _ => 0x7FC00000
  | .fin n m e =>
    if m = 0 then (if cosine then 0x3F800000 else src)
    else
      let (k, r) := reduceTrig m e
      let k := if cosine then (k + 1) % 4 else k
      let v := if k % 2 = 0 then sinFix r else cosFix r
      let v := if 2 ≤ k then -v else v
      narrowFix sat (if n && !cosine then -v else v) 0

/-- x squared k times over, in units of 2^-prec. -/
def squareTimes : Nat → Int → Int
  | 0, x => x
  | k + 1, x => squareTimes k (x * x / 2 ^ prec)

/-- `ftanh` (R104): (e^2x − 1) / (e^2x + 1), and a value next to 1 from |x| = 32 on. -/
def funTanh (sat : Bool) (src : Word) : Word :=
  match Fmt.value .f32 src.toNat with
  | .nan => 0x7FC00000
  | .inf n => if n then 0xBF800000 else 0x3F800000
  | .fin n m e =>
    if m = 0 then src
    else
      let one : Int := 2 ^ prec
      let x := toFix false m e
      let v := if 32 * one ≤ x then one - 2 ^ (prec - 90)
        else
          let y := squareTimes 6 (expFix (x / 32))
          (y - one) * one / (y + one)
      narrowFix sat (if n then -v else v) 0

end Sys2Proof
end

