-- ==== Sys2Proof/Machine/Quant.lean ====
section
/-! DEFINITION. The block formats (R79 to R85), the scalar and packed floating-point operations of one
lane (R99 to R107), and the cross-lane quantise operations on the 32 lanes of a register (R108 to R113). -/

namespace Sys2Proof

/-! ## Scalar FP32 (R99 to R104) -/

/-- The FP32 value of a register. -/
def f32 (x : DWord) : XVal := Fmt.value .f32 (x.toNat % 2 ^ 32)
/-- An FP32 result as it is written. -/
def toF32 (sat : Bool) (x : XVal) : DWord := BitVec.ofNat 64 (narrowF (Fmt.float .f32) sat x)

/-- `fadd` (R100). -/
def opFadd (m : FpMod) (a b : DWord) : DWord := toF32 m.sat ((f32 a).add (f32 b))
/-- `fsub` (R100): a + (−b). -/
def opFsub (m : FpMod) (a b : DWord) : DWord := toF32 m.sat ((f32 a).add (f32 b).neg)
/-- `fmul` (R100). -/
def opFmul (m : FpMod) (a b : DWord) : DWord := toF32 m.sat ((f32 a).mul (f32 b))
/-- `fma` (R100): one rounding. -/
def opFma (m : FpMod) (a b c : DWord) : DWord := toF32 m.sat (((f32 a).mul (f32 b)).add (f32 c))
/-- `fdiv` (R104). -/
def opFdiv (m : FpMod) (a b : DWord) : DWord := toF32 m.sat ((f32 a).div (f32 b))
/-- `frcp` (R104). -/
def opFrcp (m : FpMod) (a : DWord) : DWord := toF32 m.sat ((XVal.fin false 1 0).div (f32 a))
/-- `frsq` (R104). -/
def opFrsq (m : FpMod) (a : DWord) : DWord := toF32 m.sat (f32 a).rsqrt
/-- `fsqrt` (R104). -/
def opFsqrt (m : FpMod) (a : DWord) : DWord := toF32 m.sat (f32 a).sqrt
/-- `fexp2` (R104). -/
def opFexp2 (m : FpMod) (a : DWord) : DWord := (funExp2 m.sat (a.setWidth 32)).setWidth 64
/-- `flog2` (R104). -/
def opFlog2 (m : FpMod) (a : DWord) : DWord := (funLog2 m.sat (a.setWidth 32)).setWidth 64
/-- `fsin` (R104). -/
def opFsin (m : FpMod) (a : DWord) : DWord := (funTrig false m.sat (a.setWidth 32)).setWidth 64
/-- `fcos` (R104). -/
def opFcos (m : FpMod) (a : DWord) : DWord := (funTrig true m.sat (a.setWidth 32)).setWidth 64
/-- `ftanh` (R104). -/
def opFtanh (m : FpMod) (a : DWord) : DWord := (funTanh m.sat (a.setWidth 32)).setWidth 64

/-- A single register's 32 bits. -/
def DWord.trim32 (x : DWord) : DWord := (x.setWidth 32).setWidth 64

/-- The order of R101 and R102 on FP32 values, with −0 below +0. -/
def f32Below (a b : DWord) : Bool :=
  (f32 a).lt (f32 b) || ((f32 a).eqv (f32 b) && a.getLsbD 31 && !b.getLsbD 31)

/-- `fmin` and `fmax` (R101): one of the sources unchanged. -/
def fminmax (larger : Bool) (a b : DWord) : DWord :=
  match (f32 a).isNaN, (f32 b).isNaN with
  | true, true => 0x7FC00000
  | true, false => b.trim32
  | false, true => a.trim32
  | false, false => if f32Below b a != larger then b.trim32 else a.trim32

/-- `fmin` (R101). -/
def opFmin (_ : FpMod) (a b : DWord) : DWord := fminmax false a b
/-- `fmax` (R101). -/
def opFmax (_ : FpMod) (a b : DWord) : DWord := fminmax true a b

/-! ## Packed halves (R105) -/

/-- Element k of a packed register in a 16-bit format. -/
def half (f : Fmt) (x : DWord) (k : Nat) : XVal := f.value (x.toNat / 2 ^ (16 * k) % 2 ^ 16)
/-- The register of two narrowed elements. -/
def packHalves (f : Fmt) (sat : Bool) (x y : XVal) : DWord :=
  BitVec.ofNat 64 (narrowF f.float sat x + narrowF f.float sat y * 2 ^ 16)

/-- `hadd2` (R105). -/
def opHadd2 (m : FpMod) (a b : DWord) : DWord :=
  let r := fun k => (half m.fmt a k).add (half m.fmt b k)
  packHalves m.fmt m.sat (r 0) (r 1)
/-- `hmul2` (R105). -/
def opHmul2 (m : FpMod) (a b : DWord) : DWord :=
  let r := fun k => (half m.fmt a k).mul (half m.fmt b k)
  packHalves m.fmt m.sat (r 0) (r 1)
/-- `hfma2` (R105). -/
def opHfma2 (m : FpMod) (a b c : DWord) : DWord :=
  let r := fun k => ((half m.fmt a k).mul (half m.fmt b k)).add (half m.fmt c k)
  packHalves m.fmt m.sat (r 0) (r 1)

/-! ## Conversion (R106, R107) -/

/-- The integer type that the immediate of `cvt` names (R106). -/
def cvtTy (imm : Word) : Ty :=
  match imm.toNat % 16 with
  | 0 => .i8 | 1 => .i16 | 2 => .i32 | 3 => .i64 | 4 => .n8 | 5 => .n16 | 6 => .n32 | _ => .n64

/-- `cvt` (R107). -/
def opCvt (m : FpMod) (imm : Word) (a : DWord) : DWord :=
  let ty := cvtTy imm
  let x := if m.fmt2 = .i8 then XVal.ofInt (ty.read a) else m.fmt2.value (a.toNat % 2 ^ m.fmt2.width)
  match cvtKind m.fmt2 m.fmt with
  | some .toInt => ty.write (narrowInt ty.minOf ty.maxOf x)
  | some .scale => BitVec.ofNat 64 (scaleCode x)
  | _ => BitVec.ofNat 64 (narrowF m.fmt.float m.sat x)

/-! ## The I4E format (R79, R80) -/

/-- The value of an E2M1 nibble. -/
def e2m1 (n : Nat) : XVal := Fmt.value .e2m1 n

/-- A nibble in two's complement. -/
def nibbleInt (n : Nat) : XVal := XVal.ofInt (if 8 ≤ n then (n : Int) - 16 else n)

/-- An outlier payload: 16 times the E2M1 value, −0 read as 0 (R79). -/
def outlier (n : Nat) : XVal :=
  match (e2m1 n).scale 4 with
  | .fin s m e => if m = 0 then .fin false 0 0 else .fin s m e
  | x => x

/-- The two values of an I4E byte (R79). -/
def readI4EPair (byte : Nat) : XVal × XVal :=
  let lo := byte % 16
  let hi := byte / 16 % 16
  if lo = 8 then (outlier hi, .fin false 0 0)
  else if hi = 8 then (.fin false 0 0, outlier lo)
  else (nibbleInt lo, nibbleInt hi)

/-- Whether a value is a candidate for the escape of R80, and the integer it rounds to. -/
def i4eRound (x : XVal) : Bool × Int :=
  match x with
  | .nan => (false, 0)
  | .inf _ => (true, 0)
  | _ => let k := narrowInt (-1000) 1000 x; (decide (7 < k.natAbs), k)

/-- The byte that holds a pair of values (R80). -/
def packI4EPair (x0 x1 : XVal) : Nat :=
  let (c0, m0) := i4eRound x0
  let (c1, m1) := i4eRound x1
  let payload := fun (x : XVal) => narrowF (Fmt.float .e2m1) true (x.scale (-4))
  if !c0 && !c1 then (m0.emod 16).toNat + (m1.emod 16).toNat * 16
  else if c0 && (!c1 || !x0.abs.lt x1.abs) then 8 + payload x0 * 16
  else payload x1 + 128

/-! ## Blocks (R81, R82, R108) -/

/-- Emax of R82. -/
def Fmt.emax : Fmt → Int
  | .e4m3 => 8
  | .e5m2 => 15
  | .i8 => 6
  | _ => 2

/-- The larger magnitude. -/
def maxAbs (x y : XVal) : XVal := if x.lt y.abs then y.abs else x

/-- The 32 values taken two at a time. -/
def pairUp : List XVal → List (XVal × XVal)
  | x :: y :: r => (x, y) :: pairUp r
  | _ => []

/-- The bytes of a block image under an exponent X (R82): element codes in memory order. -/
def imageBytes (f : Fmt) (xs : List XVal) : List Nat :=
  match f with
  | .i4e => (pairUp xs).map fun (x, y) => packI4EPair x y
  | .e2m1 => (pairUp xs).map fun (x, y) => narrowF f.float true x + 16 * narrowF f.float true y
  | .i8 => xs.map fun x => ((narrowInt (-128) 127 x).emod 256).toNat
  | _ => xs.map fun x => narrowF f.float true x

/-- QuantiseBlock of R82: the scale code and the bytes of the image. -/
def quantiseBlock (f : Fmt) (xs : List XVal) : Nat × List Nat :=
  let n := if f.width = 4 then 16 else 32
  if xs.any fun x => !x.isFin then (0xFF, List.replicate n 0)
  else match xs.foldl maxAbs (.fin false 0 0) with
    | .fin _ m e =>
      if m = 0 then (0x7F, List.replicate n 0)
      else
        let x := clampZ (-127) 127 (floorLog2 m e - f.emax)
        ((x + 127).toNat, imageBytes f (xs.map (XVal.scale (-x))))
    | _ => (0xFF, List.replicate n 0)

/-- The register word of lane i of an image (R108): 0 beyond the image. -/
def imageWord (bytes : List Nat) (i : Nat) : Word :=
  BitVec.ofNat 32 ((List.range 4).foldr (fun k acc => acc * 256 + (bytes[4 * i + k]?).getD 0) 0)

/-- Byte j of the image held in the lanes of a register (R108). -/
def imageByte (lanes : Nat → Word) (j : Nat) : Nat := (lanes (j / 4)).toNat / 2 ^ (8 * (j % 4)) % 256

/-- Element i of an image (R111): ElementValue. -/
def elementValue (f : Fmt) (byte : Nat → Nat) (i : Nat) : XVal :=
  match f with
  | .i4e => let p := readI4EPair (byte (i / 2)); if i % 2 = 0 then p.1 else p.2
  | .e2m1 => e2m1 (byte (i / 2) / (if i % 2 = 0 then 1 else 16) % 16)
  | _ => f.value (byte i)

/-- The scale of block slot n in a scale register (R108). -/
def scaleOf (lanes : Nat → Word) (n : Nat) : Nat := (lanes (n % 32)).toNat / 2 ^ (8 * (n / 32)) % 256

/-- A word with byte k replaced. -/
def setByte (w : Word) (k v : Nat) : Word :=
  (w &&& ~~~((0xFF#32) <<< (8 * k))) ||| ((BitVec.ofNat 32 (v % 256)) <<< (8 * k))

/-- The value of a block element under its scale (R81). -/
def blockValue (s : Nat) (x : XVal) : XVal := if s = 0xFF then .nan else x.scale ((s : Int) - 127)

/-- The source value of lane k of `pk4` (R112). -/
def pk4Source (f : Fmt) (w : Word) : XVal :=
  if f = .i8 then XVal.ofInt (Ty.read .i8 (w.setWidth 64)) else Fmt.value .f32 w.toNat

/-- The bytes that `pk4` writes (R112). -/
def pk4Image (f : Fmt) (lanes : Nat → Word) : List Nat :=
  (List.range 16).map fun j => packI4EPair (pk4Source f (lanes (2 * j))) (pk4Source f (lanes (2 * j + 1)))

/-- The value that lane i of `upk4` receives (R112). -/
def upk4Word (f : Fmt) (lanes : Nat → Word) (i : Nat) : Word :=
  let x := elementValue .i4e (imageByte lanes) i
  if f = .i8 then BitVec.ofInt 32 (narrowInt (-128) 127 x) else BitVec.ofNat 32 (narrowF (Fmt.float .f32) false x)

/-- The largest magnitude of 32 lanes, NaN if any is NaN (R113). -/
def amaxOf (lanes : List Word) : XVal :=
  let xs := lanes.map fun w => Fmt.value .f32 w.toNat
  if xs.any XVal.isNaN then .nan else xs.foldl maxAbs (.fin false 0 0)

/-- The result of `amax` for one lane (R113). A NaN in b of a lane makes the result NaN in that lane alone (log entry
103). -/
def amaxWith (r : XVal) (b : Word) : Word :=
  let y := Fmt.value .f32 b.toNat
  if r.isNaN || y.isNaN then 0x7FC00000 else BitVec.ofNat 32 (narrowF (Fmt.float .f32) false (maxAbs r y))

/-! ## The feature-map codecs (R83 to R85) -/

/-- Magnitude bits of a codec. -/
def Fmc.mbits : Fmc → Nat
  | .fmc4 => 2
  | _ => 6

/-- Bytes of an encoded block of 64 values (R83). -/
def Fmc.bytes : Fmc → Nat
  | .plain => 128
  | .fmc2 => 64
  | .fmc4 => 32

/-- One element code of EncodeSubBlock (R84): the sign in the bit above the magnitude. -/
def fmcCode (mbits e v : Nat) : Nat :=
  let maxm := 2 ^ mbits - 1
  let s := v / 2 ^ 15 % 2
  let mag :=
    if e = 255 then
      match Fmt.value .bf16 v with
      | .nan => 1
      | .inf _ => maxm
      | .fin _ _ _ => 0
    else
      match Fmt.value .bf16 v with
      | .fin _ m x =>
        let y := narrowInt 0 (2 ^ mbits) (.fin false m (x - ((if e = 0 then 1 else e : Nat) - 127 - (mbits - 1 : Nat) : Int)))
        if maxm < y.toNat then maxm else y.toNat
      | _ => 0
  (match Fmt.value .bf16 v with | .nan => 0 | _ => s) * 2 ^ mbits + mag

/-- The exponent of a sub-block (R84): the largest exponent field. -/
def fmcExp (vs : List Nat) : Nat := (vs.map fun v => v / 2 ^ 7 % 256).foldl max 0

/-- The eight values of sub-block j. -/
def subBlock (vs : List Nat) (j : Nat) : List Nat := (vs.drop (8 * j)).take 8

/-- The encoded block of 64 BF16 codes, as one number with bit 0 lowest (R83). -/
def fmcEncode (c : Fmc) (vs : List Nat) : Nat :=
  let mb := c.mbits
  (List.range 8).foldl (fun acc j =>
    let sub := subBlock vs j
    let e := fmcExp sub
    (List.range 8).foldl (fun acc k => acc + fmcCode mb e ((sub[k]?).getD 0) * 2 ^ (64 + (mb + 1) * (8 * j + k)))
      (acc + e * 2 ^ (8 * j))) 0

/-- One decoded value (R85): the BF16 code. -/
def fmcValue (mbits e code : Nat) : Nat :=
  let s := code / 2 ^ mbits % 2 = 1
  let m := code % 2 ^ mbits
  let x : XVal :=
    if e = 255 then (if m = 0 then .fin s 0 0 else if m = 2 ^ mbits - 1 then .inf s else .nan)
    else .fin s m ((if e = 0 then 1 else e : Nat) - 127 - (mbits - 1 : Nat) : Int)
  narrowF (Fmt.float .bf16) false x

/-- The 64 BF16 codes of an encoded block (R85). -/
def fmcDecode (c : Fmc) (bits : Nat) : List Nat :=
  let mb := c.mbits
  (List.range 64).map fun k =>
    fmcValue mb (bits / 2 ^ (8 * (k / 8)) % 256) (bits / 2 ^ (64 + (mb + 1) * k) % 2 ^ (mb + 1))

end Sys2Proof
end

