-- ==== Sys2Proof/Machine/Lines.lean ====
section
/-! DEFINITION. Device memory at its homes: home slices and dirty lines, damaged units, owned words and their recall,
frame ownership, and commutative ranges with their combined values (R13, R14, R149, R150, R173 to R177, R300, R338,
R350, R351). -/

namespace Sys2Proof.Machine

open Sys2Proof

/-! ## Homes (R13, R14, R303, R304) -/

/-- The home die of a device physical address (R303, R304). -/
def homeDie (pa : Nat) : Nat := pa / 2 ^ 39

/-- Whether an address lies in installed HBM (R303). -/
def installed (pa : Nat) : Bool := decide (pa / 2 ^ 39 < 2 ∧ pa % 2 ^ 39 < 288 * 10 ^ 9)

/-- The remote-data cache size of a die in GiB (R364). -/
def Regs.rdcSz (r : Regs) (d : Nat) : Nat := if d = 0 then r.rdcSz0 else r.rdcSz1

/-- Whether an address lies in the context memory of its die (R304). -/
def State.contextMemory (s : State) (pa : Nat) : Bool :=
  decide (pa / 2 ^ 39 < 2 ∧ pa % 2 ^ 39 < (236 - s.dev.regs.rdcSz (homeDie pa)) * 2 ^ 30)

/-- The index of a line's home slice in its die (R13, R14): the addresses of a retired slice are homed on the next one
that is in service (R352). -/
def State.sliceIx (s : State) (line : Nat) : Nat :=
  let first := Config.sliceOf line % 48
  let serves := fun (j : Nat) => !s.dev.regs.slices.contains (homeDie (line * 64) * 48 + (first + j) % 48)
  (first + ((List.range 48).find? serves).getD 0) % 48

/-- The number of a line's home slice: 48 to each die. -/
def State.sliceKey (s : State) (line : Nat) : Nat := homeDie (line * 64) * 48 + s.sliceIx line

/-- The lines that some bytes touch. -/
def linesOf (pa n : Nat) : List Nat := (List.range ((pa % 64 + n + 63) / 64)).map (pa / 64 + ·)

/-- Some bytes cut at the lines: addresses and lengths. -/
def lineRuns (pa n : Nat) : List (Nat × Nat) :=
  (List.range ((pa % 64 + n + 63) / 64)).map fun k =>
    let a := if k = 0 then pa else (pa / 64 + k) * 64
    (a, min (pa + n) ((pa / 64 + k + 1) * 64) - a)

/-- The lines of a home slice's 2 MiB (R13). -/
def sliceLines : Nat := 2 ^ 21 / 64

/-- Dirty lines written to HBM: a damaged sector of one stays damaged there (R338). -/
def State.cleaned (s : State) (which : Nat → Bool) : State :=
  let kept := s.homes.dirty.filter fun e => !which e.1
  let moved := fun (u : Nat × Nat) => if u.1 == 0x10 && which (u.2 / 2) && s.homes.dirty.has (u.2 / 2) then (0x11, u.2) else u
  { s with
    homes := { s.homes with dirty := kept }
    dev := { s.dev with damage := if s.dev.damage.isEmpty then [] else (s.dev.damage.map moved).eraseDups } }

/-- The dirty line of a full slice that goes to HBM for one more, which the specification does not name (log entry 111). -/
def State.l2Victim (s : State) (line : Nat) : Option Nat :=
  let key := s.sliceKey line
  let mine := s.homes.dirty.filter fun e => s.sliceKey e.1 == key
  if s.homes.dirty.length < sliceLines || mine.length < sliceLines then none
  else (mine[Config.l2Victim key s.ctrl.stamp mine.length % mine.length]?).map (·.1)

/-- The state with room in a line's slice for one more dirty line. -/
def State.l2Room (s : State) (line : Nat) : State := (s.l2Victim line).elim s fun v => s.cleaned (· == v)

/-- A line of device memory that its home is about to write: it becomes dirty in the L2, and HBM keeps what it holds
for it until it is written back (R14, R347). -/
def State.dirtyLine (s : State) (line : Nat) : State :=
  if s.homes.dirty.has line then s
  else
    let t := s.l2Room line
    { t with homes := { t.homes with dirty := t.homes.dirty.put line (Memory.readBytes t.mem.dev (line * 64) 64) } }

/-- Lines of device memory that their homes are about to write. -/
def State.dirty (s : State) (lines : List Nat) : State := lines.foldl State.dirtyLine s

/-! ## Damaged units (R338, R340, R350, R351) -/

/-- The first damaged unit among some. -/
def State.damaged (s : State) (us : List (Nat × Nat)) : Option (Nat × Nat) :=
  if s.dev.damage.isEmpty then none else us.find? fun u => s.dev.damage.contains u

/-- Units written whole, no longer damaged (R338). -/
def State.repair (s : State) (us : List (Nat × Nat)) : State :=
  if s.dev.damage.isEmpty then s
  else { s with dev := { s.dev with damage := s.dev.damage.filter fun u => !us.contains u } }

/-- The 32-byte sectors that some bytes touch, in HBM and in an L2 line (R338). -/
def sectorUnits (pa n : Nat) : List (Nat × Nat) :=
  let ss := ((List.range n).map fun k => (pa + k) / 32).dedup
  ss.map (fun k => (0x11, k)) ++ ss.map fun k => (0x10, k)

/-- The marks of sectors whose stored data needs correction (R350, R351). -/
def sectorMarks (pa n : Nat) : List (Nat × Nat) := ((List.range n).map fun k => (0x111, (pa + k) / 32)).dedup

/-- Whether some runs of bytes (address, length) cover the sector of a unit whole. -/
def unitCovered (runs : List (Nat × Nat)) (u : Nat × Nat) : Bool :=
  (List.range 32).all fun k => runs.any fun e => decide (e.1 ≤ u.2 * 32 + k ∧ u.2 * 32 + k < e.1 + e.2)

/-- The damaged unit that some bytes of a store meet: one that the runs of the store do not cover whole. -/
def State.storeDamage (s : State) (runs : List (Nat × Nat)) (pa n : Nat) : Option (Nat × Nat) :=
  if s.dev.damage.isEmpty then none else s.damaged ((sectorUnits pa n).filter fun u => !unitCovered runs u)

/-- The block of a unit that lies in a flask's allocation or serves a block. -/
def unitBlock (struct key : Nat) : Nat :=
  match struct with
  | 0x01 => key / 32 / 256 / 32
  | 0x02 => key * 4 / 2 ^ 19
  | 0x03 => key * 4 / 8192 / 16
  | 0x04 => key / 1024 / 8
  | 0x05 => key / 2 ^ 20 / 32
  | 0x06 => key / 128 / 32
  | 0x09 => key % 512
  | _ => key

/-- The die and the HBM stack of a sector (R304). -/
def stackOf (sector : Nat) : Nat × Nat := (homeDie (sector * 32), sector * 32 % 2 ^ 39 / 4096 % 6)

/-- Where a damaged unit lies, for its record (R304, R339): its die, the core, home slice or HBM stack there, and its
physical address or scratchpad offset. -/
def State.unitPlace (s : State) (struct key : Nat) : (Nat × Nat) × Nat :=
  let core := if struct = 0x13 then key % 256 else coreOf (unitBlock struct key)
  match struct with
  | 0x02 => ((dieOfCore core, core % 120), key * 4 % 2 ^ 19)
  | 0x09 => ((dieOfCore core, core % 120), key / 512 * 64)
  | 0x01 | 0x03 | 0x04 | 0x05 | 0x06 | 0x07 | 0x08 | 0x0A | 0x13 => ((dieOfCore core, core % 120), 0)
  | 0x10 => ((homeDie (key * 32), s.sliceIx (key / 2)), key * 32)
  | 0x14 => ((homeDie (key * 64), s.sliceIx key), key * 64)
  | 0x11 | 0x20 => (stackOf key, key * 32)
  | 0x12 => ((key % 2, 0), key / 2 * 64)
  | 0x24 => ((key % 2, 0), 0)
  | _ => ((0, 0), 0)

/-- The record of an error in a unit (R339). -/
def State.unitRecord (s : State) (ue : Bool) (act tag struct key : Nat) : ErrRec :=
  let p := s.unitPlace struct key
  { ue, act, tag, struct, die := p.1.1, loc := p.1.2, addr := p.2 }

/-- A corrected error of a unit written to the device log and counted (R339, R352): the core, home slice, stack or port
of a structure is what counts them, and its hours run from the first error in each (log entry 101). -/
def State.corrected (s : State) (tag struct key : Nat) : State :=
  let p := (s.unitPlace struct key).1
  let place := struct * 2 ^ 16 + p.1 * 256 + p.2
  let c := s.dev.corrected.get place (s.ctrl.time, 0)
  let c := if s.ctrl.time < c.1 + microseconds 3600000000 then (c.1, c.2 + 1) else (s.ctrl.time, 1)
  let s := { s with dev := { s.dev with corrected := s.dev.corrected.put place c } }
  let s := s.record (s.unitRecord false 0 tag struct key)
  if c.2 = s.dev.regs.ceThr then s.irq none 0 else s

/-- A flask that is to consume a damaged unit at the end of the turn (R341). -/
def State.ruinBlock (s : State) (bid struct key : Nat) : State :=
  if s.homes.ruined.contains (bid, struct, key) then s
  else { s with homes := { s.homes with ruined := s.homes.ruined ++ [(bid, struct, key)] } }

/-- A context that a damaged unit ends at the end of the turn (R346). -/
def State.ruinTag (s : State) (tag struct key : Nat) : State :=
  if s.homes.ruinedCtx.contains (tag, struct, key) then s
  else { s with homes := { s.homes with ruinedCtx := s.homes.ruinedCtx ++ [(tag, struct, key)] } }

/-- Bytes written to device memory: the units that they cover whole are sound again (R338), and no correction of their
sectors is due any more (R351). -/
def State.devWrite (s : State) (pa : Nat) (bytes : List Byte) : State :=
  let s := s.dirty (linesOf pa bytes.length)
  let s := { s with mem := { s.mem with dev := Memory.writeBytes s.mem.dev pa bytes } }
  if s.dev.damage.isEmpty then s
  else s.repair (sectorMarks pa bytes.length ++ (sectorUnits pa bytes.length).filter (unitCovered [(pa, bytes.length)]))

/-! ## Owned words (R173 to R177) -/

/-- The key of an owner record. -/
def ownerKey (line bid : Nat) : Nat := line * 512 + bid

/-- The words of a line as runs of bytes. -/
def wordRuns (line : Nat) (words : BitVec 16) : List (Nat × Nat) :=
  ((List.range 16).filter fun k => words.getLsbD k).map fun k => (line * 64 + 4 * k, 4)

/-- The words of a line written over its bytes, from a mask of 4-byte words. -/
def mergeWords (mem : Memory) (line : Nat) (words : BitVec 16) (bytes : List Byte) : Memory :=
  (List.range 64).foldl (fun m k =>
    if words.getLsbD (k / 4) then Memory.write m (line * 64 + k) ((bytes[k]?).getD 0) else m) mem

/-- An owner record without some words: none is left where it owns no other. -/
def State.disown (s : State) (line bid : Nat) (words : BitVec 16) : State :=
  let k := ownerKey line bid
  match s.homes.owners.get? k with
  | none => s
  | some o =>
    let rest := o.words &&& ~~~words
    { s with homes := { s.homes with owners :=
        if rest = 0 then s.homes.owners.erase k else s.homes.owners.put k { o with words := rest, pending := o.pending &&& ~~~words } } }

/-- Words of a line written at its home: the units that they cover whole are sound again. -/
def State.writeWords (s : State) (line : Nat) (words : BitVec 16) (bytes : List Byte) : State :=
  let s := s.dirtyLine line
  let s := { s with mem := { s.mem with dev := mergeWords s.mem.dev line words bytes } }
  if s.dev.damage.isEmpty then s
  else
    let runs := wordRuns line words
    s.repair (runs.flatMap (fun e => sectorMarks e.1 e.2) ++ (sectorUnits (line * 64) 64).filter (unitCovered runs))

/-- The 4-byte words of a line that some bytes touch. -/
def wordMask (ofs n : Nat) : BitVec 16 := (List.range n).foldl (fun m k => m ||| (1#16) <<< ((ofs + k) / 4)) 0

/-- The 4-byte words of a line that some bytes cover whole. -/
def wholeWords (ofs n : Nat) : BitVec 16 :=
  (List.range 16).foldl (fun m k => if ofs ≤ 4 * k ∧ 4 * k + 4 ≤ ofs + n then m ||| (1#16) <<< k else m) 0

/-- Bytes of a present entry of a die's remote-data cache replaced with those at the home (R172): a store of the die
that the home has acknowledged, a write-back of one of its blocks, or a `.uc` response, to n bytes of one line. -/
def State.patchCache (s : State) (die pa n : Nat) : State :=
  let d := s.die die
  let line := pa / 64
  if homeDie pa = die then s
  else match d.rdc.get? line with
    | none => s
    | some e =>
      let fresh := Memory.readBytes s.mem.dev (line * 64) 64
      let bytes := e.bytes.zipIdx.map fun b =>
        if pa % 64 ≤ b.2 ∧ b.2 < pa % 64 + n then (fresh[b.2]?).getD b.1 else b.1
      s.setDie die { d with rdc := d.rdc.put line { e with bytes, held := e.held ||| wholeWords (pa % 64) n } }

/-- A write-back performed at its home (R176): the words are written, a copy of them in the remote-data cache that they
pass takes them (R172), and they leave the record. One that covers only part of
a damaged unit is not performed, and its flask consumes the error (R338). -/
def State.landBack (s : State) (id : Nat) : State :=
  match s.homes.backs.get? id with
  | none => s
  | some b =>
    let s := { s with homes := { s.homes with backs := s.homes.backs.erase id } }
    let s := s.disown b.line b.bid b.words
    let runs := wordRuns b.line b.words
    match runs.findSome? fun e => s.storeDamage runs e.1 e.2 with
    | some u => s.ruinBlock b.bid u.1 u.2
    | none => runs.foldl (fun s e => s.patchCache (dieOfBlock b.bid) e.1 e.2) (s.writeWords b.line b.words b.bytes)

/-- The owning core's part of a recall (R175): the line leaves the owner buffer as a write-back. The flask that owns a
damaged line consumes the error, and the home keeps what it holds (R177). -/
def State.sendBack (s : State) (line bid : Nat) : State :=
  let c := s.core (coreOf bid)
  let mine := fun (l : OwnerLine) => l.line == line && l.bid == bid
  match c.owner.find? mine with
  | none => s
  | some l =>
    let s := s.setCore (coreOf bid) { c with owner := c.owner.filter fun x => !mine x }
    let k := ownerKey line bid
    if (s.damaged [(0x09, k)]).isSome then ((s.disown line bid l.words).repair [(0x09, k)]).ruinBlock bid 0x09 k
    else
      let o := s.homes.owners.get k { words := l.words, bid, tag := l.tag }
      let s := { s with homes := { s.homes with
        backs := s.homes.backs.put s.ctrl.nextId ⟨line, bid, l.words, l.bytes⟩
        owners := s.homes.owners.put k { o with pending := o.pending ||| l.words } } }
      s.bump

/-- The block slots that own words of a line. -/
def State.ownersOf (s : State) (line : Nat) : List Nat :=
  (s.homes.owners.filter fun o => o.1 / 512 == line).map fun o => o.1 % 512

/-- A recall carried through at once: what an engine, host, peer or firmware access at a home finds. -/
def State.recallNow (s : State) (line : Nat) : State :=
  let s := (s.ownersOf line).foldl (fun s b => s.sendBack line b) s
  (s.homes.backs.filter fun b => b.2.line == line).foldl (fun s b => s.landBack b.1) s

/-- The device address at which an access to an address is performed: during the forwarding of a migration, an
address of the old frame stands for the same place in the new one (R182). -/
def State.forward (s : State) (pa : Nat) : Nat :=
  match s.homes.migration with
  | some m =>
    if (m.step == .forwarding || m.step == .switched) && pa / 2 ^ 16 * 2 ^ 16 == m.old then m.new + pa % 2 ^ 16 else pa
  | none => pa

/-- The value of a byte at its home, owned words included. -/
def State.homeByte (s : State) (pa : Nat) : Byte :=
  let pa := s.forward pa
  Memory.read (s.recallNow (pa / 64)).mem.dev pa

/-- Consecutive bytes at their homes. -/
def State.homeBytes (s : State) (pa n : Nat) : List Byte := (List.range n).map fun k => s.homeByte (pa + k)

/-- A number read at its home. -/
def State.homeNat (s : State) (pa n : Nat) : Nat := leNat (s.homeBytes pa n)

/-- Owned words of the lines of some bytes recalled. -/
def State.recallLines (s : State) (pa n : Nat) : State := (linesOf pa n).foldl State.recallNow s

/-- Bytes written to device memory at their home after the recall of owned words. -/
def State.homeWrite (s : State) (pa : Nat) (bytes : List Byte) : State :=
  let pa := s.forward pa
  (s.recallLines pa bytes.length).devWrite pa bytes

/-! ## Frames (R300) -/

/-- The ownership entry of the frame of an address: tag 0 outside context memory (R304). -/
def State.frameEntry (s : State) (pa : Nat) : BitVec 16 :=
  if s.contextMemory pa then s.homes.frames.get (pa / 2 ^ 16) 0 else 0

/-- The tag of the owner of a frame's address. -/
def State.ownerTag (s : State) (pa : Nat) : Nat := ((s.frameEntry pa).setWidth 8).toNat

/-- A read that corrects sectors (R350): each is counted, and its write-back is queued once. -/
def State.correctRead (s : State) (pa n : Nat) : State :=
  if s.dev.damage.isEmpty then s
  else (sectorMarks pa n).foldl (fun s u =>
    let d := s.die (homeDie (u.2 * 32))
    if s.dev.damage.contains u && !d.scrubQ.contains u.2 then
      (s.setDie (homeDie (u.2 * 32)) { d with scrubQ := d.scrubQ ++ [u.2] }).corrected (s.ownerTag (u.2 * 32)) 0x11 u.2
    else s) s

/-- Whether a party of a context may access the frame of an address (R300). -/
def State.frameOk (s : State) (tag pa : Nat) : Bool :=
  let e := s.frameEntry pa
  let owner := (e.setWidth 8).toNat
  let same := (s.context owner).tenant == (s.context tag).tenant
  if owner = 0 then false
  else if e.getLsbD 15 then (s.context tag).priv && same
  else owner == tag || (e.getLsbD 14 && same)

/-- The refusal of an access to a line's frame (R182, R300). -/
def State.frameRefused (s : State) (tag line : Nat) : Option Nat :=
  if s.homes.retired.contains (line * 64 / 2 ^ 16) then some 0x102
  else if !s.frameOk tag (line * 64) then some 0x108 else none

/-! ## Commutative ranges (R149, R150) -/

/-- The device address of an offset from a virtual base, through the pages noted at declaration. -/
def mapAddr (base : Nat) (pages : List Nat) (ofs : Nat) : Option Nat :=
  let va := base + ofs
  (pages[va / 2 ^ 16 - base / 2 ^ 16]?).map fun p => p + va % 2 ^ 16

/-- The offset in an area of a device address. -/
def areaOfs (base len : Nat) (pages : List Nat) (pa : Nat) : Option Nat :=
  (pages.zipIdx.findSome? fun e =>
    if e.1 = pa / 2 ^ 16 * 2 ^ 16 then
      let va := (base / 2 ^ 16 + e.2) * 2 ^ 16 + pa % 2 ^ 16
      if base ≤ va ∧ va < base + len then some (va - base) else none
    else none)

/-- The bytes of an element's slot of a commutative range (R149). -/
def RangeFmt.bytes : RangeFmt → Nat
  | .bf16 => 2
  | _ => 4

/-- Whether a range's context may still access an address of its areas (R300). -/
def State.inArea (s : State) (r : Range) (pa : Nat) : Bool := (s.frameRefused r.tag (pa / 64)).isNone

/-- The declared range whose home area holds a device address, with the offset in that area. -/
def State.rangeAt (s : State) (pa : Nat) : Option (Range × Nat) :=
  s.contexts.findSome? fun c => c.2.ranges.findSome? fun r =>
    (areaOfs r.home (r.len * r.fmt.bytes) r.homeMap pa).bind fun o => if s.inArea r pa then some (r, o) else none

/-- Whether a line holds bytes of the home area of a declared range. -/
def State.inRange (s : State) (line : Nat) : Bool := (List.range 64).any fun k => (s.rangeAt (line * 64 + k)).isSome

/-- The device address of the first byte of slot k of element e. -/
def Range.slotAddr (r : Range) (e k : Nat) : Option Nat := mapAddr r.shadow r.shadowMap ((e * r.slots + k) * r.fmt.bytes)

/-- The device address of element e. -/
def Range.homeAddr (r : Range) (e : Nat) : Option Nat := mapAddr r.home r.homeMap (e * r.fmt.bytes)

/-- A slot of a range, in a frame that its context may access (R300). -/
def State.slotAt (s : State) (r : Range) (e k : Nat) : Option Nat := (r.slotAddr e k).filter (s.inArea r)

/-- An element of a range, in a frame that its context may access (R300). -/
def State.elemAt (s : State) (r : Range) (e : Nat) : Option Nat := (r.homeAddr e).filter (s.inArea r)

/-- The slots of an element. -/
def State.slotsOf (s : State) (r : Range) (e : Nat) : List Nat := (List.range r.slots).filterMap (s.slotAt r e)

/-- One addition in the format of a range (R149). -/
def RangeFmt.plus (f : RangeFmt) (a b : Nat) : Nat :=
  match f with
  | .i32 => (a + b) % 2 ^ 32
  | .f32 => narrowF (Fmt.float .f32) false ((Fmt.value .f32 a).add (Fmt.value .f32 b))
  | .bf16 => narrowF (Fmt.float .bf16) false ((Fmt.value .bf16 a).add (Fmt.value .bf16 b))

/-- CombinedValue of R150, owned words included. -/
def State.combined (s : State) (r : Range) (e : Nat) : Nat :=
  (s.slotsOf r e).foldl (fun v pa => r.fmt.plus v (s.homeNat pa r.fmt.bytes)) ((s.elemAt r e).elim 0 fun pa => s.homeNat pa r.fmt.bytes)

/-- The units that an element's combined value is read from. -/
def State.elemUnits (s : State) (r : Range) (e : Nat) : List (Nat × Nat) :=
  ((s.elemAt r e).toList ++ s.slotsOf r e).flatMap fun pa => sectorUnits pa r.fmt.bytes

/-- A byte as a load at its home returns it: owned words included, and the combined value inside a range. -/
def State.valueByte (s : State) (pa : Nat) : Byte :=
  match s.rangeAt (s.forward pa) with
  | none => s.homeByte pa
  | some (r, o) => BitVec.ofNat 8 (s.combined r (o / r.fmt.bytes) / 2 ^ (8 * (o % r.fmt.bytes)))

/-- Consecutive bytes as loads at their homes return them. -/
def State.valueBytes (s : State) (pa n : Nat) : List Byte := (List.range n).map fun k => s.valueByte (pa + k)

/-- The units that a load of some bytes reads: in a range, the slots of their elements too. -/
def State.valueUnits (s : State) (pa n : Nat) : List (Nat × Nat) :=
  sectorUnits pa n ++ ((List.range n).filterMap fun k => s.rangeAt (pa + k)).flatMap fun e => s.elemUnits e.1 (e.2 / e.1.fmt.bytes)

/-- The damaged unit that a load of bytes meets. -/
def State.readDamage (s : State) (pa n : Nat) : Option (Nat × Nat) :=
  if s.dev.damage.isEmpty then none else s.damaged (s.valueUnits pa n)

/-- The runs of bytes that a load of some bytes reads: in a range, the elements and slots of their values too. -/
def State.valueRuns (s : State) (pa n : Nat) : List (Nat × Nat) :=
  (pa, n) :: (((List.range n).filterMap fun k => s.rangeAt (pa + k)).map fun e => (e.1, e.2 / e.1.fmt.bytes)).dedup.flatMap fun e =>
    ((s.elemAt e.1 e.2).toList ++ s.slotsOf e.1 e.2).map fun a => (a, e.1.fmt.bytes)

/-- The corrections that a load of some bytes makes (R350), in every sector that it reads. -/
def State.correctValue (s : State) (pa n : Nat) : State :=
  if s.dev.damage.isEmpty then s else (s.valueRuns pa n).foldl (fun s e => s.correctRead e.1 e.2) s

/-- The corrections that the combined value of an element makes (R350). -/
def State.correctElem (s : State) (r : Range) (e : Nat) : State :=
  if s.dev.damage.isEmpty then s
  else ((s.elemAt r e).toList ++ s.slotsOf r e).foldl (fun s a => s.correctRead a r.fmt.bytes) s

/-- The fold of an element (R150). -/
def State.foldElement (s : State) (r : Range) (e : Nat) : State :=
  let put := fun (x : Nat) (s : State) (pa : Nat) => s.homeWrite pa (leBytes r.fmt.bytes x)
  (s.slotsOf r e).foldl (put 0) ((s.elemAt r e).elim s (put (s.combined r e) s))

/-- A slot of an element with a contribution added (R149). -/
def State.addToSlot (s : State) (r : Range) (pa x : Nat) : State :=
  s.homeWrite pa (leBytes r.fmt.bytes (r.fmt.plus (s.homeNat pa r.fmt.bytes) x))

end Sys2Proof.Machine
end

