-- ==== Sys2Proof/Machine/Reads.lean ====
section
/-! DEFINITION. What a load at a home waits for, and what accesses do to the remote-data caches that they pass (R171,
R172, R174, R184, R347). -/

namespace Sys2Proof.Machine

open Sys2Proof

/-! ## What a load waits for (R171, R172, R174) -/

/-- The words of a request. -/
def Req.words (r : Req) : BitVec 16 := r.pieces.foldl (fun m p => m ||| wordMask (p.addr % 64) p.n) 0

/-- Whether two accesses go to one memory, whatever the window's class. -/
def Target.same : Target → Target → Bool
  | .peer ep ptag _, .peer ep2 ptag2 _ => ep == ep2 && ptag == ptag2
  | a, b => a == b

/-- Whether words of a line wait at their home for an earlier request (R174). -/
def State.wordsHeld (s : State) (line : Nat) (words : BitVec 16) : Bool :=
  s.homes.reqs.any fun e => e.2.status == .held && e.2.line == line && e.2.target == .device && (e.2.words &&& words) != 0

/-- Whether a combined store of a die to a line is not yet performed (R171). -/
def State.combining (s : State) (die line : Nat) : Bool :=
  (s.squads.any fun q => dieOfBlock (q.1 / 32) == die && q.2.combine.any fun c => c.line == line)
  || s.homes.reqs.any fun e => e.2.comb && (e.2.status == .sent || e.2.status == .held) && e.2.line == line && dieOfBlock e.2.bid == die

/-- Whether a load of a die finds the line in its remote-data cache while a store that passed the cache, held at the seam
or at its home, is not yet acknowledged (R172). -/
def State.passing (s : State) (die line : Nat) : Bool :=
  homeDie (line * 64) != die && (s.die die).rdc.has line
  && s.homes.reqs.any fun e => (e.2.status == .held || (e.2.status == .sent && e.2.arrived != 0)) && e.2.target == .device
    && e.2.line == line && dieOfBlock e.2.bid == die && (match e.2.op with | .store _ => true | _ => false)

/-- Whether a load of a die to a line waits for a store of the die (R171, R172). -/
def State.loadWaits (s : State) (die line : Nat) : Bool := s.combining die line || s.passing die line

/-- Whether some bytes wait at their homes for earlier requests (R174). -/
def State.linesHeld (s : State) (pa n : Nat) : Bool :=
  (lineRuns pa n).any fun e => s.wordsHeld (e.1 / 64) (wordMask (e.1 % 64) e.2)

/-- Whether a load of a die of some bytes waits at their lines: for a store of the die (R171, R172), or behind an
earlier request that is held at the home for the same words (R174). -/
def State.readWaits (s : State) (die pa n : Nat) : Bool :=
  ((linesOf pa n).any fun l => s.loadWaits die l) || s.linesHeld pa n

/-- Whether the homes of an address's die are out of reach for the other die, or for all that waits for a die's reset
(R347). -/
def State.seamClosed (s : State) (die : Option Nat) (pa : Nat) : Bool :=
  die != some (homeDie pa) && (s.die (homeDie pa)).phase != .running

/-- Whether an access to bytes at a home that is performed at once must wait: a party of a die waits for the stores of
its die, each for the requests that are held for the same words, and for a die that is out of service. -/
def State.homeWaits (s : State) (die : Option Nat) (pa n : Nat) : Bool :=
  s.seamClosed die pa || (match die with
    | some d => s.readWaits d pa n
    | none => s.linesHeld pa n)

/-! ## Remote-data caches that an access passes (R172) -/

/-- A present entry of a die's remote-data cache marked invalid (R172). -/
def State.spoilCache (s : State) (die line : Nat) : State :=
  let d := s.die die
  match d.rdc.get? line with
  | none => s
  | some e => if homeDie (line * 64) = die then s else s.setDie die { d with rdc := d.rdc.put line { e with valid := false } }

/-- A `.uc` store of a die's stack cache or engine to its home, past the die's remote-data cache (R172). -/
def State.storeFrom (s : State) (die pa : Nat) (bytes : List Byte) : State :=
  let pa := s.forward pa
  (lineRuns pa bytes.length).foldl (fun s e => s.patchCache die e.1 e.2) (s.homeWrite pa bytes)

/-- What a `.uc` load of a die of some bytes leaves at their homes and in the die's remote-data cache: owned words are
recalled (R174), corrected sectors are counted (R350), and present entries take the bytes returned (R172). -/
def State.loadDone (s : State) (die : Option Nat) (pa n : Nat) : State :=
  let s := (s.recallLines pa n).correctValue pa n
  match die with
  | some d => (lineRuns pa n).foldl (fun s e => s.patchCache d e.1 e.2) s
  | none => s

end Sys2Proof.Machine
end

