-- ==== Sys2Proof/Machine/Translate.lean ====
section
/-! DEFINITION. The page table and its caches, ATS translations, windows, routes to peers, and the page-fault queue
(R302 to R311, R361, R362, R367, R368, R376). -/

namespace Sys2Proof.Machine

open Sys2Proof

/-! ## The page table (R302, R303) -/

/-- Whether a walk of a context may read a node in the frame of an address (R300): a frame that the context may
access, or one that holds translation structures of its tenant (log entry 106). -/
def State.walkOk (s : State) (tag pa : Nat) : Bool :=
  let e := s.frameEntry pa
  let owner := (e.setWidth 8).toNat
  let same := (s.context owner).tenant == (s.context tag).tenant
  owner != 0 && (owner == tag || ((e.getLsbD 15 || e.getLsbD 14) && same))

/-- What a walk finds: a leaf with the base and size of its page, a page that is not present, a malformed
entry, a node in a frame that refuses it, a host page for which the host gives no translation (R361), a damaged unit
under an entry, by sector (R340), or a node whose read must wait (R171, R174, R347). -/
inductive Walk where
  | leaf (base size : Nat) (l : Leaf)
  | absent
  | malformed
  | refused
  | unbacked
  | damaged (sector : Nat)
  | waits
  deriving DecidableEq, Repr

/-- The size of a page mapped at a level (R302). -/
def levelSize (level : Nat) : Nat :=
  match level with
  | 0 => 2 ^ 16
  | 1 => 2 ^ 21
  | 2 => 2 ^ 30
  | 3 => 2 ^ 39
  | _ => 2 ^ 48

/-- The index of an address at a level (R302). -/
def levelIndex (level va : Nat) : Nat := va / levelSize level % (if level = 0 then 32 else 512)

/-- Bits hi : lo of an entry. -/
def bitsOf (e hi lo : Nat) : Nat := e / 2 ^ lo % 2 ^ (hi - lo + 1)

/-- The ADDR field of an entry as an address. -/
def entryAddr (e : Nat) : Nat := bitsOf e 51 8 * 2 ^ 8

/-- The fields of a leaf entry (R303). -/
def leafOf (e : Nat) : Leaf where
  kind := bitsOf e 55 53
  uco := e.testBit 52
  prv := e.testBit 5
  x := e.testBit 4
  w := e.testBit 3
  r := e.testBit 2
  addr := entryAddr e

/-- Whether a valid entry is malformed at a level (R303). -/
def malformedEntry (level e : Nat) : Bool :=
  let lf := e.testBit 1
  bitsOf e 63 56 != 0 || bitsOf e 7 6 != 0
  || (lf && decide (3 ≤ level)) || (!lf && level == 0)
  || (!lf && (bitsOf e 55 52 != 0 || bitsOf e 5 2 != 0))
  || (!lf && decide (2 ≤ level) && entryAddr e % 4096 != 0)
  || (lf && (entryAddr e % levelSize level != 0 || decide (5 ≤ bitsOf e 55 53)
      || (bitsOf e 55 53 == 0 && !(installed (entryAddr e) && installed (entryAddr e + levelSize level - 1)))))

/-- The walk from a node of a level downward (R300, R302, R305): an entry has the value that a load returns (R150).
`held` says where a read must wait. -/
def State.walkFrom (s : State) (held : Nat → Bool) (tag va : Nat) : Nat → Nat → Walk
  | level, node =>
    let at' := node + 8 * levelIndex level va
    let e := leNat (s.valueBytes at' 8)
    if !s.walkOk tag at' then .refused
    else if held at' then .waits
    else if let some u := s.readDamage (s.forward at') 8 then .damaged u.2
    else if !e.testBit 0 then .absent
    else if malformedEntry level e then .malformed
    else if e.testBit 1 then .leaf (va / levelSize level * levelSize level) (levelSize level) (leafOf e)
    else match level with
      | 0 => .malformed
      | l + 1 => s.walkFrom held tag va l (entryAddr e)

/-- The addresses of the entries that a walk from a node reads. -/
def State.walkReads (s : State) (held : Nat → Bool) (tag va : Nat) : Nat → Nat → List Nat
  | level, node =>
    let at' := node + 8 * levelIndex level va
    let e := leNat (s.valueBytes at' 8)
    if !s.walkOk tag at' || held at' then []
    else if (s.readDamage (s.forward at') 8).isSome || !e.testBit 0 || malformedEntry level e || e.testBit 1 then [at']
    else match level with
      | 0 => [at']
      | l + 1 => at' :: s.walkReads held tag va l (entryAddr e)

/-- The page of host memory to which a leaf maps an address. -/
def Leaf.hostPage (l : Leaf) (base va : Nat) : Nat := (l.addr + (va - base)) / 2 ^ 16

/-- The walk with the ATS translation of a host page that is not among those already held (R361, R362). -/
def State.withAts (s : State) (held : List Nat) (va : Nat) : Walk → Walk
  | .leaf b z l =>
    if l.kind == 1 && !held.contains (l.hostPage b va) && s.dev.hostAbsent.contains (l.hostPage b va) then .unbacked else .leaf b z l
  | w => w

/-- The walk of a context's table, with its reads held where `held` says so. -/
def State.walkBy (s : State) (held : Nat → Bool) (tag va : Nat) : Walk :=
  s.withAts [] va (s.walkFrom held tag va 4 (s.context tag).root)

/-- The walk of a context's table for a party of a die, none for the host and the fabric. -/
def State.walk (s : State) (die : Option Nat) (tag va : Nat) : Walk :=
  s.walkBy (fun a => s.homeWaits die (s.forward a) 8) tag va

/-- An entry with the ATS translation of the page of an address (R362). -/
def TlbEntry.withPage (e : TlbEntry) (va : Nat) : TlbEntry :=
  let p := e.leaf.hostPage e.base va
  if e.leaf.kind == 1 && !e.ats.contains p then { e with ats := e.ats ++ [p] } else e

/-- The entries of a cache with the ATS translation that a use of one obtains. -/
def notePage (es : List TlbEntry) (e : TlbEntry) (va : Nat) : List TlbEntry :=
  if e.withPage va == e then es else es.map fun x => if x == e then e.withPage va else x

/-! ## Core translation (R308) -/

/-- The entry that hits: of its own tag, of the current generation, the smallest page first. -/
def tlbHit (es : List TlbEntry) (tag gen va : Nat) : Option TlbEntry :=
  es.foldl (fun best e =>
    if e.tag == tag && e.gen == gen && decide (e.base ≤ va) && decide (va < e.base + e.size) then
      match best with
      | some b => if e.size < b.size then some e else best
      | none => some e
    else best) none

/-- An entry put into a cache of a size: the oldest leaves a full one. -/
def tlbPut (es : List TlbEntry) (cap : Nat) (e : TlbEntry) : List TlbEntry :=
  (if es.length < cap then es else es.drop (es.length + 1 - cap)) ++ [e]

/-- What a use of a cached translation finds. -/
def State.hitWalk (s : State) (e : TlbEntry) (va : Nat) : Walk := s.withAts e.ats va (.leaf e.base e.size e.leaf)

/-- A cached translation that was used, with the ATS translation that this obtained. -/
def State.useEntry (s : State) (es : List TlbEntry) (e : TlbEntry) (va : Nat) : List TlbEntry :=
  match s.hitWalk e va with
  | .leaf _ _ _ => notePage es e va
  | _ => es

/-- What a walk for a party of a die leaves: its reads correct sectors (R350), and a damaged unit that it met ends the
context (R340, R346). -/
def State.walked (s : State) (die : Option Nat) (tag va : Nat) (w : Walk) : State :=
  if s.dev.damage.isEmpty then s
  else
    let t := (s.walkReads (fun a => s.homeWaits die (s.forward a) 8) tag va 4 (s.context tag).root).foldl
      (fun t a => t.correctValue (s.forward a) 8) s
    match w with
    | .damaged k => t.ruinTag tag 0x20 k
    | _ => t

/-- The translation of an address by a core, and the state with the walk's entry installed. -/
def State.translate (s : State) (core tag va : Nat) : State × Walk :=
  let c := s.core core
  let gen := (s.context tag).asgen.toNat
  match tlbHit c.tlb tag gen va with
  | some e => (if e.leaf.kind = 1 then s.setCore core { c with tlb := s.useEntry c.tlb e va } else s, s.hitWalk e va)
  | none =>
    let w := s.walk (some (dieOfCore core)) tag va
    let s := s.walked (some (dieOfCore core)) tag va w
    match w with
    | .leaf b z l =>
      let e : TlbEntry := { tag, gen, base := b, size := z, leaf := l }
      (s.setCore core { c with tlb := tlbPut c.tlb 1024 (e.withPage va) }, .leaf b z l)
    | w => (s, w)

/-- The live entries of a lease cache (R310). -/
def State.liveLeases (s : State) (es : List TlbEntry) : List TlbEntry := es.filter fun e => decide (s.ctrl.time < e.expires)

/-- The translation of an address through a copy engine's lease cache (R225, R310). -/
def State.translateLease (s : State) (core tag va : Nat) : State × Walk :=
  let c := s.core core
  match tlbHit (s.liveLeases c.leases) tag 0 va with
  | some e => (if e.leaf.kind = 1 then s.setCore core { c with leases := s.useEntry c.leases e va } else s, s.hitWalk e va)
  | none =>
    let w := s.walk (some (dieOfCore core)) tag va
    let s := s.walked (some (dieOfCore core)) tag va w
    match w with
    | .leaf b z l =>
      let e : TlbEntry := { tag, base := b, size := z, leaf := l, expires := s.ctrl.time + microseconds s.dev.regs.lease }
      (s.setCore core { c with leases := tlbPut (s.liveLeases c.leases) 256 (e.withPage va) }, .leaf b z l)
    | w => (s, w)

/-! ## Access checks (R305, R306) -/

/-- The kinds of access that R305 tells apart. -/
inductive AccKind where
  | load | store | rmw | fetch
  deriving DecidableEq, Repr

/-- Whether a leaf permits an access (R305). -/
def Leaf.permits (l : Leaf) (k : AccKind) (priv : Bool) : Bool :=
  (match k with
    | .load => l.r
    | .store => l.w
    | .rmw => l.r && l.w
    | .fetch => l.x) && (priv || !l.prv)

/-- What an access meets: its target and address, a page that is not present, a cause, a damaged unit of the page
table, or a walk that must wait. `uco` says that the leaf makes every request type act as `.uc`. -/
inductive Xlat where
  | ok (t : Target) (addr : Nat) (uco : Bool)
  | absent
  | cause (c : Nat)
  | damaged (key : Nat)
  | waits
  deriving DecidableEq, Repr

/-- The fabric window of a leaf (R296, R306): the peer's endpoint, tag and address, or cause 0x103. -/
def State.window (s : State) (tag : Nat) (l : Leaf) (uclass : Bool) (k : AccKind) (va : Nat) : Xlat :=
  let t := s.tenant (s.tenantOf tag)
  let win := bitsOf l.addr 23 16
  let page := bitsOf l.addr 51 24
  let w := t.windows.get win {}
  if t.en = false ∨ t.nwin ≤ win ∨ w.en = false ∨ w.npgm1 < page then .cause 0x103
  else if l.kind = 4 ∧ k = .store ∧ uclass = false then .cause 0x103
  else .ok (.peer w.ep w.ptag l.kind) (w.pbase + page * 2 ^ 16 + va % 2 ^ 16) true

/-- The outcome of a translated access (R305, R306). -/
def State.resolve (s : State) (tag : Nat) (uclass : Bool) (k : AccKind) (va : Nat) : Walk → Xlat
  | .absent => .absent
  | .malformed => .cause 0x105
  | .refused => .cause 0x108
  | .unbacked => .cause 0x100
  | .damaged k => .damaged k
  | .waits => .waits
  | .leaf base _ l =>
    if !l.permits k (s.context tag).priv then .cause 0x103
    else match l.kind with
      | 0 => .ok .device (l.addr + (va - base)) l.uco
      | 1 => .ok .host (l.addr + (va - base)) true
      | _ => s.window tag l uclass k va

/-! ## Routes to peers (R185, R367, R368) -/

/-- Whether a port is of the medium on which a message to an endpoint travels (R367, R368): UALink inside the pod,
Ethernet outside it; port = die × 10 + 0 to 5 for UALink and 6 to 9 for Ethernet. -/
def State.medium (s : State) (ep l : Nat) : Bool :=
  decide (l % 10 < 6) == decide (s.dev.regs.podLo ≤ ep ∧ ep ≤ s.dev.regs.podHi)

/-- The ports that carry traffic to an endpoint. -/
def State.portsTo (s : State) (ep : Nat) : List Nat :=
  (List.range 20).filter fun l => s.medium ep l && (s.link l).phase == .up

/-- The port to which the pair of this device and an endpoint is held in class O or U (R368): KIND 3 or 4. -/
def State.heldPort (s : State) (ep cls : Nat) : Option Nat :=
  if cls == 3 || cls == 4 then (s.dev.pairs.get? (ep * 8 + cls)).filter (s.medium ep) else none

/-- Whether a message to an endpoint is refused (R368), by this device's endpoint table or by the peer. -/
def State.epRefused (s : State) (ep : Nat) : Bool :=
  let g := s.dev.regs
  ep == 0x3FFFF || ep == g.epid || s.dev.refusing.contains ep || (!decide (g.podLo ≤ ep ∧ ep ≤ g.podHi) && !s.dev.endpoints.has ep)

/-- The port that a message of a class to an endpoint takes (R368): the one to which its pair is held, else any of its
medium (log entry 50). -/
def State.portTo (s : State) (ep cls : Nat) : Option Nat :=
  match s.heldPort ep cls with
  | some l => some l
  | none =>
    match s.portsTo ep with
    | [l] => some l
    | ps => ps[Config.portPick s.ctrl.stamp % ps.length]?

/-- What the fabric does with a message of n bytes to an endpoint in a class: refused, waiting for a port or for
the cap of class U (R185), or sent. -/
inductive Sent where
  | refused
  | waits
  | goes (port : Nat)
  deriving DecidableEq, Repr

/-- The bytes of class U that a port may send in any 10 µs: 5 % of 800 Gb/s (R185, R367). -/
def uCap : Nat := 50000

/-- The bytes of class U that a port has sent in the 10 µs before now. -/
def State.uBytes (s : State) (k : Link) : Nat :=
  ((k.uLog.filter fun e => decide (s.ctrl.time < e.1 + microseconds 10)).map (·.2)).sum

/-- The fate of a message. -/
def State.route (s : State) (ep cls n : Nat) : Sent :=
  if s.epRefused ep then .refused
  else match s.portTo ep cls with
    | none => .waits
    | some l => if (s.link l).phase != .up || (cls == 4 && decide (uCap < s.uBytes (s.link l) + n)) then .waits else .goes l

/-- The key index under which a sender's new flits go out (R315). -/
def KeyState.current : KeyState → Bool
  | .steady i => i
  | .wait i => i
  | .drain i => !i

/-- A message sent to an endpoint through a port, to which its pair is held from now on in class O or U. -/
def State.sendFlit (s : State) (ep l cls n : Nat) : State :=
  let k := s.link l
  let pairs := if cls == 3 || cls == 4 then s.dev.pairs.put (ep * 8 + cls) l else s.dev.pairs
  let s := { s with dev := { s.dev with pairs } }.tickStamp
  s.setLink l { k with
    flits := k.flits + 1, replay := k.replay ++ [k.key.current]
    uLog := if cls = 4 then k.uLog.filter (fun e => decide (s.ctrl.time < e.1 + microseconds 10)) ++ [(s.ctrl.time, n)] else k.uLog }

/-! ## The order of the classes (R184, R215) -/

/-- Whether a message of a class waits for an earlier write in class c (R184): a write in class O or U for those of its
class, and a message of class Q for writes in class O. The class is the KIND of the window's leaf (R303): 2 is N, 3 is
O, 4 is U. -/
def waitsForClass (write : Bool) (cls c : Nat) : Bool := if write then c == cls && (cls == 3 || cls == 4) else c == 3

/-- Whether a store of the device to an endpoint, numbered before `before`, must be delivered first; for a message that
is yet to leave, whether it must leave first. -/
def State.storesAhead (s : State) (before ep : Nat) (write leaves : Bool) (cls : Nat) : Bool :=
  s.homes.reqs.any fun e => decide (e.1 < before) && e.2.status == .sent && !(leaves && e.2.port.isSome) && (match e.2.target, e.2.op with
    | .peer ep2 _ c, .store _ => ep2 == ep && waitsForClass write cls c
    | _, _ => false)

/-- The endpoint and the class of a put (R215): class U through an urgent window, else class O if it is ordered. -/
def State.putTo (s : State) (c : CopyCmd) : Option (Nat × Nat) :=
  match s.resolve c.ctx c.uclass .store c.gaddr (s.walk (some (dieOfBlock c.bid)) c.ctx c.gaddr) with
  | .ok (.peer ep _ k) _ _ => some (ep, if k = 4 then 4 else if c.ctl.getLsbD 26 then 3 else 2)
  | _ => none

/-- Whether a put of the device to an endpoint, numbered before `before`, still has granules to send that must be
delivered first; those of a saved flask are not sent before it resumes (R222). -/
def State.putsAhead (s : State) (before ep : Nat) (write : Bool) (cls : Nat) : Bool :=
  s.cores.any fun k => decide (k.1 < 240) && k.2.copies.any fun e =>
    decide (e.1 < before) && e.2.kind == .put && e.2.status == 0 && decide (e.2.moved.length < e.2.count)
    && (s.putTo e.2).any fun t => t.1 == ep && waitsForClass write cls t.2

/-- Whether a message of the device to an endpoint that is to leave and be delivered now must wait for earlier writes
(R184). -/
def State.ordered (s : State) (ep : Nat) (write : Bool) (cls : Nat) : Bool :=
  s.storesAhead s.ctrl.nextId ep write false cls || s.putsAhead s.ctrl.nextId ep write cls

/-- The key of a peer's byte in what the model holds of the peers' memories. -/
def peerKey (ep ptag addr : Nat) : Nat := (ep * 256 + ptag) * 2 ^ 57 + addr

/-! ## Page faults (R376) -/

/-- The number of valid slots of a page-fault queue. -/
def Tenant.slots (t : Tenant) : Nat := t.faults.countP fun f => f.2.slot.isSome

/-- The lowest free slot of a page-fault queue. -/
def Tenant.freeSlot (t : Tenant) : Option Nat := (List.range 64).find? fun k => !(t.faults.any fun f => f.2.slot == some k)

/-- A fault identity that no page fault has: 32 bits, and not 0. -/
def State.freshFid (s : State) : Nat :=
  let n := (s.tenants.map fun t => t.2.faults.length).sum
  (((List.range (n + 1)).map fun j => (s.ctrl.nextId + j) % (2 ^ 32 - 1) + 1).find? fun k =>
    !(s.tenants.any fun t => t.2.faults.has k)).getD 0

/-- A fault on a page of a context: attached to the slot of its page, or placed in a free slot, or waiting
for one. The state and the fault's identity. -/
def State.pageFault (s : State) (tag va kind src : Nat) : State × Nat :=
  let n := s.tenantOf tag
  let t := s.tenant n
  let page := va / 2 ^ 16 * 2 ^ 16
  match t.faults.find? fun f => f.2.tag == tag && f.2.va == page with
  | some f => (s.setTenant n { t with faults := t.faults.put f.1 { f.2 with count := f.2.count + 1 } }, f.1)
  | none =>
    let fid := s.freshFid
    let slot := t.freeSlot
    let s := (s.setTenant n { t with faults := t.faults.put fid { tag, va := page, kind, src, slot } }).bump
    (if slot.isSome then s.irq (some n) 1 else s, fid)

end Sys2Proof.Machine
end

