-- ==== Sys2Proof/Machine/Image.lean ====
section
/-! DEFINITION. Kernel images: reads of a context's memory by the device, the image header, kernel and
handler records, and the amounts that a kernel declares (R17, R18, R58, R268, R273). -/

namespace Sys2Proof.Machine

open Sys2Proof

/-- What a read of a context's memory gives: the bytes, the first page that is not present, a cause, or
the damaged unit that withholds them; a squad's read may have to wait, as a load does. -/
inductive CtxRead where
  | bytes (bs : List Byte)
  | absent (va : Nat)
  | cause (c : Nat)
  | dead (struct key : Nat)
  | wait
  deriving DecidableEq, Repr

/-- The translation that a party finds: through its core's TLB for a squad, by a walk for the host. -/
def State.walkFor (s : State) (core : Option Nat) (tag va : Nat) : Walk :=
  match core with
  | none => s.walk none tag va
  | some c => (s.translate c tag va).2

/-- Bytes read at their home: a damaged unit of device memory withholds them (R338). -/
def State.soundBytes (s : State) (pa n : Nat) : CtxRead :=
  match s.readDamage pa n with
  | some u => .dead u.1 u.2
  | none => .bytes (s.valueBytes pa n)

/-- The die of a party: none for the host. -/
def partyDie (core : Option Nat) : Option Nat := core.map dieOfCore

/-- The bytes of one page's part of a read, made as a `.uc` load is (R171, R182, R184, R189, R194, R300, R305). -/
def State.readPart (s : State) (core : Option Nat) (tag va n : Nat) : CtxRead :=
  if 2 ^ 57 < va + n then .cause 0x101
  else match s.resolve tag false .load va (s.walkFor core tag va) with
    | .absent => .absent va
    | .cause c => .cause c
    | .damaged k => .dead 0x20 k
    | .waits => .wait
    | .ok .device pa _ =>
      if s.homes.retired.contains (pa / 2 ^ 16) then .cause 0x102
      else if !s.frameOk tag pa then .cause 0x108
      else if s.homeWaits (partyDie core) (s.forward pa) n then .wait
      else s.soundBytes (s.forward pa) n
    | .ok .host a _ => .bytes (Memory.readBytes s.mem.host a n)
    | .ok (.peer ep ptag _) a _ =>
      match s.route ep 0 n with
      | .refused => .cause 0x108
      | .waits => .wait
      | .goes _ => if s.ordered ep false 0 then .wait else .bytes (Memory.readBytes s.mem.peer (peerKey ep ptag a) n)

/-- What the load of one page's part leaves: in the translations of its core, at its homes and in the remote-data cache that it passes, or a flit to a
peer (R315). -/
def State.partDone (s : State) (core : Option Nat) (tag va n : Nat) : State :=
  let w := s.walkFor core tag va
  let x := s.resolve tag false .load va w
  let s := match core with
    | none => s.walked none tag va w
    | some c => (s.translate c tag va).1
  match x with
  | .ok .device pa _ => s.loadDone (partyDie core) (s.forward pa) n
  | .ok (.peer ep _ _) _ _ => match s.route ep 0 n with
    | .goes l => s.sendFlit ep l 0 n
    | _ => s
  | _ => s

/-- The bytes of a range of at most 64 KiB in its first page. -/
def firstPart (va n : Nat) : Nat := min n (2 ^ 16 - va % 2 ^ 16)

/-- A read of at most 64 KiB of a context's memory, its pages in ascending order. -/
def State.ctxRead (s : State) (core : Option Nat) (tag va n : Nat) : CtxRead :=
  let first := firstPart va n
  match s.readPart core tag va first with
  | .bytes b =>
    if first = n then .bytes b
    else match s.readPart core tag (va + first) (n - first) with
      | .bytes b2 => .bytes (b ++ b2)
      | r => r
  | r => r

/-- The bytes of one page's part of a context's code as they stand now, where a fetch could read them. -/
def State.codePart (s : State) (tag va n : Nat) : Option (List Byte) :=
  match s.resolve tag false .fetch va (s.walkBy (fun _ => false) tag va) with
  | .ok .device pa _ => some (s.valueBytes (s.forward pa) n)
  | .ok .host a _ => some (Memory.readBytes s.mem.host a n)
  | .ok (.peer ep ptag _) a _ => some (Memory.readBytes s.mem.peer (peerKey ep ptag a) n)
  | _ => none

/-- The code word at an address of a context as it stands now. -/
def State.codeNow (s : State) (tag va : Nat) : Option InsnWord :=
  let n := firstPart va 12
  (s.codePart tag va n).bind fun b =>
    if n = 12 then some (wordOfBytes b) else (s.codePart tag (va + n) (12 - n)).map fun c => wordOfBytes (b ++ c)

/-- The code words of a kernel, by address, as they stand now (R58). -/
def State.codeOf (s : State) (tag : Nat) (k : Kernel) : Table InsnWord :=
  (List.range ((k.codeHi - k.codeLo) / 12)).foldl (fun t i =>
    (s.codeNow tag (k.codeLo + 12 * i)).elim t fun w => t.put (k.codeLo + 12 * i) w) []

/-- The word that a fetch of a pour's code takes where memory holds another: the old word, whole, until a fetch finds the
new one (R58). -/
def Pour.word (p : Pour) (va : Nat) (now : InsnWord) : InsnWord := p.code.get va now

/-- A changed code word of a pour is fetched as it now stands (R58): whole. -/
def State.codeChanged (s : State) (pour va : Nat) : State :=
  let p := s.pour pour
  if s.pours.has pour && p.code.has va then
    (s.codeNow p.tag va).elim s fun w => s.setPour pour { p with code := p.code.put va w }
  else s

/-- What reads of a context's memory, made one after the other as far as they return their bytes, leave: also where one
then fails. -/
def State.readsMade (s : State) (core : Option Nat) (tag : Nat) : List (Nat × Nat) → State
  | [] => s
  | e :: rest =>
    let first := firstPart e.1 e.2
    match s.readPart core tag e.1 first with
    | .bytes _ =>
      let t := s.partDone core tag e.1 first
      if first = e.2 then t.readsMade core tag rest
      else match t.readPart core tag (e.1 + first) (e.2 - first) with
        | .bytes _ => (t.partDone core tag (e.1 + first) (e.2 - first)).readsMade core tag rest
        | _ => t
    | _ => s

/-- The number in bytes lo to hi of a record. -/
def fieldOf (bs : List Byte) (lo hi : Nat) : Nat := leNat ((bs.drop lo).take (hi - lo + 1))

/-- The image header and a record, and the address of the record. -/
structure Image where
  head : List Byte
  body : List Byte
  addr : Nat

/-- The image base that a record names. -/
def imageBase (rec : List Byte) : Nat := fieldOf rec 0 7

/-- The checks of R58 that a kernel record and a handler record share: the header, the record's place in the
table, the image base and the entry. -/
def Image.headOk (i : Image) : Bool :=
  let ib := imageBase i.body
  let codeLen := fieldOf i.head 12 15
  let nrec := fieldOf i.head 16 19
  let recOfs := fieldOf i.head 20 23
  fieldOf i.head 0 3 == 0x00030000 && (fieldOf i.head 4 4 == 2 || fieldOf i.head 4 4 == 3)
  && fieldOf i.head 5 7 == 0 && fieldOf i.head 32 63 == 0
  && fieldOf i.head 8 11 % 256 == 0 && codeLen % 12 == 0 && recOfs % 64 == 0 && fieldOf i.head 24 27 % 64 == 0
  && decide (1 ≤ nrec ∧ nrec ≤ 65535)
  && ib % 256 == 0 && decide (ib < 2 ^ 57)
  && decide (ib + recOfs ≤ i.addr ∧ i.addr < ib + recOfs + 128 * nrec) && (i.addr - (ib + recOfs)) % 128 == 0
  && fieldOf i.body 8 11 % 12 == 0 && decide (fieldOf i.body 8 11 < codeLen) && fieldOf i.body 96 127 == 0

/-- The squads of the stages of a record. -/
def stageCounts (rec : List Byte) : List Nat := (List.range 8).map fun k => fieldOf rec (24 + k) (24 + k)

/-- The checks of R58 on the fields of a kernel record. -/
def Image.kernelOk (i : Image) : Bool :=
  let r := i.body
  let b := fun k => fieldOf r k k
  let sq := stageCounts r
  i.headOk && b 12 == 0
  && decide (1 ≤ b 13 ∧ b 13 ≤ 12 ∧ 1 ≤ b 14 ∧ b 14 ≤ 8 ∧ 1 ≤ b 15)
  && decide (b 16 < 4 ∧ b 17 ≤ 16 ∧ b 18 ≤ 8 ∧ b 19 ≤ 64 ∧ b 20 ≤ 96 ∧ b 21 ≤ 16)
  && decide (b 22 < 2 ^ b 18) && b 23 == 0
  && ((List.range 8).all fun k => let n := (sq[k]?).getD 0; if k < b 14 then decide (1 ≤ n ∧ n ≤ 32) else n == 0)
  && decide (sq.sum ≤ 32 ∧ fieldOf r 32 35 ≤ 524288 ∧ fieldOf r 36 47 < 2 ^ b 20)
  && ((List.range 16).all fun k => if k < b 21 then decide (2 ≤ b (48 + k) ∧ b (48 + k) ≤ 64) else b (48 + k) == 0)
  && (fieldOf i.head 4 4 == 3 || (b 14 == 1 && b 21 == 0))

/-- The checks of R58 on a handler record: every field but IB, ENTRY, KIND and NAME is 0. -/
def Image.handlerOk (i : Image) : Bool :=
  i.headOk && fieldOf i.body 12 12 == 1 && fieldOf i.body 13 63 == 0

/-- The kernel of an image and record that pass the checks. -/
def Image.kernel (i : Image) : Kernel :=
  let r := i.body
  let b := fun k => fieldOf r k k
  let lo := imageBase r + fieldOf i.head 8 11
  { entry := lo + fieldOf r 8 11, codeLo := lo, codeHi := lo + fieldOf i.head 12 15
    map := fieldOf i.head 4 4, flask := b 13, stages := b 14, regs := b 15
    idem := (b 16).testBit 0, audit := (b 16).testBit 1, tiles := b 17, accs := b 18, tags := b 19
    bars := b 20, runners := b 21, accRc := BitVec.ofNat 8 (b 22), squads := (stageCounts r).take (b 14)
    shared := fieldOf r 32 35, bscope := BitVec.ofNat 96 (fieldOf r 36 47)
    depths := (List.range (b 21)).map fun k => b (48 + k) }

/-- A record and its header read from a context's memory, the record first (R58, R273). -/
def State.readImage (s : State) (core : Option Nat) (tag addr : Nat) : CtxRead × Image :=
  match s.ctxRead core tag addr 128 with
  | .bytes r =>
    match s.ctxRead core tag (imageBase r) 64 with
    | .bytes h => (.bytes [], ⟨h, r, addr⟩)
    | e => (e, ⟨[], r, addr⟩)
  | e => (e, ⟨[], [], addr⟩)

/-- The reads of a record and its header, as far as they were begun (R58). -/
def imageReads (i : Image) : List (Nat × Nat) := (i.addr, 128) :: if i.body.isEmpty then [] else [(imageBase i.body, 64)]

/-! ## Declared amounts (R18) -/

/-- The register bytes of a block of a kernel. -/
def Kernel.regBytes (k : Kernel) : Nat := 32 * k.nsq * ((k.regs + 7) / 8 * 8) * 4

/-- Whether a core admits a block beside another (R17, R18). -/
def Kernel.fits (k other : Kernel) : Bool :=
  decide (k.nsq + other.nsq ≤ 64 ∧ k.regBytes + other.regBytes ≤ 262144 ∧ k.shared + other.shared ≤ 524288
    ∧ k.tiles + other.tiles ≤ 16 ∧ k.accs + other.accs ≤ 8 ∧ k.bars + other.bars ≤ 96 ∧ k.tags + other.tags ≤ 64)

/-- The kernel of an empty block slot. -/
def Kernel.none : Kernel := { squads := [], regs := 0 }

/-- The table that a context has selected for pours (R66): every entry of an empty slot has its reset value (R45). -/
def Context.selected (c : Context) : DTable := c.tables.get c.dtsel (.loaded true [])

/-- The map of a table (R66). -/
def tableMap : DTable → Nat
  | .map2 => 2
  | .map3 => 3
  | .loaded three _ => if three then 3 else 2

end Sys2Proof.Machine
end

