-- ==== Sys2Proof/Machine/Ops.lean ====
section
/-! DEFINITION. Killing, reporting and relaunching a flask, taking a trap and returning from one, and the
consumption of an uncorrectable error (R152, R177, R319 to R332, R338 to R344, R356). -/

namespace Sys2Proof.Machine

open Sys2Proof

/-- A cause word (R65, R320). -/
def causeWord (code sub : Nat) : Word := BitVec.ofNat 32 (sub % 65536 * 65536 + code % 1024)

/-- The cause code of a cause word. -/
def causeCode (w : Word) : Nat := w.toNat % 1024

/-- The number of flasks of a pour (R19). -/
def Desc.flasks (d : Desc) : Nat := d.gx * d.gy * d.gz

/-- The number of blocks of a pour. -/
def Pour.blocks (p : Pour) : Nat := p.desc.flasks * p.kern.flask

/-- The context of a flask. -/
def State.tagOfFlask (s : State) (f : Nat) : Nat := (s.pour (s.flask f).pour).tag

/-! ## Writes of the device to a context's memory -/

/-- Whether a unit of device memory lies whole in n bytes. -/
def unitIn (pa n : Nat) (u : Nat × Nat) : Bool :=
  (u.1 == 0x10 || u.1 == 0x11 || u.1 == 0x111) && decide (pa ≤ u.2 * 32 ∧ u.2 * 32 + 32 ≤ pa + n)

/-- Bytes of device memory set to 0 by the device, in HBM too: owned words are recalled first, and units that the bytes
cover whole are sound again (R338). -/
def State.zeroBytes (s : State) (pa n : Nat) : State :=
  let near := fun (l : Nat) => decide (pa < (l + 1) * 64 ∧ l * 64 < pa + n)
  let s := (((s.homes.owners.map fun o => o.1 / 512).filter near).foldl State.recallNow s).cleaned near
  { s with
    mem := { s.mem with dev := s.mem.dev.filter fun c => !decide (pa ≤ c.1 ∧ c.1 < pa + n) }
    dev := { s.dev with damage := s.dev.damage.filter fun u => !unitIn pa n u } }

/-- The part of an area of a context that lies in one 64 KiB page set to 0 by the device, where its page is mapped to
host memory, or to device memory in a frame that the context may access (R300). -/
def State.zeroPart (s : State) (tag va n : Nat) : State :=
  match s.walkBy (fun _ => false) tag va with
  | .leaf base _ l =>
    let pa := l.addr + (va - base)
    if l.kind = 0 then
      (if s.frameOk tag pa && !s.homes.retired.contains (pa / 2 ^ 16) then s.zeroBytes (s.forward pa) n else s)
    else if l.kind = 1 then
      { s with mem := { s.mem with host := s.mem.host.filter fun c => !decide (pa ≤ c.1 ∧ c.1 < pa + n) } }
    else s
  | _ => s

/-- An area of a context set to 0 by the device. -/
def State.zeroArea (s : State) (tag va len : Nat) : State :=
  if len = 0 then s
  else (List.range ((va + len - 1) / 2 ^ 16 + 1 - va / 2 ^ 16)).foldl (fun s k =>
    let lo := max va ((va / 2 ^ 16 + k) * 2 ^ 16)
    s.zeroPart tag lo (min (va + len) ((va / 2 ^ 16 + k + 1) * 2 ^ 16) - lo)) s

/-- The stack areas of a flask's squads set to 0, before it starts again (R196). -/
def State.zeroStacks (s : State) (f : Nat) : State :=
  let p := s.pour (s.flask f).pour
  (List.range p.kern.flask).foldl (fun s b =>
    s.zeroArea p.tag (p.desc.stkb + ((s.flask f).idx * p.kern.flask + b) * 32 * p.desc.stksz * 32) (p.kern.nsq * p.desc.stksz * 32)) s

/-! ## Discarding the work of a flask (R139, R169, R177, R222, R262, R342) -/

/-- The homes without a block slot's owned words, write-backs and requests: held requests are served from
the home afterwards (R177). -/
def Homes.dropBlock (h : Homes) (bid : Nat) : Homes :=
  { h with
    reqs := h.reqs.filter fun r => r.2.bid != bid
    owners := h.owners.filter fun o => o.2.bid != bid
    backs := h.backs.filter fun b => b.2.bid != bid }

/-- A core without a block slot's queued commands, copies and owned words. -/
def Core.dropBlock (c : Core) (bid : Nat) : Core :=
  { c with
    mq := c.mq.filter fun m => m.bid != bid
    atoms := c.atoms.filter fun a => a.bid != bid
    copies := c.copies.filter fun x => x.2.bid != bid
    openChain := c.openChain.filter fun x => x.1 % 2 != bid % 2
    owner := c.owner.filter fun l => l.bid != bid }

/-- The state without a block and all that it holds. -/
def State.dropBlock (s : State) (bid : Nat) : State :=
  let c := s.core (coreOf bid)
  { (s.setCore (coreOf bid) (c.dropBlock bid)) with
    squads := s.squads.filter fun q => q.1 / 32 != bid
    blocks := s.blocks.erase bid
    progs := s.progs.filter fun p => p.2.bid != bid
    tks := s.tks.filter fun t => t.2.bid != bid
    homes := s.homes.dropBlock bid
    dev := { s.dev with splinters := s.dev.splinters.map fun x => if x.2.bid == some bid then (x.1, { x.2 with bid := none }) else x } }

/-- The state without the blocks of a flask. -/
def State.dropBlocks (s : State) (f : Nat) : State := (s.flask f).blocks.foldl State.dropBlock s

/-! ## Contributor slots at a kill (R152) -/

/-- The ranges that a flask has contributed to and that are still declared, in whatever context. -/
def State.credRanges (s : State) (f : Nat) : List Range :=
  (s.flask f).creds.filterMap fun e => s.contexts.findSome? fun c => c.2.ranges.find? fun r => r.id == e.1

/-- Whether R152 lets the slots of a flask be cleared: by every range that it has recorded. -/
def State.slotsClearable (s : State) (f : Nat) : Bool :=
  (s.flask f).creds.all fun e => decide ((s.pour (s.flask f).pour).blocks ≤ e.2)

/-- One range with the slots of a flask's blocks cleared, where the range's shadow area lies now, in the frames that the
range's context may access (R300). A slot in a damaged sector is written too, and the sector stays damaged (log entry 136).
-/
def State.clearRange (s : State) (f : Nat) (r : Range) : State :=
  let k := (s.pour (s.flask f).pour).kern.flask
  (List.range k).foldl (fun s b =>
    let slot := ((s.flask f).idx * k + b) % r.slots
    (List.range r.len).foldl (fun s e => (s.slotAt r e slot).elim s fun pa =>
      s.homeWrite pa (List.replicate r.fmt.bytes 0)) s) s

/-- The slots of a flask's blocks cleared in every range that it contributed to. -/
def State.clearSlots (s : State) (f : Nat) : State := (s.credRanges f).foldl (fun s r => s.clearRange f r) s

/-! ## Reports (R339, R344) -/

/-- The record of a flask report that no uncorrectable error caused (R339), at a core. -/
def State.flaskRecord (s : State) (f core : Nat) (cause : Word) : ErrRec :=
  let fl := s.flask f
  let p := s.pour fl.pour
  { act := 2, tag := p.tag, die := dieOfCore core, loc := core % 120, flask := fl.idx, pour := p.num, cause }

/-- The core of a flask's block 0. -/
def State.coreOfFlask (s : State) (f : Nat) : Nat := coreOf ((s.flask f).blocks.headD 0)

/-- The record of an uncorrectable error that a flask consumed (R339, R341), in the unit with this key. -/
def State.ueRecord (s : State) (f struct key : Nat) : ErrRec :=
  let p := s.unitPlace struct key
  { s.flaskRecord f 0 (causeWord 0x300 struct) with ue := true, struct, die := p.1.1, loc := p.1.2, addr := p.2 }

/-- A damaged unit that a read of a context's memory by the device has met, with no flask that consumes it (R340): it is
recorded, and a page table ends its context. -/
def State.deadRead (s : State) (tag struct key : Nat) : State :=
  if struct = 0x20 then s.ruinTag tag struct key else s.record (s.unitRecord true 5 tag struct key)

/-- The pour's final status becomes 1 (R269). -/
def State.failPour (s : State) (p : Nat) : State := s.setPour p { s.pour p with status := 1 }

/-- The end of an audit: its replay run is gone and its flask is no longer awaited (R354, R356). -/
def State.endAudit (s : State) (f : Nat) : State :=
  let fl := s.flask f
  let first := flaskKey fl.pour fl.idx .first
  let s := { s with flasks := (s.flasks.erase (flaskKey fl.pour fl.idx .replay)).erase (flaskKey fl.pour fl.idx .third) }
  s.setFlask first { s.flask first with chosen := false }

/-- An audit given up without a verdict (R356). -/
def State.giveUpAudit (s : State) (f : Nat) (r : ErrRec) : State := (s.record { r with act := 6, cause := 0 }).endAudit f

/-- A flask waiting to start again from its block-start state (R344). -/
def Flask.again (f : Flask) (now : Nat) : Flask :=
  { f with status := .again, blocks := [], runners := [], sigs := [], creds := [], waitFrom := now, drainOnly := false }

/-- A flask put to wait for its restart from its block-start state (R344), its stacks set to 0; those of an audit's run
have written no memory (R355). -/
def State.startAgain (s : State) (f : Nat) (fl : Flask) : State :=
  let t := s.setFlask f (fl.again s.ctrl.now)
  if fl.run == .first then t.zeroStacks f else t

/-- The save area of a flask given back (R286). -/
def State.freeArea (s : State) (f : Nat) : State :=
  let fl := s.flask f
  if fl.status == .saved || fl.status == .saving then
    let n := s.tenantOf (s.tagOfFlask f)
    s.setTenant n { s.tenant n with saves := (s.tenant n).saves - 1 }
  else s

/-- The kill of a flask (R342) with the outcome of R344, or of R356 for an audit's run. `forced` says that
the first row of R344 applies; `r` is the record of a report. -/
def State.killFlask (s : State) (f : Nat) (forced : Bool) (r : ErrRec) : State :=
  let s := (s.freeArea f).dropBlocks f
  let fl := s.flask f
  if fl.run != .first then
    if fl.relaunches = 0 then
      let s := s.startAgain f { fl with relaunches := 1 }
      if r.ue then s.record { r with act := 1 } else s
    else s.giveUpAudit f r
  else
    let ok := s.slotsClearable f
    let s := if ok then s.clearSlots f else s
    if forced || fl.side || !ok || fl.relaunches == 2 then
      let s := s.setFlask f { fl with status := .reported, blocks := [], runners := [] }
      let p := s.pour fl.pour
      (s.setPour fl.pour { p with status := 1, ended := p.ended + 1 }).record { r with act := 2 }
    else
      let s := s.startAgain f { fl with relaunches := fl.relaunches + 1 }
      if r.ue then s.record { r with act := 1 } else s

/-- The consumption of an uncorrectable error by the flask of a block (R341); one in a page table ends the context
(R340). -/
def State.consume (s : State) (bid struct key : Nat) : State :=
  let f := (s.block bid).flask
  if struct = 0x20 then s.ruinTag (s.tagOfBlock bid) struct key else s.killFlask f false (s.ueRecord f struct key)

/-- The sub-code of an answer that reports a damaged unit: the structure, and above it the unit's key. -/
def unitSub (u : Nat × Nat) : Nat := u.1 + 256 * u.2

/-- The consumption of the damaged unit that an answer reports. -/
def State.consumeSub (s : State) (bid sub : Nat) : State := s.consume bid (sub % 256) (sub / 256)

/-- A flask reported at the delivery of a cause of priority 2 (R324, R344): it runs on. -/
def State.reportRunning (s : State) (f core : Nat) (cause : Word) : State :=
  let fl := s.flask f
  let s := s.setFlask f { fl with side := true }
  (s.failPour fl.pour).record (s.flaskRecord f core cause)

/-- The event that would set a flask's side-effect bit (R343). -/
def State.sideEffect (s : State) (f : Nat) : State := s.setFlask f { s.flask f with side := true }

/-! ## Taking a trap (R319, R320, R323, R325, R326, R328) -/

/-- The reads of the record at HENTRY and its header for a block (R325); a cause where HENTRY is 0. -/
def State.handlerRead (s : State) (bid : Nat) : CtxRead × Image :=
  let tag := s.tagOfBlock bid
  let he := (s.context tag).hentry
  if he = 0 then (.cause 0, ⟨[], [], 0⟩) else s.readImage none tag he

/-- The handler entry of a block when it is usable (R325): the kernel record's fields that name its entry and
code segment. -/
def State.handlerOf (s : State) (bid : Nat) : Option Kernel :=
  match s.handlerRead bid with
  | (.bytes _, i) => if i.handlerOk && i.kernel.map == tableMap (s.pourOfBlock bid).table then some i.kernel else none
  | _ => none

/-- What a block's cause cannot go on with (R325): a handler entry that is not usable, or a damaged unit that its reads
meet; none where the entry is usable or its reads still wait. -/
inductive NoHandler where
  | unusable
  | damaged (struct key : Nat)
  deriving DecidableEq, Repr

/-- Whether a block has no handler (R325). -/
def State.noHandler (s : State) (bid : Nat) : Option NoHandler :=
  match s.handlerRead bid with
  | (.wait, _) => none
  | (.dead st k, _) => some (.damaged st k)
  | _ => if (s.handlerOf bid).isSome then none else some .unusable

/-- What the reads of a block's handler record leave (R315, R325). -/
def State.handlerDone (s : State) (bid : Nat) : State :=
  let tag := s.tagOfBlock bid
  if (s.context tag).hentry = 0 then s
  else s.readsMade none tag (imageReads (s.handlerRead bid).2)

/-- The end of a flask that has no handler for a cause (R325), or that consumes a damaged unit of its record (R341, log
entry 132). -/
def State.endUnhandled (s : State) (bid : Nat) (cause : Word) : NoHandler → State
  | .unusable =>
    let f := (s.block bid).flask
    (s.handlerDone bid).killFlask f true (s.flaskRecord f (coreOf bid) cause)
  | .damaged st k => (s.handlerDone bid).consume bid st k

/-- Whether a block's handler serves a squad. -/
def Block.serves (b : Block) (sq : Nat) : Bool := (b.handler.map (·.sq)) == some sq

/-- Causes of priority 2 (R324). -/
def priority2 (code : Nat) : Bool := code == 0x30C || code == 0x30D || code == 0x30E || code == 0x30F

/-- The halt of a block (R319): the first cause starts the count of every squad's skid; those that are not ready stop
where they stand at the end of the turn. -/
def State.halt (s : State) (bid : Nat) : State :=
  let b := s.block bid
  if b.halted then s
  else
    let s := s.setBlock bid { b with halted := true, halting := true }
    { s with squads := s.squads.map fun q => if q.1 / 32 == bid then (q.1, { q.2 with skid := 0, stopped := false }) else q }

/-- A cause delivered in a squad: the saved cause, PC and lanes, the block's halt, the kill of a flask whose handler
cannot run (R325) or whose handler raised it (R328), the end of an audit's run (R355), and the report of a cause of
priority 2, which a deferred 0x30C of a posted access is not (R324). The squad's control state is already that in
which `rft` resumes it. -/
def State.takeTrap (s : State) (bid sq code sub : Nat) (pc : Pc) (lanes : Lanes) (posted : Bool := false) : State :=
  let b := s.block bid
  let w := causeWord code sub
  if priority2 code && (s.flask b.flask).run != .first then (s.dropBlocks b.flask).endAudit b.flask
  else if b.serves sq then s.killFlask b.flask true (s.flaskRecord b.flask (coreOf bid) (causeWord 0x301 code))
  else match s.noHandler bid with
    | some n => s.endUnhandled bid w n
    | none =>
      let s := s.halt bid
      let q := s.squad bid sq
      let s := s.setSquad bid sq { q with cause := w, trapPc := pc, trapLanes := lanes }
      if priority2 code && !posted then s.reportRunning b.flask (coreOf bid) w else s

/-! ## The handler (R326, R332) -/

/-- The threads of a squad as one sub-group at an address, with no meeting and no companion. -/
def Ctl.oneGroup (lanes : Lanes) (pc : Pc) (stamp : Nat) : Ctl := { groups := [{ lanes, pc, issued := stamp }] }

/-- The lowest trapped squad of a block. -/
def State.trapped (s : State) (bid : Nat) : Option Nat :=
  (List.range 32).find? fun q => (s.squad bid q).cause != 0

/-- The handler begins to serve a squad at its entry, in its code segment. -/
def State.serve (s : State) (bid sq : Nat) (entry : Pc) (codeLo codeHi : Nat) : State :=
  let q := s.squad bid sq
  let s := s.setBlock bid { s.block bid with handler := some { sq, kept := q.ctl, entry, codeLo, codeHi } }
  (s.setSquad bid sq { q with ctl := Ctl.oneGroup q.ctl.alive entry s.ctrl.stamp }).tickStamp

/-- The address of the sub-group of a squad that issued last (R244). -/
def Ctl.lastPc (c : Ctl) : Pc :=
  (c.groups.foldl (fun best g => match best with
    | some b => if b.issued < g.issued then some g else best
    | none => some g) (none : Option Group)).elim 0 (·.pc)

/-- The squads of a block stopped as its handler starts, with TRAPPC of those that the halt alone stopped (R319, R244).
-/
def State.stopSiblings (s : State) (bid : Nat) : State :=
  { s with squads := s.squads.map fun q =>
      if q.1 / 32 != bid then q
      else if q.2.cause == 0 then (q.1, { q.2 with trapPc := q.2.ctl.lastPc, trapLanes := 0, stopped := true })
      else (q.1, { q.2 with stopped := true }) }

/-- The threads ended by a handler in the squad it serves (R332): withdrawn from the partition, with every
release that this makes due, and with outstanding producers discarded (R39, R239). -/
def Squad.endLanes (q : Squad) (lanes : Lanes) (stamp : Nat) : Squad :=
  { q with
    ctl := Ctl.settle stamp true 64 (q.ctl.endThreads lanes)
    rf := { q.rf with vE := (q.rf.vE.map fun e => (e.1, e.2 &&& ~~~lanes)).filter fun e => e.2 != 0 }
    aph := q.aph.filter fun e => !lanes.getLsbD (e.1 % 32) }

/-- The squads of a block resume (R332): the handler ends and the halt with it. -/
def State.resume (s : State) (bid : Nat) : State :=
  s.setBlock bid { s.block bid with handler := none, halted := false, halting := false }

/-- A trapped squad served from HENTRY (R326, R332): an entry that is not usable ends the flask (R325), and one whose
reads must wait is read again. -/
def State.serveFrom (s : State) (bid sq : Nat) : State :=
  match s.handlerOf bid, s.noHandler bid with
  | some k, _ => (s.handlerDone bid).serve bid sq (BitVec.ofNat 64 k.entry) k.codeLo k.codeHi
  | none, some n => s.endUnhandled bid (s.squad bid sq).cause n
  | none, none => s.setBlock bid { s.block bid with handler := none }

/-- The next step of a handler that has finished with a squad: the lowest trapped squad is served from HENTRY, or the
block resumes (R332). -/
def State.nextTrapped (s : State) (bid : Nat) : State :=
  match s.trapped bid with
  | some q => s.serveFrom bid q
  | none => s.resume bid

/-! ## Requests and combined stores (R171, R174) -/

/-- A request put on its way to its home. -/
def State.addReq (s : State) (r : Req) : State :=
  ({ s with homes := { s.homes with reqs := s.homes.reqs.put s.ctrl.nextId r } }).bump

/-- A posted instruction registered with its squad (R322): the state and its number. -/
def State.addPosted (s : State) (bid sq : Nat) (lanes : Lanes) : State × Nat :=
  let id := s.ctrl.nextId
  let q := s.squad bid sq
  ((s.setSquad bid sq { q with posted := q.posted ++ [{ id, left := lanes, byHandler := (s.block bid).serves sq }] }).bump, id)

/-- A combined store sent as one write (R171), for every instruction that it carries out (R322). -/
def State.sendCombine (s : State) (bid sq : Nat) (c : Combine) : State :=
  let q := s.squad bid sq
  (s.setSquad bid sq { q with combine := q.combine.filter fun e => !(e.lane == c.lane && e.line == c.line) }).addReq
    { bid, sq, flask := (s.block bid).flask, tag := s.tagOfBlock bid, inst := c.insts.headD 0, also := c.insts.drop 1, comb := true
      rq := .si, op := .store false, line := c.line
      pieces := c.bytes.map fun e => { lane := c.lane, ofs := e.1, va := c.va + e.1, addr := c.line * 64 + e.1, n := 1, data := [e.2] } }

/-- Every combined store of a squad sent. -/
def State.sendCombines (s : State) (bid sq : Nat) : State :=
  (s.squad bid sq).combine.foldl (fun s c => s.sendCombine bid sq c) s

/-- The combined stores of a squad to some lines sent: they go ahead of its later accesses to those lines (R155). -/
def State.sendLines (s : State) (bid sq : Nat) (lines : List Nat) : State :=
  ((s.squad bid sq).combine.filter fun c => lines.contains c.line).foldl (fun s c => s.sendCombine bid sq c) s

/-! ## Damage of registers (R338, R340, R341) -/

/-- The damaged unit of a vector register in a lane, and of a scalar or predicate register. -/
def vecUnit (bid sq reg lane : Nat) : Nat × Nat := (0x01, (squadKey bid sq * 256 + reg) * 32 + lane)
/-- The unit of a scalar register. -/
def scalarUnit (bid sq reg : Nat) : Nat × Nat := (0x06, squadKey bid sq * 128 + reg)
/-- The unit of a predicate register. -/
def predUnit (bid sq reg : Nat) : Nat × Nat := (0x06, squadKey bid sq * 128 + 64 + reg)

/-- The units that an operand of w registers touches in some lanes. -/
def operandUnits (bid sq : Nat) (o : Opnd) (w : Nat) (lanes : Lanes) : List (Nat × Nat) :=
  match o with
  | .v n => (List.range w).flatMap fun k => (lanesOf lanes).map (vecUnit bid sq (n.toNat + k))
  | .s n => (List.range w).map fun k => scalarUnit bid sq (n.toNat + k)
  | .p n => [predUnit bid sq n.toNat]
  | _ => []

end Sys2Proof.Machine
end

