-- ==== Sys2Proof/Machine/Issue.lean ====
section
/-! DEFINITION. The issue of one instruction by one sub-group: the guard, full/empty interlocks, the checkpoint
hold, wait points, traps, and the advance of the sub-group (R35 to R41, R228 to R233, R319 to R324). -/

namespace Sys2Proof

open Sys2Proof.Machine

/-- The width of an operand position in registers. -/
def Pos.width : Pos → Nat
  | .unused => 0
  | .use _ w _ _ => w

/-- The number of registers that an instruction writes at an operand position. -/
def Pos.writes : Pos → Nat
  | .use _ w true _ => w
  | _ => 0

/-- Whether a source is full where the instruction reads it: in the passing lanes (R37), and a source of a
cross-lane read in every lane (R109). The scale register of `qblk` is a source too (R110). -/
def Pos.sourceFull (p : Pos) (o : Opnd) (rf : RegFile) (pass : Lanes) : Bool :=
  match p with
  | .use _ w false cross => rf.full o w (if cross then 0xFFFFFFFF else pass)
  | .use _ w true true => rf.full o w pass
  | _ => true

/-- Whether a destination is full where the instruction writes it (R38). -/
def Pos.destFull (p : Pos) (o : Opnd) (rf : RegFile) (pass : Lanes) : Bool :=
  match p with
  | .use _ w true _ => rf.full o w pass
  | _ => true

/-- The end of the gap that a SPACE hint sets (R40). -/
def Hint.gap (h : Hint) : Nat := if h.space = 0 then 0 else 2 ^ (h.space.toNat - 1)

/-- Whether an instruction makes an access that an acquire before it orders (R156, R160): an access to pooled or
global memory, or an engine operation. -/
def Instr.accesses : Instr → Bool
  | .lds _ | .sts _ | .ldg _ | .stg _ | .cred _ | .crfold _ | .crdecl _
  | .atomsAdd _ | .atomsMin _ | .atomsMax _ | .atomsAnd _ | .atomsOr _ | .atomsXor _ | .atomsExch _ | .atomsCas _
  | .atomsInc _ | .atomsDec _ | .atomsFadd _ | .atomsFmin _ | .atomsFmax _
  | .atomgAdd _ | .atomgMin _ | .atomgMax _ | .atomgAnd _ | .atomgOr _ | .atomgXor _ | .atomgExch _ | .atomgCas _
  | .atomgInc _ | .atomgDec _ | .atomgFadd _ | .atomgFmin _ | .atomgFmax _
  | .redgAdd _ | .redgMin _ | .redgMax _ | .redgAnd _ | .redgOr _ | .redgXor _ | .redgInc _ | .redgDec _
  | .redgFadd _ | .redgFmin _ | .redgFmax _
  | .tld _ | .tst _ | .accst _ | .cpy _ | .cpyl _ | .cpyw _ | .cpyp _ | .cpyo _ | .cpyxPut _ | .cpyxGet _
  | .forkCopy _ | .forkMatrix _ | .forkMap2 _ | .pour _ | .sparm _ | .dtload _ | .tknxt _ | .tknxtPooled _ => true
  | _ => false

/-- Whether an ordering has a release part (R156). -/
def releases (o : MemOrd) : Bool := o == .rel || o == .ar || o == .sc

/-- Whether an instruction waits until every earlier access of its squad is performed: a release, an acquire fence and
an `.sc` access (R156, R157, R166), the other sources of the edges of R157, the fork of an engine operation (R159), and
those that read memory as loads of the squad at issue (R273, R281, R337). -/
def Instr.orders : Instr → Bool
  | .sts a | .atomsAdd a | .atomsMin a | .atomsMax a | .atomsAnd a | .atomsOr a | .atomsXor a | .atomsExch a | .atomsCas a
  | .atomsInc a | .atomsDec a | .atomsFadd a | .atomsFmin a | .atomsFmax a => releases a.mod.ord
  | .lds a => a.mod.ord == .sc
  | .ldg a => a.mod.ord == .sc
  | .stg a | .cred a | .crfold a
  | .atomgAdd a | .atomgMin a | .atomgMax a | .atomgAnd a | .atomgOr a | .atomgXor a | .atomgExch a | .atomgCas a
  | .atomgInc a | .atomgDec a | .atomgFadd a | .atomgFmin a | .atomgFmax a
  | .redgAdd a | .redgMin a | .redgMax a | .redgAnd a | .redgOr a | .redgXor a | .redgInc a | .redgDec a
  | .redgFadd a | .redgFmin a | .redgFmax a => releases a.mod.ord
  | .fence _ | .barv _ | .barvMap2 _ | .push _ | .pour _ | .sparm _ | .dtload _ | .tknxtPooled _ | .asgen _ | .splint _ | .crdecl _
  | .cpy _ | .cpyl _ | .cpyw _ | .cpyp _ | .cpyo _ | .cpyxPut _ | .cpyxGet _ | .forkCopy _ | .forkMatrix _ | .forkMap2 _ => true
  | _ => false

/-- Whether an instruction gives the matrix engine an access of its squad, which waits until the squad's earlier
accesses outside the engine are performed (R129, R159); the engine keeps the order of its own (R118). -/
def Instr.forks : Instr → Bool
  | .tld _ | .tst _ | .accst _ => true
  | _ => false

end Sys2Proof

namespace Sys2Proof.Machine

open Sys2Proof

/-- What the issue stage takes from an instruction: its guard, hints, operand fields and shape; whether it is
one of those that R321 lets issue behind an open access; whether it is a wait point of R322; and whether it makes an
access, and waits for the accesses before it (R155 to R159). -/
structure Head where
  guard : Guard
  hint : Hint
  ops : Heads
  shape : Shape
  early : Bool := false
  waits : Bool := false
  access : Bool := false
  orders : Bool := false
  forks : Bool := false

/-- The head of an instruction from its arguments. -/
def headOf {μ : Type} (a : Args μ) (i : Instr) (early : Bool := false) (waits : Bool := false) : Head :=
  { guard := a.guard, hint := a.hint, ops := a.heads, shape := shape i, early, waits, access := i.accesses, orders := i.orders, forks := i.forks }

/-- An issue in progress: its place, the sub-group's lanes, those that pass the guard, and its PC. -/
structure Ins where
  bid : Nat
  sq : Nat
  grp : Nat
  lanes : Lanes
  pass : Lanes
  pc : Pc
  deriving DecidableEq, Repr

/-- What the issue stage finds; `flush` sends the squad's combined stores before a wait point (R171). -/
inductive Prep where
  | absent
  | wait
  | flush (x : Ins)
  | skip (x : Ins)
  | trap (x : Ins) (code sub : Nat)
  | deferred (x : Ins) (code sub : Nat)
  | lost (x : Ins)
  | damaged (x : Ins) (struct addr : Nat)
  | run (x : Ins)
  deriving DecidableEq, Repr

/-- What an instruction's own effect leads to: completion at the next instruction; a jump of the passing lanes; a
memory access with the lanes that parked and their faults, the lanes done, and a trap, which counts as issued unless every
lane of the sub-group parks (R233); a completion that has placed
its lanes itself; an instruction not ready, or one that makes its whole squad wait; a trap at the instruction, or at one
whose reads have been made; a trap after it; or the end of the flask. -/
inductive Result where
  | go (s : State)
  | jump (s : State) (target : Nat → Pc)
  | mem (s : State) (parked : Lanes) (faults : List (Nat × Lanes)) (done : Lanes) (trap : Option (Nat × Nat))
  | placed (s : State)
  | wait (s : State)
  | hold (s : State)
  | trap (code sub : Nat)
  | failed (s : State) (code sub : Nat)
  | after (s : State) (code sub : Nat)
  | dead (s : State)

/-! ## Readiness (R35 to R38, R229) -/

/-- Whether the lane of a scale register that an instruction reads, whether or not it passes, is full
(R38, R110, R111). A lane that passes under the trapping form is judged for 0x051 with the others. -/
def Head.scaleFull (h : Head) (rf : RegFile) (pass : Lanes) : Bool :=
  match h.shape.scale with
  | some n => (h.ops.feb && pass.getLsbD n) || rf.full h.ops.b 1 (laneBit n)
  | none => true

/-- Whether the sources with FE = 0 let the instruction issue (R37). -/
def Head.interlocked (h : Head) (rf : RegFile) (pass : Lanes) : Bool :=
  let p := h.shape
  let o := h.ops
  p.d.sourceFull o.d rf pass && (o.fea || p.a.sourceFull o.a rf pass) && (o.feb || p.b.sourceFull o.b rf pass)
  && (o.fec || p.c.sourceFull o.c rf pass) && h.scaleFull rf pass

/-- Whether what the instruction writes is full, so that it may be written (R38). -/
def Head.writable (h : Head) (rf : RegFile) (pass : Lanes) : Bool :=
  h.shape.d.destFull h.ops.d rf pass && h.shape.b.destFull h.ops.b rf pass

/-- The position of the first empty trapping source (R37, check 8 of R48). -/
def Head.emptySource (h : Head) (rf : RegFile) (pass : Lanes) : Option Nat :=
  let p := h.shape
  let o := h.ops
  if o.fea && !p.a.sourceFull o.a rf pass then some 1
  else if o.feb && !p.b.sourceFull o.b rf pass then some 2
  else if o.fec && !p.c.sourceFull o.c rf pass then some 3 else none

/-- The register writes that the checkpoint holds since an access: a register counts once for each instruction that
writes it, in whatever lanes. -/
def Squad.logUse (q : Squad) (since : Nat) : Nat :=
  ((q.log.filter fun e => decide (since < e.seq)).map fun e => (e.seq, e.kind, e.reg)).dedup.length

/-- Whether the checkpoint holds the instruction behind an older open access (R321). -/
def Squad.held (q : Squad) (h : Head) : Bool :=
  match q.opens with
  | [] => false
  | o :: _ => !h.early || decide (64 < q.logUse o.seq + h.shape.d.writes + h.shape.b.writes)

/-- The deferred causes that an issue of a squad sees: the handler squad has its own (R322, R328). -/
def State.deferredOf (s : State) (bid sq : Nat) : List Word :=
  if (s.block bid).serves sq then (s.block bid).deferred else (s.squad bid sq).deferred

/-- Whether deferred causes of the issuing party were lost (R322). -/
def State.lostOf (s : State) (bid sq : Nat) : Bool :=
  if (s.block bid).serves sq then (s.block bid).lost else (s.squad bid sq).lost

/-- The cause 0x30F that stands for lost causes is delivered (R322). -/
def State.dropLost (s : State) (bid sq : Nat) : State :=
  let b := s.block bid
  if b.serves sq then s.setBlock bid { b with lost := false }
  else s.setSquad bid sq { s.squad bid sq with lost := false }

/-- Whether posted instructions of the issuing party are not yet answered (R322): the handler squad of a block waits
for its own, whichever squad it served. -/
def State.unanswered (s : State) (bid sq : Nat) : Bool :=
  if (s.block bid).serves sq then s.squads.any fun q => q.1 / 32 == bid && q.2.posted.any (·.byHandler)
  else (s.squad bid sq).posted.any fun p => !p.byHandler

/-- Whether an acquire of a squad is not yet performed (R156, R157, R160): a returning access or pooled atomic with
acquire, or a pop that waits for its handle. No later access of the squad goes before it (log entry 105). -/
def State.acquiring (s : State) (bid sq : Nat) : Bool :=
  ((s.squad bid sq).opens.any (·.acq))
  || ((s.core (coreOf bid)).atoms.any fun a => a.acq && a.bid == bid && a.sq == sq)
  || (s.flask (s.block bid).flask).runners.any fun r => r.2.waiting.any fun p => p.bid == bid && p.sq == sq

/-- Whether an access of a squad outside the matrix engine is not yet performed: a posted one, a spill apart, or a
pooled atomic. -/
def State.sending (s : State) (bid sq : Nat) : Bool :=
  ((s.squad bid sq).posted.any fun p => p.spill.isNone)
  || ((s.core (coreOf bid)).atoms.any fun a => a.bid == bid && a.sq == sq)

/-- Whether an access of a squad is not yet performed: one outside the matrix engine, or a queued `tld`, `tst` or
`accst` (R129). -/
def State.accessing (s : State) (bid sq : Nat) : Bool :=
  s.sending bid sq || ((s.core (coreOf bid)).mq.any fun m => m.owned bid sq)

/-- The units of the registers that an instruction reads. -/
def Head.readUnits (h : Head) (x : Ins) : List (Nat × Nat) :=
  let part := fun (p : Pos) (o : Opnd) => match p with
    | .use _ w false cross => operandUnits x.bid x.sq o w (if cross then 0xFFFFFFFF else x.pass)
    | _ => []
  let scale := match h.shape.scale with
    | some n => operandUnits x.bid x.sq h.ops.b 1 (laneBit n)
    | none => part h.shape.b h.ops.b
  part h.shape.d h.ops.d ++ part h.shape.a h.ops.a ++ scale ++ part h.shape.c h.ops.c
  ++ (if h.guard.sel = 7 then [] else [predUnit x.bid x.sq h.guard.sel.toNat])

/-- The issue at the site that the state names, with the lanes of its sub-group that are not done (R321). -/
def State.insAt (s : State) (g : Guard) : Option Ins :=
  let p := s.ctrl.site
  let q := s.squad p.bid p.sq
  match q.ctl.groups[p.grp]? with
  | some e =>
    if e.kind == .running then
      some { bid := p.bid, sq := p.sq, grp := p.grp, lanes := e.lanes, pass := q.rf.passing g (e.lanes &&& ~~~e.done), pc := e.pc }
    else none
  | none => none

/-- The issue stage: the checks of R35, R37, R38, R155 to R159, R321 and R322, in the order in which they hold an
instruction back or trap it. -/
def State.prepare (s : State) (h : Head) : Prep :=
  match s.insAt h.guard with
  | none => .absent
  | some x =>
    if x.pass = 0 then .skip x
    else
      let q := s.squad x.bid x.sq
      if !h.interlocked q.rf x.pass || q.held h then .wait
      else if (h.access || h.orders) && s.acquiring x.bid x.sq then .wait
      else if (h.waits || h.orders || h.forks) && !q.combine.isEmpty then .flush x
      else if h.waits && s.unanswered x.bid x.sq then .wait
      else if h.orders && s.accessing x.bid x.sq then .wait
      else if h.forks && s.sending x.bid x.sq then .wait
      else match (if h.waits then s.deferredOf x.bid x.sq else []) with
        | c :: _ => if q.opens.isEmpty then .deferred x (causeCode c) (c.toNat / 65536) else .wait
        | [] =>
          if h.waits && s.lostOf x.bid x.sq then (if q.opens.isEmpty then .lost x else .wait)
          else match h.emptySource q.rf x.pass with
            | some k => .trap x 0x051 k
            | none => if !h.writable q.rf x.pass then .wait else
              match s.damaged (h.readUnits x) with
              | some u => .damaged x u.1 u.2
              | none => .run x

/-! ## Advance -/

/-- The next instruction's address (R29). -/
def Ins.next (x : Ins) : Pc := x.pc + 12

/-- An issue begins: the squad's instruction number goes up. -/
def State.begin (s : State) (x : Ins) : State :=
  let q := s.squad x.bid x.sq
  s.setSquad x.bid x.sq { q with seq := q.seq + 1 }

/-- A squad that issues, or ends, no longer waits in a `push` (R256, R257). -/
def State.dropPusher (s : State) (bid sq : Nat) : State :=
  let f := (s.block bid).flask
  let fl := s.flask f
  s.setFlask f { fl with runners := fl.runners.map fun r => (r.1, { r.2 with pushers := r.2.pushers.filter fun k => k != squadKey bid sq }) }

/-- The wait of a squad in place ends with its next issue. -/
def State.endWait (s : State) (bid sq : Nat) : State :=
  if (s.squad bid sq).waitsAt.isSome then s.dropPusher bid sq else s

/-- The bookkeeping of an issue: the order of issues, what it cedes, the SPACE gap, and the skid of a halted
squad (R40, R229, R319). -/
def State.issued (s : State) (x : Ins) (h : Hint) : State :=
  let q := s.squad x.bid x.sq
  let b := s.block x.bid
  let q := { q with
    issued := s.ctrl.stamp
    ceded := if h.cede.getLsbD 0 then x.lanes else 0
    waitsAt := none
    spaceUntil := s.ctrl.now + h.gap
    skid := if b.halted && b.handler.isNone && !q.stopped then q.skid + 1 else q.skid }
  ((s.endWait x.bid x.sq).setSquad x.bid x.sq q).tickStamp

/-- The control state of a squad replaced, with every release that is due. -/
def State.setCtl (s : State) (x : Ins) (exited : Bool) (c : Ctl) : State :=
  let q := s.squad x.bid x.sq
  s.setSquad x.bid x.sq { q with ctl := Ctl.settle s.ctrl.stamp exited 64 c }

/-- The lanes of the sub-group go to their next addresses (R228). -/
def State.moveTo (s : State) (x : Ins) (target : Nat → Pc) : State :=
  let c := (s.squad x.bid x.sq).ctl
  s.setCtl x false ((c.removeGroup x.grp).scatter s.ctrl.stamp x.lanes target)

/-- The address of a lane after a jump of the passing lanes. -/
def Ins.after (x : Ins) (target : Nat → Pc) (i : Nat) : Pc := if x.pass.getLsbD i then target i else x.next

/-- The completion of an instruction at the next instruction. -/
def State.finish (s : State) (x : Ins) (h : Hint) : State := (s.moveTo x fun _ => x.next).issued x h

/-- The declined page faults of a sub-group forgotten: its lanes have trapped with them (R233). -/
def State.forgetDeclined (s : State) (x : Ins) : State :=
  let q := s.squad x.bid x.sq
  s.setSquad x.bid x.sq { q with ctl := { q.ctl with groups := q.ctl.groups.modify x.grp fun g => { g with declined := [] } } }

/-- A cause raised at an instruction that has no effect. -/
def State.trapAt (s : State) (x : Ins) (code sub : Nat) : State :=
  (if code = 0x100 then s.forgetDeclined x else s).takeTrap x.bid x.sq code sub x.pc x.lanes

/-- A held cause delivered at a wait point leaves the list (R322). -/
def State.dropDeferred (s : State) (x : Ins) (code : Nat) : State :=
  let q := s.squad x.bid x.sq
  if (s.block x.bid).serves x.sq then s
  else match q.deferred with
    | c :: r => if causeCode c = code then s.setSquad x.bid x.sq { q with deferred := r } else s
    | [] => s

/-- Lanes that park (R231, R233) leave the sub-group, and the others go on or, on a trap, stay with the lanes done
now and before (R189). -/
def State.parkLanes (s : State) (x : Ins) (parked : Lanes) (faults : List (Nat × Lanes)) (done : Lanes) (stay : Bool) : State :=
  let q := s.squad x.bid x.sq
  let going := x.lanes &&& ~~~parked
  let stamp := s.ctrl.stamp
  let done := (done ||| (q.ctl.groups[x.grp]?).elim 0 (·.done)) &&& going
  let c := q.ctl.removeGroup x.grp
  let c := if parked = 0 then c else (c.park parked going)
  let c := if going = 0 then c
    else if stay then { c with groups := c.groups ++ [{ lanes := going, pc := x.pc, issued := stamp, done := done }] }
    else c.scatter stamp going fun _ => x.next
  let c := if parked = 0 then c
    else { c with groups := c.groups ++ [{ lanes := parked, pc := x.pc, kind := .parked faults [] false, issued := stamp }] }
  s.setCtl x false c

/-- The instruction's own effect carried out. -/
def Result.apply (r : Result) (x : Ins) (h : Hint) (s : State) : State :=
  match r with
  | .go t => t.finish x h
  | .jump t target => (t.moveTo x (x.after target)).issued x h
  | .placed t => t.issued x h
  | .mem t parked faults done none =>
    let u := t.parkLanes x parked faults done false
    if x.lanes &&& ~~~parked = 0 then u else u.issued x h
  | .mem t parked faults done (some c) =>
    if (s.squad x.bid x.sq).opens.isEmpty then
      (t.parkLanes x parked faults done true).takeTrap x.bid x.sq c.1 c.2 x.pc (x.lanes &&& ~~~parked)
    else s.notReady
  | .wait t => t.notReady
  | .hold t => (t.setSquad x.bid x.sq { t.squad x.bid x.sq with waitsAt := some (x.pc, x.lanes) }).notReady
  | .trap c k => s.trapAt x c k
  | .failed t c k => t.trapAt x c k
  | .after t c k => (t.finish x h).takeTrap x.bid x.sq c k x.next x.lanes
  | .dead t => t

/-- The issue of an instruction: an instruction in which no lane passes completes at once (R35); one that is
not ready changes nothing; a cause is taken; otherwise its effect is carried out. -/
def issue (h : Head) (body : Ins → State → Result) (s : State) : Host.Outcome State Fault Refusal :=
  .next (match s.prepare h with
    | .absent => s
    | .wait => s.notReady
    | .flush x => (s.sendCombines x.bid x.sq).notReady
    | .skip x => s.finish x h.hint
    | .trap x c k => s.trapAt x c k
    | .deferred x c k => (s.dropDeferred x c).takeTrap x.bid x.sq c k x.pc x.lanes true
    | .lost x => (s.dropLost x.bid x.sq).trapAt x 0x30F 0
    | .damaged x st a => s.consume x.bid st a
    | .run x => (body x (s.begin x)).apply x h.hint s)

/-! ## Instructions on registers -/

/-- The value of an operand in a lane. -/
def State.get (s : State) (x : Ins) (o : Opnd) (w lane : Nat) : DWord := s.regVal x.bid x.sq o w lane

/-- One register's value of an operand in a lane. -/
def State.get1 (s : State) (x : Ins) (o : Opnd) (lane : Nat) : Word := s.regWord x.bid x.sq o 0 lane

/-- The state with an operand of w registers written in the passing lanes. -/
def State.put (s : State) (x : Ins) (o : Opnd) (w : Nat) (f : Nat → DWord) : State :=
  let s := s.repair (match o with | .p _ => [] | _ => operandUnits x.bid x.sq o w x.pass)
  s.setSquad x.bid x.sq ((s.squad x.bid x.sq).writeVal o w x.pass f)

/-- The state with one register of an operand written in the passing lanes. -/
def State.put1 (s : State) (x : Ins) (o : Opnd) (f : Nat → Word) : State := s.put x o 1 fun i => (f i).setWidth 64

/-- The lane in whose place a squad-wide effect is made (R35). -/
def Ins.lane (x : Ins) : Nat := lowestLane x.pass

/-- The bits of a predicate register written in the passing lanes: the others keep their values (R93, R241). -/
def State.putBits (s : State) (x : Ins) (o : Opnd) (f : Nat → Bool) : State :=
  let old := s.get1 x o 0
  let new := laneSet ((lanesOf x.pass).filter f)
  s.put1 x o fun _ => (old &&& ~~~x.pass) ||| new

end Sys2Proof.Machine
end

