-- ==== Sys2Proof/Machine/Fetch.lean ====
section
/-! DEFINITION. The fetch of an instruction: the code segment, translation, the page fault of a fetch, and
decoding in the block's table (R29, R47, R48, R233, R305). -/

namespace Sys2Proof.Machine

open Sys2Proof

/-- The code segment of a squad, first byte and end: its kernel's, or its handler's (R29, R325). -/
def State.segment (s : State) (bid sq : Nat) : Nat × Nat :=
  let b := s.block bid
  let k := (s.kernel bid)
  match b.handler with
  | some h => if h.sq = sq then (h.codeLo, h.codeHi) else (k.codeLo, k.codeHi)
  | none => (k.codeLo, k.codeHi)

/-- Whether an address is an instruction boundary in a code segment (R29). -/
def inSegment (seg : Nat × Nat) (pc : Nat) : Bool :=
  decide (seg.1 ≤ pc ∧ pc + 12 ≤ seg.2) && (pc - seg.1) % 12 == 0

/-- What a fetch finds. -/
inductive Fetched where
  | word (w : InsnWord)
  | absent (va : Nat)
  | cause (c : Nat)
  | dead (struct key : Nat)
  | wait
  deriving DecidableEq, Repr

/-- The bytes of an instruction word's part in device memory, read as a load of the core's die at their home. -/
def State.fetchHome (s : State) (die tag pa n : Nat) : State × CtxRead :=
  if s.homes.retired.contains (pa / 2 ^ 16) then (s, .cause 0x102)
  else if !s.frameOk tag pa then (s, .cause 0x108)
  else if s.homeWaits (some die) (s.forward pa) n then (s, .wait)
  else (s.loadDone (some die) (s.forward pa) n, s.soundBytes (s.forward pa) n)

/-- The bytes of an instruction word's part at a fabric peer (R184, R306, R315). -/
def State.fetchPeer (s : State) (ep ptag a n : Nat) : State × CtxRead :=
  match s.route ep 0 n with
  | .refused => (s, .cause 0x108)
  | .waits => (s, .wait)
  | .goes l =>
    if s.ordered ep false 0 then (s, .wait)
    else (s.sendFlit ep l 0 n, .bytes (Memory.readBytes s.mem.peer (peerKey ep ptag a) n))

/-- The bytes of one page's part of an instruction word, through the core's translations (R305, R308). -/
def State.fetchPart (s : State) (core tag va n : Nat) : State × CtxRead :=
  let (s, w) := s.translate core tag va
  match s.resolve tag false .fetch va w with
  | .absent => (s, .absent va)
  | .cause c => (s, .cause c)
  | .damaged k => (s, .dead 0x20 k)
  | .waits => (s, .wait)
  | .ok .device pa _ => s.fetchHome (dieOfCore core) tag pa n
  | .ok .host a _ => (s, .bytes (Memory.readBytes s.mem.host a n))
  | .ok (.peer ep ptag _) a _ => s.fetchPeer ep ptag a n

/-- The 12 bytes at an address of a context's code: a fetch that waits has sent nothing. -/
def State.fetchWord (s0 : State) (core tag va : Nat) : State × Fetched :=
  let n := min 12 (2 ^ 16 - va % 2 ^ 16)
  match s0.fetchPart core tag va n with
  | (s, .absent a) => (s, .absent a)
  | (s, .cause c) => (s, .cause c)
  | (s, .dead u k) => (s, .dead u k)
  | (_, .wait) => (s0, .wait)
  | (s, .bytes b) =>
    if n = 12 then (s, .word (wordOfBytes b))
    else match s.fetchPart core tag (va + n) (12 - n) with
      | (s, .absent a) => (s, .absent a)
      | (s, .cause c) => (s, .cause c)
      | (s, .dead u k) => (s, .dead u k)
      | (_, .wait) => (s0, .wait)
      | (s, .bytes b2) => (s, .word (wordOfBytes (b ++ b2)))

/-- What a block's instruction words are decoded with (R47, R48). -/
def State.decEnv (s : State) (bid : Nat) : DecEnv :=
  { table := (s.pourOfBlock bid).table, priv := (s.context (s.tagOfBlock bid)).priv, regs := (s.kernel bid).regs }

/-- Whether a context runs: it and its tenant are enabled (R296, R297). -/
def State.enabled (s : State) (tag : Nat) : Bool := (s.context tag).en && (s.tenant (s.tenantOf tag)).en

/-- Whether a squad may issue: its context enabled, its flask resident, no cause held, outside a halt and a SPACE gap
(R40, R229, R296, R319, R326). A handler is not stopped by the save of its flask (R327). EN := 0 holds a context's squads,
its sequencers and its copies where they stand, and ends nothing: what has left them goes on (log entry 151). -/
def State.squadMay (s : State) (bid sq : Nat) : Bool :=
  let b := s.block bid
  let q := s.squad bid sq
  let st := (s.flask b.flask).status
  let skids := b.handler.isNone && !q.stopped && decide (q.skid.toNat < 12)
  s.blocks.has bid && s.enabled (s.tagOfBlock bid) && (if b.serves sq then st == .resident || st == .saving
    else st == .resident && q.cause == 0 && (!b.halted || skids))
  && decide (q.spaceUntil ≤ s.ctrl.now)

/-- The sub-group of a site. -/
def State.groupAt (s : State) (p : Site) : Option Group := (s.squad p.bid p.sq).ctl.groups[p.grp]?

/-- A sub-group replaced. -/
def State.setGroup (s : State) (p : Site) (g : Group) : State :=
  let q := s.squad p.bid p.sq
  s.setSquad p.bid p.sq { q with ctl := { q.ctl with groups := q.ctl.groups.set p.grp g } }

/-- Lanes of a sub-group that are done with its instruction (R321). -/
def State.markDone (s : State) (x : Ins) (lanes : Lanes) : State :=
  match (s.squad x.bid x.sq).ctl.groups[x.grp]? with
  | some g => s.setGroup { bid := x.bid, sq := x.sq, grp := x.grp } { g with done := g.done ||| lanes }
  | none => s

/-- A sub-group whose instruction lies on a page that is not present parks (R233). -/
def State.parkFetch (s : State) (p : Site) (g : Group) (tag va : Nat) : State :=
  let (s, fid) := s.pageFault tag va 3 (coreOf p.bid)
  s.setGroup p { g with kind := .parked [(fid, g.lanes)] [] true }

/-- A cause of the fetch or of decoding at a sub-group (R48, R321). -/
def State.fetchTrap (s : State) (p : Site) (g : Group) (code sub : Nat) : State :=
  s.takeTrap p.bid p.sq code sub g.pc g.lanes

/-- The instruction of a running sub-group, or the state in which its fetch or decoding ends. -/
def State.fetchAt (s : State) (p : Site) (g : Group) : State × Option Instr :=
  let tag := s.tagOfBlock p.bid
  if !inSegment (s.segment p.bid p.sq) g.pc.toNat then (s.fetchTrap p g 0x011 0, none)
  else match s.fetchWord (coreOf p.bid) tag g.pc.toNat with
    | (s, .absent va) => (s.parkFetch p g tag va, none)
    | (s, .cause c) => (s.fetchTrap p g c 32, none)
    | (s, .dead u k) => (s.consume p.bid u k, none)
    | (s, .wait) => (s.notReady, none)
    | (s, .word w) =>
      match decode (s.decEnv p.bid) ((s.pourOfBlock p.bid).word g.pc.toNat w) with
      | .trap c k => (s.fetchTrap p g c k, none)
      | .ok i => (s, some i)

/-- The state at the site of an issue. -/
def State.atSite (s : State) (p : Site) : State := { s with ctrl := { s.ctrl with site := p, waited := false } }

/-- A served sub-group becomes running again (R233): its declined lanes keep their mark for the retry. -/
def Group.unpark (g : Group) : Group :=
  match g.kind with
  | .parked [] d _ => { g with kind := .running, declined := d }
  | _ => g

/-- Whether a sub-group parked on a fetch whose fault was declined (R233). -/
def Group.fetchDeclined (g : Group) : Bool :=
  match g.kind with
  | .parked [] d true => !d.isEmpty
  | _ => false

/-- Whether an instruction of another sub-group makes the whole squad wait. -/
def Squad.waitsFor (q : Squad) (g : Group) : Bool :=
  match q.waitsAt with
  | some w => (g.pc, g.lanes) != w && q.ctl.groups.any fun e => e.kind == .running && e.pc == w.1 && e.lanes == w.2
  | none => false

/-- The turn of a sub-group up to its instruction: a declined fetch traps, and a running or served sub-group
fetches. -/
def State.turnOf (s : State) (p : Site) : State × Option Instr :=
  let s := s.atSite p
  if !s.squadMay p.bid p.sq then (s.notReady, none)
  else match s.groupAt p with
    | none => (s.notReady, none)
    | some g =>
      if (s.squad p.bid p.sq).waitsFor g then (s.notReady, none)
      else if g.fetchDeclined then
        ((s.setGroup p { g with kind := .running }).fetchTrap p g 0x100 32, none)
      else
        let g' := g.unpark
        if g'.kind == .running then (s.setGroup p g').fetchAt p g' else (s.notReady, none)

end Sys2Proof.Machine
end

