-- ==== Sys2Proof/Machine/Barrier.lean ====
section
/-! DEFINITION. Generations, barriers and their phases: the operations that exits, copies, synchronisation
instructions and the handler's return share (R160, R179, R180, R247 to R254). -/

namespace Sys2Proof.Machine

open Sys2Proof

/-! ## Generations (R160, R179, R180) -/

/-- A raise of DGEN on both dies; where it would wrap, both remote-data caches are cleared and DGEN and every
resident flask's VIEWGEN become 1. -/
def State.raiseDgen (s : State) : State :=
  if s.homes.dgen + 1 < 2 ^ 32 then { s with homes := { s.homes with dgen := s.homes.dgen + 1 } }
  else
    { s with
      homes := { s.homes with dgen := 1 }
      flasks := s.flasks.map fun f => if f.2.status == .resident || f.2.status == .saving then (f.1, { f.2 with viewGen := 1 }) else f
      dev := { s.dev with dies := (List.range 2).foldl (fun t d =>
        t.put d { t.get d {} with rdc := [], clearing := true, clearEnd := s.ctrl.now + 4096 }) s.dev.dies } }

/-- An acquire that raises the view of a flask. -/
def State.raiseView (s : State) (f : Nat) : State :=
  let s := s.raiseDgen
  s.setFlask f { s.flask f with viewGen := s.homes.dgen }

/-! ## Barriers (R247 to R254) -/

/-- The bit of a thread of a block. -/
def threadBit (sq lane : Nat) : BitVec 1024 := (1#1024) <<< (sq * 32 + lane)

/-- The threads of a squad in a set of lanes. -/
def threadSet (sq : Nat) (lanes : Lanes) : BitVec 1024 := lanes.setWidth 1024 <<< (sq * 32)

/-- Every thread of a block of some squads. -/
def allThreads (nsq : Nat) : BitVec 1024 := BitVec.ofNat 1024 (2 ^ (nsq * 32) - 1)

/-- The barriers of a block at its start (R247). -/
def Kernel.startBars (k : Kernel) : Table Bar := (List.range k.bars).map fun n => (n, { enr := allThreads k.nsq })

/-- An instance of a barrier. -/
def State.bar (s : State) (bid n : Nat) : Bar := (s.block bid).bars.get n {}
/-- An instance replaced. -/
def State.setBar (s : State) (bid n : Nat) (b : Bar) : State :=
  s.setBlock bid { s.block bid with bars := (s.block bid).bars.put n b }

/-- Locally met (R251). -/
def Bar.met (b : Bar) : Bool := b.arr0 == b.enr && decide ((b.eb : Int) ≤ b.cb)

/-- Complete of R251. -/
def Bar.complete (b : Bar) : Bar :=
  { b with cb := b.cb - b.eb, eb := b.eb0, arr0 := b.arr1, arr1 := 0, ph := b.ph + 1, localMet := false, second := false }

/-- Whether a second phase may complete at the same event (R251). -/
def Bar.again (b : Bar) : Bool := b.enr != 0 || decide (0 < b.eb)

/-- Check of R251 for a barrier of block scope. -/
def Bar.checkBlock (b : Bar) : Bar :=
  if b.met then
    let c := b.complete
    if c.met && c.again then c.complete else c
  else b

/-- Every instance of a barrier of a flask changed. -/
def State.mapBars (s : State) (bids : List Nat) (n : Nat) (f : Bar → Bar) : State :=
  bids.foldl (fun s b => s.setBar b n (f (s.bar b n))) s

/-- Whether every instance of some blocks is locally met, now or since its local phase completed on the die on which it
was (R254): a save and a resume keep that (R262). -/
def State.allMet (s : State) (bids : List Nat) (n : Nat) : Bool := bids.all fun b => (s.bar b n).met || (s.bar b n).localMet

/-- The blocks of a flask on a die. -/
def Flask.onDie (f : Flask) (d : Nat) : List Nat := f.blocks.filter fun b => dieOfBlock b == d

/-- The local phase of a die complete at its instances (R254): the first or the second phase of an event. -/
def Bar.reach (second : Bool) (b : Bar) : Bar := { b with localMet := true, second }

/-- Whether the local phases of some blocks' instances are complete. -/
def State.allLocal (s : State) (bids : List Nat) (n : Nat) : Bool := bids.all fun b => (s.bar b n).localMet

/-- The dies of a straddling flask judged (R254): the local phase of a die completes where its instances are met, and a
guard admits it. -/
def State.judge (s : State) (fl : Flask) (n : Nat) (guard : Bar → Bool) : State :=
  (List.range 2).foldl (fun s d =>
    let on := fl.onDie d
    if s.allMet on n && on.any (fun b => guard (s.bar b n)) then s.mapBars on n (Bar.reach false) else s) s

/-- An event at an instance of a straddling flask (R254): both dies are judged, since a die without threads or expected
bytes completes at each event; an event that comes while the seam phase is due is judged after it. -/
def State.checkLocal (s : State) (bid n : Nat) : State :=
  let fl := s.flask (s.block bid).flask
  if s.allLocal fl.blocks n then s.setBar bid n { s.bar bid n with due := (s.bar bid n).due + 1 }
  else s.judge fl n fun _ => true

/-- An event that came while a seam phase was due judged after it, one phase each; where the dies do not both complete,
the events that came complete no other. -/
def State.judgeDue (s : State) (fl : Flask) (n : Nat) : State :=
  match fl.blocks.find? fun b => (s.bar b n).due != 0 with
  | none => s
  | some b =>
    let s := (s.setBar b n { s.bar b n with due := (s.bar b n).due - 1 }).judge fl n fun _ => true
    if s.allLocal fl.blocks n then s else s.mapBars fl.blocks n fun b => { b with due := 0 }

/-- The seam phase (R254): every instance completes, then the second phase of the event is judged where this was its
first, at most one (R251), and the events that came meanwhile. -/
def State.seamPhase (s : State) (fl : Flask) (n : Nat) : State :=
  let second := fl.blocks.any fun b => (s.bar b n).second
  let s := s.mapBars fl.blocks n Bar.complete
  if second then s.judgeDue fl n
  else if s.allMet fl.blocks n && fl.blocks.any (fun b => (s.bar b n).again) then s.mapBars fl.blocks n (Bar.reach true)
  else (s.judge fl n Bar.again).judgeDue fl n

/-- FlaskCheck of R254 in a flask that does not straddle. -/
def State.checkWhole (s : State) (fl : Flask) (n : Nat) : State :=
  if s.allMet fl.blocks n then
    let s := s.mapBars fl.blocks n Bar.complete
    if s.allMet fl.blocks n && fl.blocks.any (fun b => (s.bar b n).again) then s.mapBars fl.blocks n Bar.complete else s
  else s

/-- FlaskCheck of R254, after an event at a block's instance. A seam phase that was due when its flask was saved is still
due wherever the flask resumes (R262). -/
def State.checkFlask (s : State) (bid n : Nat) : State :=
  let fl := s.flask (s.block bid).flask
  if fl.straddle || s.allLocal fl.blocks n then s.checkLocal bid n else s.checkWhole fl n

/-- Whether a barrier of a block has flask scope. -/
def State.flaskScope (s : State) (bid n : Nat) : Bool := (s.kernel bid).bscope.getLsbD n

/-- Check of R251, after an event at a block's instance. -/
def State.checkBar (s : State) (bid n : Nat) : State :=
  if s.flaskScope bid n then s.checkFlask bid n
  else s.setBar bid n (s.bar bid n).checkBlock

/-- Threads withdrawn from one instance (R253). -/
def Bar.withdraw (b : Bar) (ts : BitVec 1024) : Bar :=
  { b with enr := b.enr &&& ~~~ts, arr0 := b.arr0 &&& ~~~ts, arr1 := b.arr1 &&& ~~~ts }

/-- Threads that have ended withdrawn from every barrier of their block, one after the other (R253, R332). -/
def State.withdraw (s : State) (bid sq : Nat) (lanes : Lanes) : State :=
  (lanesOf lanes).foldl (fun s lane => (s.block bid).bars.foldl (fun s e =>
    (s.setBar bid e.1 ((s.bar bid e.1).withdraw (threadBit sq lane))).checkBar bid e.1) s) s

/-- k bytes counted into an instance, each with its check (R250). -/
def State.countBytes (s : State) (bid n k : Nat) : State :=
  (List.range k).foldl (fun s _ => (s.setBar bid n { s.bar bid n with cb := (s.bar bid n).cb + 1 }).checkBar bid n) s

/-- Pops and pushes of a squad withdrawn from the runners of its flask once no thread of it is left (R257). -/
def State.withdrawPops (s : State) (bid sq : Nat) : State :=
  let s := s.dropPusher bid sq
  let f := (s.block bid).flask
  let fl := s.flask f
  s.setFlask f { fl with runners := fl.runners.map fun r =>
    (r.1, { r.2 with waiting := r.2.waiting.filter fun p => !(p.bid == bid && p.sq == sq) }) }

/-- Threads of a squad end (R239, R253, R332): withdrawn from the partition, barriers and, with the last of
them, runners; their outstanding producers are discarded. -/
def State.endThreads (s : State) (bid sq : Nat) (lanes : Lanes) : State :=
  let q := (s.squad bid sq).endLanes lanes s.ctrl.stamp
  let s := (s.setSquad bid sq q).withdraw bid sq lanes
  if q.ctl.groups.isEmpty then s.withdrawPops bid sq else s

end Sys2Proof.Machine
end

