-- ==== Sys2Proof/Machine/Flags.lean ====
section
/-! DEFINITION. The DN240 has no flag register (R73, R87): comparisons, classes and truth tables write
predicate masks or registers. These are their values for one lane (R93, R94, R102, R103). -/

namespace Sys2Proof

/-- A comparison of two integers (R93). -/
def Cmp.holds (c : Cmp) (a b : Int) : Bool :=
  match c with
  | .eq => decide (a = b)
  | .ne => decide (a ≠ b)
  | .lt => decide (a < b)
  | .le => decide (a ≤ b)
  | .gt => decide (b < a)
  | .ge => decide (b ≤ a)
  | .un => false

/-- `setp` (R93). -/
def flagSetp (m : IntMod) (a b : DWord) : Bool := m.cmp.holds (m.ty.read a) (m.ty.read b)

/-- `fsetp` (R102). -/
def flagFsetp (m : FpMod) (a b : DWord) : Bool :=
  let x := f32 a
  let y := f32 b
  if x.isNaN || y.isNaN then m.cmp == .ne || m.cmp == .un
  else match m.cmp with
    | .eq => x.eqv y
    | .ne => !x.eqv y
    | .lt => x.lt y
    | .le => x.lt y || x.eqv y
    | .gt => y.lt x
    | .ge => y.lt x || x.eqv y
    | .un => false

/-- `plop` (R94). -/
def flagPlop (m : IntMod) (a b c : Bool) : Bool := m.var.getLsbD (2 * a.toNat + b.toNat) && c

/-- The class bit of a value in a format (R103). -/
def classBit (f : Fmt) (code : Nat) : Nat :=
  let neg := code / 2 ^ f.float.sign % 2 = 1
  match f.value code with
  | .nan => 8
  | .inf n => if n then 0 else 7
  | .fin _ m _ =>
    if m = 0 then (if neg then 3 else 4)
    else if m < 2 ^ (f.float.p - 1) then (if neg then 2 else 5)
    else if neg then 1 else 6

/-- `fclass` (R103). -/
def opFclass (m : FpMod) (a : DWord) : DWord := BitVec.ofNat 64 (2 ^ classBit m.fmt (a.toNat % 2 ^ m.fmt.width))

end Sys2Proof
end

