-- ==== Sys2Proof/Machine/Atomics.lean ====
section
/-! DEFINITION. The operations of atomics and reductions, and the addresses and values of memory
instructions (R43, R146, R187, R188, R191). -/

namespace Sys2Proof.Machine

open Sys2Proof

/-- A number of w bytes read as signed. -/
def signedOf (w n : Nat) : Int := if 2 ^ (8 * w - 1) ≤ n then (n : Int) - 2 ^ (8 * w) else n

/-- The value that an operation writes back (R146): w bytes, the stored value, the operand, and the value that
`.cas` compares. -/
def atomNew (op : AtomOp) (w old b cmp : Nat) : Nat :=
  match op with
  | .add => (old + b) % 2 ^ (8 * w)
  | .min => if signedOf w b < signedOf w old then b else old
  | .max => if signedOf w old < signedOf w b then b else old
  | .and => old &&& b
  | .or => old ||| b
  | .xor => old ^^^ b
  | .exch => b
  | .cas => if old = cmp then b else old
  | .inc => if b ≤ old then 0 else old + 1
  | .dec => if old = 0 ∨ b < old then b else old - 1
  | .fadd => (opFadd { sat := false } (BitVec.ofNat 64 old) (BitVec.ofNat 64 b)).toNat
  | .fmin => (opFmin {} (BitVec.ofNat 64 old) (BitVec.ofNat 64 b)).toNat
  | .fmax => (opFmax {} (BitVec.ofNat 64 old) (BitVec.ofNat 64 b)).toNat

/-- The R50 code of an operation. -/
def AtomOp.code : AtomOp → Nat
  | .add => 0
  | .min => 1
  | .max => 2
  | .and => 3
  | .or => 4
  | .xor => 5
  | .exch => 6
  | .cas => 7
  | .inc => 8
  | .dec => 9
  | .fadd => 10
  | .fmin => 11
  | .fmax => 12

/-- A signed byte offset added to an address, modulo a power of two (R188). -/
def addOfs (bits : Nat) (a : Nat) (imm : Word) : Nat := (((a : Int) + imm.toInt) % 2 ^ bits).toNat

/-- A loaded number of n bytes as it is written into a register of at least 32 bits (R191). -/
def extendLoad (n : Nat) (sx : Bool) (x : Nat) : Nat :=
  if sx && decide (n < 4) && x.testBit (8 * n - 1) then x + (2 ^ 32 - 2 ^ (8 * n)) else x

/-- The lowest passing lane for which a test holds. -/
def Ins.firstLane (x : Ins) (p : Nat → Bool) : Option Nat := (lanesOf x.pass).find? p

/-- Whether an acquire at a scope raises the view of its flask (R160). -/
def State.viewScope (s : State) (bid : Nat) (sc : Option Scope) : Bool :=
  match sc with
  | some .pkg | some .sys => true
  | some .fl => (s.flask (s.block bid).flask).straddle
  | _ => false

/-- Acquire and release parts of an ordering (R156). -/
def isAcq (o : MemOrd) : Bool := o == .acq || o == .ar || o == .sc
/-- The release part. -/
def isRel (o : MemOrd) : Bool := releases o

/-- The acquire of an instruction performed at issue. -/
def State.acquireNow (s : State) (bid : Nat) (o : MemOrd) (sc : Option Scope) : State :=
  if isAcq o && s.viewScope bid sc then s.raiseView (s.block bid).flask else s

end Sys2Proof.Machine
end

