-- ==== Sys2Proof/Machine/Pooled.lean ====
section
/-! DEFINITION. Pooled space: addresses, skewed regions, loads, stores and atomics, and the units of the
scratchpad (R24, R188 to R192, R197, R338). -/

namespace Sys2Proof

/-! ## Shapes (R63, R115, R116) -/

/-- The element width field of a tile shape. -/
def shapeEw (w : Word) : Nat := w.toNat / 2 ^ 16 % 8
/-- The rows of a tile shape. -/
def shapeRows (w : Word) : Nat := w.toNat / 2 ^ 8 % 64 + 1
/-- The bytes of one row of a tile shape. -/
def shapeCols (w : Word) : Nat := w.toNat % 128 + 1
/-- The bytes of a shaped tile. -/
def shapeBytes (w : Word) : Nat := shapeRows w * shapeCols w

end Sys2Proof

namespace Sys2Proof.Machine

open Sys2Proof

/-! ## Addresses (R24) -/

/-- The block of a flask at a half and slot. -/
def State.blockAt (s : State) (f half slot : Nat) : Option Nat :=
  (s.flask f).blocks.find? fun b => (s.block b).half == half && (s.block b).slot == slot

/-- Where a pooled access of n bytes of a flask lands: a block and offset, or a cause. -/
inductive PoolAt where
  | at' (bid ofs : Nat)
  | cause (c : Nat)
  deriving DecidableEq, Repr

/-- The place of a pooled address (R24): cause 0x120 outside the flask, 0x121 beyond the allocation. -/
def State.poolAt (s : State) (f addr n : Nat) : PoolAt :=
  match s.blockAt f (addr / 2 ^ 23 % 2) (addr / 2 ^ 19 % 16) with
  | none => .cause 0x120
  | some b => if (s.kernel b).shared < addr % 2 ^ 19 + n then .cause 0x121 else .at' b (addr % 2 ^ 19)

/-! ## Skewed regions (R64, R192) -/

/-- The fields of an enabled SKEW register: base, pitch and rows in bytes and rows. -/
def skewRegion (w : Word) : Option (Nat × Nat × Nat) :=
  let n := w.toNat
  if n.testBit 31 then some (n % 2 ^ 12 * 128, n / 2 ^ 12 % 2 ^ 13 * 128, n / 2 ^ 25 % 64 + 1) else none

/-- Whether an offset lies in a region. -/
def inRegion (r : Nat × Nat × Nat) (o : Nat) : Bool := decide (r.1 ≤ o ∧ o < r.1 + r.2.2 * r.2.1)

/-- The enabled region of a block that holds an offset. -/
def Block.regionAt (b : Block) (o : Nat) : Option (Nat × Nat × Nat) :=
  ((List.range 4).filterMap fun k => skewRegion (b.skew.get k 0)).find? fun r => inRegion r o

/-- The physical offset of a byte accessed with `.skew` (R192). -/
def Block.skewByte (b : Block) (o : Nat) : Nat :=
  match b.regionAt o with
  | none => o
  | some (base, pitch, _) =>
    let rel := o - base
    let row := rel / pitch
    let w := rel % pitch / 4
    base + row * pitch + (w / 32 * 32 + (w + row) % 32) * 4 + o % 4

/-- The key in pooled memory of a byte of a block's allocation. -/
def State.poolKey (s : State) (bid o : Nat) (skew : Bool) : Nat :=
  bid * 2 ^ 19 + (if skew then (s.block bid).skewByte o else o)

/-! ## Bytes -/

/-- Bytes read from an allocation. -/
def State.poolRead (s : State) (bid o n : Nat) (skew : Bool) : List Byte :=
  (List.range n).map fun k => Memory.read s.mem.pooled (s.poolKey bid (o + k) skew)

/-- Bytes written to an allocation. -/
def State.poolWrite (s : State) (bid o : Nat) (skew : Bool) (bytes : List Byte) : State :=
  let m := bytes.zipIdx.foldl (fun m e => Memory.write m (s.poolKey bid (o + e.2) skew) e.1) s.mem.pooled
  { s with mem := { s.mem with pooled := m } }

/-- The scratchpad units (R338) that some bytes touch. -/
def State.poolUnits (s : State) (bid o n : Nat) (skew : Bool) : List (Nat × Nat) :=
  ((List.range n).map fun k => (0x02, s.poolKey bid (o + k) skew / 4)).dedup

/-- The units that a write covers only in part: one that reaches a damaged unit is not performed (R338). -/
def State.poolPartial (s : State) (bid o n : Nat) (skew : Bool) : List (Nat × Nat) :=
  let keys := (List.range n).map fun k => s.poolKey bid (o + k) skew
  (s.poolUnits bid o n skew).filter fun u => decide ((keys.countP fun k => k / 4 == u.2) < 4)

/-! ## The checks of a pooled instruction (R188, R189) -/

/-- Whether an access is misaligned (R188). A 32-bit word with `.skew` is inside an enabled region where its first or
its last byte is (log entry 93). -/
def State.poolMisaligned (s : State) (f addr n : Nat) (atom skew : Bool) : Bool :=
  if atom then addr % n != 0
  else if 4 < n then addr % 4 != 0
  else n == 4 && skew && addr % 4 != 0 && (match s.blockAt f (addr / 2 ^ 23 % 2) (addr / 2 ^ 19 % 16) with
    | some b => ((s.block b).regionAt (addr % 2 ^ 19)).isSome || ((s.block b).regionAt (addr % 2 ^ 19 + 3)).isSome
    | none => false)

/-- The cause of a pooled instruction of n bytes at its lanes' addresses: alignment, then 0x120, then 0x121,
each across every passing lane. -/
def State.poolCause (s : State) (x : Ins) (addr : Nat → Nat) (n : Nat) (atom skew : Bool) : Option (Nat × Nat) :=
  let f := (s.block x.bid).flask
  let fails := fun c i => s.poolAt f (addr i) n == .cause c
  if (x.firstLane fun i => s.poolMisaligned f (addr i) n atom skew).isSome then some (0x122, 0)
  else match x.firstLane (fails 0x120) with
    | some i => some (0x120, i)
    | none => (x.firstLane (fails 0x121)).map fun i => (0x121, i)

/-- The place of a lane's access that has passed the checks. -/
def State.lanePlace (s : State) (x : Ins) (addr n : Nat) : Nat × Nat :=
  match s.poolAt (s.block x.bid).flask addr n with
  | .at' b o => (b, o)
  | .cause _ => (0, 0)

/-- A lane's pooled address (R188). -/
def State.poolAddr (s : State) (x : Ins) (a : Args PMod) (i : Nat) : Nat := addOfs 24 (s.get1 x a.a i).toNat a.imm

/-- The first damaged unit that an instruction's lanes reach. -/
def State.poolDamage (s : State) (x : Ins) (units : Nat → List (Nat × Nat)) : Option (Nat × Nat) :=
  if s.dev.damage.isEmpty then none else s.damaged ((lanesOf x.pass).flatMap units)

/-! ## Accesses of a squad that are not yet performed (R129, R155, R197) -/

/-- The pooled address of row r of a transfer (R125). -/
def rowAddr (addr pitch r : Nat) : Nat := (addr + r * pitch) % 2 ^ 24

/-- The rows that a matrix command moves to or from pooled space: first address, pitch, rows, bytes of each, and
whether they are skewed. -/
def MatOp.rows : MatOp → Option (Nat × Nat × Nat × Nat × Bool)
  | .tld _ addr pitch skew w | .tst _ addr pitch skew w => some (addr, pitch, shapeRows w, shapeCols w, skew)
  | .accst _ addr pitch skew f => some (addr, pitch, 32, 32 * (f.width / 8), skew)
  | _ => none

/-- The keys in pooled memory of the bytes that a matrix command moves. -/
def State.opKeys (s : State) (bid : Nat) (op : MatOp) : List Nat :=
  match op.rows with
  | none => []
  | some (addr, pitch, rows, len, skew) =>
    (List.range rows).flatMap fun r => match s.poolAt (s.block bid).flask (rowAddr addr pitch r) len with
      | .at' b o => (List.range len).map fun k => s.poolKey b (o + k) skew
      | .cause _ => []

/-- Whether a pooled atomic is one of a squad. -/
def PoolAtom.mine (a : PoolAtom) (bid sq : Nat) : Bool := a.bid == bid && a.sq == sq

/-- The keys of the bytes of a pooled atomic. -/
def State.atomKeys (s : State) (a : PoolAtom) : List Nat :=
  a.pieces.flatMap fun p => (List.range a.n).map fun k => s.poolKey p.bid (p.ofs + k) a.skew

/-- The keys of the pooled bytes that a squad's queued matrix commands and atomics have not yet reached. -/
def State.pendingKeys (s : State) (bid sq : Nat) : List Nat :=
  let c := s.core (coreOf bid)
  ((c.mq.filter fun m => m.owned bid sq).flatMap fun m => s.opKeys bid m.op) ++ ((c.atoms.filter fun a => a.mine bid sq).flatMap s.atomKeys)

/-- Whether an access of the passing lanes must wait for an earlier access of the squad to one of its bytes. -/
def State.poolBusy (s : State) (x : Ins) (place : Nat → Nat × Nat) (n : Nat) (skew : Bool) : Bool :=
  let ks := s.pendingKeys x.bid x.sq
  !ks.isEmpty && (lanesOf x.pass).any fun i => (List.range n).any fun k => ks.contains (s.poolKey (place i).1 ((place i).2 + k) skew)

/-- The stamp of a pooled `.sc` access that is performed (R166). -/
def State.stampPool (s : State) (bid : Nat) (o : MemOrd) : State := if o == .sc then (s.takeStamp bid).1 else s

/-! ## Loads, stores and atomics -/

/-- `lds` (R191). -/
def execLds (a : Args PMod) : State → Host.Outcome State Fault Refusal :=
  issue (headOf a (.lds a) (a.mod.ord != .sc) (a.mod.ord != .relaxed)) fun x s =>
    let n := a.mod.sz.bytes
    let addr := s.poolAddr x a
    let place := fun i => s.lanePlace x (addr i) n
    match s.poolCause x addr n false a.mod.skew with
    | some c => .trap c.1 c.2
    | none =>
      if s.poolBusy x place n a.mod.skew then .wait s
      else match s.poolDamage x fun i => s.poolUnits (place i).1 (place i).2 n a.mod.skew with
        | some u => .dead (s.consume x.bid u.1 u.2)
        | none =>
          let val := fun i => extendLoad n a.mod.sx (leNat (s.poolRead (place i).1 (place i).2 n a.mod.skew))
          let q := (s.squad x.bid x.sq).writeNat a.d a.mod.sz.regs x.pass val
          let s := s.repair (operandUnits x.bid x.sq a.d a.mod.sz.regs x.pass)
          .go (((s.setSquad x.bid x.sq q).acquireNow x.bid a.mod.ord a.mod.sc).stampPool x.bid a.mod.ord)

/-- The stores of an instruction's lanes in ascending order, so that the highest lane's byte stands (R190). -/
def State.poolStores (s : State) (x : Ins) (place : Nat → Nat × Nat) (skew : Bool) (data : Nat → List Byte) : State :=
  (lanesOf x.pass).foldl (fun t i => t.poolWrite (place i).1 (place i).2 skew (data i)) s

/-- `sts` (R191). -/
def execSts (a : Args PMod) : State → Host.Outcome State Fault Refusal :=
  issue (headOf a (.sts a) false (a.mod.ord != .relaxed)) fun x s =>
    let n := a.mod.sz.bytes
    let addr := s.poolAddr x a
    let place := fun i => s.lanePlace x (addr i) n
    match s.poolCause x addr n false a.mod.skew with
    | some c => .trap c.1 c.2
    | none =>
      if s.poolBusy x place n a.mod.skew then .wait s
      else match s.poolDamage x fun i => s.poolPartial (place i).1 (place i).2 n a.mod.skew with
      | some u => .dead (s.consume x.bid u.1 u.2)
      | none =>
        let data := fun i => leBytes n (s.regNat x.bid x.sq a.d a.mod.sz.regs i)
        let t := s.repair ((lanesOf x.pass).flatMap fun i => s.poolUnits (place i).1 (place i).2 n a.mod.skew)
        .go ((t.poolStores x place a.mod.skew data).stampPool x.bid a.mod.ord)

/-- One lane's pooled atomic (R146, R190): the state after it, and the old value. -/
def State.poolAtom (s : State) (op : AtomOp) (place : Nat × Nat) (n : Nat) (skew : Bool) (b cmp : Nat) : State × Nat :=
  let old := leNat (s.poolRead place.1 place.2 n skew)
  (s.poolWrite place.1 place.2 skew (leBytes n (atomNew op n old b cmp)), old)

/-- The lanes of a pooled atomic in ascending order: the state after them and the old values by lane. -/
def State.poolAtoms (s : State) (a : PoolAtom) : State × Table Nat :=
  a.pieces.foldl (fun r p =>
    let t := r.1.poolAtom a.op (p.bid, p.ofs) a.n a.skew p.data p.cmp
    (t.1, r.2.put p.lane t.2)) (s, [])

/-- Values that arrive for a destination of w registers (R36): they are written in those of the lanes in which it is
still empty (R39), which become full. -/
def Squad.land (q : Squad) (d : Opnd) (w : Nat) (lanes : Lanes) (val : Nat → Nat) : Squad :=
  let on := match d with
    | .v n => lanes &&& q.rf.vE.get n.toNat 0
    | .s n => if q.rf.sE.getLsbD n.toNat then lanes else 0
    | _ => 0
  if on = 0 then q
  else
    let rf := (List.range w).foldl (fun (r : RegFile) k => r.write d k on fun i => BitVec.ofNat 32 (val i / 2 ^ (32 * k))) q.rf
    { q with rf := rf.markFull d w on }

/-- A pooled atomic performed at the scratchpads, and its answer (R36, R146, R160, R166, R197). -/
def State.performAtom (s : State) (a : PoolAtom) : State :=
  let c := s.core (coreOf a.bid)
  let s := s.setCore (coreOf a.bid) { c with atoms := c.atoms.filter fun e => e.id != a.id }
  match (if s.dev.damage.isEmpty then none else s.damaged (a.pieces.flatMap fun p => s.poolUnits p.bid p.ofs a.n a.skew)) with
  | some u => s.consume a.bid u.1 u.2
  | none =>
    let r := s.poolAtoms a
    let lanes := laneSet (a.pieces.map (·.lane))
    let w := (a.n + 3) / 4
    let q := (r.1.squad a.bid a.sq).land a.d w lanes fun i => r.2.get i 0
    let s := (r.1.setSquad a.bid a.sq q).repair (operandUnits a.bid a.sq a.d w lanes)
    let s := if a.raises then s.raiseView (s.block a.bid).flask else s
    s.stampPool a.bid (if a.sc then .sc else .relaxed)

/-- The returning atomics that a core has outstanding (R183, R197). The limit of 16 counts instructions: one identity
covers the lanes of one (log entry 92). -/
def State.atomsOut (s : State) (core : Nat) : Nat :=
  (((s.homes.reqs.filter fun r => coreOf r.2.bid == core && (match r.2.op with | .atom _ true => true | _ => false)).map
    fun r => r.2.inst).dedup).length + (s.core core).atoms.length

/-- The operand and the compare value of an atomic in a lane (R146). -/
def State.atomOperands (s : State) (x : Ins) (op : AtomOp) (o : Opnd) (n i : Nat) : Nat × Nat :=
  let w := (n + 3) / 4
  if op == .cas then
    let v := s.regNat x.bid x.sq o (2 * w) i
    (v / 2 ^ (8 * n), v % 2 ^ (8 * n))
  else (s.regNat x.bid x.sq o w i, 0)

/-- A pooled atomic (R36, R183, R197): its destination is marked empty at issue, and it is performed at the scratchpad
when its turn comes. -/
def pooledAtomic (op : AtomOp) (h : Head) (a : Args PMod) : State → Host.Outcome State Fault Refusal :=
  issue h fun x s =>
    let n := a.mod.sz.bytes
    let addr := s.poolAddr x a
    let place := fun i => s.lanePlace x (addr i) n
    match s.poolCause x addr n true a.mod.skew with
    | some c => .trap c.1 c.2
    | none =>
      if s.poolBusy x place n a.mod.skew || decide (16 ≤ s.atomsOut (coreOf x.bid)) then .wait s
      else
        let opd := fun i => s.atomOperands x op a.b n i
        let e : PoolAtom :=
          { id := s.ctrl.nextId, bid := x.bid, sq := x.sq, op, n, skew := a.mod.skew, d := a.d
            pieces := (lanesOf x.pass).map fun i => ⟨i, (place i).1, (place i).2, (opd i).1, (opd i).2⟩
            acq := isAcq a.mod.ord, raises := isAcq a.mod.ord && s.viewScope x.bid a.mod.sc, sc := a.mod.ord == .sc }
        let q := s.squad x.bid x.sq
        let c := s.core (coreOf x.bid)
        .go ((s.setSquad x.bid x.sq { q with rf := q.rf.markEmpty a.d a.mod.sz.regs x.pass }).setCore (coreOf x.bid)
          { c with atoms := c.atoms ++ [e] }).bump

/-- `atoms.add` (R146, R197). -/
def execAtomsAdd (a : Args PMod) : State → Host.Outcome State Fault Refusal :=
  pooledAtomic .add (headOf a (.atomsAdd a) false (a.mod.ord != .relaxed)) a
/-- `atoms.min` (R146, R197). -/
def execAtomsMin (a : Args PMod) : State → Host.Outcome State Fault Refusal :=
  pooledAtomic .min (headOf a (.atomsMin a) false (a.mod.ord != .relaxed)) a
/-- `atoms.max` (R146, R197). -/
def execAtomsMax (a : Args PMod) : State → Host.Outcome State Fault Refusal :=
  pooledAtomic .max (headOf a (.atomsMax a) false (a.mod.ord != .relaxed)) a
/-- `atoms.and` (R146, R197). -/
def execAtomsAnd (a : Args PMod) : State → Host.Outcome State Fault Refusal :=
  pooledAtomic .and (headOf a (.atomsAnd a) false (a.mod.ord != .relaxed)) a
/-- `atoms.or` (R146, R197). -/
def execAtomsOr (a : Args PMod) : State → Host.Outcome State Fault Refusal :=
  pooledAtomic .or (headOf a (.atomsOr a) false (a.mod.ord != .relaxed)) a
/-- `atoms.xor` (R146, R197). -/
def execAtomsXor (a : Args PMod) : State → Host.Outcome State Fault Refusal :=
  pooledAtomic .xor (headOf a (.atomsXor a) false (a.mod.ord != .relaxed)) a
/-- `atoms.exch` (R146, R197). -/
def execAtomsExch (a : Args PMod) : State → Host.Outcome State Fault Refusal :=
  pooledAtomic .exch (headOf a (.atomsExch a) false (a.mod.ord != .relaxed)) a
/-- `atoms.cas` (R146, R197). -/
def execAtomsCas (a : Args PMod) : State → Host.Outcome State Fault Refusal :=
  pooledAtomic .cas (headOf a (.atomsCas a) false (a.mod.ord != .relaxed)) a
/-- `atoms.inc` (R146, R197). -/
def execAtomsInc (a : Args PMod) : State → Host.Outcome State Fault Refusal :=
  pooledAtomic .inc (headOf a (.atomsInc a) false (a.mod.ord != .relaxed)) a
/-- `atoms.dec` (R146, R197). -/
def execAtomsDec (a : Args PMod) : State → Host.Outcome State Fault Refusal :=
  pooledAtomic .dec (headOf a (.atomsDec a) false (a.mod.ord != .relaxed)) a
/-- `atoms.fadd` (R146, R197). -/
def execAtomsFadd (a : Args PMod) : State → Host.Outcome State Fault Refusal :=
  pooledAtomic .fadd (headOf a (.atomsFadd a) false (a.mod.ord != .relaxed)) a
/-- `atoms.fmin` (R146, R197). -/
def execAtomsFmin (a : Args PMod) : State → Host.Outcome State Fault Refusal :=
  pooledAtomic .fmin (headOf a (.atomsFmin a) false (a.mod.ord != .relaxed)) a
/-- `atoms.fmax` (R146, R197). -/
def execAtomsFmax (a : Args PMod) : State → Host.Outcome State Fault Refusal :=
  pooledAtomic .fmax (headOf a (.atomsFmax a) false (a.mod.ord != .relaxed)) a

end Sys2Proof.Machine
end

