-- ==== Sys2Proof/Machine/Home.lean ====
section
/-! DEFINITION. The home slices: owner states, the serving of requests, recalls and write-backs, remote-data
caches, response memos, commutative ranges, and the answers that squads receive (R149, R150, R164 to R183,
R198, R199, R300, R321, R322, R338). -/

namespace Sys2Proof.Machine

open Sys2Proof

/-! ## Owner states (R174) -/

/-- The owner state of a request's words: the most restrictive of P, O, S, F. -/
inductive OwnerState where
  | free | self | other | pending
  deriving DecidableEq, Repr

/-- The owner state that a request meets (R174). -/
def State.ownerState (s : State) (r : Req) : OwnerState :=
  let recs := s.homes.owners.filter fun o => o.1 / 512 == r.line && (o.2.words &&& r.words) != 0
  if recs.any fun o => (o.2.pending &&& r.words) != 0 then .pending
  else if recs.any fun o => o.2.bid != r.bid then .other
  else if recs.isEmpty then .free else .self

/-- Whether a request asks for ownership. -/
def Req.owned (r : Req) : Bool :=
  match r.op with
  | .load o | .store o => o
  | _ => false

/-- The recall of the owners of a request's words (R174, R175): it is pending for them from now on. -/
def State.askRecall (s : State) (r : Req) : State :=
  { s with homes := { s.homes with owners := s.homes.owners.map fun o =>
      if o.1 / 512 == r.line then (o.1, { o.2 with pending := o.2.pending ||| (o.2.words &&& r.words) }) else o } }

/-- A line of the owner buffer of a request's block with its new words, whose bytes are those of the home. -/
def OwnerLine.grow (l : OwnerLine) (words : BitVec 16) (home : List Byte) : OwnerLine :=
  { l with
    words := l.words ||| words
    bytes := (List.range 64).map fun k => if l.words.getLsbD (k / 4) then (l.bytes[k]?).getD 0 else (home[k]?).getD 0 }

/-- Whether the seam holds a write-back (R347). -/
def State.backHeld (s : State) (b : WriteBack) : Bool := s.seamClosed (some (dieOfBlock b.bid)) (b.line * 64)

/-- A write-back performed at its home, unless the seam holds it. -/
def State.landOpen (s : State) (id : Nat) : State :=
  match s.homes.backs.get? id with
  | some b => if s.backHeld b then s else s.landBack id
  | none => s

/-- The oldest line of a full owner buffer given back (R174). -/
def State.bufferRoom (s : State) (core : Nat) : State :=
  let c := s.core core
  if c.owner.length < 128 then s else match c.owner with
    | [] => s
    | l :: _ =>
      let t := s.sendBack l.line l.bid
      (t.homes.backs.filter fun b => b.2.line == l.line && b.2.bid == l.bid).foldl (fun t b => t.landOpen b.1) t

/-- Ownership of words of a line noted in the record of its home (R173): a recall that is pending for other words of
the record stays so. -/
def State.noteOwner (s : State) (r : Req) : State :=
  let k := ownerKey r.line r.bid
  let o := s.homes.owners.get k { words := 0, bid := r.bid, tag := r.tag }
  { s with homes := { s.homes with owners := s.homes.owners.put k { o with words := o.words ||| r.words } } }

/-- Whether a line of an owner buffer is that of a request's block. -/
def Req.ownLine (r : Req) (l : OwnerLine) : Bool := l.line == r.line && l.bid == r.bid

/-- Ownership of words of a line granted to a block (R173, R174): the line is installed in its core's owner
buffer with the bytes of the home; a full buffer first gives back its oldest line. -/
def State.grant (s : State) (r : Req) : State :=
  let core := coreOf r.bid
  let home := Memory.readBytes s.mem.dev (r.line * 64) 64
  let put := fun (s : State) (ls : List OwnerLine) => (s.setCore core { s.core core with owner := ls }).noteOwner r
  if (s.core core).owner.any r.ownLine then
    put s ((s.core core).owner.map fun l => if r.ownLine l then l.grow r.words home else l)
  else
    let s := s.bufferRoom core
    put s ((s.core core).owner ++ [{ line := r.line, bid := r.bid, tag := r.tag, words := r.words, bytes := home }])

/-- Whether the home slice of a request's line has an owner record for its block (R173, R174): one that is there
already, or one of the slice's 8,192 that is free. A line of which two blocks own words takes two (log entry 25). -/
def State.recordFree (s : State) (r : Req) : Bool :=
  s.homes.owners.has (ownerKey r.line r.bid) || decide (s.homes.owners.length < 8192)
  || decide ((s.homes.owners.countP fun o => s.sliceKey (o.1 / 512) == s.sliceKey r.line) < 8192)

/-- A byte of a line in the owner buffer of a block. -/
def State.ownedByte (s : State) (bid line k : Nat) : Byte :=
  match (s.core (coreOf bid)).owner.find? fun l => l.line == line && l.bid == bid with
  | some l => (l.bytes[k]?).getD 0
  | none => 0

/-- Bytes written into the owner buffer of a block. -/
def State.ownedWrite (s : State) (bid line ofs : Nat) (bytes : List Byte) : State :=
  let c := s.core (coreOf bid)
  s.setCore (coreOf bid) { c with owner := c.owner.map fun l =>
    if l.line == line && l.bid == bid then
      { l with bytes := l.bytes.zipIdx.map fun e => if ofs ≤ e.2 ∧ e.2 < ofs + bytes.length then (bytes[e.2 - ofs]?).getD e.1 else e.1 }
    else l }

/-! ## Remote-data caches (R171, R172, R178, R179) -/

/-- Whether a block of a die owns words of a line, or has them on their way back to the home. -/
def State.ownedOn (s : State) (die line : Nat) (words : BitVec 16) : Bool :=
  (s.homes.owners.any fun o => o.1 / 512 == line && dieOfBlock o.2.bid == die && (o.2.words &&& words) != 0)
  || s.homes.backs.any fun b => b.2.line == line && dieOfBlock b.2.bid == die && (b.2.words &&& words) != 0

/-- The entry of a die's remote-data cache that may serve a load of a request's flask (R178): it holds the words, none of
which a block of the die has taken since, and the flask has not come to the die after its fill (log entry 126). -/
def State.rdcEntry (s : State) (r : Req) : Option RdcEntry :=
  let n := dieOfBlock r.bid
  let d := s.die n
  let fl := s.flask r.flask
  match d.rdc.get? r.line with
  | some e =>
    if !d.clearing && e.valid && decide (fl.viewGen ≤ e.fgen ∧ fl.movedAt ≤ e.filled) && r.words &&& ~~~e.held == 0
      && !s.ownedOn n r.line r.words && s.ownerTag (r.line * 64) == e.tag && s.frameOk r.tag (r.line * 64) then some e else none
  | none => none

/-- Whether a page migration makes the request types of a line act as `.uc` (R181). -/
def State.migrating (s : State) (line : Nat) : Bool :=
  match s.homes.migration with
  | some m => line * 64 / 2 ^ 16 * 2 ^ 16 == m.old || line * 64 / 2 ^ 16 * 2 ^ 16 == m.new
  | none => false

/-- Whether a load may be served from, and fill, its die's remote-data cache. The lines of a commutative range that are
never copied there (R150) are those of its home area, in which a load returns a combined value (log entry 143). -/
def State.cacheable (s : State) (r : Req) : Bool :=
  (match r.op with | .load false => true | _ => false) && (r.rq == .wt || r.rq == .si) && !r.sc
  && r.target == .device && homeDie (r.line * 64) != dieOfBlock r.bid && !s.migrating r.line
  && !s.inRange r.line

/-- A remote-data cache with room for one more line (R180): a full one evicts an entry that the specification does
not name. -/
def roomIn (die size stamp : Nat) (t : Table RdcEntry) (line : Nat) : Table RdcEntry :=
  if t.has line || t.length < size then t else t.eraseIdx (Config.rdcVictim die stamp t.length % t.length)

/-- The words of a line that its home holds: none of them is owned, and none lies in a damaged sector (R338). -/
def State.heldWords (s : State) (line : Nat) : BitVec 16 :=
  let owned := s.homes.owners.foldl (fun m o => if o.1 / 512 = line then m ||| o.2.words else m) (0 : BitVec 16)
  (List.range 16).foldl (fun m k =>
    if owned.getLsbD k || (s.damaged (sectorUnits (line * 64 + 4 * k) 4)).isSome then m else m ||| (1#16) <<< k) 0

/-- A fill of a remote-data cache (R178, R179): FGEN is the generation at which the fill request left the cache. -/
def State.rdcFill (s : State) (r : Req) : State :=
  let n := dieOfBlock r.bid
  if s.dev.regs.rdcSz n = 0 || (s.die n).clearing then s
  else
    let s := s.correctRead (r.line * 64) 64
    let d := s.die n
    let e : RdcEntry :=
      { bytes := Memory.readBytes s.mem.dev (r.line * 64) 64, tag := s.ownerTag (r.line * 64)
        fgen := r.left.getD s.homes.dgen, held := s.heldWords r.line, filled := s.ctrl.stamp }
    s.setDie n { d with rdc := (roomIn n (s.dev.regs.rdcSz n * 2 ^ 24) s.ctrl.stamp d.rdc r.line).put r.line e }

/-- What a store, atomic or `.uc` load that passes a die's remote-data cache does to a present entry (R172). -/
def State.rdcPass (s : State) (r : Req) : State :=
  match r.op with
  | .load _ | .store _ => r.pieces.foldl (fun s p => s.patchCache (dieOfBlock r.bid) p.addr p.n) s
  | _ => s.spoilCache (dieOfBlock r.bid) r.line

/-! ## The effect of a request at its home -/

/-- The flask of a request performs no global write: an audit's replay (R355). -/
def State.silent (s : State) (f : Nat) : Bool := (s.flask f).run != .first

/-- The pour-relative number of a request's block (R20). -/
def State.pblk (s : State) (bid : Nat) : Nat :=
  (s.flask (s.block bid).flask).idx * (s.kernel bid).flask + (s.block bid).idx

/-- The outcome of one lane's piece: refused with a cause and sub-code, or done with the bytes it returns. -/
inductive PieceOut where
  | refused (code sub : Nat)
  | bytes (bs : List Byte)

/-- A range to which a flask contributes, with its number of slots, noted (R152). -/
def State.noteCred (s : State) (f : Nat) (g : Range) : State :=
  let fl := s.flask f
  if fl.creds.contains (g.id, g.slots) then s else s.setFlask f { fl with creds := fl.creds ++ [(g.id, g.slots)] }

/-- A contribution to an element at its home (R149): its slot is one of the range's own frames (R300). -/
def State.credAt (s : State) (r : Req) (p : Piece) (g : Range) (e : Nat) : State × PieceOut :=
  match s.slotAt g e (s.pblk r.bid % g.slots) with
  | none => (s, .refused 0x108 p.lane)
  | some pa =>
    match s.damaged (sectorUnits pa p.n) with
    | some u => (s, .refused 0x300 (unitSub u))
    | none => (((s.correctRead pa p.n).noteCred r.flask g).addToSlot g pa (leNat p.data), .bytes [])

/-- A contribution or fold at its home (R199). The rule gives its three sub-codes no order; the model takes them as they
are numbered (log entry 91). -/
def State.rangeOp (s : State) (r : Req) (p : Piece) (fold : Bool) : State × PieceOut :=
  match s.rangeAt p.addr with
  | none => (s, .refused 0x106 0)
  | some (g, o) =>
    if g.fmt.bytes != p.n then (s, .refused 0x106 1)
    else if o % p.n != 0 then (s, .refused 0x106 2)
    else if s.silent r.flask then (s, .bytes [])
    else if !fold then s.credAt r p g (o / p.n)
    else match s.damaged (s.elemUnits g (o / p.n)) with
      | some u => (s, .refused 0x300 (unitSub u))
      | none => ((s.correctElem g (o / p.n)).foldElement g (o / p.n), .bytes [])

/-- The damaged unit of device memory that one lane's piece of a request meets at its home. -/
def State.pieceDamage (s : State) (r : Req) (p : Piece) : Option (Nat × Nat) :=
  match r.op with
  | .store _ => s.storeDamage (r.pieces.map fun q => (q.addr, q.n)) p.addr p.n
  | .load _ | .atom _ _ => s.readDamage p.addr p.n
  | .cred | .crfold => none

/-- One lane's piece at a device home: a refused frame (R182, R300), a damaged sector (R338), or the effect. -/
def State.homePiece (s : State) (r : Req) (p : Piece) : State × PieceOut :=
  match s.frameRefused r.tag (p.addr / 64), s.pieceDamage r p with
  | some c, _ => (s, .refused c p.lane)
  | none, some u => (s, .refused 0x300 (unitSub u))
  | none, none =>
    match r.op with
    | .load _ => (s.correctValue p.addr p.n, .bytes (s.valueBytes p.addr p.n))
    | .store _ =>
      (if s.silent r.flask then s else (s.devWrite p.addr p.data).repair (sectorUnits p.addr p.n), .bytes [])
    | .atom op _ =>
      let old := leNat (Memory.readBytes s.mem.dev p.addr p.n)
      let new := leBytes p.n (atomNew op p.n old (leNat p.data) p.cmp)
      let s := s.correctRead p.addr p.n
      (if s.silent r.flask then s else s.devWrite p.addr new, .bytes (leBytes p.n old))
    | .cred => s.rangeOp r p false
    | .crfold => s.rangeOp r p true

/-- One lane's piece outside device memory: host memory over PCIe, or a peer's memory behind a window. -/
def State.farPiece (s : State) (r : Req) (p : Piece) : State × PieceOut :=
  let key := match r.target with
    | .peer ep ptag _ => peerKey ep ptag p.addr
    | _ => p.addr
  let host := match r.target with | .peer _ _ _ => false | _ => true
  let mem := if host then s.mem.host else s.mem.peer
  let upd := fun (bs : List Byte) =>
    if s.silent r.flask then s
    else if host then { s with mem := { s.mem with host := Memory.writeBytes mem key bs } }
    else { s with mem := { s.mem with peer := Memory.writeBytes mem key bs } }
  match r.op with
  | .load _ => (s, .bytes (Memory.readBytes mem key p.n))
  | .store _ => (upd p.data, .bytes [])
  | .atom op _ =>
    let old := leNat (Memory.readBytes mem key p.n)
    (upd (leBytes p.n (atomNew op p.n old (leNat p.data) p.cmp)), .bytes (leBytes p.n old))
  | .cred | .crfold => (s, .refused 0x106 0)

/-- One lane's piece of an owned access, in the owner buffer of the block (R171, R174). -/
def State.ownPiece (s : State) (r : Req) (p : Piece) : State × PieceOut :=
  match s.damaged [(0x09, ownerKey r.line r.bid)] with
  | some u => (s, .refused 0x300 (unitSub u))
  | none =>
    match r.op with
    | .store _ => (if s.silent r.flask then s else s.ownedWrite r.bid r.line (p.addr % 64) p.data, .bytes [])
    | _ => (s, .bytes ((List.range p.n).map fun k => s.ownedByte r.bid r.line (p.addr % 64 + k)))

/-- The pieces of a request performed one after another in ascending lane order (R190). -/
def State.runPieces (s : State) (r : Req) (f : State → Piece → State × PieceOut) : State × Req :=
  r.pieces.foldl (fun acc p =>
    match f acc.1 p with
    | (s, .refused c k) => (s, { acc.2 with bad := acc.2.bad ++ [(p.lane, c, k)] })
    | (s, .bytes bs) => (s, { acc.2 with results := acc.2.results ++ [(p.lane, p.ofs, bs)] })) (s, r)

/-- The bad answer of a request that is refused in every lane. -/
def Req.refuse (r : Req) (code : Nat) (sub : Piece → Nat) : Req := { r with bad := r.pieces.map fun p => (p.lane, code, sub p) }

/-- A request replaced. -/
def State.setReq (s : State) (id : Nat) (r : Req) : State := { s with homes := { s.homes with reqs := s.homes.reqs.put id r } }

/-- The keeper of a request's memo (R183): its home slice, the host, or the ingress of its peer. -/
def State.keeper (s : State) (r : Req) : Nat :=
  match r.target with
  | .device => s.sliceKey r.line
  | .host => 2 ^ 60
  | .peer ep _ _ => 2 ^ 61 + ep

/-- The line of a request in its memo: at a peer, with the context that it names there. -/
def Req.memoLine (r : Req) : Nat :=
  match r.target with
  | .peer _ ptag _ => ptag * 2 ^ 58 + r.line
  | _ => r.line

/-- Memos with one more (R183): its keeper holds those of the last 16 identities of its core, and none of an older atomic
under the same identity. -/
def addMemo (ms : List Memo) (memo : Memo) : List Memo :=
  let mine := fun (m : Memo) => m.core == memo.core && m.home == memo.home
  let ms := ms.filter fun m => !(mine m && m.ident == memo.ident && m.inst != memo.inst)
  let others := (((ms.filter mine).map (·.ident)).filter (· != memo.ident)).eraseDups
  let old := others.take (others.length - 15)
  ms.filter (fun m => !(mine m && old.contains m.ident)) ++ [memo]

/-- The memo entries that a keeper has yet to write for a core before a missing one again means an atomic never applied
(R340), after one more result. -/
def fillHole (t : Table Nat) (key : Nat) : Table Nat :=
  let k := t.get key 0
  if k ≤ 1 then t.erase key else t.put key (k - 1)

/-- The key of a keeper's memos of a core. -/
def holeKey (home core : Nat) : Nat := home * 256 + core

/-- Whether a memo is of a request's atomic (R183), in whatever line. -/
def State.memoFor (s : State) (r : Req) (m : Memo) : Bool :=
  m.core == coreOf r.bid && m.ident == r.ident && m.inst == r.inst && m.home == s.keeper r

/-- The memo of a returning atomic (R183), a part for each of its lines. -/
def State.memoise (s : State) (r : Req) : State :=
  match r.op with
  | .atom _ true =>
    let memo : Memo :=
      { core := coreOf r.bid, home := s.keeper r, ident := r.ident, inst := r.inst, line := r.memoLine, result := r.results, bad := r.bad }
    { s with homes := { s.homes with
      memos := addMemo s.homes.memos memo
      memoHoles := if s.homes.memos.any (s.memoFor r) then s.homes.memoHoles
        else fillHole s.homes.memoHoles (holeKey (s.keeper r) (coreOf r.bid)) } }
  | _ => s

/-- Whether the outcome of a retried atomic without a memo is unknown (R183): its home die was reset after its issue,
the memo entry may be one lost to an error (R340), or its peer's memo has aged. -/
def State.memoGone (s : State) (r : Req) : Bool :=
  (match r.op with | .atom _ true => r.tries != 0 | _ => false)
  && match r.target with
    | .peer ep _ _ => s.homes.farAged.contains (ep, coreOf r.bid, r.ident)
    | .host => s.homes.memoHoles.has (holeKey (s.keeper r) (coreOf r.bid))
    | .device =>
      s.homes.memoHoles.has (holeKey (s.keeper r) (coreOf r.bid)) || (s.die (homeDie (r.line * 64))).epoch != r.epoch

/-- The damaged units that a request has met at its home consumed by its flask at the end of the turn (R338, R341). -/
def State.detected (s : State) (r : Req) : State :=
  (r.bad.filter fun e => e.2.1 == 0x300).foldl (fun s e => s.ruinBlock r.bid (e.2.2 % 256) (e.2.2 / 256)) s

/-- A request that has been performed: its stamp, its memo, the damage that it has met, and the view that its acquire
raises before any later load is performed (R160). -/
def State.performed (s : State) (id : Nat) (r : Req) : State :=
  let (s, r) := if r.sc then (let e := s.takeStamp r.bid; (e.1, { r with stamp := e.2 })) else (s, r)
  let s := ((s.setReq id { r with status := .performed }).memoise r).detected r
  if r.raises then s.raiseView r.flask else s

/-- The memo that answers a retried atomic (R183). -/
def State.memoOf (s : State) (r : Req) : Option Memo :=
  match r.op with
  | .atom _ true =>
    if r.tries = 0 then none
    else s.homes.memos.find? fun m => s.memoFor r m && m.line == r.memoLine
  | _ => none

/-- A retried atomic answered from the memo, or told that its outcome is unknown (R183); none for a request that is
to be performed. -/
def State.answerRetry (s : State) (id : Nat) (r : Req) : Option State :=
  match s.memoOf r with
  | some m => some (s.setReq id { r with status := .performed, results := m.result, bad := m.bad })
  | none =>
    if s.memoGone r then some (s.setReq id { r.refuse 0x30C (·.lane) with status := .performed })
    else none

/-- The service of a request by its home when no owner stands in the way. -/
def State.serveHome (s : State) (id : Nat) (r : Req) : State :=
  let e := s.runPieces r fun s p => s.homePiece r p
  (if s.cacheable r then (if e.2.bad.isEmpty then e.1.rdcFill e.2 else e.1) else e.1.rdcPass e.2).performed id e.2

/-- A load served from a usable entry of its die's remote-data cache (R26, R178). -/
def State.serveCache (s : State) (id : Nat) (r : Req) (e : RdcEntry) : State :=
  s.performed id { r with results := r.pieces.map fun p =>
    (p.lane, p.ofs, (List.range p.n).map fun k => (e.bytes[p.addr % 64 + k]?).getD 0) }

/-- A request without a claim to ownership. -/
def Req.plain (r : Req) : Req :=
  { r with op := match r.op with
    | .load _ => .load false
    | .store _ => .store false
    | o => o }

/-- A request as its home treats it: an owned access to a migrating page, to a range or in an `.sc` access
acts as `.uc`. -/
def State.effective (s : State) (r : Req) : Req :=
  if r.owned && (s.migrating r.line || r.sc || (r.pieces.any fun p => (s.rangeAt p.addr).isSome)) then r.plain else r

/-- Whether an earlier request holds a word that a request touches (R174). -/
def State.heldBefore (s : State) (id : Nat) (r : Req) : Bool :=
  s.homes.reqs.any fun e => e.1 != id && e.2.status == .held && e.2.line == r.line && e.2.target == r.target
    && (e.2.words &&& r.words) != 0 && (r.status != .held || decide (e.2.arrived < r.arrived))

/-- Whether a load must wait for a store of its die to the same line (R171, R172): one that has arrived at the seam or
at its home has passed them. -/
def State.combinedAhead (s : State) (r : Req) : Bool :=
  (match r.op with | .load _ => true | _ => false) && r.target == .device && r.arrived == 0 && s.loadWaits (dieOfBlock r.bid) r.line

/-- Whether a request is yet to cross the seam to a die. -/
def Req.crosses (r : Req) (die : Nat) : Bool :=
  r.target == .device && r.status == .sent && homeDie (r.line * 64) == die && dieOfBlock r.bid != die

/-- Whether an earlier arrival waits at the seam before a request (R347), a younger request of its own squad apart,
which waits for it. -/
def State.seamQueued (s : State) (id : Nat) (r : Req) : Bool :=
  s.homes.reqs.any fun e => e.1 != id && e.2.crosses (homeDie (r.line * 64)) && e.2.arrived != 0
    && (r.arrived == 0 || decide (e.2.arrived < r.arrived)) && !(e.2.bid == r.bid && e.2.sq == r.sq && decide (id < e.1))

/-- Whether the seam holds a request to the other die (R347): the die is out of service, or the requests that it held
meanwhile go first. -/
def State.seamHolds (s : State) (id : Nat) (r : Req) : Bool :=
  let d := homeDie (r.line * 64)
  r.crosses d && ((s.die d).phase != .running || s.seamQueued id r)

/-- A request that the seam holds: its arrival there is numbered. -/
def State.atSeam (s : State) (id : Nat) (r : Req) : State :=
  if r.arrived != 0 || (s.die (homeDie (r.line * 64))).phase == .running then s.setReq id r
  else (s.setReq id { r with arrived := s.ctrl.stamp + 1 }).tickStamp

/-- Whether a class holds a request back (R184, R215). -/
def State.classBehind (s : State) (id : Nat) (r : Req) : Bool :=
  match r.target with
  | .peer ep _ cls =>
    let write := match r.op with | .store _ => true | _ => false
    s.storesAhead id ep write r.port.isNone cls || s.putsAhead id ep write cls
  | _ => false

/-- The reset epoch that a request carries once its home has moved to another die: current where it was current. -/
def State.movedEpoch (s : State) (r : Req) (line : Nat) : Nat :=
  let new := (s.die (homeDie (line * 64))).epoch
  if homeDie (line * 64) = homeDie (r.line * 64) then r.epoch
  else if (s.die (homeDie (r.line * 64))).epoch = r.epoch then new else new + 1

/-- A request to the old frame of a migration, forwarded to the new home (R182). -/
def State.forwarded (s : State) (r : Req) : Req :=
  if r.target == .device then
    let line := s.forward (r.line * 64) / 64
    { r with line, pieces := r.pieces.map fun p => { p with addr := s.forward p.addr }, epoch := s.movedEpoch r line }
  else r

/-- Whether a request must wait for another of its squad that is not yet performed (R156, R161, R166), lost and yet to
be sent again included: an older acquire, an older access to the same line as it is homed now (R182), and for a release
or an `.sc` access every older access. -/
def State.behind (s : State) (id : Nat) (r : Req) : Bool :=
  s.homes.reqs.any fun e => decide (e.1 < id) && e.2.bid == r.bid && e.2.sq == r.sq && e.2.status != .performed
    && (e.2.acq || r.rel || r.sc || ((s.forwarded e.2).line == r.line && e.2.target.same r.target))

/-- The words that a grant to a request's block reads at the home, as runs of bytes: those that it does not own yet,
but for words that a store covers whole. -/
def State.grantRuns (s : State) (r : Req) : List (Nat × Nat) :=
  let owned := ((s.core (coreOf r.bid)).owner.find? r.ownLine).elim 0 (·.words)
  let covered := fun (a : Nat) => r.pieces.any fun p => decide (p.addr ≤ a ∧ a < p.addr + p.n)
  let store := match r.op with | .store _ => true | _ => false
  (wordRuns r.line (r.words &&& ~~~owned)).filter fun e => !(store && (List.range 4).all fun k => covered (e.1 + k))

/-- An owned request carried out in the owner buffer of its block: ownership is granted only in a frame that the
context may access, and of sound words. -/
def State.serveOwned (s : State) (id : Nat) (r : Req) : State :=
  let runs := s.grantRuns r
  match s.frameRefused r.tag r.line, runs.findSome? fun e => s.readDamage e.1 e.2 with
  | some c, _ => s.performed id (r.refuse c (·.lane))
  | none, some u => s.performed id (r.refuse 0x300 fun _ => unitSub u)
  | none, none =>
    let s := runs.foldl (fun s e => s.correctRead e.1 e.2) s
    let e := (s.grant r).runPieces r fun s p => s.ownPiece r p
    e.1.performed id e.2

/-- A request held at its home, in its order of arrival: an atomic or reduction has passed its die's remote-data
cache (R172). -/
def State.holdReq (s : State) (id : Nat) (r : Req) : State :=
  if r.status == .held then s
  else
    let s := match r.op with
      | .load _ | .store _ => s
      | _ => s.spoilCache (dieOfBlock r.bid) r.line
    (s.setReq id { r with status := .held, arrived := s.ctrl.stamp + 1 }).tickStamp

/-- A request to device memory served, held or recalled by the owner state of its words (R174). An `.ow` request to
free words for which the slice has no owner record is served as `.uc`. -/
def State.deviceStep (s : State) (id : Nat) (r0 r : Req) : State :=
  match s.answerRetry id r with
  | some t => t
  | none =>
    if s.heldBefore id r then s.holdReq id r0
    else match s.ownerState r with
      | .pending => s.holdReq id r0
      | .other => (s.askRecall r).holdReq id r0
      | .self => if r.owned then s.serveOwned id r else (s.askRecall r).holdReq id r0
      | .free =>
        if !r.owned then s.serveHome id r
        else if s.recordFree r then s.serveOwned id r else s.serveHome id r.plain

/-- A request to device memory that goes on to its home, past the seam (R347). -/
def State.toHome (s : State) (id : Nat) (r0 r : Req) : State :=
  if s.seamHolds id r then s.atSeam id r0 else s.deviceStep id r0 r

/-- A request to device memory on its way: a load that its die's remote-data cache may serve looks there first, and
goes on to the home where it misses (R26, R171, R347). -/
def State.deviceReach (s : State) (id : Nat) (r0 r : Req) : State :=
  if s.cacheable r && r.left.isNone then
    match s.rdcEntry r with
    | some e => s.serveCache id r e
    | none => (s.setReq id { r0 with left := some s.homes.dgen }).toHome id { r0 with left := some s.homes.dgen } { r with left := some s.homes.dgen }
  else s.toHome id r0 r

/-! ## Fabric ports (R185, R368, R369) -/

/-- A request delivered to a peer (R194): performed there; a retried atomic is answered from the memo of the peer
(R183). -/
def State.peerPerforms (s : State) (id : Nat) (r : Req) : State :=
  match s.answerRetry id r with
  | some t => t
  | none =>
    let e := s.runPieces r fun s p => s.farPiece r p
    e.1.performed id e.2

/-- A request to a peer that the fabric refuses with an abort completion (R368): a returning atomic is retried (R183),
and any other takes cause 0x30C in its lanes (log entry 114). -/
def State.peerRefused (s : State) (id : Nat) (r : Req) : State :=
  match r.op with
  | .atom _ true => s.setReq id { r with status := .lost }
  | _ => s.setReq id { r.refuse 0x30C (·.lane) with status := .performed }

/-- A request to a peer (R368, R369): refused, waiting for a port, sent through one, or, once it has left, delivered
unless its port retrains. A contribution or a fold names no range there (R199). -/
def State.peerStep (s : State) (id : Nat) (r : Req) (ep cls : Nat) : State :=
  let n := (r.pieces.map (·.n)).sum
  let cls := match r.op with
    | .store _ => cls
    | _ => 0
  if r.op == .cred || r.op == .crfold then s.performed id (r.refuse 0x106 fun _ => 0)
  else match r.port with
  | some l => if (s.link l).phase == .up then s.peerPerforms id r else s
  | none =>
    match s.route ep cls n with
    | .waits => s
    | .refused => s.peerRefused id r
    | .goes l => (s.sendFlit ep l cls n).setReq id { r with port := some l }

/-- A home request served, held or recalled by the owner state of its words (R174), or sent to the host or a
peer. -/
def State.homeStep (s : State) (id : Nat) (r0 : Req) : State :=
  let r0 := s.forwarded r0
  let r := s.effective r0
  if s.behind id r || s.combinedAhead r || s.classBehind id r then s
  else match r.target with
    | .device => s.deviceReach id r0 r
    | .peer ep _ cls => s.peerStep id r ep cls
    | .host =>
      let e := s.runPieces r fun s p => s.farPiece r p
      e.1.performed id e.2

/-! ## Answers (R321, R322) -/

/-- The lanes of a request. -/
def Req.lanes (r : Req) : Lanes := laneSet (r.pieces.map (·.lane))

/-- The instructions that a request carries out. -/
def Req.insts (r : Req) : List Nat := r.inst :: r.also

/-- The lanes of an instruction that still have a request outstanding or a store combined. -/
def State.outstanding (s : State) (bid sq inst : Nat) : Lanes :=
  s.homes.reqs.foldl (fun m e => if e.2.bid == bid && e.2.sq == sq && e.2.insts.contains inst then m ||| e.2.lanes else m)
    ((s.squad bid sq).combine.foldl (fun m c => if c.insts.contains inst then m ||| laneBit c.lane else m) 0)

/-- The priority of a cause that an answer brings (R324). -/
def answerPriority (code : Nat) : Nat :=
  if code = 0x300 then 1 else if priority2 code then 2
  else if code = 0x100 ∨ code = 0x103 ∨ code = 0x105 then 8 else 9

/-- The cause of an access with one more refused lane (R323): the lower priority number, then the lower lane.
The cause carries its sub-code × 32 + lane until it is delivered. -/
def worse (old : Option (Nat × Nat × Nat)) (lane code sub : Nat) : Option (Nat × Nat × Nat) :=
  match old with
  | none => some (lane, code, sub)
  | some (l, c, k) =>
    if answerPriority code < answerPriority c ∨ (answerPriority code = answerPriority c ∧ lane < l) then some (lane, code, sub)
    else some (l, c, k)

/-- A lane's value of an access from the bytes received. -/
def OpenAcc.value (o : OpenAcc) (lane : Nat) : Nat :=
  extendLoad o.size o.sx (leNat ((List.range o.size).map fun k => o.got.get (lane * 32 + k) 0))

/-- Lanes of a returning access filled with their values: their destinations become full (R36). -/
def Squad.fill (q : Squad) (o : OpenAcc) (lanes : Lanes) : Squad :=
  let w := (o.size + 3) / 4
  match o.d with
  | .v _ =>
    let rf := (List.range w).foldl (fun (r : RegFile) k =>
      r.write o.d k lanes fun i => BitVec.ofNat 32 (o.value i / 2 ^ (32 * k))) q.rf
    { q with rf := rf.markFull o.d w lanes }
  | .s _ =>
    if lanes.getLsbD (lowestLane o.lanes) then
      let rf := (List.range w).foldl (fun (r : RegFile) k =>
        r.write o.d k o.lanes fun i => BitVec.ofNat 32 (o.value i / 2 ^ (32 * k))) q.rf
      { q with rf := rf.markFull o.d w lanes }
    else q
  | _ => q

/-- The log entries that stay while some access is open (R321): those from the oldest open access on. -/
def Squad.prune (q : Squad) : Squad :=
  match q.opens with
  | [] => { q with log := [] }
  | o :: _ => { q with log := q.log.filter fun e => decide (o.seq ≤ e.seq) }

/-- A log entry of an open access's own destination, undone where its lanes were not performed: a squad-wide
register holds the value of the lowest lane. -/
def LogEntry.undoLanes (e : LogEntry) (good : Lanes) (r : RegFile) : RegFile :=
  if e.kind == .v then ({ e with lanes := e.lanes &&& ~~~good }).undo r
  else if good.getLsbD (lowestLane e.lanes) then r else e.undo r

/-- The position of the sub-group that issued an access in the control state from before it. -/
def OpenAcc.group (o : OpenAcc) : Nat := o.ctl.groups.findIdx fun g => (g.lanes &&& o.lanes) != 0

/-- The sub-group that issued an access. -/
def OpenAcc.issuer (o : OpenAcc) : Group := (o.ctl.groups[o.group]?).getD { lanes := 0, pc := o.pc }

/-- The lanes that parked at an access. -/
def OpenAcc.parked (o : OpenAcc) : Lanes := o.park.elim 0 (·.lanes)

/-- The lanes of the sub-group that issued an access, those apart that parked at it. -/
def OpenAcc.going (o : OpenAcc) : Lanes := o.issuer.lanes &&& ~~~o.parked

/-- The control state in which an access leaves its squad when its cause is delivered: its sub-group stands at it with
the performed lanes done, or has gone `past` it, and the lanes that parked at it stand as their faults have been
answered since (R189, R233, R321, R324). -/
def OpenAcc.back (o : OpenAcc) (stamp : Nat) (past : Bool) : Ctl :=
  let c := o.ctl.removeGroup o.group
  let c := if o.parked = 0 then c else c.park o.parked o.going
  let c := if past then c.scatter stamp o.going fun _ => o.pc + 12
    else { c with groups := c.groups ++ [{ lanes := o.going, pc := o.pc, issued := stamp, done := (o.issuer.done ||| o.good) &&& o.going }] }
  Ctl.settle stamp false 64 { c with groups := c.groups ++ o.park.toList }

/-- The checkpoint restored at an open access (R321): every register written after it, and its own destination in the
lanes that were not performed unless these have gone `past` it, hold their former values again. -/
def Squad.restore (q : Squad) (o : OpenAcc) (stamp : Nat) (past : Bool) : Squad :=
  let rf := q.log.reverse.foldl (fun (r : RegFile) e =>
    if o.seq < e.seq then e.undo r
    else if e.seq = o.seq && !past then e.undoLanes o.good r else r) q.rf
  { q with rf, ctl := o.back stamp past, opens := [], log := [] }

/-- What the younger loads of a squad have done outside its registers, undone at the restore of an open access
(R321): their requests are withdrawn, their `tld` commands leave the matrix queue, and a tile that one has written
holds its former bytes again. -/
def State.unload (s : State) (bid sq : Nat) (o : OpenAcc) : State :=
  let q := s.squad bid sq
  let young := (q.opens.filter fun e => decide (o.seq < e.seq)).map (·.id)
  let tiles := q.log.reverse.foldl (fun m e =>
    if e.kind == .t && decide (o.seq < e.seq) then
      Memory.writeBytes m ((bid * 16 + e.reg) * 8192) (e.old.map (·.setWidth 8))
    else m) s.mem.tiles
  let c := s.core (coreOf bid)
  { s.setCore (coreOf bid) { c with mq := c.mq.filter fun m => m.bid != bid || (match m.by' with
      | some k => k.1 != sq || decide (k.2 ≤ o.seq)
      | none => true) } with
    mem := { s.mem with tiles }
    homes := { s.homes with reqs := s.homes.reqs.filter fun r => r.2.bid != bid || r.2.sq != sq || !young.contains r.2.inst } }

/-- Lanes of a returning access filled with their values: whole registers are written (R36, R338). -/
def State.fillOpen (s : State) (bid sq : Nat) (o : OpenAcc) (lanes : Lanes) : State :=
  let s := if lanes = 0 then s else s.repair (operandUnits bid sq o.d ((o.size + 3) / 4) lanes)
  s.setSquad bid sq ((s.squad bid sq).fill o lanes)

/-- The delivery of the cause of the oldest open access, once all its lanes are answered (R321, R324, R341). For
0x30C and 0x30D the destination of the lanes that were not performed is 0, and the lanes that made the access go on
at the next instruction; those that had parked at it still wait there. -/
def State.abortOpen (s : State) (bid sq : Nat) (o : OpenAcc) (code sub : Nat) : State :=
  if code = 0x300 then s.consumeSub bid sub
  else
    let past := priority2 code
    let s := (s.unload bid sq o).setSquad bid sq ((s.squad bid sq).restore o s.ctrl.stamp past)
    if past then
      (s.fillOpen bid sq { o with got := [] } (o.all &&& ~~~o.good &&& ~~~o.parked)).takeTrap bid sq code sub (o.pc + 12) o.going
    else s.takeTrap bid sq code sub o.pc o.going

/-- Accesses that have closed leave the checkpoint in order, and the cause of the oldest is delivered. -/
def State.closeOpens (s : State) (bid sq : Nat) : State :=
  let q := s.squad bid sq
  let q := { q with opens := q.opens.filter fun o => o.left != 0 || o.cause.isSome }.prune
  let s := s.setSquad bid sq q
  match q.opens with
  | o :: _ =>
    if o.left = 0 then
      match o.cause with
      | some (c, k) => s.abortOpen bid sq o c (k / 32)
      | none => s
    else s
  | [] => s

/-- The bytes of a request's results put into an access. -/
def OpenAcc.take (o : OpenAcc) (r : Req) : OpenAcc :=
  let got := r.results.foldl (fun t e => e.2.2.zipIdx.foldl (fun t b => t.put (e.1 * 32 + e.2.1 + b.2) b.1) t) o.got
  let cause := r.bad.foldl (fun c e =>
    (worse (c.map fun x => (x.2 % 32, x.1, x.2 / 32)) e.1 e.2.1 e.2.2).map fun x => (x.2.1, x.2.2 * 32 + x.1)) o.cause
  { o with got, cause }

/-- An answer delivered to an open access: the lanes with nothing outstanding fill or fail. -/
def State.answerOpen (s : State) (id : Nat) (r : Req) (o : OpenAcc) : State :=
  let s := { s with homes := { s.homes with reqs := s.homes.reqs.erase id } }
  let s := if r.sc then s.raiseStamp r.bid r.stamp else s
  let o := o.take r
  let bad := laneSet (r.bad.map (·.1))
  let fin := r.lanes &&& o.left &&& ~~~(s.outstanding r.bid r.sq r.inst)
  let o := { o with bad := o.bad ||| bad }
  let ok := fin &&& ~~~o.bad
  let o := { o with left := o.left &&& ~~~fin, good := o.good ||| ok }
  let s := s.fillOpen r.bid r.sq o ok
  let q := s.squad r.bid r.sq
  (s.setSquad r.bid r.sq { q with opens := q.opens.map fun x => if x.id == o.id then o else x }).closeOpens r.bid r.sq

/-- A deferred cause held by a squad, or by the handler squad that made the access (R322): the ninth is lost. -/
def State.defer (s : State) (bid sq : Nat) (byHandler : Bool) (w : Word) : State :=
  if byHandler then
    let b := s.block bid
    s.setBlock bid (if b.lost then b else if b.deferred.length < 8 then { b with deferred := b.deferred ++ [w] } else { b with lost := true })
  else
    let q := s.squad bid sq
    s.setSquad bid sq (if q.lost then q else if q.deferred.length < 8 then { q with deferred := q.deferred ++ [w] } else { q with lost := true })

/-- An answer to the lanes of one posted instruction (R322): at most one deferred cause, of its lowest aborted lane,
once every lane is answered. -/
def State.settlePosted (s : State) (r : Req) (inst : Nat) : State :=
  let q := s.squad r.bid r.sq
  match q.posted.find? fun p => p.id == inst with
  | none => s
  | some p =>
    let cause := r.bad.foldl (fun c e => match c with
      | some (l, _, _) => if e.1 < l then some e else c
      | none => some e) p.cause
    let p := { p with left := s.outstanding r.bid r.sq inst, cause }
    if p.left = 0 then
      let s := s.setSquad r.bid r.sq { q with posted := q.posted.filter fun x => x.id != p.id }
      match p.cause with
      | some (_, c, k) =>
        let s := if c = 0x30C then s.sideEffect r.flask else s
        s.defer r.bid r.sq p.byHandler (causeWord c k)
      | none => s
    else s.setSquad r.bid r.sq { q with posted := q.posted.map fun x => if x.id == p.id then p else x }

/-- An answer to a posted request (R322, R341): every instruction that it carries out receives it. -/
def State.answerPosted (s : State) (id : Nat) (r : Req) : State :=
  let s := { s with homes := { s.homes with reqs := s.homes.reqs.erase id } }
  let s := if r.sc then s.raiseStamp r.bid r.stamp else s
  match r.bad.find? fun e => e.2.1 == 0x300 with
  | some e => s.consumeSub r.bid e.2.2
  | none => r.insts.foldl (fun s i => s.settlePosted r i) s

/-- A lost request answered by an abort completion (R183, R340, R348): a load and a returning atomic are sent
again, the atomic at most three times and not after a reset of its home die; a posted access is not. -/
def State.lostReq (s : State) (id : Nat) (r : Req) : State × Option Req :=
  match r.op with
  | .load _ => (s.setReq id { r with status := .sent, arrived := 0, port := none }, none)
  | .atom _ true =>
    if r.target == .device && (s.die (homeDie (r.line * 64))).epoch != r.epoch then (s, some (r.refuse 0x30C (·.lane)))
    else if 3 ≤ r.tries then (s, some (r.refuse 0x30D (·.lane)))
    else (s.setReq id { r with status := .sent, arrived := 0, port := none, tries := r.tries + 1 }, none)
  | _ => (s, some (r.refuse 0x30C (·.lane)))

/-- The answer of a performed returning atomic lost on its way back (R183): an abort completion reaches its requester, which
sends it again. -/
def State.abortAnswer (s : State) (id : Nat) : State :=
  match s.homes.reqs.get? id with
  | some r => if r.status == .performed && (match r.op with | .atom _ true => true | _ => false) then
      s.setReq id { r with status := .lost, results := [], bad := [] }
    else s
  | none => s

/-- The request of an answer: performed, or lost and not sent again. -/
def State.answerable (s : State) (id : Nat) : State × Option Req :=
  match s.homes.reqs.get? id with
  | none => (s, none)
  | some r =>
    match r.status with
    | .performed => (s, some r)
    | .lost => s.lostReq id r
    | _ => (s, none)

end Sys2Proof.Machine
end

