-- ==== Sys2Proof/Machine/Audit.lean ====
section
/-! DEFINITION. The signatures of an audited pour's global writes (R353), and what an audit's replay may not
do (R355). -/

namespace Sys2Proof.Machine

open Sys2Proof

/-- One bit of CRC-64/ECMA-182, most significant first. -/
def crc64Bit (c : DWord) : DWord := if c.msb then (c <<< 1) ^^^ 0x42F0E1EBA9EA3693 else c <<< 1

/-- One byte of CRC-64/ECMA-182. -/
def crc64Byte (c : DWord) (b : Byte) : DWord :=
  (List.range 8).foldl (fun c _ => crc64Bit c) (c ^^^ (b.setWidth 64 <<< 56))

/-- CRC-64/ECMA-182 with initial value 0 and no final XOR (R353). -/
def crc64 (bs : List Byte) : DWord := bs.foldl crc64Byte 0

/-- The 24-byte record of a write event: the first byte's address, the length, the kind and the data. -/
def eventRecord (va len kind : Nat) (data : List Byte) : List Byte :=
  leBytes 8 (va % 2 ^ 57 + kind * 2 ^ 57 + (len - 1) * 2 ^ 60) ++ (data ++ List.replicate 16 0).take 16

/-- The contiguous runs of written bytes, each within one 16-byte granule: first address and bytes. -/
def byteRuns : List (Nat × Byte) → List (Nat × List Byte)
  | [] => []
  | (a, b) :: r =>
    match byteRuns r with
    | (a2, bs) :: rest => if a2 = a + 1 ∧ a2 % 16 ≠ 0 then (a, b :: bs) :: rest else (a, [b]) :: (a2, bs) :: rest
    | [] => [(a, [b])]

/-- The record of a run of stored bytes: each byte at its offset in the granule. -/
def storeRecord (run : Nat × List Byte) : List Byte :=
  eventRecord run.1 run.2.length 0 (List.replicate (run.1 % 16) 0 ++ run.2)

/-- Write events added to the signature of a block of an audited pour. -/
def State.sign (s : State) (bid : Nat) (recs : List (List Byte)) : State :=
  if !(s.kernel bid).audit then s
  else
    let b := s.block bid
    let fl := s.flask b.flask
    let sum := recs.foldl (fun t r => t + crc64 r) (fl.sigs.get b.idx 0)
    s.setFlask b.flask { fl with sigs := fl.sigs.put b.idx sum }

/-- The end of an audit's replay by cause 0x30E (R355): it yields no verdict. -/
def State.endReplay (s : State) (bid : Nat) : State :=
  let f := (s.block bid).flask
  (s.dropBlocks f).endAudit f

/-- Whether one more result in a flask's replay record ends an audit's replay (R279, R343, R355): it would set the
side-effect bit. -/
def State.noteEnds (s : State) (f : Nat) : Bool := s.silent f && decide (4096 ≤ (s.flask f).replay.length)

end Sys2Proof.Machine
end

