-- ==== Sys2Proof/Machine/Global.lean ====
section
/-! DEFINITION. Global loads, stores, atomics, reductions, contributions and fences, and the answers they
receive (R171, R183, R188 to R201, R233, R305, R308, R321, R322). -/

namespace Sys2Proof.Machine

open Sys2Proof

/-! ## The coalescer (R189, R233, R305, R308) -/

/-- The 64 KiB regions that n bytes touch. -/
def regionsOf (va n : Nat) : List Nat :=
  if (va + n - 1) / 2 ^ 16 = va / 2 ^ 16 then [va / 2 ^ 16] else [va / 2 ^ 16, (va + n - 1) / 2 ^ 16]

/-- What the coalescer has found: the state with its translations, the pages by region, the lanes that park
with their regions, the first trapping cause with its lane, and whether a walk must wait. -/
structure Coal where
  s : State
  pages : Table (Target × Nat × Bool) := []
  parked : Lanes := 0
  absent : List (Nat × Lanes) := []
  trap : Option (Nat × Nat) := none
  waits : Bool := false

/-- The lanes that touch a region. -/
def touching (lanes : Lanes) (addr : Nat → Nat) (n region : Nat) : Lanes :=
  laneSet ((lanesOf lanes).filter fun i => (regionsOf (addr i) n).contains region)

/-- One region looked up. A page with a trapping cause that only lanes touch which have parked on a lower page raises
nothing (log entry 94), and a page whose fault system software declined traps whatever it holds now (R233). -/
def Coal.region (c : Coal) (x : Ins) (k : AccKind) (declined : Table Lanes) (region : Nat) (on : Lanes) : Coal :=
  if c.trap.isSome then c
  else
    let tag := c.s.tagOfBlock x.bid
    let (s, w) := c.s.translate (coreOf x.bid) tag (region * 2 ^ 16)
    let c := { c with s := s }
    let no := on &&& declined.get region 0
    match s.resolve tag ((s.pourOfBlock x.bid).cls == 0) k (region * 2 ^ 16) w with
    | .cause e => if on &&& ~~~c.parked = 0 then c else { c with trap := some (e, lowestLane (on &&& ~~~c.parked)) }
    | .ok t a uco =>
      if no = 0 then { c with pages := c.pages.put region (t, a, uco) } else { c with trap := some (0x100, lowestLane no) }
    | .absent =>
      if no = 0 then { c with parked := c.parked ||| on, absent := c.absent ++ [(region, on)] }
      else { c with trap := some (0x100, lowestLane no) }
    | .damaged k => { c with s := s.ruinTag tag 0x20 k, parked := c.parked ||| on }
    | .waits => { c with waits := true }

/-- The lanes of the issuing sub-group whose fault system software declined, by page. -/
def State.declinedAt (s : State) (x : Ins) : Table Lanes :=
  ((s.squad x.bid x.sq).ctl.groups[x.grp]?).elim [] (·.declined)

/-- The coalescer over the regions of an instruction in ascending address order. -/
def State.coalesce (s : State) (x : Ins) (lanes : Lanes) (addr : Nat → Nat) (n : Nat) (k : AccKind) : Coal :=
  let regions : Table Unit := (lanesOf lanes).foldl (fun t i => (regionsOf (addr i) n).foldl (fun t r => t.put r ()) t) []
  let declined := s.declinedAt x
  regions.foldl (fun c r => c.region x k declined r.1 (touching lanes addr n r.1)) { s }

/-- The lanes whose accesses are made: every page of theirs is present and permitted. -/
def Coal.made (c : Coal) (lanes : Lanes) (addr : Nat → Nat) (n : Nat) : Lanes :=
  laneSet ((lanesOf (lanes &&& ~~~c.parked)).filter fun i => (regionsOf (addr i) n).all c.pages.has)

/-- Whether some page found is one of host memory. -/
def Coal.host (c : Coal) : Bool := c.pages.any fun p => p.2.1 == .host

/-- The page faults of the lanes that park, with the KIND of R376. -/
def Coal.faults (c : Coal) (x : Ins) (kind : Nat) : State × List (Nat × Lanes) :=
  c.absent.foldl (fun acc e =>
    let (s, fid) := acc.1.pageFault (acc.1.tagOfBlock x.bid) (e.1 * 2 ^ 16) kind (coreOf x.bid)
    (s, acc.2 ++ [(fid, e.2)])) (c.s, [])

/-! ## Requests -/

/-- The 64-byte parts of an access of n bytes: offset and length. -/
def lineParts (va n : Nat) : List (Nat × Nat) :=
  let first := min n (64 - va % 64)
  if first = n then [(0, n)] else [(0, first), (first, n - first)]

/-- A piece with the target and class of its page. -/
structure Routed where
  target : Target
  uco : Bool
  piece : Piece

/-- The pieces of one lane. -/
def Coal.pieces (c : Coal) (lane va n : Nat) (data : List Byte) (cmp : Nat) : List Routed :=
  (lineParts va n).map fun p =>
    let v := va + p.1
    let e := c.pages.get (v / 2 ^ 16) (.device, 0, false)
    { target := e.1, uco := e.2.2
      piece := { lane, ofs := p.1, va := v, addr := e.2.1 + v % 2 ^ 16, n := p.2, data := (data.drop p.1).take p.2, cmp } }

/-- Pieces gathered by target and line, in the order in which the lines are first met. -/
def gather : List Routed → List (Routed × List Piece)
  | [] => []
  | r :: rest =>
    let g := gather rest
    let same := fun (e : Routed × List Piece) => e.1.target == r.target && e.1.piece.addr / 64 == r.piece.addr / 64
    match g.find? same with
    | some e => (r, r.piece :: e.2) :: g.filter fun e => !same e
    | none => (r, [r.piece]) :: g

/-- A target without the class of its window, which stores alone carry (R184). -/
def Target.classless : Target → Target
  | .peer ep ptag _ => .peer ep ptag 0
  | t => t

/-- What the requests of one instruction share. -/
structure ReqKind where
  op : ReqOp
  rq : Rq := .uc
  ord : MemOrd := .relaxed
  sc : Option Scope := none
  inst : Nat
  ident : Nat := 0

/-- A piece as its request goes: to one memory by one way, whatever the KIND of its leaf, unless it is stored there. -/
def ReqKind.routed (k : ReqKind) (r : Routed) : Routed :=
  match k.op with
  | .store _ => r
  | _ => { r with target := r.target.classless }

/-- Whether a request may carry the acquire part of its ordering (R156): a load or a returning atomic. -/
def acquiresOp : ReqOp → Bool
  | .load _ => true
  | .atom _ ret => ret
  | .store _ | .cred | .crfold => false
/-- Whether a request may carry the release part: everything but a load. -/
def releasesOp : ReqOp → Bool
  | .load _ => false
  | .store _ | .atom _ _ | .cred | .crfold => true

/-- One request of an instruction. An access through a host leaf is one of scope `.sys` (R362), and its acquire raises the
view (R160). -/
def State.makeReq (s : State) (x : Ins) (k : ReqKind) (e : Routed × List Piece) : State :=
  let plain := e.1.uco || e.1.target != .device
  let op := if plain then (match k.op with
    | .load _ => .load false
    | .store _ => .store false
    | o => o) else k.op
  let line := e.1.piece.addr / 64
  s.addReq
    { bid := x.bid, sq := x.sq, flask := (s.block x.bid).flask, tag := s.tagOfBlock x.bid, inst := k.inst
      rq := if plain then .uc else k.rq, op, target := e.1.target, line, pieces := e.2
      acq := acquiresOp k.op && isAcq k.ord, rel := releasesOp k.op && isRel k.ord, sc := k.ord == .sc
      raises := acquiresOp k.op && isAcq k.ord && (s.viewScope x.bid k.sc || e.1.target == .host)
      ident := k.ident, epoch := (s.die (homeDie (line * 64))).epoch }

/-- The requests of an instruction. They go behind the squad's combined stores to their lines, which are sent first
(R155). -/
def State.makeReqs (s : State) (x : Ins) (k : ReqKind) (rs : List Routed) : State :=
  (gather (rs.map k.routed)).foldl (fun s e => s.makeReq x k e)
    (s.sendLines x.bid x.sq ((rs.filter fun r => r.target == .device).map fun r => r.piece.addr / 64))

/-! ## Combined stores (R171) -/

/-- A `.si` store that its die combines: homed on the other die, without an ordering, and in no page that migrates
(R171, R181). -/
def State.combines (s : State) (x : Ins) (k : ReqKind) (r : Routed) : Bool :=
  k.rq == .si && k.ord == .relaxed && !r.uco && r.target == .device && homeDie r.piece.addr != dieOfBlock x.bid
  && !s.migrating (r.piece.addr / 64)

/-- The bytes of a store's piece, by address, that stand among the pieces of its instruction: a byte that a higher
lane also writes is dropped (R190). -/
def Routed.standing (r : Routed) (all : List Routed) : List (Nat × Byte) :=
  (r.piece.data.zipIdx.map fun b => (r.piece.addr + b.2, b.1)).filter fun b =>
    !all.any fun e => e.target.same r.target && decide (r.piece.lane < e.piece.lane ∧ e.piece.addr ≤ b.1 ∧ b.1 < e.piece.addr + e.piece.n)

/-- A store's piece cut to the bytes of it that stand. -/
def Routed.cut (r : Routed) (all : List Routed) : List Routed :=
  let bytes := r.standing all
  if bytes.length = r.piece.n then [r]
  else (byteRuns bytes).map fun e =>
    let k := e.1 - r.piece.addr
    { r with piece := { r.piece with ofs := r.piece.ofs + k, va := r.piece.va + k, addr := e.1, n := e.2.length, data := e.2 } }

/-- A piece of a posted instruction added to the combined store of its thread and line. A combined store whose window
has ended is sent first (R171). -/
def State.combine (s : State) (x : Ins) (inst : Nat) (p : Piece) : State :=
  let line := p.addr / 64
  let mine := fun (c : Combine) => c.lane == p.lane && c.line == line
  let s := match (s.squad x.bid x.sq).combine.find? fun c => mine c && decide (c.deadline ≤ s.ctrl.now) with
    | some c => s.sendCombine x.bid x.sq c
    | none => s
  let q := s.squad x.bid x.sq
  let add := fun (t : Table Byte) => p.data.zipIdx.foldl (fun t b => t.put (p.addr % 64 + b.2) b.1) t
  if q.combine.any mine then
    let grow := fun (c : Combine) =>
      if mine c then { c with bytes := add c.bytes, insts := if c.insts.contains inst then c.insts else c.insts ++ [inst] } else c
    s.setSquad x.bid x.sq { q with combine := q.combine.map grow }
  else
    let c : Combine :=
      { id := s.ctrl.nextId, lane := p.lane, line, va := p.va - p.addr % 64, bytes := add [], deadline := s.ctrl.now + 256, insts := [inst] }
    (s.setSquad x.bid x.sq { q with combine := q.combine ++ [c] }).bump

/-! ## Addresses -/

/-- A lane's global address (R188). -/
def State.globalAddr (s : State) (x : Ins) (a : Opnd) (imm : Word) (i : Nat) : Nat := addOfs 64 (s.get x a 2 i).toNat imm

/-- The issue-time cause of a global access (R188, R189): alignment, then range. An access that begins below 2^57 and
ends above it is outside the range too (log entry 95). -/
def globalCause (x : Ins) (addr : Nat → Nat) (n : Nat) (atom : Bool) : Option (Nat × Nat) :=
  match x.firstLane fun i => if atom then addr i % n != 0 else decide (4 < n) && addr i % 4 != 0 with
  | some i => some (0x104, i)
  | none => (x.firstLane fun i => decide (2 ^ 57 < addr i + n)).map fun i => (0x101, i)

/-! ## Returning accesses (R36, R193, R197, R321) -/

/-- The previous values of a destination noted in the squad's log (R321). -/
def Squad.noteDest (q : Squad) (d : Opnd) (w : Nat) (lanes : Lanes) : Squad :=
  { q with log := q.log ++ (List.range w).filterMap fun k => q.entryFor d k lanes }

/-- The sub-group of the lanes that park at an instruction. -/
def State.parkAt (s : State) (x : Ins) (parked : Lanes) (faults : List (Nat × Lanes)) : Option Group :=
  if parked = 0 then none else some { lanes := parked, pc := x.pc, kind := .parked faults [] false, issued := s.ctrl.stamp }

/-- A returning access opened: its destination is marked empty in the lanes whose access is made, and the
checkpoint notes the state before it. A translation cause of its other lanes is delivered through the
checkpoint once these lanes have been performed (R189). -/
def State.openAccess (s : State) (x : Ins) (lanes : Lanes) (d : Opnd) (n : Nat) (sx acq raises : Bool) (before : Ctl)
    (park : Option Group) (trap : Option (Nat × Nat)) : State × Nat :=
  let q := s.squad x.bid x.sq
  let w := (n + 3) / 4
  let id := s.ctrl.nextId
  let o : OpenAcc := { id, seq := q.seq, pc := x.pc, ctl := before, lanes, d, size := n, sx, left := lanes, park, all := x.pass, acq, raises
                       cause := trap.map fun c => (c.1, c.2 * 32 + c.2) }
  let q := q.noteDest d w lanes
  let q := { q with opens := q.opens ++ [o], rf := q.rf.markEmpty d w lanes }
  ((s.setSquad x.bid x.sq q).bump, id)

/-- The lanes of some that make their access: the lowest alone for a squad-wide destination, where the
instruction has no other effect (R35). Their pages are found, and their lanes park, for all of them (R233). -/
def onceOf (d : Opnd) (lanes : Lanes) : Lanes :=
  if d.uniformDst && lanes != 0 then laneBit (lowestLane lanes) else lanes

/-- `ldg` (R193). -/
def execLdg (a : Args GMod) : State → Host.Outcome State Fault Refusal :=
  issue (headOf a (.ldg a) true true) fun x s =>
    let n := a.mod.sz.bytes
    let addr := s.globalAddr x a.a a.imm
    match globalCause x addr n false with
    | some c => .trap c.1 c.2
    | none =>
      let before := (s.squad x.bid x.sq).ctl
      let c := s.coalesce x x.pass addr n .load
      if c.waits then .wait s else
      let made := onceOf a.d (c.made x.pass addr n)
      let (s, faults) := c.faults x 0
      let s := if made = 0 then s else
        let raises := isAcq a.mod.ord && (s.viewScope x.bid a.mod.sc || c.host)
        let (s, id) := s.openAccess x made a.d n a.mod.sx (isAcq a.mod.ord) raises before (s.parkAt x c.parked faults) c.trap
        s.makeReqs x { op := .load (a.mod.rq == .ow), rq := a.mod.rq, ord := a.mod.ord, sc := a.mod.sc, inst := id }
          ((lanesOf made).flatMap fun i => c.pieces i (addr i) n [] 0)
      .mem s c.parked faults made (if made = 0 then c.trap else none)

/-- A returning global atomic (R183, R197). -/
def globalAtomic (op : AtomOp) (h : Head) (a : Args GMod) : State → Host.Outcome State Fault Refusal :=
  issue h fun x s =>
    let n := a.mod.sz.bytes
    let addr := s.globalAddr x a.a a.imm
    let core := coreOf x.bid
    if s.silent (s.block x.bid).flask then .dead (s.endReplay x.bid)
    else match globalCause x addr n true with
    | some c => .trap c.1 c.2
    | none =>
      if 16 ≤ s.atomsOut core then .wait s
      else
        let before := (s.squad x.bid x.sq).ctl
        let opd := fun i => s.atomOperands x op a.b n i
        let c := s.coalesce x x.pass addr n .rmw
        if c.waits then .wait s else
        let made := c.made x.pass addr n
        let (s, faults) := c.faults x 2
        let s := if made = 0 then s else
          let raises := isAcq a.mod.ord && (s.viewScope x.bid a.mod.sc || c.host)
          let (s, id) := s.openAccess x made a.d n false (isAcq a.mod.ord) raises before (s.parkAt x c.parked faults) c.trap
          let k := s.core core
          let s := (s.setCore core { k with atomSeq := (k.atomSeq + 1) % 2 ^ 16 }).sideEffect (s.block x.bid).flask
          let s := { s with homes := { s.homes with
            farAged := s.homes.farAged.filter fun e => !(e.2.1 == core && e.2.2 == k.atomSeq) } }
          s.makeReqs x { op := .atom op true, ord := a.mod.ord, sc := a.mod.sc, inst := id, ident := k.atomSeq }
            ((lanesOf made).flatMap fun i => c.pieces i (addr i) n (leBytes n (opd i).1) (opd i).2)
        .mem s c.parked faults made (if made = 0 then c.trap else none)

/-! ## Posted accesses (R190, R193, R197, R199, R322) -/

/-- The bytes of a store that stand: a byte that a higher lane also writes is dropped (R190). -/
def standing (lanes : Lanes) (addr : Nat → Nat) (n : Nat) (data : Nat → List Byte) (i : Nat) : List (Nat × Byte) :=
  ((data i).zipIdx.map fun b => (addr i + b.2, b.1)).filter fun b =>
    !((lanesOf lanes).any fun j => decide (i < j ∧ addr j ≤ b.1 ∧ b.1 < addr j + n))

/-- The pieces of a posted instruction that are made: of a store, the bytes that stand (R190). -/
def ReqKind.pieces (k : ReqKind) (rs : List Routed) : List Routed :=
  match k.op with
  | .store _ => rs.flatMap fun r => r.cut rs
  | _ => rs

/-- The posted requests of an instruction: those that combine wait with their threads, the rest are sent. The
instruction is answered in a lane once the lane has neither a store combined nor a request outstanding (R322). -/
def State.post (s : State) (x : Ins) (k : Nat → ReqKind) (rs : List Routed) : State :=
  let joins := fun r => s.combines x (k 0) r
  let all := (k 0).pieces rs
  let (s, id) := s.addPosted x.bid x.sq (laneSet (all.map fun r => r.piece.lane))
  ((all.filter joins).foldl (fun s r => s.combine x id r.piece) s).makeReqs x (k id) (all.filter fun r => !joins r)

/-- `stg` (R193). -/
def execStg (a : Args GMod) : State → Host.Outcome State Fault Refusal :=
  issue (headOf a (.stg a) false (a.mod.ord != .relaxed)) fun x s =>
    let n := a.mod.sz.bytes
    let addr := s.globalAddr x a.a a.imm
    if a.mod.rq == .ow && s.silent (s.block x.bid).flask then .dead (s.endReplay x.bid)
    else match globalCause x addr n false with
    | some c => .trap c.1 c.2
    | none =>
      let data := fun i => leBytes n (s.regNat x.bid x.sq a.d a.mod.sz.regs i)
      let c := s.coalesce x x.pass addr n .store
      if c.waits then .wait s else
      let made := c.made x.pass addr n
      let (s, faults) := c.faults x 1
      let s := if made = 0 then s else
        let s := if a.mod.rq == .ow then s.sideEffect (s.block x.bid).flask else s
        let s := s.sign x.bid ((lanesOf made).flatMap fun i => (byteRuns (standing made addr n data i)).map storeRecord)
        s.post x (fun id => { op := .store (a.mod.rq == .ow), rq := a.mod.rq, ord := a.mod.ord, sc := a.mod.sc, inst := id })
          ((lanesOf made).flatMap fun i => c.pieces i (addr i) n (data i) 0)
      .mem s c.parked faults made c.trap

/-- A posted operation at the home: a reduction, a contribution or a fold. `kind` and `code` are those of its
write events (R353). -/
def postedOp (op : ReqOp) (kind code : Nat) (h : Head) (a : Args GMod) (opd : Ins → State → Nat → Nat) :
    State → Host.Outcome State Fault Refusal :=
  issue h fun x s =>
    let n := a.mod.sz.bytes
    let addr := s.globalAddr x a.a a.imm
    match globalCause x addr n true with
    | some c => .trap c.1 c.2
    | none =>
      let val := opd x s
      let c := s.coalesce x x.pass addr n .rmw
      if c.waits then .wait s else
      let made := c.made x.pass addr n
      let (s, faults) := c.faults x 2
      let s := if made = 0 then s else
        let s := s.sign x.bid ((lanesOf made).map fun i =>
          eventRecord (addr i) n kind (leBytes 8 (val i) ++ List.replicate 7 0 ++ [BitVec.ofNat 8 code]))
        s.post x (fun id => { op, ord := a.mod.ord, sc := a.mod.sc, inst := id })
          ((lanesOf made).flatMap fun i => c.pieces i (addr i) n (leBytes n (val i)) 0)
      .mem s c.parked faults made c.trap

/-- A global reduction (R197). -/
def globalReduction (op : AtomOp) (h : Head) (a : Args GMod) : State → Host.Outcome State Fault Refusal :=
  postedOp (.atom op false) 1 op.code h a fun x s i => (s.atomOperands x op a.b a.mod.sz.bytes i).1 % 2 ^ (8 * a.mod.sz.bytes)

/-- `cred` (R199). -/
def execCred (a : Args GMod) : State → Host.Outcome State Fault Refusal :=
  postedOp .cred 2 0 (headOf a (.cred a) false (a.mod.ord != .relaxed)) a fun x s i =>
    (s.get1 x a.b i).toNat % 2 ^ (8 * a.mod.sz.bytes)

/-- `crfold` (R199). -/
def execCrfold (a : Args GMod) : State → Host.Outcome State Fault Refusal :=
  postedOp .crfold 3 0 (headOf a (.crfold a) false (a.mod.ord != .relaxed)) a fun _ _ _ => 0

/-! ## Fences (R176, R200) -/

/-- The owned words of a block written back (R176). -/
def State.giveBack (s : State) (bid : Nat) : State :=
  let lines := ((s.core (coreOf bid)).owner.filter fun l => l.bid == bid).map (·.line)
  let s := lines.foldl (fun s l => s.sendBack l bid) s
  (s.homes.backs.filter fun b => b.2.bid == bid).foldl (fun s b => s.landOpen b.1) s

/-- Whether some words of a block are still on their way back to their home. -/
def State.owing (s : State) (bid : Nat) : Bool := s.homes.backs.any fun b => b.2.bid == bid

/-- Scopes of a die or wider. -/
def wideScope (sc : Option Scope) : Bool := sc == some .die || sc == some .pkg || sc == some .sys

/-- What a fence gives back before it: the owned words of its block (R176). -/
def State.fenceBack (s : State) (bid : Nat) (o : MemOrd) (sc : Option Scope) : State :=
  if isRel o && wideScope sc then s.giveBack bid else s

/-- The effect of a fence whose squad has no access outstanding. -/
def State.fenced (s : State) (bid : Nat) (o : MemOrd) (sc : Option Scope) : State :=
  let s := (s.fenceBack bid o sc).acquireNow bid o sc
  if o == .sc then (s.takeStamp bid).1 else s

/-- `fence` (R200). One that gives words back waits until they are written (R176). -/
def execFence (a : Args GMod) : State → Host.Outcome State Fault Refusal :=
  issue (headOf a (.fence a) false true) fun x s =>
    if isRel a.mod.ord && wideScope a.mod.sc && (s.giveBack x.bid).owing x.bid then .wait (s.giveBack x.bid)
    else .go (s.fenced x.bid a.mod.ord a.mod.sc)

/-! ## Declaring a range (R198) -/

/-- What the translation of an area gives (R198, R305): the device addresses of its 64 KiB pages; none where one is
not mapped to device memory, a cause, the first page that is not present, a damaged unit of the page table, or a walk
that must wait. -/
inductive Area where
  | pages (l : List Nat)
  | elsewhere
  | cause (c : Nat)
  | absent (va : Nat)
  | damaged (key : Nat)
  | waits

/-- What one page of an area meets: no permission is asked of an area that is not accessed, nor of a page outside
device memory. -/
def State.areaPage (s : State) (tag : Nat) (store : Bool) (va : Nat) : Walk → Xlat
  | .leaf b z l =>
    if l.kind != 0 then .ok .host 0 false
    else if store then s.resolve tag false .store va (.leaf b z l)
    else .ok .device (l.addr + (va - b)) false
  | .unbacked => .ok .host 0 false
  | w => s.resolve tag false .store va w

/-- The pages of an area that is accessed in a way by a die, in ascending order. -/
def State.areaPages (s : State) (die tag : Nat) (store : Bool) : List Nat → Area
  | [] => .pages []
  | va :: rest =>
    match s.areaPage tag store va (s.walk (some die) tag va) with
    | .cause c => .cause c
    | .absent => .absent va
    | .damaged k => .damaged k
    | .waits => .waits
    | .ok .device pa _ =>
      match (if store then s.frameRefused tag (pa / 64) else none) with
      | some c => .cause c
      | none => match s.areaPages die tag store rest with
        | .pages l => .pages (pa :: l)
        | r => r
    | .ok _ _ _ => .elsewhere

/-- The addresses of the 64 KiB pages that an area touches. -/
def areaRegions (base len : Nat) : List Nat :=
  (List.range ((base + len - 1) / 2 ^ 16 + 1 - base / 2 ^ 16)).map fun k => (base / 2 ^ 16 + k) * 2 ^ 16

/-- Two areas overlap. -/
def meets (a la b lb : Nat) : Bool := decide (a < b + lb ∧ b < a + la)

/-- The bytes of a range's areas. -/
def Range.sizes (r : Range) : Nat × Nat := (r.len * r.fmt.bytes, r.len * r.slots * r.fmt.bytes)

/-- Whether a new range overlaps a declared one. -/
def Range.clashes (r o : Range) : Bool :=
  let (rh, rs) := r.sizes
  let (oh, os) := o.sizes
  meets r.home rh o.home oh || meets r.home rh o.shadow os || meets r.shadow rs o.home oh || meets r.shadow rs o.shadow os

/-- The shadow area of a range zeroed, by stores of a die. -/
def State.zeroShadow (s : State) (die : Nat) (r : Range) : State :=
  (List.range (r.len * r.slots)).foldl (fun s k =>
    match mapAddr r.shadow r.shadowMap (k * r.fmt.bytes) with
    | some pa => s.storeFrom die pa (List.replicate r.fmt.bytes 0)
    | none => s) s

/-- Whether the zeroing of a page by a die waits: behind requests that are held there (R174), or at the seam (R347). -/
def State.zeroWaits (s : State) (die pa : Nat) : Bool :=
  s.seamClosed (some die) pa || s.homes.reqs.any fun e =>
    e.2.status == .held && e.2.target == .device && e.2.line * 64 / 2 ^ 16 == pa / 2 ^ 16

/-- The format that the immediate of `crdecl` names. -/
def rangeFmt (imm : Word) : RangeFmt :=
  match imm.toNat / 2 ^ 8 % 4 with
  | 1 => .bf16
  | 2 => .i32
  | _ => .f32

/-- Whether the areas of a range lie on one die (R198). -/
def Range.oneDie (r : Range) : Bool := (r.homeMap ++ r.shadowMap).all fun p => homeDie p == homeDie (r.homeMap.headD 0)

/-- The copies of lines of a range leave the remote-data caches, which never hold them (R150). -/
def State.dropCopies (s : State) : State :=
  { s with dev := { s.dev with dies := s.dev.dies.map fun (d : Nat × Die) => (d.1, { d.2 with rdc := d.2.rdc.filter fun e => !s.inRange e.1 }) } }

/-- What the translation of some pages by a die leaves. -/
def State.pagesWalked (s : State) (die tag : Nat) (vas : List Nat) : State :=
  vas.foldl (fun s va => s.walked (some die) tag va (s.walk (some die) tag va)) s

/-- The registration of a range whose areas are mapped (R198), declared by a block of a die: the conditions of
sub-codes 2, 0 and 1, in this order. In an audit's replay it declares nothing: the first run's range stands (R355, log
entry 142). -/
def State.declare (s : State) (die : Nat) (silent : Bool) (r : Range) : Result :=
  let c := s.context r.tag
  if !r.oneDie then .trap 0x107 2
  else if silent then .go s
  else if c.ranges.any r.clashes then .trap 0x107 0
  else if 64 ≤ c.ranges.length then .trap 0x107 1
  else if r.shadowMap.any (s.zeroWaits die) then .wait s
  else
    let s := s.pagesWalked die r.tag (areaRegions r.home r.sizes.1 ++ areaRegions r.shadow r.sizes.2)
    .go ((s.zeroShadow die r).setContext r.tag { c with ranges := c.ranges ++ [{ r with id := s.ctrl.nextId }] }).dropCopies.bump

/-- An area of a range that `crdecl` cannot go on with: a cause, or a page that is not present, on which the squad's
passing lanes park (R189, R305). -/
def State.areaStops (s : State) (x : Ins) (store : Bool) : Area → Option Result
  | .pages _ => none
  | .elsewhere => some (.trap 0x107 2)
  | .cause c => some (.trap c x.lane)
  | .absent va =>
    if ((s.declinedAt x).get (va / 2 ^ 16) 0) &&& x.pass != 0 then some (.trap 0x100 x.lane)
    else
      let (t, fid) := s.pageFault (s.tagOfBlock x.bid) va (if store then 1 else 0) (coreOf x.bid)
      some (.mem t x.pass [(fid, x.pass)] 0 none)
  | .damaged k => some (.dead (s.ruinTag (s.tagOfBlock x.bid) 0x20 k))
  | .waits => some (.wait s)

/-- `crdecl` (R198). The device zeroes the shadow area as stores of the squad, under the checks of R300 and R305; the
home area is only translated (log entry 96). -/
def execCrdecl (a : Args GMod) : State → Host.Outcome State Fault Refusal :=
  issue (headOf a (.crdecl a)) fun x s =>
    let tag := s.tagOfBlock x.bid
    let len := (s.get1 x a.d x.lane).toNat
    let home := (s.get x a.a 2 x.lane).toNat
    let shadow := (s.get x a.b 2 x.lane).toNat
    let slots := a.imm.toNat % 256 + 1
    let die := dieOfBlock x.bid
    let r : Range := { tag, home, shadow, homeMap := [], shadowMap := [], len, slots, fmt := rangeFmt a.imm, pour := (s.flask (s.block x.bid).flask).pour }
    if len = 0 ∨ 2 ^ 24 < len then .trap 0x107 3
    else if home % 64 ≠ 0 ∨ shadow % 64 ≠ 0 ∨ 2 ^ 57 < home + r.sizes.1 ∨ 2 ^ 57 < shadow + r.sizes.2 then .trap 0x107 2
    else match s.areaPages die tag false (areaRegions home r.sizes.1), s.areaPages die tag true (areaRegions shadow r.sizes.2) with
      | .pages hm, .pages sm => s.declare die (s.silent (s.block x.bid).flask) { r with homeMap := hm, shadowMap := sm }
      | ha, sa => ((s.areaStops x false ha).orElse fun _ => s.areaStops x true sa).getD (.trap 0x107 2)

/-! ## Events of the homes and of answers -/

/-- `home request` (R174). -/
def execHomeRequest (id : Nat) (s : State) : Host.Outcome State Fault Refusal :=
  .next (match s.homes.reqs.get? id with
    | some r => if r.status == .sent || r.status == .held then s.homeStep id r else s
    | none => s)

/-- Whether the home recalls words that are still in an owner's buffer (R175). -/
def State.recalled (s : State) (line : Nat) (o : OwnerRec) : Bool :=
  (s.core (coreOf o.bid)).owner.any fun l => l.line == line && l.bid == o.bid && (l.words &&& o.pending) != 0

/-- `recall` (R175): the owning cores write back the words of a line that the home recalls. -/
def execRecall (line : Nat) (s : State) : Host.Outcome State Fault Refusal :=
  .next ((s.homes.owners.filter fun o => o.1 / 512 == line && s.recalled line o.2).foldl (fun s o => s.sendBack line o.2.bid) s)

/-- `owner write-back` (R176). -/
def execOwnerWriteback (id : Nat) (s : State) : Host.Outcome State Fault Refusal := .next (s.landOpen id)

/-- `access response` (R36, R197, R321): the answer to a returning global access, or to a pooled atomic. -/
def execAccessResponse (id : Nat) (s : State) : Host.Outcome State Fault Refusal :=
  .next (match s.cores.findSome? fun c => c.2.atoms.find? fun a => a.id == id with
    | some a => s.performAtom a
    | none =>
      match s.answerable id with
      | (s, none) => s
      | (s, some r) =>
        match (s.squad r.bid r.sq).opens.find? fun o => o.id == r.inst with
        | some o => s.answerOpen id r o
        | none => s)

/-- `posted access answer` (R322). -/
def execPostedAccessAnswer (id : Nat) (s : State) : Host.Outcome State Fault Refusal :=
  .next (match s.answerable id with
    | (s, none) => s
    | (s, some r) =>
      if (s.squad r.bid r.sq).posted.any fun p => r.insts.contains p.id then s.answerPosted id r else s)

/-- `si combine timeout` (R171): a combined store is sent at the end of its window. -/
def execSiCombineTimeout (squad id : Nat) (s : State) : Host.Outcome State Fault Refusal :=
  let bid := squad / 32
  let sq := squad % 32
  .next (match (s.squad bid sq).combine.find? fun c => c.id == id with
    | some c => if c.deadline ≤ s.ctrl.now then s.sendCombine bid sq c else s
    | none => s)

/-! ## The atomics and reductions -/

/-- `atomg.add` (R146, R197). -/
def execAtomgAdd (a : Args GMod) : State → Host.Outcome State Fault Refusal :=
  globalAtomic .add (headOf a (.atomgAdd a) false true) a
/-- `atomg.min` (R146, R197). -/
def execAtomgMin (a : Args GMod) : State → Host.Outcome State Fault Refusal :=
  globalAtomic .min (headOf a (.atomgMin a) false true) a
/-- `atomg.max` (R146, R197). -/
def execAtomgMax (a : Args GMod) : State → Host.Outcome State Fault Refusal :=
  globalAtomic .max (headOf a (.atomgMax a) false true) a
/-- `atomg.and` (R146, R197). -/
def execAtomgAnd (a : Args GMod) : State → Host.Outcome State Fault Refusal :=
  globalAtomic .and (headOf a (.atomgAnd a) false true) a
/-- `atomg.or` (R146, R197). -/
def execAtomgOr (a : Args GMod) : State → Host.Outcome State Fault Refusal :=
  globalAtomic .or (headOf a (.atomgOr a) false true) a
/-- `atomg.xor` (R146, R197). -/
def execAtomgXor (a : Args GMod) : State → Host.Outcome State Fault Refusal :=
  globalAtomic .xor (headOf a (.atomgXor a) false true) a
/-- `atomg.exch` (R146, R197). -/
def execAtomgExch (a : Args GMod) : State → Host.Outcome State Fault Refusal :=
  globalAtomic .exch (headOf a (.atomgExch a) false true) a
/-- `atomg.cas` (R146, R197). -/
def execAtomgCas (a : Args GMod) : State → Host.Outcome State Fault Refusal :=
  globalAtomic .cas (headOf a (.atomgCas a) false true) a
/-- `atomg.inc` (R146, R197). -/
def execAtomgInc (a : Args GMod) : State → Host.Outcome State Fault Refusal :=
  globalAtomic .inc (headOf a (.atomgInc a) false true) a
/-- `atomg.dec` (R146, R197). -/
def execAtomgDec (a : Args GMod) : State → Host.Outcome State Fault Refusal :=
  globalAtomic .dec (headOf a (.atomgDec a) false true) a
/-- `atomg.fadd` (R146, R197). -/
def execAtomgFadd (a : Args GMod) : State → Host.Outcome State Fault Refusal :=
  globalAtomic .fadd (headOf a (.atomgFadd a) false true) a
/-- `atomg.fmin` (R146, R197). -/
def execAtomgFmin (a : Args GMod) : State → Host.Outcome State Fault Refusal :=
  globalAtomic .fmin (headOf a (.atomgFmin a) false true) a
/-- `atomg.fmax` (R146, R197). -/
def execAtomgFmax (a : Args GMod) : State → Host.Outcome State Fault Refusal :=
  globalAtomic .fmax (headOf a (.atomgFmax a) false true) a
/-- `redg.add` (R146, R197). -/
def execRedgAdd (a : Args GMod) : State → Host.Outcome State Fault Refusal :=
  globalReduction .add (headOf a (.redgAdd a) false (a.mod.ord != .relaxed)) a
/-- `redg.min` (R146, R197). -/
def execRedgMin (a : Args GMod) : State → Host.Outcome State Fault Refusal :=
  globalReduction .min (headOf a (.redgMin a) false (a.mod.ord != .relaxed)) a
/-- `redg.max` (R146, R197). -/
def execRedgMax (a : Args GMod) : State → Host.Outcome State Fault Refusal :=
  globalReduction .max (headOf a (.redgMax a) false (a.mod.ord != .relaxed)) a
/-- `redg.and` (R146, R197). -/
def execRedgAnd (a : Args GMod) : State → Host.Outcome State Fault Refusal :=
  globalReduction .and (headOf a (.redgAnd a) false (a.mod.ord != .relaxed)) a
/-- `redg.or` (R146, R197). -/
def execRedgOr (a : Args GMod) : State → Host.Outcome State Fault Refusal :=
  globalReduction .or (headOf a (.redgOr a) false (a.mod.ord != .relaxed)) a
/-- `redg.xor` (R146, R197). -/
def execRedgXor (a : Args GMod) : State → Host.Outcome State Fault Refusal :=
  globalReduction .xor (headOf a (.redgXor a) false (a.mod.ord != .relaxed)) a
/-- `redg.inc` (R146, R197). -/
def execRedgInc (a : Args GMod) : State → Host.Outcome State Fault Refusal :=
  globalReduction .inc (headOf a (.redgInc a) false (a.mod.ord != .relaxed)) a
/-- `redg.dec` (R146, R197). -/
def execRedgDec (a : Args GMod) : State → Host.Outcome State Fault Refusal :=
  globalReduction .dec (headOf a (.redgDec a) false (a.mod.ord != .relaxed)) a
/-- `redg.fadd` (R146, R197). -/
def execRedgFadd (a : Args GMod) : State → Host.Outcome State Fault Refusal :=
  globalReduction .fadd (headOf a (.redgFadd a) false (a.mod.ord != .relaxed)) a
/-- `redg.fmin` (R146, R197). -/
def execRedgFmin (a : Args GMod) : State → Host.Outcome State Fault Refusal :=
  globalReduction .fmin (headOf a (.redgFmin a) false (a.mod.ord != .relaxed)) a
/-- `redg.fmax` (R146, R197). -/
def execRedgFmax (a : Args GMod) : State → Host.Outcome State Fault Refusal :=
  globalReduction .fmax (headOf a (.redgFmax a) false (a.mod.ord != .relaxed)) a

end Sys2Proof.Machine
end

