-- ==== Sys2Proof/Machine/Integer.lean ====
section
/-! DEFINITION. The integer instructions and the moves between registers (R68, R86 to R96). -/

namespace Sys2Proof.Machine

open Sys2Proof

/-! ## Shared forms -/

/-- The value of source A in a lane. -/
def State.srcA (s : State) (x : Ins) (h : Head) (lane : Nat) : DWord := s.get x h.ops.a h.shape.a.width lane
/-- The value of source B in a lane. -/
def State.srcB (s : State) (x : Ins) (h : Head) (lane : Nat) : DWord := s.get x h.ops.b h.shape.b.width lane
/-- The value of source C in a lane. -/
def State.srcC (s : State) (x : Ins) (h : Head) (lane : Nat) : DWord := s.get x h.ops.c h.shape.c.width lane

/-- The destination written in the passing lanes. -/
def State.putD (s : State) (x : Ins) (h : Head) (f : Nat → DWord) : State := s.put x h.ops.d h.shape.d.width f

/-- An instruction that writes its destination with a function of its lane. -/
def alu (h : Head) (f : Ins → State → Nat → DWord) (s : State) : Host.Outcome State Fault Refusal :=
  issue h (fun x s => .go (s.putD x h (f x s))) s

/-- One source. -/
def alu1 (h : Head) (op : DWord → DWord) : State → Host.Outcome State Fault Refusal :=
  alu h fun x s i => op (s.srcA x h i)
/-- Two sources. -/
def alu2 (h : Head) (op : DWord → DWord → DWord) : State → Host.Outcome State Fault Refusal :=
  alu h fun x s i => op (s.srcA x h i) (s.srcB x h i)
/-- Three sources. -/
def alu3 (h : Head) (op : DWord → DWord → DWord → DWord) : State → Host.Outcome State Fault Refusal :=
  alu h fun x s i => op (s.srcA x h i) (s.srcB x h i) (s.srcC x h i)

/-- An instruction that writes the passing lanes' bits of a predicate (R93). -/
def flagged (h : Head) (f : Ins → State → Nat → Bool) (s : State) : Host.Outcome State Fault Refusal :=
  issue h (fun x s => .go (s.putBits x h.ops.d (f x s))) s

/-- Bit i of a predicate operand. -/
def State.bitOf (s : State) (x : Ins) (o : Opnd) (i : Nat) : Bool := (s.get1 x o i).getLsbD i

/-! ## The instructions -/

/-- `add` (R88). -/
def execAdd (a : Args IntMod) : State → Host.Outcome State Fault Refusal :=
  alu2 (headOf a (.add a) true) (opAdd a.mod)
/-- `sub` (R88). -/
def execSub (a : Args IntMod) : State → Host.Outcome State Fault Refusal :=
  alu2 (headOf a (.sub a) true) (opSub a.mod)
/-- `mulLo` (R88). -/
def execMulLo (a : Args IntMod) : State → Host.Outcome State Fault Refusal :=
  alu2 (headOf a (.mulLo a) true) (opMulLo a.mod)
/-- `mulHi` (R88). -/
def execMulHi (a : Args IntMod) : State → Host.Outcome State Fault Refusal :=
  alu2 (headOf a (.mulHi a) true) (opMulHi a.mod)
/-- `div` (R89). -/
def execDiv (a : Args IntMod) : State → Host.Outcome State Fault Refusal :=
  alu2 (headOf a (.div a) true) (opDiv a.mod)
/-- `rem` (R89). -/
def execRem (a : Args IntMod) : State → Host.Outcome State Fault Refusal :=
  alu2 (headOf a (.rem a) true) (opRem a.mod)
/-- `min` (R88). -/
def execMin (a : Args IntMod) : State → Host.Outcome State Fault Refusal :=
  alu2 (headOf a (.min a) true) (opMin a.mod)
/-- `max` (R88). -/
def execMax (a : Args IntMod) : State → Host.Outcome State Fault Refusal :=
  alu2 (headOf a (.max a) true) (opMax a.mod)
/-- `and` (R88). -/
def execAnd (a : Args IntMod) : State → Host.Outcome State Fault Refusal :=
  alu2 (headOf a (.and a) true) (opAnd a.mod)
/-- `or` (R88). -/
def execOr (a : Args IntMod) : State → Host.Outcome State Fault Refusal :=
  alu2 (headOf a (.or a) true) (opOr a.mod)
/-- `xor` (R88). -/
def execXor (a : Args IntMod) : State → Host.Outcome State Fault Refusal :=
  alu2 (headOf a (.xor a) true) (opXor a.mod)
/-- `shl` (R90). -/
def execShl (a : Args IntMod) : State → Host.Outcome State Fault Refusal :=
  alu2 (headOf a (.shl a) true) (opShl a.mod)
/-- `shr` (R90). -/
def execShr (a : Args IntMod) : State → Host.Outcome State Fault Refusal :=
  alu2 (headOf a (.shr a) true) (opShr a.mod)
/-- `sar` (R90). -/
def execSar (a : Args IntMod) : State → Host.Outcome State Fault Refusal :=
  alu2 (headOf a (.sar a) true) (opSar a.mod)
/-- `rot` (R90). -/
def execRot (a : Args IntMod) : State → Host.Outcome State Fault Refusal :=
  alu2 (headOf a (.rot a) true) (opRot a.mod)
/-- `bfx` (R91). -/
def execBfx (a : Args IntMod) : State → Host.Outcome State Fault Refusal :=
  alu2 (headOf a (.bfx a) true) (opBfx a.mod)
/-- `lea` (R92). -/
def execLea (a : Args IntMod) : State → Host.Outcome State Fault Refusal :=
  alu2 (headOf a (.lea a) true) (opLea a.mod)
/-- `mad` (R88). -/
def execMad (a : Args IntMod) : State → Host.Outcome State Fault Refusal :=
  alu3 (headOf a (.mad a) true) (opMad a.mod)
/-- `madWide` (R88). -/
def execMadWide (a : Args IntMod) : State → Host.Outcome State Fault Refusal :=
  alu3 (headOf a (.madWide a) true) (opMadWide a.mod)
/-- `bfi` (R91). -/
def execBfi (a : Args IntMod) : State → Host.Outcome State Fault Refusal :=
  alu3 (headOf a (.bfi a) true) (opBfi a.mod)
/-- `dp4` (R95). -/
def execDp4 (a : Args IntMod) : State → Host.Outcome State Fault Refusal :=
  alu3 (headOf a (.dp4 a) true) (opDp4 a.mod)
/-- `abs` (R88). -/
def execAbs (a : Args IntMod) : State → Host.Outcome State Fault Refusal :=
  alu1 (headOf a (.abs a) true) (opAbs a.mod)
/-- `neg` (R88). -/
def execNeg (a : Args IntMod) : State → Host.Outcome State Fault Refusal :=
  alu1 (headOf a (.neg a) true) (opNeg a.mod)
/-- `not` (R88). -/
def execNot (a : Args IntMod) : State → Host.Outcome State Fault Refusal :=
  alu1 (headOf a (.not a) true) (opNot a.mod)
/-- `clz` (R88). -/
def execClz (a : Args IntMod) : State → Host.Outcome State Fault Refusal :=
  alu1 (headOf a (.clz a) true) (opClz a.mod)
/-- `popc` (R88). -/
def execPopc (a : Args IntMod) : State → Host.Outcome State Fault Refusal :=
  alu1 (headOf a (.popc a) true) (opPopc a.mod)
/-- `brev` (R88). -/
def execBrev (a : Args IntMod) : State → Host.Outcome State Fault Refusal :=
  alu1 (headOf a (.brev a) true) (opBrev a.mod)
/-- `addImm` (R88). -/
def execAddImm (a : Args IntMod) : State → Host.Outcome State Fault Refusal :=
  alu1 (headOf a (.addImm a) true) fun x => opAdd a.mod x (a.mod.ty.immB a.imm)
/-- `subImm` (R88). -/
def execSubImm (a : Args IntMod) : State → Host.Outcome State Fault Refusal :=
  alu1 (headOf a (.subImm a) true) fun x => opSub a.mod x (a.mod.ty.immB a.imm)
/-- `mulLoImm` (R88). -/
def execMulLoImm (a : Args IntMod) : State → Host.Outcome State Fault Refusal :=
  alu1 (headOf a (.mulLoImm a) true) fun x => opMulLo a.mod x (a.mod.ty.immB a.imm)
/-- `mulHiImm` (R88). -/
def execMulHiImm (a : Args IntMod) : State → Host.Outcome State Fault Refusal :=
  alu1 (headOf a (.mulHiImm a) true) fun x => opMulHi a.mod x (a.mod.ty.immB a.imm)
/-- `divImm` (R89). -/
def execDivImm (a : Args IntMod) : State → Host.Outcome State Fault Refusal :=
  alu1 (headOf a (.divImm a) true) fun x => opDiv a.mod x (a.mod.ty.immB a.imm)
/-- `remImm` (R89). -/
def execRemImm (a : Args IntMod) : State → Host.Outcome State Fault Refusal :=
  alu1 (headOf a (.remImm a) true) fun x => opRem a.mod x (a.mod.ty.immB a.imm)
/-- `minImm` (R88). -/
def execMinImm (a : Args IntMod) : State → Host.Outcome State Fault Refusal :=
  alu1 (headOf a (.minImm a) true) fun x => opMin a.mod x (a.mod.ty.immB a.imm)
/-- `maxImm` (R88). -/
def execMaxImm (a : Args IntMod) : State → Host.Outcome State Fault Refusal :=
  alu1 (headOf a (.maxImm a) true) fun x => opMax a.mod x (a.mod.ty.immB a.imm)
/-- `andImm` (R88). -/
def execAndImm (a : Args IntMod) : State → Host.Outcome State Fault Refusal :=
  alu1 (headOf a (.andImm a) true) fun x => opAnd a.mod x (a.mod.ty.immB a.imm)
/-- `orImm` (R88). -/
def execOrImm (a : Args IntMod) : State → Host.Outcome State Fault Refusal :=
  alu1 (headOf a (.orImm a) true) fun x => opOr a.mod x (a.mod.ty.immB a.imm)
/-- `xorImm` (R88). -/
def execXorImm (a : Args IntMod) : State → Host.Outcome State Fault Refusal :=
  alu1 (headOf a (.xorImm a) true) fun x => opXor a.mod x (a.mod.ty.immB a.imm)
/-- `shlImm` (R90). -/
def execShlImm (a : Args IntMod) : State → Host.Outcome State Fault Refusal :=
  alu1 (headOf a (.shlImm a) true) fun x => opShl a.mod x (a.mod.ty.immB a.imm)
/-- `shrImm` (R90). -/
def execShrImm (a : Args IntMod) : State → Host.Outcome State Fault Refusal :=
  alu1 (headOf a (.shrImm a) true) fun x => opShr a.mod x (a.mod.ty.immB a.imm)
/-- `sarImm` (R90). -/
def execSarImm (a : Args IntMod) : State → Host.Outcome State Fault Refusal :=
  alu1 (headOf a (.sarImm a) true) fun x => opSar a.mod x (a.mod.ty.immB a.imm)
/-- `rotImm` (R90). -/
def execRotImm (a : Args IntMod) : State → Host.Outcome State Fault Refusal :=
  alu1 (headOf a (.rotImm a) true) fun x => opRot a.mod x (a.mod.ty.immB a.imm)
/-- `leaImm` (R92). -/
def execLeaImm (a : Args IntMod) : State → Host.Outcome State Fault Refusal :=
  alu1 (headOf a (.leaImm a) true) fun x => opLea a.mod x (a.mod.ty.immB a.imm)
/-- `mulLoMap2` (R51, R88). -/
def execMulLoMap2 (a : Args IntMod) : State → Host.Outcome State Fault Refusal :=
  alu2 (headOf a (.mulLoMap2 a) true) (opMulLo a.mod)
/-- `mulHiMap2` (R51, R88). -/
def execMulHiMap2 (a : Args IntMod) : State → Host.Outcome State Fault Refusal :=
  alu2 (headOf a (.mulHiMap2 a) true) (opMulHi a.mod)
/-- `setp` (R93). -/
def execSetp (a : Args IntMod) : State → Host.Outcome State Fault Refusal :=
  let h := headOf a (.setp a) true
  flagged h fun x s i => flagSetp a.mod (s.srcA x h i) (s.srcB x h i)
/-- `setpImm` (R93). -/
def execSetpImm (a : Args IntMod) : State → Host.Outcome State Fault Refusal :=
  let h := headOf a (.setpImm a) true
  flagged h fun x s i => flagSetp a.mod (s.srcA x h i) (a.mod.ty.immB a.imm)
/-- `sel` (R93). -/
def execSel (a : Args IntMod) : State → Host.Outcome State Fault Refusal :=
  let h := headOf a (.sel a) true
  alu h fun x s i => if s.bitOf x h.ops.c i then s.srcA x h i else s.srcB x h i
/-- `plop` (R94). -/
def execPlop (a : Args IntMod) : State → Host.Outcome State Fault Refusal :=
  let h := headOf a (.plop a) true
  flagged h fun x s i => flagPlop a.mod (s.bitOf x h.ops.a i) (s.bitOf x h.ops.b i) (s.bitOf x h.ops.c i)
/-- `mov` (R68). -/
def execMov (a : Args IntMod) : State → Host.Outcome State Fault Refusal :=
  alu1 (headOf a (.mov a) true) id
/-- `movi` (R68). -/
def execMovi (a : Args IntMod) : State → Host.Outcome State Fault Refusal :=
  alu (headOf a (.movi a) true) fun _ _ _ => a.mod.ty.immB a.imm

end Sys2Proof.Machine
end

