-- ==== Sys2Proof/Machine/Control.lean ====
section
/-! DEFINITION. Control flow: branches, calls, meetings, rejoins, exit, votes and shuffles (R227 to R245). -/

namespace Sys2Proof.Machine

open Sys2Proof

/-- The target of a signed instruction count (R32, R235). -/
def Ins.label (x : Ins) (count : Word) : Pc := x.pc + 12 + 12 * count.signExtend 64

/-- Whether an address is an instruction boundary of the issuing squad's code segment. -/
def State.inCode (s : State) (x : Ins) (pc : Pc) : Bool := inSegment (s.segment x.bid x.sq) pc.toNat

/-- `nop` (R240). -/
def execNop (a : Args Unit) : State → Host.Outcome State Fault Refusal :=
  issue (headOf a (.nop a) true) fun _ s => .go s

/-- `yield` (R240): the effect of CEDE 0b11. The squad is the last in age order, as every squad that has just
issued is, and its next issue goes to another ready sub-group. -/
def execYield (a : Args Unit) : State → Host.Outcome State Fault Refusal :=
  issue { headOf a (.yield a) true with hint := { a.hint with cede := 3 } } fun _ s => .go s

/-- `bra` (R235). -/
def execBra (a : Args Unit) : State → Host.Outcome State Fault Refusal :=
  issue (headOf a (.bra a) true) fun x s => .jump s fun _ => x.label a.imm

/-- `brx` (R235): each lane adds its own signed index to the count. -/
def execBrx (a : Args Unit) : State → Host.Outcome State Fault Refusal :=
  issue (headOf a (.brx a) true) fun x s =>
    .jump s fun i => x.pc + 12 + 12 * (a.imm.signExtend 64 + (s.get1 x a.a i).signExtend 64)

/-- `call` (R236). -/
def execCall (a : Args Unit) : State → Host.Outcome State Fault Refusal :=
  issue (headOf a (.call a) true) fun x s => .jump (s.put x a.d 2 fun _ => x.next) fun _ => x.label a.imm

/-- `call.ind` (R236): the targets are read before the return address is written. -/
def execCallInd (a : Args Unit) : State → Host.Outcome State Fault Refusal :=
  issue (headOf a (.callInd a) true) fun x s => .jump (s.put x a.d 2 fun _ => x.next) fun i => s.get x a.a 2 i

/-- `ret` (R236). -/
def execRet (a : Args Unit) : State → Host.Outcome State Fault Refusal :=
  issue (headOf a (.ret a) true) fun x s => .jump s fun i => s.get x a.a 2 i

/-- The meeting registers of some lanes set to an address (R237). -/
def State.setMeet (s : State) (x : Ins) (pc : Pc) : State :=
  let q := s.squad x.bid x.sq
  s.setSquad x.bid x.sq { q with ctl := { q.ctl with mr := (lanesOf x.pass).foldl (fun t i => t.put i pc) q.ctl.mr } }

/-- `meet` (R237). -/
def execMeet (a : Args Unit) : State → Host.Outcome State Fault Refusal :=
  issue (headOf a (.meet a) true) fun x s =>
    if s.inCode x (x.label a.imm) then .go (s.setMeet x (x.label a.imm)) else .trap 0x011 2

/-- `meet.save` (R237): NONE is written as all ones. -/
def execMeetSave (a : Args Unit) : State → Host.Outcome State Fault Refusal :=
  issue (headOf a (.meetSave a) true) fun x s =>
    let mr := (s.squad x.bid x.sq).ctl.mr
    if s.inCode x (x.label a.imm) then .go ((s.put x a.d 2 fun i => mr.get i 0xFFFFFFFFFFFFFFFF).setMeet x (x.label a.imm))
    else .trap 0x011 2

/-- The issue of a rejoin by the passing lanes (R231). -/
def State.rejoin (s : State) (x : Ins) (rest : List (Nat × Pc)) : State :=
  let c := (s.squad x.bid x.sq).ctl
  s.setCtl x false ((c.removeGroup x.grp).rejoin s.ctrl.stamp x.pc x.pass (x.lanes &&& ~~~x.pass) rest)

/-- `rejoin` (R231, R238). -/
def execRejoin (a : Args Unit) : State → Host.Outcome State Fault Refusal :=
  issue (headOf a (.rejoin a) true) fun x s => .placed (s.rejoin x [])

/-- `rejoin.rest` (R238): the values of pair A are judged and taken at issue. -/
def execRejoinRest (a : Args Unit) : State → Host.Outcome State Fault Refusal :=
  issue (headOf a (.rejoinRest a) true) fun x s =>
    let ok := fun (v : Pc) => v == 0xFFFFFFFFFFFFFFFF || (decide (v.toNat < 2 ^ 57) && s.inCode x v)
    if (lanesOf x.pass).all fun i => ok (s.get x a.a 2 i) then
      .placed (s.rejoin x ((lanesOf x.pass).map fun i => (i, s.get x a.a 2 i)))
    else .trap 0x011 2

/-- `exit` (R239): the failing lanes go on, and the passing lanes' threads end. In a handler the threads of the
served squad end with them. -/
def execExit (a : Args Unit) : State → Host.Outcome State Fault Refusal :=
  issue (headOf a (.exit a) false true) fun x s =>
    let q := s.squad x.bid x.sq
    let c := (q.ctl.removeGroup x.grp).scatter s.ctrl.stamp (x.lanes &&& ~~~x.pass) fun _ => x.next
    let s := s.setSquad x.bid x.sq { q with ctl := c }
    let b := s.block x.bid
    let s := if b.serves x.sq then
        s.setBlock x.bid { b with handler := b.handler.map fun h => { h with kept := h.kept.endThreads x.pass } }
      else s
    .placed (s.endThreads x.bid x.sq x.pass)

/-! ## Votes and shuffles (R241, R242) -/

/-- The bits of a predicate in the passing lanes. -/
def State.voters (s : State) (x : Ins) (o : Opnd) : Lanes := s.get1 x o 0 &&& x.pass

/-- `vote.any` (R241). -/
def execVoteAny (a : Args Unit) : State → Host.Outcome State Fault Refusal :=
  issue (headOf a (.voteAny a) true) fun x s => .go (s.putBits x a.d fun _ => s.voters x a.a != 0)

/-- `vote.all` (R241). -/
def execVoteAll (a : Args Unit) : State → Host.Outcome State Fault Refusal :=
  issue (headOf a (.voteAll a) true) fun x s => .go (s.putBits x a.d fun _ => s.voters x a.a == x.pass)

/-- `vote.mask` (R241). -/
def execVoteMask (a : Args Unit) : State → Host.Outcome State Fault Refusal :=
  issue (headOf a (.voteMask a) true) fun x s => .go (s.put1 x a.d fun _ => s.voters x a.a)

/-- The modes of `shfl`. -/
inductive ShflMode where
  | pick | rot | slide | mir
  deriving DecidableEq, Repr

/-- The source lane of R242 for a lane and its control word, none where it is out of range. -/
def shflLane (m : ShflMode) (i : Nat) (b : Word) : Option Nat :=
  let w := 32 / 2 ^ (b.toNat / 2 ^ 8 % 4)
  let d := b.toNat % 64
  let r := i % w
  let base := i - r
  match m with
  | .pick => some (base + d % w)
  | .rot => some (base + (r + d) % w)
  | .slide =>
    let p : Int := (r : Int) + (if 32 ≤ d then (d : Int) - 64 else d)
    if 0 ≤ p ∧ p < w then some (base + p.toNat) else none
  | .mir => some (base + (r ^^^ (d % w)))

/-- The value that a lane receives from a shuffle. -/
def State.shuffled (s : State) (x : Ins) (m : ShflMode) (a b : Opnd) (i : Nat) : Word :=
  match shflLane m i (s.get1 x b i) with
  | some j => s.get1 x a (if x.pass.getLsbD j then j else i)
  | none => s.get1 x a i

/-- `shfl.pick` (R242). -/
def execShflPick (a : Args Unit) : State → Host.Outcome State Fault Refusal :=
  issue (headOf a (.shflPick a) true) fun x s => .go (s.put1 x a.d (s.shuffled x .pick a.a a.b))
/-- `shfl.rot` (R242). -/
def execShflRot (a : Args Unit) : State → Host.Outcome State Fault Refusal :=
  issue (headOf a (.shflRot a) true) fun x s => .go (s.put1 x a.d (s.shuffled x .rot a.a a.b))
/-- `shfl.slide` (R242). -/
def execShflSlide (a : Args Unit) : State → Host.Outcome State Fault Refusal :=
  issue (headOf a (.shflSlide a) true) fun x s => .go (s.put1 x a.d (s.shuffled x .slide a.a a.b))
/-- `shfl.mir` (R242). -/
def execShflMir (a : Args Unit) : State → Host.Outcome State Fault Refusal :=
  issue (headOf a (.shflMir a) true) fun x s => .go (s.put1 x a.d (s.shuffled x .mir a.a a.b))

end Sys2Proof.Machine
end

