-- ==== Sys2Proof/Machine/Quantise.lean ====
section
/-! DEFINITION. The quantise and narrow instructions (R108 to R113): cross-lane reads of source A. -/

namespace Sys2Proof.Machine

open Sys2Proof

/-- Source A of a cross-lane instruction in a lane: a lane whose thread has exited reads as 0 (R109). -/
def State.cross (s : State) (x : Ins) (o : Opnd) (lane : Nat) : Word :=
  if (s.squad x.bid x.sq).ctl.alive.getLsbD lane then s.get1 x o lane else 0

/-- The block slot that the immediate names (R110). -/
def slotOf (imm : Word) : Nat := imm.toNat % 128

/-- The scale byte of a block slot written into its lane of a scale register (R108, R110). A lane whose thread has
exited holds what it last held, here and where `dqblk` reads it (log entry 104). -/
def State.putScale (s : State) (x : Ins) (b : Opnd) (n v : Nat) : State :=
  let y := { x with pass := laneBit (n % 32) }
  s.put1 y b fun i => setByte (s.get1 x b i) (n / 32) v

/-- `qblk` (R110): the image into the passing lanes, then the scale byte. -/
def execQblk (a : Args QMod) : State → Host.Outcome State Fault Refusal :=
  issue (headOf a (.qblk a) true) fun x s =>
    let q := quantiseBlock a.mod.fmt ((List.range 32).map fun k => Fmt.value .f32 (s.cross x a.a k).toNat)
    .go ((s.put1 x a.d fun i => imageWord q.2 i).putScale x a.b (slotOf a.imm) q.1)

/-- `dqblk` (R111). -/
def execDqblk (a : Args QMod) : State → Host.Outcome State Fault Refusal :=
  issue (headOf a (.dqblk a) true) fun x s =>
    let sc := scaleOf (s.get1 x a.b) (slotOf a.imm)
    let byte := imageByte (s.cross x a.a)
    .go (s.put1 x a.d fun i =>
      BitVec.ofNat 32 (narrowF (Fmt.float .f32) a.mod.sat (blockValue sc (elementValue a.mod.fmt byte i))))

/-- `pk4` (R112). -/
def execPk4 (a : Args QMod) : State → Host.Outcome State Fault Refusal :=
  issue (headOf a (.pk4 a) true) fun x s => .go (s.put1 x a.d (imageWord (pk4Image a.mod.fmt (s.cross x a.a))))

/-- `upk4` (R112). -/
def execUpk4 (a : Args QMod) : State → Host.Outcome State Fault Refusal :=
  issue (headOf a (.upk4 a) true) fun x s => .go (s.put1 x a.d (upk4Word a.mod.fmt (s.cross x a.a)))

/-- `amax` (R113). -/
def execAmax (a : Args QMod) : State → Host.Outcome State Fault Refusal :=
  issue (headOf a (.amax a) true) fun x s =>
    let r := amaxOf ((List.range 32).map (s.cross x a.a))
    .go (s.put1 x a.d fun i => amaxWith r (s.get1 x a.b i))

end Sys2Proof.Machine
end

