-- ==== Sys2Proof/Machine/Stack.lean ====
section
/-! DEFINITION. The stack of a thread and the stack cache of its squad (R195, R196). -/

namespace Sys2Proof.Machine

open Sys2Proof

/-- The backing address of a squad's stack area (R196, R267). -/
def State.stackBase (s : State) (bid sq : Nat) : Nat :=
  let d := (s.pourOfBlock bid).desc
  d.stkb + (s.pblk bid * 32 + sq) * d.stksz * 32

/-- The backing address of a line: one word of each of the 32 lanes. -/
def State.stackLineAddr (s : State) (bid sq key : Nat) : Nat := s.stackBase bid sq + key * 128

/-- The lines that an access of n bytes at an offset touches. -/
def stackKeys (o n : Nat) : List Nat := (List.range ((o % 4 + n + 3) / 4)).map fun k => o / 4 + k

/-- The cached line of a word offset. -/
def Squad.stackLine (q : Squad) (key : Nat) : Option StackLine := q.stack.find? fun l => l.key == key

/-- The cause of a stack access across the passing lanes (R189, R195). -/
def State.stackCause (s : State) (x : Ins) (ofs : Nat → Nat) (n : Nat) : Option (Nat × Nat) :=
  let lim := (s.block x.bid).stklim.toNat
  let size := (s.pourOfBlock x.bid).desc.stksz
  match x.firstLane fun i => ofs i % n != 0 with
  | some i => some (0x112, i)
  | none =>
    match x.firstLane fun i => decide (ofs i < lim) with
    | some i => some (0x110, i)
    | none => (x.firstLane fun i => decide (size < ofs i + n)).map fun i => (0x111, i)

/-- The stack-cache units of a line (R338). -/
def lineUnits (bid sq key : Nat) : List (Nat × Nat) := (List.range 32).map fun i => (0x05, (squadKey bid sq * 2 ^ 18 + key) * 32 + i)

/-- Whether a block's pour is of class U, whose stores may use an urgent window (R194). -/
def State.urgent (s : State) (bid : Nat) : Bool := (s.pourOfBlock bid).cls == 0

/-- A spill that waits as a posted access of its squad (R322): for the fault of its page (R376), or, with no fault, for
what its store finds in its way. -/
def State.holdSpill (s : State) (bid sq : Nat) (byHandler : Bool) (fid : Nat) (l : StackLine) : State :=
  let p : PostedInst := { id := s.ctrl.nextId, left := BitVec.allOnes 32, byHandler, spill := some (fid, l) }
  let q := s.squad bid sq
  (s.setSquad bid sq { q with posted := q.posted ++ [p] }).bump

/-- A spill to a fabric peer (R194, R306, R315). -/
def State.spillFar (s : State) (bid sq : Nat) (byHandler : Bool) (l : StackLine) (ep ptag cls a : Nat) : State :=
  match s.route ep cls 128 with
  | .refused => (s.sideEffect (s.block bid).flask).defer bid sq byHandler (causeWord 0x30C 0)
  | .waits => s.holdSpill bid sq byHandler 0 l
  | .goes k =>
    if s.ordered ep true cls then s.holdSpill bid sq byHandler 0 l
    else
      let t := s.sendFlit ep k cls 128
      { t with mem := { t.mem with peer := Memory.writeBytes t.mem.peer (peerKey ep ptag a) l.bytes } }

/-- A spill to device memory (R172): it waits behind requests that are held for its words (R174), and at the seam
(R347). -/
def State.spillHome (s : State) (bid sq : Nat) (byHandler : Bool) (l : StackLine) (pa : Nat) : State :=
  match s.frameRefused (s.tagOfBlock bid) (pa / 64) with
  | some c => s.defer bid sq byHandler (causeWord c 0)
  | none =>
    if s.seamClosed (some (dieOfBlock bid)) (s.forward pa) || s.linesHeld (s.forward pa) 128 then s.holdSpill bid sq byHandler 0 l
    else s.storeFrom (dieOfBlock bid) pa l.bytes

/-- A line that an audit's replay keeps in place of a write to memory (R355). -/
def State.keepLine (s : State) (bid sq : Nat) (l : StackLine) : State :=
  let q := s.squad bid sq
  s.setSquad bid sq { q with kept := (q.kept.filter fun e => e.key != l.key) ++ [l] }

/-- A line spilled to its backing address (R196): a `.uc` store of the squad (R172), posted until the fault of a page
that is not present is answered (R376); a permission or a frame that refuses it gives a deferred cause (R322). An
audit's replay writes no memory (R355): it keeps the line, so that its threads read their own writes (R195, log entry 141).
A damaged line is consumed (R338, R340). -/
def State.spill (s : State) (bid sq : Nat) (byHandler : Bool) (l : StackLine) : State :=
  if (s.damaged (lineUnits bid sq l.key)).isSome then s.ruinBlock bid 0x05 ((squadKey bid sq * 2 ^ 18 + l.key) * 32)
  else if s.silent (s.block bid).flask then s.keepLine bid sq l
  else
    let tag := s.tagOfBlock bid
    let va := s.stackLineAddr bid sq l.key
    let (s, w) := s.translate (coreOf bid) tag va
    match s.resolve tag (s.urgent bid) .store va w with
    | .ok .device pa _ => s.spillHome bid sq byHandler l pa
    | .ok .host a _ => { s with mem := { s.mem with host := Memory.writeBytes s.mem.host a l.bytes } }
    | .ok (.peer ep ptag cls) a _ => s.spillFar bid sq byHandler l ep ptag cls a
    | .cause c => s.defer bid sq byHandler (causeWord c 0)
    | .damaged k => s.ruinTag tag 0x20 k
    | .waits => s.holdSpill bid sq byHandler 0 l
    | .absent =>
      let (s, fid) := s.pageFault tag va 7 (coreOf bid)
      s.holdSpill bid sq byHandler fid l

/-- Whether a posted instruction is a spill that waits for a fault. -/
def PostedInst.awaits (p : PostedInst) (fid : Nat) : Bool := (p.spill.map (·.1)) == some fid

/-- The spills of a squad that wait for a fault, after its answer (R376): each is made again, or declined with the
deferred cause 0x100. -/
def State.answerSpillsOf (s : State) (bid sq fid : Nat) (decline : Bool) : State :=
  let q := s.squad bid sq
  let s' := s.setSquad bid sq { q with posted := q.posted.filter fun p => !p.awaits fid }
  (q.posted.filter fun p => p.awaits fid).foldl (fun t p => match p.spill with
    | some (_, l) => if decline then t.defer bid sq p.byHandler (causeWord 0x100 0) else t.spill bid sq p.byHandler l
    | none => t) s'

/-- Every spill that waits for a fault, after its answer. -/
def State.answerSpills (s : State) (fid : Nat) (decline : Bool) : State :=
  (s.squads.filter fun q => q.2.posted.any fun p => p.awaits fid).foldl
    (fun t q => t.answerSpillsOf (q.1 / 32) (q.1 % 32) fid decline) s

/-- The spills that wait for no page fault made again. -/
def State.retrySpills (s : State) : State := s.answerSpills 0 false

/-- Whether a line is on its way to its backing address. -/
def Squad.spilling (q : Squad) (key : Nat) : Bool := q.posted.any fun p => (p.spill.map fun e => e.2.key) == some key

/-- The newest spill of a line that is still on its way, or that an audit's replay has kept. -/
def Squad.sentLine (q : Squad) (key : Nat) : Option (List Byte) :=
  (q.kept.find? fun l => l.key == key).map (·.bytes) <|> q.posted.reverse.findSome? fun p => match p.spill with
    | some (_, l) => if l.key = key then some l.bytes else none
    | none => none

/-- Whether a fill of a line reads its backing address: the squad has spilled it, and no spill of it is on its way. -/
def Squad.readsBack (q : Squad) (key : Nat) : Bool := q.written.contains key && (q.sentLine key).isNone

/-- What a `.uc` load of a squad's line meets. -/
def State.backAt (s : State) (bid sq key : Nat) : Xlat :=
  let va := s.stackLineAddr bid sq key
  s.resolve (s.tagOfBlock bid) (s.urgent bid) .load va (s.walkFor (some (coreOf bid)) (s.tagOfBlock bid) va)

/-- Whether the fill of a line must wait (R171, R172, R174, R184, R347). -/
def State.fillWaits (s : State) (bid sq key : Nat) : Bool :=
  (s.squad bid sq).readsBack key && match s.backAt bid sq key with
    | .ok .device pa _ => s.homeWaits (some (dieOfBlock bid)) (s.forward pa) 128
    | .ok (.peer ep _ _) _ _ => (match s.route ep 0 128 with
      | .waits => true
      | .goes _ => s.ordered ep false 0
      | .refused => false)
    | .waits => true
    | _ => false

/-- The bytes of a line behind the cache, and what their load leaves: those of the newest spill of it that is still on
its way or kept, else those at its backing address, and zeros where the squad has spilled nothing (R195). -/
def State.backing (s : State) (bid sq key : Nat) : State × List Byte :=
  let q := s.squad bid sq
  let zeros := List.replicate 128 0
  if !q.readsBack key then (s, (q.sentLine key).getD zeros)
  else match s.backAt bid sq key with
    | .ok .device pa _ => (s.loadDone (some (dieOfBlock bid)) (s.forward pa) 128, s.valueBytes (s.forward pa) 128)
    | .ok .host a _ => (s, Memory.readBytes s.mem.host a 128)
    | .ok (.peer ep ptag _) a _ => match s.route ep 0 128 with
      | .goes k => (s.sendFlit ep k 0 128, Memory.readBytes s.mem.peer (peerKey ep ptag a) 128)
      | _ => (s, zeros)
    | _ => (s, zeros)

/-- The oldest line leaves a full cache. -/
def State.evictStack (s : State) (bid sq : Nat) : State :=
  let q := s.squad bid sq
  match q.stack with
  | [] => s
  | l :: r =>
    if q.stack.length < 32 then s
    else
      let written := if l.dirty && !q.written.contains l.key then q.written ++ [l.key] else q.written
      let s := s.setSquad bid sq { q with stack := r, written }
      if l.dirty then s.spill bid sq ((s.block bid).serves sq) l else s

/-- The stack cache of a squad written back (R196): its dirty lines are spilled, and it is empty. -/
def State.flushStack (s : State) (bid sq : Nat) : State :=
  let q := s.squad bid sq
  let dirty := q.stack.filter (·.dirty)
  let written := dirty.foldl (fun w l => if w.contains l.key then w else w ++ [l.key]) q.written
  dirty.foldl (fun t l => t.spill bid sq ((t.block bid).serves sq) l) (s.setSquad bid sq { q with stack := [], written })

/-- The stack caches of some blocks written back. -/
def State.flushStacks (s : State) (bids : List Nat) : State :=
  (s.squads.filter fun q => bids.contains (q.1 / 32) && !q.2.stack.isEmpty).foldl (fun t q => t.flushStack (q.1 / 32) (q.1 % 32)) s

/-- A line made present and the most recently used. -/
def State.touchStack (s : State) (bid sq key : Nat) : State :=
  match (s.squad bid sq).stackLine key with
  | some l =>
    let q := s.squad bid sq
    s.setSquad bid sq { q with stack := (q.stack.filter fun e => e.key != key) ++ [l] }
  | none =>
    let (s, bytes) := s.backing bid sq key
    let s := (s.evictStack bid sq).repair (lineUnits bid sq key)
    let q := s.squad bid sq
    s.setSquad bid sq { q with stack := q.stack ++ [{ key, bytes, dirty := false }] }

/-- A byte of a thread's stack in a line that is present. -/
def State.stackByte (s : State) (bid sq lane o : Nat) : Byte :=
  match (s.squad bid sq).stackLine (o / 4) with
  | some l => (l.bytes[lane * 4 + o % 4]?).getD 0
  | none => 0

/-- A byte of a thread's stack written in a line that is present. -/
def State.setStackByte (s : State) (bid sq lane o : Nat) (b : Byte) : State :=
  let q := s.squad bid sq
  s.setSquad bid sq { q with stack := q.stack.map fun l =>
    if l.key == o / 4 then { l with bytes := l.bytes.set (lane * 4 + o % 4) b, dirty := true } else l }

/-- The lanes whose lines must be filled, with their backing regions. -/
def State.stackFills (s : State) (x : Ins) (ofs : Nat → Nat) (n i : Nat) : List Nat :=
  (stackKeys (ofs i) n).filter fun k => ((s.squad x.bid x.sq).stackLine k).isNone

/-- The coalescer over the backing pages of the lines to be filled. -/
def State.stackPages (s : State) (x : Ins) (ofs : Nat → Nat) (n : Nat) : Coal :=
  let region := fun k => s.stackLineAddr x.bid x.sq k / 2 ^ 16
  let regions : Table Unit := (lanesOf x.pass).foldl (fun t i =>
    (s.stackFills x ofs n i).foldl (fun t k => t.put (region k) ()) t) []
  let declined := s.declinedAt x
  regions.foldl (fun c r => c.region x .load declined r.1
    (laneSet ((lanesOf x.pass).filter fun i => (s.stackFills x ofs n i).any fun k => region k == r.1))) { s }

/-- The lanes whose lines can be filled. -/
def State.stackMade (s : State) (x : Ins) (c : Coal) (ofs : Nat → Nat) (n : Nat) : Lanes :=
  laneSet ((lanesOf (x.pass &&& ~~~c.parked)).filter fun i =>
    (s.stackFills x ofs n i).all fun k => c.pages.has (s.stackLineAddr x.bid x.sq k / 2 ^ 16))

/-- The first frame that refuses a fill (R300), or the first fill that a peer refuses (log entry 122): its cause and
lane. -/
def State.stackRefused (s : State) (x : Ins) (c : Coal) (made : Lanes) (ofs : Nat → Nat) (n : Nat) : Option (Nat × Nat) :=
  (lanesOf made).findSome? fun i => (s.stackFills x ofs n i).findSome? fun k =>
    match c.pages.get? (s.stackLineAddr x.bid x.sq k / 2 ^ 16) with
    | some (.device, pa, _) => (s.frameRefused (s.tagOfBlock x.bid) (pa / 64)).map fun c => (c, i)
    | some (.peer ep _ _, _, _) => if s.route ep 0 128 == .refused then some (0x108, i) else none
    | _ => none

/-- The damaged unit of device memory that a fill meets (R338): the lines whose backing is read are those that were
spilled. -/
def State.fillDamage (s : State) (x : Ins) (c : Coal) (made : Lanes) (ofs : Nat → Nat) (n : Nat) : Option (Nat × Nat) :=
  (lanesOf made).findSome? fun i => (s.stackFills x ofs n i).findSome? fun k =>
    if !(s.squad x.bid x.sq).readsBack k then none
    else match c.pages.get? (s.stackLineAddr x.bid x.sq k / 2 ^ 16) with
      | some (.device, pa, _) => s.readDamage (s.forward (pa + s.stackLineAddr x.bid x.sq k % 2 ^ 16)) 128
      | _ => none

/-- The stack-cache units that an access touches (R338). -/
def stackUnits (bid sq lane o n : Nat) : List (Nat × Nat) :=
  (stackKeys o n).map fun k => (0x05, (squadKey bid sq * 2 ^ 18 + k) * 32 + lane)

/-- The lines of a lane made present. -/
def State.touchAll (s : State) (bid sq o n : Nat) : State := (stackKeys o n).foldl (fun s k => s.touchStack bid sq k) s

/-- The line above the lowest line that an access touches, filled ahead of need (R196). A line that its squad's
stack area does not hold, or whose page, frame, peer or memory would give a fill a cause or make it wait, is not filled:
the rule gives no fault to a fill that nothing asked for (log entry 97). -/
def State.fillAhead (s : State) (x : Ins) (lowest : Nat) : State :=
  let k := lowest + 1
  let q := s.squad x.bid x.sq
  let fills := match s.backAt x.bid x.sq k with
    | .ok .device pa _ =>
      (s.frameRefused (s.tagOfBlock x.bid) (pa / 64)).isNone && (!q.readsBack k || (s.readDamage (s.forward pa) 128).isNone)
    | .ok .host _ _ => true
    | .ok (.peer ep _ _) _ _ => s.route ep 0 128 != .refused
    | _ => false
  if (s.pourOfBlock x.bid).desc.stksz ≤ k * 4 || (q.stackLine k).isSome || s.fillWaits x.bid x.sq k || !fills then s
  else s.touchStack x.bid x.sq k

/-- The lowest line that some lanes touch. -/
def lowestKey (ofs : Nat → Nat) (lanes : List Nat) : Option Nat := (lanes.map fun i => ofs i / 4).min?

/-- A lane's stack offset (R188). -/
def State.stackOfs (s : State) (x : Ins) (a : Args PMod) (i : Nat) : Nat := addOfs 32 (s.get1 x a.a i).toNat a.imm

/-- A stack access in progress: its state, the lanes performed, the lanes that park with their regions, a cause, a
damaged unit, and whether a fill must wait. -/
structure StackRun where
  s : State
  done : Lanes := 0
  parked : Lanes := 0
  absent : List (Nat × Lanes) := []
  trap : Option (Nat × Nat) := none
  dead : Option (Nat × Nat) := none
  waits : Bool := false

/-- One lane of a stack access. The lines that an earlier lane has evicted are filled again, under the checks of
R189. -/
def StackRun.lane (r : StackRun) (x : Ins) (ofs : Nat → Nat) (n : Nat) (perform : State → State) (i : Nat) : StackRun :=
  let x1 := { x with pass := laneBit i }
  let c := r.s.stackPages x1 ofs n
  let made := r.s.stackMade x1 c ofs n
  if r.waits || r.trap.isSome || r.dead.isSome then r
  else if c.waits || (r.s.stackFills x ofs n i).any (r.s.fillWaits x.bid x.sq) then { r with waits := true }
  else if c.trap.isSome then { r with s := c.s, trap := c.trap }
  else if c.parked != 0 then { r with s := c.s, parked := r.parked ||| c.parked, absent := r.absent ++ c.absent }
  else match r.s.stackRefused x1 c made ofs n, r.s.fillDamage x1 c made ofs n with
    | some e, _ => { r with trap := some e }
    | none, some u => { r with dead := some u }
    | none, none => { r with s := perform (c.s.touchAll x.bid x.sq (ofs i) n), done := r.done ||| laneBit i }

/-- A stack access: `lane` performs it in one lane at its offset, the lane's lines being present. -/
def stackAccess (h : Head) (a : Args PMod) (store : Bool) (lane : Ins → State → Nat → Nat → State) :
    State → Host.Outcome State Fault Refusal :=
  issue h fun x s =>
    let n := a.mod.sz.bytes
    let ofs := s.stackOfs x a
    match s.stackCause x ofs n with
    | some c => .trap c.1 c.2
    | none =>
      let once := fun (m : Lanes) => if store then m else onceOf a.d m
      match s.poolDamage { x with pass := once x.pass } fun i =>
        if store && n % 4 == 0 then [] else stackUnits x.bid x.sq i (ofs i) n with
      | some u => .dead (s.consume x.bid u.1 u.2)
      | none =>
        let c := s.stackPages x ofs n
        let made := s.stackMade x c ofs n
        if c.waits || (lanesOf made).any fun i => (s.stackFills x ofs n i).any fun k => (s.squad x.bid x.sq).spilling k then .wait s
        else match s.stackRefused x c made ofs n with
        | some e => .trap e.1 e.2
        | none =>
          let r := (lanesOf (once made)).foldl (fun (r : StackRun) i => r.lane x ofs n (fun t => lane x t (ofs i) i) i) { s := c.s }
          match r.dead with
          | some u => .dead (r.s.consume x.bid u.1 u.2)
          | none =>
            if r.waits then .wait (r.s.markDone x r.done)
            else
              let (t, faults) := Coal.faults { c with s := r.s, absent := c.absent ++ r.absent } x 7
              let t := (lowestKey ofs (lanesOf r.done)).elim t (t.fillAhead x)
              .mem t (c.parked ||| r.parked) faults (if r.trap.isSome then r.done else made &&& ~~~r.parked) (r.trap.orElse fun _ => c.trap)

/-- `ldk` (R195). -/
def execLdk (a : Args PMod) : State → Host.Outcome State Fault Refusal :=
  stackAccess (headOf a (.ldk a) true) a false fun x s o i =>
    let n := a.mod.sz.bytes
    let v := leNat ((List.range n).map fun k => s.stackByte x.bid x.sq i (o + k))
    let s := s.repair (operandUnits x.bid x.sq a.d a.mod.sz.regs (laneBit i))
    s.setSquad x.bid x.sq ((s.squad x.bid x.sq).writeNat a.d a.mod.sz.regs (laneBit i) fun _ => extendLoad n a.mod.sx v)

/-- `stk` (R195). -/
def execStk (a : Args PMod) : State → Host.Outcome State Fault Refusal :=
  stackAccess (headOf a (.stk a)) a true fun x s o i =>
    let n := a.mod.sz.bytes
    (leBytes n (s.regNat x.bid x.sq a.d a.mod.sz.regs i)).zipIdx.foldl (fun s b => s.setStackByte x.bid x.sq i (o + b.2) b.1)
      (s.repair (stackUnits x.bid x.sq i o n))

end Sys2Proof.Machine
end

