-- ==== Sys2Proof/Machine/Sched.lean ====
section
/-! DEFINITION. The scheduler: the start of a block, placement, pre-emption, saving and resuming, and the
retirement of blocks, flasks and pours (R17 to R22, R59, R138, R222, R262, R265 to R271, R275, R285, R286,
R301, R354). -/

namespace Sys2Proof.Machine

open Sys2Proof

/-! ## Storage of a block (R301, R338) -/

/-- A table without the keys of one holder of n keys. -/
def dropRange {α : Type} (t : Table α) (n holder : Nat) : Table α := t.filter fun e => e.1 / n != holder

/-- Whether a damaged unit lies in the storage of a block slot. -/
def unitOfBlock (bid : Nat) (u : Nat × Nat) : Bool := decide (1 ≤ u.1 ∧ u.1 ≤ 6) && unitBlock u.1 u.2 == bid

/-- The storage of a block slot written with zeros (R301). -/
def State.zeroBlock (s : State) (bid : Nat) : State :=
  { s with
    mem := { s.mem with
      pooled := dropRange s.mem.pooled (2 ^ 19) bid
      tiles := dropRange s.mem.tiles (8192 * 16) bid
      accs := dropRange s.mem.accs (1024 * 8) bid }
    dev := { s.dev with damage := s.dev.damage.filter fun u => !unitOfBlock bid u } }

/-- A squad at block start (R59, R227): its threads at an address, v255 at the stack size. -/
def Squad.start (entry : Pc) (stksz stamp : Nat) : Squad :=
  { rf := { v := if stksz = 0 then [] else (List.range 32).map fun i => (255 * 32 + i, BitVec.ofNat 32 stksz) }
    ctl := Ctl.oneGroup 0xFFFFFFFF entry stamp }

/-- A block put into its slot with its squads at block start. -/
def State.startBlock (s : State) (bid : Nat) (b : Block) (p : Pour) : State :=
  let entry : Pc := BitVec.ofNat 64 p.kern.entry
  let b := { b with rstpc := entry, bars := p.kern.startBars, accRc := p.kern.accRc }
  let s := ((s.zeroBlock bid).forgetReady bid).setBlock bid b
  (List.range p.kern.nsq).foldl (fun s q => s.setSquad bid q (Squad.start entry p.desc.stksz s.ctrl.stamp)) s

/-! ## Placement (R270, R271) -/

/-- Whether a core is in service: not retired, on a running die (R347, R358). -/
def State.coreServes (s : State) (c : Nat) : Bool := !(s.core c).retired && (s.die (dieOfCore c)).phase == .running

/-- The queue of a pour. -/
def State.queueOf (s : State) (p : Pour) : Queue := (s.tenant (s.tenantOf p.tag)).queues.get p.que {}

/-- The slot of a core that a block of a pour may take: free, admitted beside the other block, and reserved
only where `reserved` allows it. Which of two such slots a block takes the specification does not say: the model takes
slot 0 first (log entry 98). -/
def State.slotFor (s : State) (k : Kernel) (reserved : Bool) (c : Nat) : Option Nat :=
  let other := fun (bid : Nat) => if s.blocks.has bid then s.kernel bid else Kernel.none
  let free := fun (n : Nat) => !s.blocks.has (2 * c + n) && k.fits (other (2 * c + (1 - n)))
  if free 0 then some (2 * c)
  else if free 1 && (reserved || !(s.core c).reserved) then some (2 * c + 1)
  else none

/-- The slots of the candidate cores of a bay, in ascending core order. -/
def State.bayCandidates (s : State) (k : Kernel) (mask : BitVec 240) (reserved : Bool) (die bay : Nat) : List Nat :=
  (List.range 12).filterMap fun i =>
    let c := die * 120 + bay * 12 + i
    if mask.getLsbD c && s.coreServes c then s.slotFor k reserved c else none

/-- The bay with the fewest candidates among those that hold a flask. -/
def pickBay (n : Nat) (bays : List (List Nat)) : Option (List Nat) :=
  bays.foldl (fun best b =>
    if b.length < n then best
    else match best with
      | some x => if b.length < x.length then some b else best
      | none => some b) none

/-- A choice of slots: the block slots in order of block index, and whether the flask straddles. -/
structure Slots where
  bids : List Nat
  straddle : Bool
  deriving DecidableEq, Repr

/-- The slots of a flask among some candidates by die and bay (R270). -/
def pickSlots (n : Nat) (cand : Nat → Nat → List Nat) : Option Slots :=
  let bays := (List.range 2).flatMap fun d => (List.range 10).map fun b => cand d b
  match pickBay n bays with
  | some b => some ⟨b.take n, false⟩
  | none =>
    let pair := fun (b : Nat) => if (cand 1 b).length ≤ (cand 0 b).length then cand 0 b ++ cand 1 b else cand 1 b ++ cand 0 b
    (pickBay n [pair 8, pair 9]).map fun b =>
      let bids := b.take n
      ⟨bids, bids.any fun x => dieOfBlock x != dieOfBlock (bids.headD 0)⟩

/-- The slots on which a flask of a kernel can be placed in a mask: unreserved slots first, then, for a U-class
pour with USERSV, reserved ones too (R271). -/
def State.findSlots (s : State) (k : Kernel) (mask : BitVec 240) (reserved : Bool) : Option Slots :=
  match pickSlots k.flask (fun d b => s.bayCandidates k mask false d b) with
  | some x => some x
  | none => if reserved then pickSlots k.flask (fun d b => s.bayCandidates k mask true d b) else none

/-- The slots for the next flask of a pour. -/
def State.slotsFor (s : State) (p : Pour) : Option Slots :=
  s.findSlots p.kern (s.queueOf p).mask (p.cls == 0 && p.desc.usersv)

/-- The half and slot of R24 of each block of a flask. -/
def halfSlots (bids : List Nat) : List (Nat × Nat) :=
  let home := dieOfBlock (bids.headD 0)
  bids.zipIdx.map fun e =>
    let half := if dieOfBlock e.1 = home then 0 else 1
    (half, ((bids.take e.2).filter fun b => (dieOfBlock b == home) == (half == 0)).length)

/-- A flask with the slots that it takes. -/
def Flask.take (f : Flask) (x : Slots) (now : Nat) : Flask :=
  { f with
    status := .resident, blocks := x.bids, home := dieOfBlock (x.bids.headD 0), straddle := x.straddle
    placedAt := now, drainOnly := false, resumeAfter := none
    cores := (f.cores ++ x.bids.map coreOf).dedup, sites := x.bids.map coreOf }

/-- A flask started in its slots from block-start state (R22, R247, R256) with the device generation as its view (R62,
R179). One that starts again sees what it had performed before (R169), on whichever die it runs: no older copy of a
remote-data cache serves it (log entry 126). -/
def State.startFlask (s : State) (f : Nat) (fl : Flask) (x : Slots) : State :=
  let p := s.pour fl.pour
  let s := s.setFlask f { fl.take x s.ctrl.now with
    movedAt := if fl.status == .again then s.ctrl.stamp + 1 else 0
    viewGen := s.homes.dgen, runners := (List.range p.kern.runners).map fun n => (n, {}) }
  ((x.bids.zip (halfSlots x.bids)).zipIdx.foldl (fun s e =>
    s.startBlock e.1.1 { flask := f, idx := e.2, half := e.1.2.1, slot := e.1.2.2 } p) s).tickStamp

/-! ## Records kept in two copies (R345) -/

/-- The number of a pour's launch record. -/
def pourRecord (p : Nat) : Nat := p * 4
/-- The number of a flask's replay record. -/
def replayRecord (f : Nat) : Nat := f * 4 + 1
/-- The number of a flask's save area. -/
def saveRecord (f : Nat) : Nat := f * 4 + 2

/-- The context of a record. -/
def recordTag (r : Nat) : Nat := (if r % 4 = 0 then r / 4 else r / 4 / 4 / 2 ^ 31) / 2 ^ 31

/-- A record written for the first time: both of its copies are sound. -/
def State.newRecord (s : State) (r : Nat) : State := s.repair [(0x24, r * 2), (0x24, r * 2 + 1)]

/-- A read of a launch record, replay record or save area, each kept in two copies (R345): one damaged copy is
rewritten from the other, and with both damaged the context ends (R340, R346). The unit of a copy is the record's number ×
2 + the copy's die (log entry 130). -/
def State.readRecord (s : State) (r : Nat) : State :=
  let bad := fun (d : Nat) => s.dev.damage.contains (0x24, r * 2 + d)
  if bad 0 && bad 1 then s.ruinTag (recordTag r) 0x24 (r * 2)
  else [0, 1].foldl (fun s d => if bad d then (s.repair [(0x24, r * 2 + d)]).corrected (recordTag r) 0x24 (r * 2 + d) else s) s

/-! ## Moving a block between slots and save areas (R138, R262, R286) -/

/-- The entries of one holder of n keys moved to another. -/
def moveRange {α : Type} (t : Table α) (n old new : Nat) : Table α :=
  (t.filter fun e => e.1 / n == old).foldl (fun t e => t.put (new * n + e.1 % n) e.2) (dropRange t n old)

/-- The copy commands and open chains of a block moved between cores: its commands are queued in their own order, behind
those that the other slot has entered (R222), beyond the 32 of R203 where these fill the queue (log entry 110). -/
def State.moveQueues (s : State) (old new : Nat) : State :=
  let c := s.core (coreOf old)
  let mine := c.copies.filter fun x => x.2.bid == old
  let chains := c.openChain.filter fun x => x.1 % 2 == old % 2
  let s := s.setCore (coreOf old)
    { c with copies := c.copies.filter fun x => x.2.bid != old, openChain := c.openChain.filter fun x => x.1 % 2 != old % 2 }
  let d := s.core (coreOf new)
  s.setCore (coreOf new)
    { d with
      copies := mine.foldl (fun t x => t.put x.1 { x.2 with bid := new, order := s.ctrl.nextId }) d.copies
      openChain := chains.foldl (fun t x => t.put (x.1 / 2 * 2 + new % 2) x.2) d.openChain }
  |>.bump

/-- A block with all that it holds moved to another slot. -/
def State.moveBlock (s : State) (old new : Nat) : State :=
  let s := s.moveQueues old new
  let b := s.block old
  { s with
    squads := moveRange s.squads 32 old new
    blocks := (s.blocks.erase old).put new b
    progs := s.progs.map fun p => if p.2.bid == old then (p.1, { p.2 with bid := new, core := coreOf new }) else p
    mem := { s.mem with
      pooled := moveRange s.mem.pooled (2 ^ 19) old new
      tiles := moveRange s.mem.tiles (8192 * 16) old new
      accs := moveRange s.mem.accs (1024 * 8) old new }
    flasks := s.flasks.map fun f => (f.1, { f.2 with
      blocks := f.2.blocks.map fun x => if x == old then new else x
      runners := f.2.runners.map fun r => (r.1, { r.2 with
        pushers := r.2.pushers.map fun k => if k / 32 == old then squadKey new (k % 32) else k
        waiting := r.2.waiting.map fun w => if w.bid == old then { w with bid := new } else w }) })
    dev := { s.dev with splinters := s.dev.splinters.map fun x =>
      if x.2.bid == some old then (x.1, { x.2 with bid := some new }) else x } }

/-- A number of a block in a save area: no slot of any core has it. -/
def State.areaBlock (s : State) : Nat := 1000000 + 2 * s.ctrl.nextId

/-- Whether some words of a block are still on their way to their homes, or its flask is to consume an error that
their way back has met (R338, R347). -/
def State.givesBack (s : State) (bid : Nat) : Bool := s.owing bid || s.homes.ruined.any fun r => r.1 == bid

/-- The pushes of a block's squads that wait at its flask's runners are no longer waiting (R256). -/
def State.dropPushers (s : State) (bid : Nat) : State :=
  let f := (s.block bid).flask
  let fl := s.flask f
  s.setFlask f { fl with runners := fl.runners.map fun r => (r.1, { r.2 with pushers := r.2.pushers.filter fun k => k / 32 != bid }) }

/-- The squads of a block that restarts at RSTPC (R138, R244). -/
def State.restartBlock (s : State) (bid : Nat) : State :=
  let b := s.block bid
  { s.dropPushers bid with squads := s.squads.map fun e =>
      if e.1 / 32 == bid && e.2.ctl.alive != 0 then
        (e.1, { e.2 with ctl := Ctl.oneGroup e.2.ctl.alive b.rstpc s.ctrl.stamp, cwaits := none, waitsAt := none, ceded := 0 })
      else e }

/-- The accumulators of a block at its save: those under `recompute` are discarded, and with one of them every
squad restarts at RSTPC. -/
def State.saveAccs (s : State) (bid : Nat) : State :=
  let b := s.block bid
  let gone := fun (a : Nat) => b.accRc.getLsbD a
  let s := { s with mem := { s.mem with accs := s.mem.accs.filter fun e => !(e.1 / 1024 / 8 == bid && gone (e.1 / 1024 % 8)) } }
  if (List.range (s.kernel bid).accs).any gone then s.restartBlock bid else s

/-- A block saved (R138, R262): its drains start their wait again. -/
def State.saveBlock (s : State) (bid : Nat) : State :=
  let s := s.saveAccs bid
  let s := { s with squads := s.squads.map fun (e : Nat × Squad) => if e.1 / 32 == bid then (e.1, { e.2 with drain := none }) else e }
  (s.moveBlock bid s.areaBlock).bump

/-- A saved flask resumed in new slots, its barriers and their phases as they were saved (R262) and its view too (R62). It
sees what it has performed, on whichever die it runs (R169): no older copy of a remote-data cache serves it (log entry
126). -/
def State.resumeFlask (s : State) (f : Nat) (x : Slots) : State :=
  let s := s.readRecord (saveRecord f)
  let fl := s.flask f
  let moves := (fl.blocks.zip x.bids).zip (halfSlots x.bids)
  let s := moves.foldl (fun (s : State) (e : (Nat × Nat) × (Nat × Nat)) =>
    let s := ((s.zeroBlock e.1.2).forgetReady e.1.2).moveBlock e.1.1 e.1.2
    let b := s.block e.1.2
    s.setBlock e.1.2 { b with half := e.2.1, slot := e.2.2 }) s
  let s := s.freeArea f
  (s.setFlask f { (s.flask f).take x s.ctrl.now with movedAt := s.ctrl.stamp + 1 }).tickStamp

/-! ## The order of placement (R266, R270) -/

/-- What waits for placement: a returning flask, or the next new flask of a pour. -/
inductive Waiting where
  | back (f : Nat)
  | new (p : Nat)
  deriving DecidableEq, Repr

/-- Whether a flask that left is ready to return: a waiting parent once its `cwait` could return (R275). -/
def State.mayResume (s : State) (f : Flask) : Bool :=
  match f.resumeAfter with
  | some p => !s.pours.has p
  | none => true

/-- The returning flasks of a class, in the order in which they began to wait. -/
def State.returning (s : State) (cls : Nat) : List Waiting :=
  let mine := s.flasks.filter fun f =>
    f.2.run == .first && !f.2.hold && (f.2.status == .again || f.2.status == .saved) && s.mayResume f.2
    && s.enabled (s.pour f.2.pour).tag && (s.pour f.2.pour).cls == cls
  (mine.foldl (fun (t : Table Nat) f => t.put (f.2.waitFrom * 2 ^ 128 + f.1) f.1) []).map fun e => .back e.2

/-- The queues of a class with an accepted pour that has unplaced flasks, by tenant × 16 + queue, with that
pour: of enabled contexts alone (R296). -/
def State.heads (s : State) (cls : Nat) : List (Nat × Nat) :=
  s.tenants.flatMap fun t => t.2.queues.filterMap fun q =>
    match q.2.entries with
    | p :: _ => if (s.pour p).cls == cls && s.enabled (s.pour p).tag then some (t.1 * 16 + q.1, p) else none
    | [] => none

/-- The new flasks of a class, the queues round-robin after the one last served. -/
def State.fresh (s : State) (cls : Nat) : List (Nat × Waiting) :=
  let last := s.dev.served.get cls 1024
  let hs := s.heads cls
  ((hs.filter fun h => decide (last < h.1)) ++ (hs.filter fun h => decide (h.1 ≤ last))).map fun h => (h.1, .new h.2)

/-- The pour of what waits. -/
def State.pourWaiting (s : State) : Waiting → Pour
  | .back f => s.pour (s.flask f).pour
  | .new p => s.pour p

/-- The first that can be placed, of all classes in order, with its slots and queue. -/
def State.nextPlaced (s : State) : Option (Waiting × Slots × Option (Nat × Nat)) :=
  [0, 1, 2, 3].findSome? fun c =>
    match (s.returning c).findSome? fun w => (s.slotsFor (s.pourWaiting w)).map fun x => (w, x, none) with
    | some r => some r
    | none => (s.fresh c).findSome? fun h => (s.slotsFor (s.pourWaiting h.2)).map fun x => (h.2, x, some (c, h.1))

/-- A queue after one of its pours has all its flasks placed: the entry frees, and the oldest overflow entry
moves in (R266). -/
def Queue.free (q : Queue) (p : Nat) : Queue :=
  let q := { q with entries := q.entries.filter fun e => e != p }
  match q.overflow with
  | o :: r => if q.entries.length ≤ q.depthM1 then { q with entries := q.entries ++ [o], overflow := r } else q
  | [] => q

/-- The state with one queue of a tenant changed. -/
def State.mapQueue (s : State) (tenant que : Nat) (f : Queue → Queue) : State :=
  let t := s.tenant tenant
  s.setTenant tenant { t with queues := t.queues.put que (f (t.queues.get que {})) }

/-- The next new flask of a pour placed. -/
def State.placeNew (s : State) (p : Nat) (x : Slots) : State :=
  let r := s.pour p
  let f := flaskKey p r.placed .first
  let s := s.newRecord (replayRecord f)
  let s := s.startFlask f { pour := p, idx := r.placed } x
  let s := s.setPour p { r with placed := r.placed + 1 }
  if r.placed + 1 = r.desc.flasks then s.mapQueue (s.tenantOf r.tag) r.que fun q => q.free p else s

/-- The pour of what waits, by its key. -/
def State.pourKeyOf (s : State) : Waiting → Nat
  | .back f => (s.flask f).pour
  | .new p => p

/-- What waits placed in its slots, from the launch record of its pour (R345). -/
def State.place (s : State) (w : Waiting) (x : Slots) (q : Option (Nat × Nat)) : State :=
  let s := s.readRecord (pourRecord (s.pourKeyOf w))
  let s := match q with
    | some (c, n) => { s with dev := { s.dev with served := s.dev.served.put c n } }
    | none => s
  match w with
  | .back f => if (s.flask f).status == .saved then s.resumeFlask f x else s.startFlask f (s.flask f) x
  | .new p => s.placeNew p x

/-! ## Pre-emption (R275, R285, R286) -/

/-- Whether a handler runs in a flask. -/
def State.handling (s : State) (f : Flask) : Bool := f.blocks.any fun b => (s.block b).halted || (s.block b).handler.isSome

/-- The class of a flask: an audit's runs are of class B (R354). -/
def State.clsOf (s : State) (f : Flask) : Nat := if f.run == .first then (s.pour f.pour).cls else 3

/-- The victims taken one after another until a flask of a pour could be placed: none where all of them do not
make room. -/
def State.enough (s : State) (p : Pour) : List Nat → Option (List Nat)
  | [] => if (s.slotsFor p).isSome then some [] else none
  | f :: r => if (s.slotsFor p).isSome then some [] else ((s.dropBlocks f).enough p r).map fun l => f :: l

/-- Whether every block of a flask ends by its estimate within a time (R286). -/
def State.endsWithin (s : State) (f : Flask) (t : Nat) : Bool :=
  let e := s.ctrl.now - f.placedAt
  f.blocks.all fun b =>
    let p := (s.block b).progress
    p != 0 && decide (e * (65536 - p) ≤ t * p)

/-- Whether a flask is on its way out, so that its slots are free in time: it is being saved, or it is drained and ends
within the deadline, where there is one (R286). -/
def State.leaving (s : State) (f : Flask) (deadline : Option Nat) : Bool :=
  f.status == .saving || (f.status == .resident && f.drainOnly && deadline.any fun t => s.endsWithin f t)

/-- The flasks that may be victims of a mask, lowest class first and youngest placement first: one that an earlier
trigger only drains is a victim too where it does not end within the deadline. -/
def State.victims (s : State) (mask : BitVec 240) (deadline : Option Nat) (ok : Nat → Flask → Bool) : List Nat :=
  let mine := s.flasks.filter fun f =>
    f.2.status == .resident && !s.leaving f.2 deadline && !s.handling f.2 && (f.2.blocks.any fun b => mask.getLsbD (coreOf b)) && ok f.1 f.2
  (mine.foldl (fun (t : Table Nat) f =>
    t.put (((3 - s.clsOf f.2) * 2 ^ 64 + (2 ^ 64 - 1 - f.2.placedAt)) * 2 ^ 128 + f.1) f.1) []).map (·.2)

/-- A flask discarded to start again, which does not count as a kill (R286). -/
def State.flush (s : State) (f : Nat) : State :=
  let s := (s.dropBlocks f).clearSlots f
  s.startAgain f (s.flask f)

/-- Whether a flask may be flushed (R286). -/
def State.flushable (s : State) (f : Nat) : Bool :=
  let fl := s.flask f
  (s.pour fl.pour).kern.idem && !fl.side && s.slotsClearable f && fl.blocks.all fun b => decide ((s.block b).progress < 8192)

/-- Whether a tenant may hold another save area and firmware memory has one (R286, R296, R304). -/
def State.areaFree (s : State) (tenant : Nat) : Bool :=
  decide ((s.tenant tenant).saves < (s.tenant tenant).nsave) && decide ((s.tenants.map fun t => t.2.saves).sum < Config.saveAreas)

/-- The save of a flask begins where a save area is free for it; else it is drained (R286). -/
def State.beginSave (s : State) (f : Nat) : State :=
  let fl := s.flask f
  let n := s.tenantOf (s.pour fl.pour).tag
  let t := s.tenant n
  if s.areaFree n then
    let s := (s.setTenant n { t with saves := t.saves + 1 }).setFlask f { fl with status := .saving }
    fl.blocks.foldl (fun s b => (List.range (s.kernel b).nsq).foldl (fun s q => s.sendCombines b q) s) s
  else s.setFlask f { fl with drainOnly := true }

/-- The action of R286 for a victim: `deadline` is none where drain is never chosen. -/
def State.preempt (s : State) (f : Nat) (deadline : Option Nat) : State :=
  let fl := s.flask f
  if (match deadline with | some t => s.endsWithin fl t | none => false) then s.setFlask f { fl with drainOnly := true }
  else if s.flushable f then s.flush f
  else s.beginSave f

/-- The pre-emption for a pour whose next flask cannot be placed: of the victims, in their order, those that make room
leave. Flasks already on their way out count as gone. A victim for which no save area is free is drained and counts as
making room: this trigger picks no other in its place, and the next one picks it again where it does not end within the
deadline (log entry 148). -/
def State.preemptFor (s : State) (p : Pour) (victims : List Nat) (deadline : Option Nat) : State :=
  let leaving := (s.flasks.filter fun f => s.leaving f.2 deadline).map (·.1)
  match (leaving.foldl State.dropBlocks s).enough p victims with
  | some fs => fs.foldl (fun s f => s.preempt f deadline) s
  | none => s

/-- The pre-emption of the victims of some classes (R285). -/
def State.preemptClasses (s : State) (p : Pour) (ok : Nat → Bool) (deadline : Nat) : State :=
  s.preemptFor p (s.victims (s.queueOf p).mask (some deadline) fun _ f => ok (s.clsOf f)) (some deadline)

/-- The U trigger of R285, for every U flask that cannot be placed. -/
def State.urgentTrigger (s : State) : State :=
  (s.returning 0 ++ (s.fresh 0).map (·.2)).foldl (fun s w =>
    if (s.slotsFor (s.pourWaiting w)).isNone then
      s.preemptClasses (s.pourWaiting w) (· != 0) 4000
    else s) s

/-- The pours that resident flasks await, with those flasks. -/
def State.awaiting (s : State) : List (Nat × Nat) :=
  s.squads.filterMap fun q =>
    match q.2.cwaits with
    | some p => some (p, (s.block (q.1 / 32)).flask)
    | none => none

/-- Whether a pour's next new flask waits at the head of its queue. -/
def State.atHead (s : State) (p : Nat) : Bool := [0, 1, 2, 3].any fun c => (s.heads c).any fun h => h.2 == p

/-- The pour whose next new flask stands first in the queue of a pour with unplaced flasks: it is placed before that
pour's own (R266), while its context is enabled (R296). -/
def State.firstOf (s : State) (p : Nat) : Option Nat :=
  let q := s.queueOf (s.pour p)
  if q.entries.contains p || q.overflow.contains p then q.entries.head?.filter fun h => s.enabled (s.pour h).tag else none

/-- Whether a flask of a pour waits to return. -/
def State.returns (s : State) (p : Nat) : Bool :=
  [0, 1, 2, 3].any fun c => (s.returning c).any fun w => match w with
    | .back f => (s.flask f).pour == p
    | .new _ => false

/-- The pours of whose flasks one must be placed for a pour to go on. -/
def State.toPlace (s : State) (p : Nat) : List Nat := (s.firstOf p).toList ++ (if s.returns p then [p] else [])

/-- The flasks that a `cwait` trigger for pour c may remove for a pour (R275): those that wait on c, and after them
those that wait on other pours, where these leave no room (log entry 127). -/
def State.cwaitVictims (s : State) (c : Nat) (p : Pour) : List Nat :=
  let of' := fun (mine : Bool) => s.victims (s.queueOf p).mask none fun f _ => s.awaiting.any fun e => e.2 == f && (e.1 == c) == mine
  of' true ++ (of' false).filter fun f => !(of' true).contains f

/-- The flasks that a `cwait` trigger has pre-empted, of those that ran before it with the pours that they awaited,
resume once their `cwait` could return (R275). -/
def State.resumesAfter (s : State) (before : List (Nat × Nat)) : State :=
  before.foldl (fun t e =>
    let f := t.flask e.2
    if (f.status == .saving || f.status == .again) && f.resumeAfter.isNone then t.setFlask e.2 { f with resumeAfter := some e.1 } else t) s

/-- The cwait trigger of R275 for pour c and a pour d that is c or that c awaits. -/
def State.cwaitTrigger (s : State) (c d : Nat) : State :=
  let before := s.awaiting.filter fun e => (s.flask e.2).status == .resident
  let first := before.filter fun e => e.1 == c
  ((s.toPlace d).foldl (fun s t =>
    let p := s.pour t
    if (s.slotsFor p).isNone then s.preemptFor p (s.cwaitVictims c p) none else s) s).resumesAfter (first ++ before)

/-- The cwait triggers of every awaited pour (R275). -/
def State.cwaitTriggers (s : State) : State :=
  s.awaiting.foldl (fun s e =>
    let below := (s.awaiting.filter fun x => (s.flask x.2).pour == e.1).map (·.1)
    (e.1 :: below).foldl (fun s d => s.cwaitTrigger e.1 d) s) s

/-- `flask place` (R266, R270, R275, R285). -/
def execFlaskPlace (s : State) : Host.Outcome State Fault Refusal :=
  let s := (s.urgentTrigger).cwaitTriggers
  .next (match s.nextPlaced with
    | some (w, x, q) => s.place w x q
    | none => s)

/-- What waits under the key of a flask: a returning flask, or a new one that is the next of its pour. -/
def State.waitingAt (s : State) (f : Nat) : Option Waiting :=
  if s.flasks.has f then
    let fl := s.flask f
    (if fl.run == .first && !fl.hold && (fl.status == .again || fl.status == .saved) && s.mayResume fl && s.enabled (s.pour fl.pour).tag
      then some (.back f) else none)
  else
    let p := f / 4 / 2 ^ 31
    if s.pours.has p && (s.pour p).placed == f / 4 % 2 ^ 31 && s.atHead p then some (.new p) else none

/-- The cycle since which something has waited. -/
def State.waitsSince (s : State) : Waiting → Nat
  | .back f => (s.flask f).waitFrom
  | .new p => (s.pour p).since

/-- `h wait timeout` (R285): an H flask that has waited for 33,000 cc pre-empts N and B flasks. -/
def execHWaitTimeout (flask : Nat) (s : State) : Host.Outcome State Fault Refusal :=
  .next (match s.waitingAt flask with
    | some w =>
      let p := s.pourWaiting w
      if p.cls = 1 ∧ s.waitsSince w + 33000 ≤ s.ctrl.now ∧ (s.slotsFor p).isNone then
        s.preemptClasses p (2 ≤ ·) 33000
      else s
    | none => s)

/-! ## The end of a save (R138, R222, R262, R322) -/

/-- Whether the work that a save waits for is done in a block: its requests answered, its matrix queue empty,
its pooled atomics performed, its matrix engine programs ended, its copy engine programs past their last command, its
started copies complete, and its tile requests answered (R138, R222, R262). -/
def State.quiet (s : State) (bid : Nat) : Bool :=
  let c := s.core (coreOf bid)
  !(s.homes.reqs.any fun r => r.2.bid == bid) && !(c.mq.any fun m => m.bid == bid)
  && !(c.atoms.any fun a => a.bid == bid) && !(c.copies.any fun x => x.2.bid == bid && x.2.started) && !(s.progs.any fun p => p.2.bid == bid && !p.2.ended)
  && !(s.tks.any fun t => t.2.bid == bid)
  && s.squads.all fun q => q.1 / 32 != bid || (q.2.opens.isEmpty && q.2.posted.isEmpty && q.2.combine.isEmpty)

/-- The first squad of some blocks with a held cause. -/
def State.heldCause (s : State) (bids : List Nat) : Option (Nat × Nat) :=
  (s.squads.find? fun q => bids.contains (q.1 / 32) && (!q.2.deferred.isEmpty || q.2.lost)).map fun q => (q.1 / 32, q.1 % 32)

/-- The lanes of the sub-group that issued last. -/
def Ctl.lastLanes (c : Ctl) : Lanes :=
  (c.groups.foldl (fun best g => match best with
    | some b => if b.issued < g.issued then some g else best
    | none => some g) (none : Option Group)).elim 0 (·.lanes)

/-- A held cause delivered at the save of its block (R322): the save waits for the handler, and goes on at this wait
point after its `rft`. -/
def State.deferredAtSave (s : State) (bid sq : Nat) : State :=
  let q := s.squad bid sq
  match q.deferred with
  | c :: r => (s.setSquad bid sq { q with deferred := r }).takeTrap bid sq (causeCode c) (c.toNat / 65536) q.ctl.lastPc q.ctl.lastLanes true
  | [] => (s.setSquad bid sq { q with lost := false }).takeTrap bid sq 0x30F 0 q.ctl.lastPc q.ctl.lastLanes

/-- The first block of some that holds a deferred cause of its handler squad. -/
def State.handlerCause (s : State) (bids : List Nat) : Option Nat := bids.find? fun b => !(s.block b).deferred.isEmpty || (s.block b).lost

/-- A held cause of a block's handler squad at a wait point that is no instruction of it: the flask is killed (R328, log
entry 31). -/
def State.deferredOfHandler (s : State) (bid : Nat) : State :=
  let code := ((s.block bid).deferred.map causeCode).headD 0x30F
  s.killFlask (s.block bid).flask true (s.flaskRecord (s.block bid).flask (coreOf bid) (causeWord 0x301 code))

/-- The damaged unit that a save of some blocks reads (R338): in their registers, scratchpads, tiles, and the accumulators
that it keeps (R138). -/
def State.saveDamage (s : State) (bids : List Nat) : Option (Nat × Nat × Nat) :=
  bids.findSome? fun b =>
    (s.dev.damage.find? fun u => unitOfBlock b u && u.1 != 5 && !(u.1 == 4 && (s.block b).accRc.getLsbD (u.2 / 1024 % 8))).map fun u => (b, u)

/-- The end of a save whose flask has nothing outstanding: held causes are delivered, a damaged unit that it reads is
consumed (R338, R341), and its state goes to its save area (R138, R262, R322). -/
def State.finishSave (s : State) (flask : Nat) : State :=
  let bids := (s.flask flask).blocks
  match s.handlerCause bids, s.heldCause bids, s.saveDamage bids with
  | some b, _, _ => s.deferredOfHandler b
  | none, some (b, q), _ => s.deferredAtSave b q
  | none, none, some (b, st, k) => s.consume b st k
  | none, none, none =>
    let s := (bids.foldl State.saveBlock s).newRecord (saveRecord flask)
    s.setFlask flask { s.flask flask with status := .saved, waitFrom := s.ctrl.now }

/-- `save complete` (R138, R196, R286): the stack caches and owned words are written back, and once the answers to these
have come too, the flask's state is in its save area, and its slots are free. A handler that runs is not stopped
(R327). -/
def execSaveComplete (flask : Nat) (s : State) : Host.Outcome State Fault Refusal :=
  let fl := s.flask flask
  .next (if fl.status != .saving || s.handling fl || !(fl.blocks.all s.quiet) then s
    else
      let s := fl.blocks.foldl State.giveBack (s.flushStacks fl.blocks)
      if !(fl.blocks.all s.quiet) || fl.blocks.any s.givesBack then s else s.finishSave flask)

/-! ## Retirement (R22, R176, R198, R222, R269, R282, R354) -/

/-- Whether every thread of a block has ended and its commands, programs and answers are complete. -/
def State.blockDone (s : State) (bid : Nat) : Bool :=
  let b := s.block bid
  let c := s.core (coreOf bid)
  s.blocks.has bid && !b.retired && b.handler.isNone
  && (s.squads.all fun q => q.1 / 32 != bid || q.2.ctl.groups.isEmpty)
  && !(c.copies.any fun x => x.2.bid == bid) && s.quiet bid

/-- Whether the fettler chooses a flask that retires (R354). -/
def State.audited (s : State) (f : Nat) (draw : BitVec 16) : Bool :=
  let fl := s.flask f
  let p := s.pour fl.pour
  fl.run == .first && p.kern.audit && !fl.side && s.dev.regs.fetEn && decide (draw.toNat < (s.context p.tag).audfrac)

/-- A flask retires: its slots are free. -/
def State.retireFlask (s : State) (f : Nat) (draw : BitVec 16) : State :=
  let chosen := s.audited f draw
  let s := s.dropBlocks f
  let fl := s.flask f
  let s := s.setFlask f { fl with status := .retired, blocks := [], runners := [], chosen, waitFrom := s.ctrl.now }
  if fl.run == .first then
    let p := s.pour fl.pour
    s.setPour fl.pour { p with ended := p.ended + 1 }
  else s

/-- A block whose owned words are back retires. -/
def State.retireBlock (s : State) (blk : Nat) (draw : BitVec 16) : State :=
  let s := s.setBlock blk { s.block blk with retired := true }
  let f := (s.block blk).flask
  if (s.flask f).blocks.all fun b => (s.block b).retired then s.retireFlask f draw else s

/-- `block retire` (R22, R222): with the last of its blocks the flask retires. -/
def execBlockRetire (blk : Nat) (draw : BitVec 16) (s : State) : Host.Outcome State Fault Refusal :=
  .next (if !s.blockDone blk then s
    else if (s.handlerCause [blk]).isSome then s.deferredOfHandler blk
    else
      let s := s.giveBack blk
      if s.givesBack blk then s else s.retireBlock blk draw)

/-- A sprue whose fired pour has retired (R282). -/
def Sprue.poured (x : Sprue) (p : Nat) : Sprue :=
  let mine := x.fired.any fun e => e.2 == p
  { x with
    fired := x.fired.filter fun e => e.2 != p
    st := if mine && x.st == .busy then .armed 0 else x.st }

/-- An element of a range folded when its pour retires, with the corrections that its reads make (R350): one that a damaged unit withholds stays as it is, and the error
is recorded (R338, R340). -/
def State.foldLast (s : State) (g : Range) (e : Nat) : State :=
  match s.damaged (s.elemUnits g e) with
  | some u => s.record (s.unitRecord true 5 g.tag u.1 u.2)
  | none => (s.correctElem g e).foldElement g e

/-- Every element of a range folded (R198). -/
def State.foldRange (s : State) (g : Range) : State := (List.range g.len).foldl (fun s e => s.foldLast g e) s

/-- Whether the homes of a range are out of reach (R347). -/
def State.rangeClosed (s : State) (g : Range) : Bool := (g.homeMap ++ g.shadowMap).any fun pa => s.seamClosed none pa

/-- Whether every flask of a pour has ended, no audit of it is awaited, and its ranges can be folded. -/
def State.pourDone (s : State) (p : Nat) : Bool :=
  let r := s.pour p
  s.pours.has p && r.ended == r.desc.flasks && !((s.context r.tag).ranges.any fun g => g.pour == p && s.rangeClosed g) && !(s.flasks.any fun f => f.2.pour == p && f.2.chosen)

/-- The release of a launch record (R269): the pour's final status is kept, DGEN is raised, the ranges that
its blocks declared are folded and removed (R198), its flasks and its sprue's wait go, and its tenant is
notified (R316). -/
def State.retirePour (s : State) (p : Nat) : State :=
  let s := s.readRecord (pourRecord p)
  let r := s.pour p
  let s := ((s.context r.tag).ranges.filter fun g => g.pour == p).foldl State.foldRange s
  let c := s.context r.tag
  let kept := c.retired ++ [(r.num, r.status)]
  let s := s.setContext r.tag { c with
    retired := kept.drop (kept.length - 1024), ranges := c.ranges.filter fun g => g.pour != p }
  let n := s.tenantOf r.tag
  let t := s.tenant n
  let s := s.setTenant n { t with sprues := t.sprues.map fun x => (x.1, x.2.poured p) }
  let s := s.irq (some n) (if 4 + r.que < t.nvec then 4 + r.que else 3)
  { s.raiseDgen with pours := s.pours.erase p, flasks := s.raiseDgen.flasks.filter fun f => f.2.pour != p }

/-- `pour retire` (R269). -/
def execPourRetire (pour : Nat) (s : State) : Host.Outcome State Fault Refusal :=
  .next (if s.pourDone pour then s.retirePour pour else s)

end Sys2Proof.Machine
end

