-- ==== Sys2Proof/Machine/Tags.lean ====
section
/-! DEFINITION. Copy tags (R204), and reads of a context's memory by a squad's instruction (R189, R233, R273). -/

namespace Sys2Proof.Machine

open Sys2Proof

/-- A tag of a block. -/
def State.tag (s : State) (bid n : Nat) : Tag := (s.block bid).tags.get n {}
/-- A tag replaced. -/
def State.setTag (s : State) (bid n : Nat) (t : Tag) : State :=
  s.setBlock bid { s.block bid with tags := (s.block bid).tags.put n t }

/-- The tag when an operation issues on it. -/
def Tag.begin (t : Tag) : Tag :=
  if t.st = .busy then { t with count := t.count + 1 } else { st := .busy, status := 0, count := 1 }

/-- The tag when an operation on it ends with a status: an earlier status stands. -/
def Tag.finish (t : Tag) (status : Nat) : Tag :=
  let t := { t with count := t.count - 1, status := if t.status = 0 then status else t.status }
  if t.count = 0 then { t with st := .done } else t

/-- An operation issues on a tag. -/
def State.tagBegin (s : State) (bid n : Nat) : State := s.setTag bid n (s.tag bid n).begin
/-- An operation on a tag ends. -/
def State.tagEnd (s : State) (bid n status : Nat) : State := s.setTag bid n ((s.tag bid n).finish status)

/-- TAGMAP (R65): a bit for each tag that is DONE. -/
def Block.tagmap (b : Block) : DWord :=
  (List.range 64).foldl (fun m n => if (b.tags.get n {}).st = .done then m ||| (1#64) <<< n else m) 0

/-- What an instruction does with some reads of its context's memory, whose last one is answered so: it goes on with the
bytes, traps precisely, or parks its passing lanes on a page that is not present. The reads before a failing one have been
made (R315). -/
def State.squadRead (s : State) (x : Ins) (r : CtxRead) (reads : List (Nat × Nat)) (k : State → List Byte → Result) : Result :=
  let declined := (s.declinedAt x).any fun d => d.2 &&& x.pass != 0
  let made := s.readsMade (some (coreOf x.bid)) (s.tagOfBlock x.bid) reads
  match r with
  | .bytes b => if declined then .failed made 0x100 x.lane else k made b
  | .cause c => .failed made c x.lane
  | .dead st k => .dead (made.consume x.bid st k)
  | .wait => .wait s
  | .absent va =>
    if declined then .failed made 0x100 x.lane
    else
      let (t, fid) := made.pageFault (s.tagOfBlock x.bid) va 0 (coreOf x.bid)
      .mem t x.pass [(fid, x.pass)] 0 none

end Sys2Proof.Machine
end

