-- ==== Sys2Proof/Machine/Launch.lean ====
section
/-! DEFINITION. Launches and work: the checks and acceptance of a pour, `pour`, `cwait`, `tknxt`, `sparm`,
`prog`, the work distributor, replay records and sprues (R267 to R282). -/

namespace Sys2Proof.Machine

open Sys2Proof

/-! ## Launch descriptors (R267, R268) -/

/-- The descriptor in 128 bytes. -/
def descOf (bs : List Byte) : Desc :=
  let ctl := fieldOf bs 48 51
  { kimg := fieldOf bs 0 7, prm := fieldOf bs 8 15, dseg := fieldOf bs 16 23, stkb := fieldOf bs 24 31
    stksz := fieldOf bs 32 35, gx := fieldOf bs 36 39, gy := fieldOf bs 40 43, gz := fieldOf bs 44 47
    drgrp := ctl % 16, immut := ctl.testBit 4, usersv := ctl.testBit 5
    ws := (List.range 4).map fun k => (fieldOf bs (52 + 4 * k) (53 + 4 * k), fieldOf bs (54 + 4 * k) (55 + 4 * k)) }

/-- The limits of R267 on a descriptor's bytes. -/
def descOk (bs : List Byte) : Bool :=
  let d := descOf bs
  fieldOf bs 68 127 == 0 && decide (fieldOf bs 48 51 < 64)
  && decide (d.kimg < 2 ^ 57 ∧ d.prm < 2 ^ 57 ∧ d.dseg < 2 ^ 57 ∧ d.stkb < 2 ^ 57)
  && d.kimg % 64 == 0 && d.prm % 16 == 0 && d.stkb % 2 ^ 16 == 0 && d.stksz % 16 == 0 && decide (d.stksz ≤ 2 ^ 20)
  && decide (1 ≤ d.gx ∧ 1 ≤ d.gy ∧ 1 ≤ d.gz ∧ d.flasks < 2 ^ 31)
  && d.ws.all fun w => (w.1 == 0) == (w.2 == 0)

/-- Whether a mask holds the cores of a flask in a bay or a seam-bay pair (R268). -/
def State.maskHolds (s : State) (mask : BitVec 240) (n : Nat) : Bool :=
  (pickSlots n fun d b => (List.range 12).filterMap fun i =>
    let c := d * 120 + b * 12 + i
    if mask.getLsbD c && !(s.core c).retired then some (2 * c) else none).isSome

/-- Whether R268 refuses a launch into a queue. -/
def State.refusedLaunch (s : State) (tag : Nat) (q : Queue) (bs : List Byte) (i : Image) : Bool :=
  let d := descOf bs
  let k := i.kernel
  !(descOk bs && i.kernelOk && k.fits Kernel.none && k.map == tableMap (s.context tag).selected
    && (!k.audit || d.immut) && (!d.usersv || q.cls == 0) && s.maskHolds q.mask k.flask)

/-- The three reads of a launch: the descriptor, the kernel record and the image header. A record or header
address beyond the address space is left to the checks, which refuse it. -/
def State.readLaunch (s : State) (core : Option Nat) (tag addr : Nat) : CtxRead × List Byte × Image :=
  match s.ctxRead core tag addr 128 with
  | .bytes d =>
    match s.readImage core tag (descOf d).kimg with
    | (.cause 0x101, i) => (.bytes [], d, i)
    | (r, i) => (r, d, i)
  | e => (e, [], ⟨[], [], 0⟩)

/-- The reads of a record of n bytes that names an image, and of the image's, in their order. -/
def readsWith (addr n : Nat) (i : Image) : List (Nat × Nat) := (addr, n) :: imageReads i

/-! ## Acceptance (R269, R273) -/

/-- The next pour number of a context. -/
def Context.nextNum (c : Context) : Nat := if c.lastNum + 1 < 2 ^ 31 then c.lastNum + 1 else 1

/-- A pour accepted into a queue or its overflow ring, with its launch record (R345) and the code words that stand then
(R58, log entry 150). -/
def State.acceptPour (s : State) (tag que : Nat) (d : Desc) (k : Kernel) (overflow : Bool) : State × Nat :=
  let c := s.context tag
  let n := s.tenantOf tag
  let q := (s.tenant n).queues.get que {}
  let num := c.nextNum
  let key := pourKey tag num
  let p : Pour := { tag, num, que, cls := q.cls, desc := d, kern := k, table := c.selected, since := s.ctrl.now, code := s.codeOf tag k }
  let s := s.setContext tag { c with lastNum := num, wrapped := c.wrapped || num == 1 && c.lastNum != 0 }
  let s := (s.newRecord (pourRecord key)).setPour key p
  let s := s.mapQueue n que fun q => if overflow then { q with overflow := q.overflow ++ [key] } else { q with entries := q.entries ++ [key] }
  (s.raiseDgen, num)

/-- A launch into a queue of a context's tenant (R273), with the PRM that a sprue gives: the result word. -/
def State.launch (s : State) (tag que : Nat) (bs : List Byte) (i : Image) (prm : Option Nat) : State × Word :=
  let t := s.tenant (s.tenantOf tag)
  let q := t.queues.get que {}
  let d := { descOf bs with prm := prm.getD (descOf bs).prm }
  if !q.en || decide (t.nq ≤ que) then (s, 0x80000004)
  else if s.refusedLaunch tag q bs i then (s, 0x80000002)
  else if 65536 ≤ s.pours.length then (s, 0x80000003)
  else if q.entries.length ≤ q.depthM1 ∧ q.overflow.isEmpty then
    let (s, n) := s.acceptPour tag que d i.kernel false
    (s, BitVec.ofNat 32 n)
  else if q.overflow.length < q.ovfQuota then
    let (s, n) := s.acceptPour tag que d i.kernel true
    (s, BitVec.ofNat 32 n)
  else (s, 0x80000001)

/-! ## Replay records (R279) -/

/-- The key of a place in the replay record of a flask. -/
def replayKey (block sq turn : Nat) : Nat := (block * 32 + sq) * 2 ^ 32 + turn

/-- What the replay record says of a squad's next recorded instruction. -/
inductive Replayed where
  | fresh
  | val (w : Word)
  | diverge (k : Nat)
  deriving DecidableEq, Repr

/-- The record of a squad's next recorded instruction; its places are counted from 0, in the sub-code of cause 0x30E too
(R279, R289, log entry 146). -/
def State.replayed (s : State) (x : Ins) (kind : ReplayKind) : Replayed :=
  let b := s.block x.bid
  let k := (s.squad x.bid x.sq).turn
  match (s.flask b.flask).replay.get? (replayKey b.idx x.sq k) with
  | some r => if r.kind = kind then .val r.val else .diverge k
  | none => .fresh

/-- A squad's place in its record advances. -/
def State.tookTurn (s : State) (x : Ins) : State :=
  let q := s.squad x.bid x.sq
  s.setSquad x.bid x.sq { q with turn := q.turn + 1 }

/-- A result put into the record of a flask: one beyond the 4,096th sets the side-effect bit instead. -/
def State.note (s : State) (f key : Nat) (kind : ReplayKind) (w : Word) : State :=
  let fl := s.flask f
  if fl.replay.length < 4096 then s.setFlask f { fl with replay := fl.replay.put key ⟨kind, w⟩ } else s.sideEffect f

/-- The result of a squad's recorded instruction put into its record. -/
def State.noteHere (s : State) (x : Ins) (kind : ReplayKind) (w : Word) : State :=
  let b := s.block x.bid
  (s.note b.flask (replayKey b.idx x.sq (s.squad x.bid x.sq).turn) kind w).tookTurn x

/-- Whether a copy of the replay record of an instruction's flask is damaged (R345). -/
def State.recordBad (s : State) (x : Ins) : Bool :=
  let r := replayRecord (s.block x.bid).flask
  (s.damaged [(0x24, r * 2), (0x24, r * 2 + 1)]).isSome

/-- A recorded instruction with the first of its own checks that fails (R279): a record of another kind raises 0x30E, which
ranks before them (R324); an instruction that fails a check takes no result, so that the next one takes it (log entry 146).
An instruction that finds a damaged copy of the record is ready once the record has been read (R345). -/
def State.replaying (s : State) (x : Ins) (kind : ReplayKind) (check : Option (Nat × Nat)) (val : Word → Result) (fresh : Unit → Result) : Result :=
  let r := s.replayed x kind
  if r != .fresh && s.recordBad x then .wait (s.readRecord (replayRecord (s.block x.bid).flask))
  else match r, check with
    | .diverge k, _ => .trap 0x30E k
    | _, some c => .trap c.1 c.2
    | .val w, none => val w
    | .fresh, none => fresh ()

/-! ## Pours -/

/-- The result and the failure predicate of a `pour` (R273). -/
def State.pourResult (s : State) (x : Ins) (a : Args LMod) (w : Word) : State :=
  (s.put1 x a.d fun _ => w).putBits x a.b fun _ => w.msb

/-- `pour` (R273), or its recorded result (R279). -/
def execPour (a : Args LMod) : State → Host.Outcome State Fault Refusal :=
  issue (headOf a (.pour a)) fun x s =>
    let addr := (s.get x a.a 2 x.lane).toNat
    let kind := ReplayKind.pour a.mod.que.toNat
    s.replaying x kind (if addr % 128 ≠ 0 then some (0x260, 0) else none) (fun w => .go ((s.tookTurn x).pourResult x a w)) fun _ =>
      let (r, bs, i) := s.readLaunch (some (coreOf x.bid)) (s.tagOfBlock x.bid) addr
      s.squadRead x r (readsWith addr 128 i) fun t _ =>
        let (t, w) := t.launch (s.tagOfBlock x.bid) a.mod.que.toNat bs i none
        if s.noteEnds (s.block x.bid).flask then .dead (s.endReplay x.bid) else .go ((t.noteHere x kind w).pourResult x a w)

/-- Whether a `cwait` of a squad is in progress, noted for the scheduler (R275). -/
def State.setCwait (s : State) (x : Ins) (p : Option Nat) : State :=
  s.setSquad x.bid x.sq { s.squad x.bid x.sq with cwaits := p }

/-- What a handle names to a `cwait` (R274). -/
inductive CwaitOn where
  | bad (sub : Nat)
  | running (p : Nat)
  | status (w : Word)

/-- A handle looked up (R274). -/
def State.cwaitOn (s : State) (x : Ins) (h : Word) : CwaitOn :=
  let tag := s.tagOfBlock x.bid
  let c := s.context tag
  let n := h.toNat
  if h.msb || h == 0 then .bad 0
  else if n = (s.pourOfBlock x.bid).num then .bad 2
  else if s.pours.has (pourKey tag n) then .running (pourKey tag n)
  else match c.retired.reverse.find? fun e => e.1 == n with
    | some e => .status (BitVec.ofNat 32 e.2)
    | none => if n ≤ c.lastNum ∨ c.wrapped then .status 0x80000003 else .bad 1

/-- The check of a `cwait`'s handle (R274). -/
def CwaitOn.fault : CwaitOn → Option (Nat × Nat)
  | .bad k => some (0x261, k)
  | _ => none

/-- `cwait` (R274): an acquire at package scope (R160); or its recorded result (R279). -/
def execCwait (a : Args Unit) : State → Host.Outcome State Fault Refusal :=
  issue (headOf a (.cwait a) false true) fun x s =>
    let on := s.cwaitOn x (s.get1 x a.a x.lane)
    s.replaying x .cwait on.fault (fun w => .go ((s.tookTurn x).put1 x a.d fun _ => w)) fun _ =>
      match on with
      | .bad k => .trap 0x261 k
      | .running p => .hold (s.setCwait x (some p))
      | .status w =>
        let t := (s.setCwait x none).raiseView (s.block x.bid).flask
        if s.noteEnds (s.block x.bid).flask then .dead (s.endReplay x.bid) else .go ((t.noteHere x .cwait w).put1 x a.d fun _ => w)

/-- `prog` (R276). -/
def execProg (a : Args Unit) : State → Host.Outcome State Fault Refusal :=
  issue (headOf a (.prog a)) fun x s =>
    .go (s.setBlock x.bid { s.block x.bid with progress := (s.get1 x a.a x.lane).toNat % 65536 })

/-! ## The work distributor (R277, R278) -/

/-- The answer for the k-th request of a work set. -/
def tileAnswer (ws : Nat × Nat) (k : Nat) : Word :=
  if k < ws.1 * ws.2 then BitVec.ofNat 32 (k / ws.1 * 65536 + k % ws.1) else 0xFFFFFFFF

/-- The 4-byte store of an answer at a pooled address, as that of an engine party. -/
def State.poolAnswer (s : State) (f addr : Nat) (w : Word) : State :=
  match s.poolAt f addr 4 with
  | .at' b o => (s.poolWrite b o false (leBytes 4 w.toNat)).repair (s.poolUnits b o 4 false)
  | .cause _ => s

/-- An answer delivered: a register becomes full, or the pooled word is written and its tag lowered. -/
def State.deliver (s : State) (r : TkReq) (w : Word) : State :=
  match r.reg with
  | some n =>
    let q := s.squad r.bid r.sq
    (s.repair [scalarUnit r.bid r.sq n]).setSquad r.bid r.sq { q with rf := (q.rf.setScalar n w).markFull (.s (BitVec.ofNat 6 n)) 1 0 }
  | none => (s.poolAnswer r.flask r.addr w).tagEnd r.bid r.tag 0

/-- The answers that a squad has outstanding. -/
def State.asked (s : State) (bid sq : Nat) : Nat := s.tks.countP fun t => t.2.bid == bid && t.2.sq == sq

/-- A request that passes its checks put on its way to the distributor, or answered from the replay record. -/
def tkIssue (check : Option (Nat × Nat)) (req : TkReq) (x : Ins) (mark : State → State) (s : State) : Result :=
  s.replaying x (.tknxt req.ws) check (fun w => .go ((mark (s.tookTurn x)).deliver req w)) fun _ =>
    if 8 ≤ s.asked x.bid x.sq then .wait s
    else
      let s := mark s
      let s := { s with tks := s.tks.put s.ctrl.nextId { req with turn := (s.squad x.bid x.sq).turn } }
      .go (s.bump.tookTurn x)

/-- Whether the pour of a block declares a work set. -/
def State.hasWs (s : State) (bid w : Nat) : Bool := (((s.pourOfBlock bid).desc.ws[w]?).getD (0, 0)).1 != 0

/-- `tknxt` with a register (R278). -/
def execTknxt (a : Args Unit) : State → Host.Outcome State Fault Refusal :=
  issue (headOf a (.tknxt a)) fun x s =>
    let ws := a.imm.toNat % 4
    let reg := match a.d with
      | .s n => n.toNat
      | _ => 0
    let req : TkReq := { bid := x.bid, sq := x.sq, flask := (s.block x.bid).flask, ws, reg := some reg }
    tkIssue (if s.hasWs x.bid ws then none else some (0x262, ws)) req x (fun s =>
      let q := s.squad x.bid x.sq
      s.setSquad x.bid x.sq { q with rf := q.rf.markEmpty a.d 1 x.pass }) s

/-- The first check that the pooled form of `tknxt` fails (R278): its work set, its tag, the alignment of its answer's
address, and that address's place in the flask. -/
def State.tkCheck (s : State) (x : Ins) (ws tag addr : Nat) : Option (Nat × Nat) :=
  if !s.hasWs x.bid ws then some (0x262, ws)
  else if (s.kernel x.bid).tags ≤ tag then some (0x201, tag)
  else if addr % 4 ≠ 0 then some (0x122, 0)
  else match s.poolAt (s.block x.bid).flask addr 4 with
    | .cause c => some (c, 0)
    | .at' _ _ => none

/-- `tknxt` with a tag (R278): its address is a pooled one, in the low 24 bits of a (R24, log entry 117). -/
def execTknxtPooled (a : Args Unit) : State → Host.Outcome State Fault Refusal :=
  issue (headOf a (.tknxtPooled a)) fun x s =>
    let ws := a.imm.toNat % 4
    let tag := a.imm.toNat / 8 % 64
    let addr := (s.get1 x a.a x.lane).toNat % 2 ^ 24
    let req : TkReq := { bid := x.bid, sq := x.sq, flask := (s.block x.bid).flask, ws, reg := none, addr, tag }
    tkIssue (s.tkCheck x ws tag addr) req x (fun s => s.tagBegin x.bid tag) s

/-- `tknxt answer` (R277): the distributor serves a request whose squad has none older, from the counters of the launch
record (R269, R345). -/
def execTknxtAnswer (req : Nat) (s : State) : Host.Outcome State Fault Refusal :=
  .next (match s.tks.get? req with
    | none => s
    | some r =>
      if s.tks.any fun t => decide (t.1 < req) && t.2.bid == r.bid && t.2.sq == r.sq then s
      else if s.noteEnds r.flask then s.endReplay r.bid
      else
        let key := (s.flask r.flask).pour
        let s := s.readRecord (pourRecord key)
        let p := s.pour key
        let k := (p.counters[r.ws]?).getD 0
        let w := tileAnswer ((p.desc.ws[r.ws]?).getD (0, 0)) k
        let s := s.setPour key { p with counters := p.counters.set r.ws (k + 1) }
        let s := { s with tks := s.tks.erase req }
        let s := s.note r.flask (replayKey (s.block r.bid).idx r.sq r.turn) (.tknxt r.ws) w
        s.deliver r w)

/-! ## Sprues (R280 to R282) -/

/-- The sprue of a descriptor's 64 bytes. -/
def sprueOf (tag : Nat) (bs : List Byte) : Sprue :=
  let trig := fieldOf bs 28 31
  { tag, ldesc := fieldOf bs 0 7, buf0 := fieldOf bs 8 15, buf1 := fieldOf bs 16 23, len := fieldOf bs 24 27
    trig := trig % 2 ^ 24, msg := trig.testBit 24, rearm := trig.testBit 25, que := trig / 2 ^ 26 % 16 }

/-- The limits of R280. An address beyond the address space of 2^57 bytes is refused as the descriptor's other limits are,
since no launch could use it (log entry 149). -/
def sprueOk (bs : List Byte) : Bool :=
  let x := sprueOf 0 bs
  fieldOf bs 32 63 == 0 && decide (fieldOf bs 28 31 < 2 ^ 30) && x.ldesc % 128 == 0 && x.buf0 % 64 == 0 && x.buf1 % 64 == 0
  && decide (x.ldesc < 2 ^ 57 ∧ x.buf0 < 2 ^ 57 ∧ x.buf1 < 2 ^ 57)
  && x.len % 64 == 0 && decide (64 ≤ x.len ∧ x.len ≤ 2 ^ 24) && decide (1 ≤ x.trig)

/-- The lowest handle that a tenant has free, of 256. -/
def Tenant.freeSprue (t : Tenant) : Option Nat := (List.range 256).findSome? fun k => if t.sprues.has (k + 1) then none else some (k + 1)

/-- A sprue armed from its descriptor and the reads of its launch (R281): the result word. -/
def State.armSprue (s : State) (tag : Nat) (bs desc : List Byte) (i : Image) : State × Word :=
  let n := s.tenantOf tag
  let t := s.tenant n
  let x := sprueOf tag bs
  if !sprueOk bs || s.refusedLaunch tag (t.queues.get x.que {}) desc i then (s, 0x80000002)
  else match t.freeSprue with
    | none => (s, 0x80000005)
    | some h => (s.setTenant n { t with sprues := t.sprues.put h x }, BitVec.ofNat 32 h)

/-- The reads of a sprue's arming: its descriptor, then those of its launch. -/
def State.readSprue (s : State) (core : Option Nat) (tag addr : Nat) : CtxRead × List Byte × List Byte × Image :=
  match s.ctxRead core tag addr 64 with
  | .bytes b =>
    match s.readLaunch core tag (sprueOf tag b).ldesc with
    | (.cause 0x101, d, i) => (.bytes [], b, d, i)
    | (r, d, i) => (r, b, d, i)
  | e => (e, [], [], ⟨[], [], 0⟩)

/-- The reads of a sprue's arming at an address, whose descriptor has these bytes. -/
def sprueReads (addr : Nat) (bs : List Byte) (i : Image) : List (Nat × Nat) := (addr, 64) :: readsWith (sprueOf 0 bs).ldesc 128 i

/-- `sparm` (R281), or its recorded result (R279). -/
def execSparm (a : Args Unit) : State → Host.Outcome State Fault Refusal :=
  issue (headOf a (.sparm a)) fun x s =>
    let addr := (s.get x a.a 2 x.lane).toNat
    s.replaying x .sparm (if addr % 64 ≠ 0 then some (0x263, 0) else none) (fun w => .go ((s.tookTurn x).put1 x a.d fun _ => w)) fun _ =>
      let (r, bs, d, i) := s.readSprue (some (coreOf x.bid)) (s.tagOfBlock x.bid) addr
      s.squadRead x r (sprueReads addr bs i) fun t _ =>
        let (t, w) := t.armSprue (s.tagOfBlock x.bid) bs d i
        if s.noteEnds (s.block x.bid).flask then .dead (s.endReplay x.bid) else .go ((t.noteHere x .sparm w).put1 x a.d fun _ => w)

/-- Whether a sprue's trigger is met (R282). -/
def Sprue.met (x : Sprue) : Bool := decide (x.trig ≤ x.count) && (!x.msg || x.bell)

/-- The state of a sprue after it has fired buffer b. -/
def Sprue.after (x : Sprue) (b pour : Nat) : Sprue :=
  { x with
    count := 0, bell := false, fired := x.fired ++ [(b, pour)]
    st := if !x.rearm then .spent else if x.buf1 != 0 then .armed (1 - b) else .busy }

/-- A sprue replaced. -/
def State.setSprue (s : State) (n h : Nat) (x : Sprue) : State :=
  s.setTenant n { s.tenant n with sprues := (s.tenant n).sprues.put h x }

/-- A launch by the device of the descriptor at an address (R282, R365), with the PRM that a sprue gives: any failure of
its reads is a refused pour, and there is none while they wait. The reads before a failing one have been made (R315). -/
def State.launchAt (s : State) (tag que addr : Nat) (prm : Option Nat) : Option (State × Word) :=
  let (r, d, i) := s.readLaunch none tag addr
  let t := s.readsMade none tag (readsWith addr 128 i)
  match r with
  | .wait => none
  | .bytes _ => some (t.launch tag que d i prm)
  | .dead u k => some (t.deadRead tag u k, 0x80000002)
  | _ => some (t, 0x80000002)

/-- A sprue of an enabled context that is armed with a buffer, once its trigger is met and no pour of the buffer runs
(R282, R296). -/
def State.sprueDue (s : State) (x : Sprue) : Option Nat :=
  match x.st with
  | .armed b => if s.enabled x.tag && x.met && !x.fired.any (fun e => e.1 == b) then some b else none
  | _ => none

/-- `sprue fire` (R282). -/
def execSprueFire (tenant handle : Nat) (s : State) : Host.Outcome State Fault Refusal :=
  .next (match (s.tenant tenant).sprues.get? handle with
    | none => s
    | some x =>
      match s.sprueDue x with
      | none => s
      | some b =>
        match s.launchAt x.tag x.que x.ldesc (some (if b = 0 then x.buf0 else x.buf1)) with
        | none => s
        | some (t, w) =>
          if w.msb then (t.setSprue tenant handle { x with st := .fault }).irq (some tenant) 2
          else t.setSprue tenant handle (x.after b (pourKey x.tag w.toNat)))

end Sys2Proof.Machine
end

