-- ==== Sys2Proof/Machine/System.lean ====
section
/-! DEFINITION. Control registers, firmware services, traps, the handler's return and the privileged
instructions (R62 to R69, R312, R326, R329 to R337). -/

namespace Sys2Proof.Machine

open Sys2Proof

/-! ## Control registers (R62 to R67) -/

/-- Whether a block's context is privileged. -/
def State.privOf (s : State) (bid : Nat) : Bool := (s.context (s.tagOfBlock bid)).priv

/-- Whether `movrc` may read a control register (R62). -/
def State.mayRead (s : State) (x : Ins) : Cr → Bool
  | .asgen | .audfrac => s.privOf x.bid
  | _ => true

/-- Whether `movcr` may write a control register (R62). -/
def State.mayWrite (s : State) (x : Ins) : Cr → Bool
  | .tshape _ | .skew _ | .stklim => true
  | .cause | .trappc => (s.block x.bid).serves x.sq
  | .dtsel | .audfrac => s.privOf x.bid
  | _ => false

/-- The value of a control register (R63 to R66). -/
def State.crRead (s : State) (x : Ins) (r : Cr) : DWord :=
  let b := s.block x.bid
  let q := s.squad x.bid x.sq
  let p := s.pourOfBlock x.bid
  let c := s.context p.tag
  match r with
  | .tshape n => (b.tshape.get n.toNat 0x00013F7F).setWidth 64
  | .skew n => (b.skew.get n.toNat 0).setWidth 64
  | .stklim => b.stklim.setWidth 64
  | .tagmap => b.tagmap
  | .cause => q.cause.setWidth 64
  | .trappc => q.trapPc &&& 0x01FFFFFFFFFFFFFF
  | .skidct => q.skid.setWidth 64
  | .rstpc => b.rstpc &&& 0x01FFFFFFFFFFFFFF
  | .asgen => c.asgen.setWidth 64
  | .viewgen => BitVec.ofNat 64 (s.flask b.flask).viewGen
  | .dtsel => BitVec.ofNat 64 (tableMap c.selected * 4 + c.dtsel)
  | .prio => BitVec.ofNat 64 p.cls
  | .drgrp => BitVec.ofNat 64 p.desc.drgrp
  | .audfrac => BitVec.ofNat 64 c.audfrac

/-- Whether a value is a legal tile shape (R63). -/
def tshapeOk (w : Word) : Bool :=
  let ew := w.toNat / 2 ^ 16 % 8
  let cols := w.toNat % 128 + 1
  decide (ew < 4) && cols % (if ew = 3 then 4 else if ew = 2 then 2 else 1) == 0

/-- Whether SKEW register n of a block may take a value (R64). -/
def State.skewOk (s : State) (bid n : Nat) (w : Word) : Bool :=
  match skewRegion w with
  | none => true
  | some (base, pitch, rows) =>
    let last := base + rows * pitch
    let others := (List.range 4).filterMap fun k => if k = n then none else skewRegion ((s.block bid).skew.get k 0)
    pitch != 0 && decide (last ≤ (s.kernel bid).shared)
    && others.all fun r => !decide (base < r.1 + r.2.2 * r.2.1 ∧ r.1 < last)

/-- The threads of the sub-group that trapped moved to the PC that a handler writes (R244): they leave the sub-groups
in which they stand, and are held where their meeting is (R230). -/
def Ctl.moveTrapped (c : Ctl) (stamp : Nat) (lanes : Lanes) (pc : Pc) : Ctl :=
  let gone := c.groups.foldl (fun m g => if g.pc = pc then m else m ||| (g.lanes &&& lanes)) 0
  if gone = 0 then c
  else
    let left : Ctl := { c with groups := (c.groups.map fun g => g.without gone).filter fun g => g.lanes != 0 }
    Ctl.settle stamp false 64 (left.arrive stamp pc gone)

/-- TRAPPC written by the handler (R65, R244). -/
def State.setTrapPc (s : State) (x : Ins) (v : Pc) : State :=
  let b := s.block x.bid
  let q := s.squad x.bid x.sq
  let pc := v &&& 0x01FFFFFFFFFFFFFF
  let s := s.setBlock x.bid { b with handler := b.handler.map fun h => { h with kept := h.kept.moveTrapped s.ctrl.stamp q.trapLanes pc } }
  s.setSquad x.bid x.sq { q with trapPc := pc }

/-- A control register written: none where the value is refused (R63 to R66). -/
def State.crWrite (s : State) (x : Ins) (r : Cr) (v : DWord) : Option State :=
  let b := s.block x.bid
  let w := v.lo
  match r with
  | .tshape n => if tshapeOk w then some (s.setBlock x.bid { b with tshape := b.tshape.put n.toNat (w &&& 0x00073F7F) }) else none
  | .skew n => if s.skewOk x.bid n.toNat w then some (s.setBlock x.bid { b with skew := b.skew.put n.toNat w }) else none
  | .stklim =>
    let lim := w &&& 0xFFFFFFF0
    if (s.pourOfBlock x.bid).desc.stksz < lim.toNat then none else some (s.setBlock x.bid { b with stklim := lim })
  | .cause => some (s.setSquad x.bid x.sq { s.squad x.bid x.sq with cause := w &&& 0xFFFF03FF })
  | .trappc => some (s.setTrapPc x v)
  | .dtsel =>
    let c := s.context (s.tagOfBlock x.bid)
    let n := w.toNat % 4
    if c.tables.has n then some (s.setContext (s.tagOfBlock x.bid) { c with dtsel := n }) else none
  | .audfrac =>
    let c := s.context (s.tagOfBlock x.bid)
    let n := w.toNat % 8192
    if 4096 < n then none else some (s.setContext (s.tagOfBlock x.bid) { c with audfrac := n })
  | _ => none

/-- `movcr` (R62, R68). -/
def execMovcr (a : Args Cr) : State → Host.Outcome State Fault Refusal :=
  issue (headOf a (.movcr a)) fun x s =>
    if !s.mayWrite x a.mod then .trap 0x017 a.mod.enc.toNat
    else match s.crWrite x a.mod (s.get x a.a a.mod.regs x.lane) with
      | some t => .go t
      | none => .trap 0x018 a.mod.enc.toNat

/-- `movrc` (R62, R68). -/
def execMovrc (a : Args Cr) : State → Host.Outcome State Fault Refusal :=
  issue (headOf a (.movrc a) true) fun x s =>
    if s.mayRead x a.mod then .go (s.put x a.d a.mod.regs fun _ => s.crRead x a.mod) else .trap 0x017 a.mod.enc.toNat

/-- `rdclk` (R69). -/
def execRdclk (a : Args Unit) : State → Host.Outcome State Fault Refusal :=
  issue (headOf a (.rdclk a) true) fun x s => .go (s.put x a.d 2 fun _ => s.clock x.bid)

/-! ## Services (R333) -/

/-- `sys` service 0, and the services that the table does not list (R333). -/
def execSysVersion (a : Args Unit) : State → Host.Outcome State Fault Refusal :=
  issue (headOf a (.sysVersion a)) fun x s =>
    if a.imm = 0 then .go (s.put1 x a.d fun _ => BitVec.ofNat 32 (0x00030000 + tableMap (s.pourOfBlock x.bid).table))
    else .trap 0x016 (a.imm.toNat % 65536)

/-- `sys` service 1 (R333): 0 in an audited pour. -/
def execSysRecoveryState (a : Args Unit) : State → Host.Outcome State Fault Refusal :=
  issue (headOf a (.sysRecoveryState a)) fun x s =>
    let f := s.flask (s.block x.bid).flask
    let w := if (s.kernel x.bid).audit then 0 else BitVec.ofNat 32 (f.relaunches * 2 + f.side.toNat)
    .go (s.put1 x a.d fun _ => w)

/-- `sys` service 2 (R333): it ends an audit's replay (R355). -/
def execSysSetSideEffect (a : Args Unit) : State → Host.Outcome State Fault Refusal :=
  issue (headOf a (.sysSetSideEffect a)) fun x s =>
    let f := (s.block x.bid).flask
    if (s.flask f).run != .first then .dead (s.endReplay x.bid)
    else
      let old := (s.flask f).side
      .go ((s.sideEffect f).put1 x a.d fun _ => BitVec.ofNat 32 old.toNat)

/-- `sys` service 3 (R333). -/
def execSysPourNumber (a : Args Unit) : State → Host.Outcome State Fault Refusal :=
  issue (headOf a (.sysPourNumber a)) fun x s => .go (s.put1 x a.d fun _ => BitVec.ofNat 32 (s.pourOfBlock x.bid).num)

/-! ## Software traps and the handler (R326, R331, R332) -/

/-- `trap` (R331). -/
def execTrap (a : Args Unit) : State → Host.Outcome State Fault Refusal :=
  issue (headOf a (.trap a)) fun x s => .after s a.imm.toNat ((s.get1 x a.a x.lane).toNat % 65536)

/-- The return of R332: the squad takes back its kept control state without the lanes that end, its CAUSE is
cleared, and the next trapped squad is served or the block resumes. -/
def State.returnFrom (s : State) (x : Ins) (h : Handler) (lanes : Lanes) : State :=
  let q := s.squad x.bid x.sq
  let ended := h.kept.alive &&& lanes
  let s := s.setSquad x.bid x.sq { q with ctl := h.kept, cause := 0 }
  let s := s.endThreads x.bid x.sq ended
  s.nextTrapped x.bid

/-- `rft` (R332). -/
def execRft (a : Args Unit) : State → Host.Outcome State Fault Refusal :=
  issue (headOf a (.rft a)) fun x s =>
    if !(s.block x.bid).serves x.sq then .trap 0x019 0
    else match (s.block x.bid).handler with
      | some h => .placed (s.returnFrom x h (s.get1 x a.a x.lane))
      | none => .trap 0x019 0

/-- `rft.abort` (R332, R344): the flask is killed and reported with the cause. -/
def execRftAbort (a : Args Unit) : State → Host.Outcome State Fault Refusal :=
  issue (headOf a (.rftAbort a)) fun x s =>
    let f := (s.block x.bid).flask
    if (s.block x.bid).serves x.sq then
      .dead (s.killFlask f true (s.flaskRecord f (coreOf x.bid) (s.squad x.bid x.sq).cause))
    else .trap 0x019 0

/-- Whether a trapped squad of a block still has an open access: its answer may yet restore the checkpoint and
put an older cause in the place of the one raised (R321). -/
def State.trapOpen (s : State) (bid : Nat) : Bool :=
  (List.range 32).any fun q => (s.squad bid q).cause != 0 && !(s.squad bid q).opens.isEmpty

/-- `handler start` (R325, R326): the handler of a halted block begins with its lowest trapped squad, once the
open accesses of the trapped squads are answered; a handler record that has become unusable ends the flask. -/
def execHandlerStart (blk : Nat) (s : State) : Host.Outcome State Fault Refusal :=
  let b := s.block blk
  .next (if !s.blocks.has blk || b.handler.isSome || !b.halted || s.trapOpen blk then s
    else match s.trapped blk with
      | none => s
      | some q => (s.stopSiblings blk).serveFrom blk q)

/-! ## Privileged instructions (R330, R334 to R337) -/

/-- Whether a target tag is refused (R330). -/
def State.badTarget (s : State) (x : Ins) (tag : Nat) (self : Bool) : Bool :=
  let own := s.tagOfBlock x.bid
  tag == 0 || decide (255 < tag) || !(s.context tag).en || s.tenantOf tag != s.tenantOf own || (self && tag == own)

/-- The core TLBs without the entries of a context (R309). -/
def State.clearTlbs (s : State) (tag : Nat) : State :=
  { s with cores := s.cores.map fun k => (k.1, { k.2 with tlb := k.2.tlb.filter fun e => e.tag != tag }) }

/-- ASGEN of a context raised on every core (R309). -/
def State.raiseAsgen (s : State) (tag : Nat) : State :=
  let c := s.context tag
  let s := s.setContext tag { c with asgen := c.asgen + 1 }
  if c.asgen = 0xFFFFFFFF then s.clearTlbs tag else s

/-- `asgen` (R334): first a `fence.rel.sys`, which waits until the owned words are written (R176), then the raise. -/
def execAsgen (a : Args Unit) : State → Host.Outcome State Fault Refusal :=
  issue (headOf a (.asgen a) false true) fun x s =>
    let tag := (s.get1 x a.a x.lane).toNat
    if s.badTarget x tag false then .trap 0x302 0
    else if (s.giveBack x.bid).owing x.bid then .wait (s.giveBack x.bid)
    else
      let t := (s.fenced x.bid .rel (some .sys)).raiseAsgen tag
      .go (t.put1 x a.d fun _ => (t.context tag).asgen)

/-- The longest lease (R311): the largest LEASE in force in the last millisecond. -/
def State.longestLease (s : State) : Nat :=
  (s.dev.leaseMax.filter fun e => decide (s.ctrl.time ≤ e.1 + microseconds 1000)).foldl (fun m e => max m (microseconds e.2))
    (microseconds s.dev.regs.lease)

/-- The leaf that maps an address, in nodes that a walk of the context may read (R300): its level, the address of its
entry, and the entry. The corrections that its reads need (R350) are those of the walk that goes before it. -/
def State.leafFrom (s : State) (tag va : Nat) : Nat → Nat → Option (Nat × Nat × Nat)
  | level, node =>
    let at' := node + 8 * levelIndex level va
    let e := leNat (s.valueBytes at' 8)
    if !s.walkOk tag at' || !e.testBit 0 || malformedEntry level e then none
    else if e.testBit 1 then some (level, at', e)
    else match level with
      | 0 => none
      | l + 1 => s.leafFrom tag va l (entryAddr e)

/-- The entries of the node that replaces a leaf (R312). -/
def splitEntries (level leaf : Nat) : List Nat :=
  (List.range (if level = 2 then 512 else 32)).map fun k => leaf + k * levelSize (level - 1)

/-- Step 1 of R312 for the leaf at an address and a node, by a die: the node filled, with the address of the leaf's entry
and the value read there. -/
def State.fillNode (s : State) (die tag va node : Nat) : State × Option (Nat × Nat) :=
  match s.leafFrom tag va 4 (s.context tag).root with
  | some (level, at', leaf) =>
    if level = 0 ∨ (level = 2 ∧ node % 4096 ≠ 0) then (s, none)
    else ((s.loadDone (some die) (s.forward at') 8).storeFrom die node ((splitEntries level leaf).flatMap (leBytes 8)), some (at', leaf))
  | none => (s, none)

/-- Steps 2 and 3 of R312: the `.sc` compare-and-swap of a leaf's entry, and ASGEN raised where it succeeds. -/
def State.swapLeaf (s : State) (core tag node at' leaf : Nat) : State × Bool :=
  let s := (s.takeStamp (2 * core)).1.correctValue (s.forward at') 8
  if s.walkOk tag at' && s.homeNat at' 8 == leaf then ((s.storeFrom (dieOfCore core) at' (leBytes 8 (node + 1))).raiseAsgen tag, true)
  else (s, false)

/-- Whether a frame holds translation structures of a tenant (R300, R335). -/
def State.tblOf (s : State) (pa tenant : Nat) : Bool :=
  let e := s.frameEntry pa
  let tag := (e.setWidth 8).toNat
  e.getLsbD 15 && tag != 0 && s.tenantOf tag == tenant

/-- A splinter begun for a block on a tag (R312), after a walk: its node filled where the leaf can be split. A damaged unit
of the page table ends the target context (R340). -/
def State.splinted (s : State) (bid ctag va node tag : Nat) (w : Walk) : State :=
  let s := s.walked (some (dieOfBlock bid)) ctag va w
  let (t, swap) := match w with
    | .damaged _ => (s, none)
    | _ => s.fillNode (dieOfBlock bid) ctag va node
  let z : Splinter :=
    { bid := some bid, core := coreOf bid, ctag, tag, va, node, swap, status := if swap.isSome then 0 else 2, until' := s.ctrl.time }
  { t with dev := { t.dev with splinters := t.dev.splinters.put t.ctrl.nextId z } }.bump.tagBegin bid tag

/-- Whether step 1 of a splinter must wait: for the walk, or for the node's home (R174, R347). -/
def State.splintWaits (s : State) (die node : Nat) (w : Walk) : Bool :=
  w == .waits || s.homeWaits (some die) (s.forward node) (if node % 4096 = 0 then 4096 else 256)

/-- `splint` (R312, R335). -/
def execSplint (a : Args Unit) : State → Host.Outcome State Fault Refusal :=
  issue (headOf a (.splint a)) fun x s =>
    let ctag := (s.get1 x a.d x.lane).toNat
    let va := (s.get x a.a 2 x.lane).toNat
    let node := (s.get x a.b 2 x.lane).toNat
    let tag := a.imm.toNat % 64
    let w := s.walk (some (dieOfBlock x.bid)) ctag va
    if s.badTarget x ctag false then .trap 0x302 0
    else if va % 2 ^ 21 ≠ 0 ∨ 2 ^ 57 ≤ va then .trap 0x302 1
    else if node % 256 ≠ 0 ∨ s.tblOf node (s.tenantOf ctag) = false then .trap 0x302 2
    else if (s.kernel x.bid).tags ≤ tag then .trap 0x201 tag
    else if 16 ≤ (s.dev.splinters.countP fun e => e.2.bid == some x.bid) then .wait s
    else if s.splintWaits (dieOfBlock x.bid) node w then .wait s
    else .go (s.splinted x.bid ctag va node tag w)

/-- A splinter past its compare-and-swap, with the wait for the longest lease (R312). -/
def State.swapSplinter (s : State) (id : Nat) (z : Splinter) (at' leaf : Nat) : State :=
  let (t, ok) := match s.readDamage (s.forward at') 8 with
    | some u => (s.ruinTag z.ctag 0x20 u.2, false)
    | none => s.swapLeaf z.core z.ctag z.node at' leaf
  let z := { z with swap := none, status := if ok then 0 else 2, until' := if ok then s.ctrl.time + s.longestLease else s.ctrl.time }
  { t with dev := { t.dev with splinters := t.dev.splinters.put id z } }

/-- `splinter complete` (R312, R335): the steps after the first, and at the end the tag of a block that still stands is
signalled. -/
def execSplinterComplete (id : Nat) (s : State) : Host.Outcome State Fault Refusal :=
  .next (match s.dev.splinters.get? id with
    | none => s
    | some z =>
      if let some (at', leaf) := z.swap then
        (if s.homeWaits (some (dieOfCore z.core)) (s.forward at') 8 then s else s.swapSplinter id z at' leaf)
      else if s.ctrl.time < z.until' then s
      else
        let s := { s with dev := { s.dev with splinters := s.dev.splinters.erase id } }
        match z.bid with
        | some b => if s.blocks.has b then s.tagEnd b z.tag z.status else s
        | none => s)

/-- The flasks of a context killed and reported (R336), and its runs of audits ended. -/
def State.killContext (s : State) (tag : Nat) : State :=
  let mine := (s.flasks.filter fun f => (s.pour f.2.pour).tag == tag && f.2.status != .retired && f.2.status != .reported).map (·.1)
  mine.foldl (fun s f =>
    let r := s.flaskRecord f (s.coreOfFlask f) 0
    if !s.flasks.has f then s
    else if (s.flask f).run == .first then s.killFlask f true r else ((s.freeArea f).dropBlocks f).giveUpAudit f r) s

/-- The pours of a context released with final status 1 (R336). -/
def State.releasePours (s : State) (tag : Nat) : State :=
  let mine := (s.pours.filter fun p => p.2.tag == tag).map (·.1)
  let s := { s with tenants := s.tenants.map fun t => (t.1, { t.2 with queues := t.2.queues.map fun q =>
    (q.1, mine.foldl Queue.free { q.2 with overflow := q.2.overflow.filter fun p => !mine.contains p }) }) }
  mine.foldl (fun s p => (s.failPour p).retirePour p) s

/-- The frames of a context. -/
def State.framesOf (s : State) (tag : Nat) : List Nat :=
  (s.homes.frames.filter fun f => f.2.setWidth 8 == BitVec.ofNat 8 tag).map (·.1)

/-- The end of a context (R336, R346): its tag may go to a new one once its frames have been reassigned (R314). -/
def State.endContext (s : State) (tag : Nat) : State :=
  let s := (s.killContext tag).releasePours tag
  let n := s.tenantOf tag
  let t := s.tenant n
  let s := s.setTenant n { t with
    sprues := t.sprues.filter fun x => x.2.tag != tag
    inbound := t.inbound.map fun w => if w.2.dtag == tag then (w.1, { w.2 with en := false }) else w }
  s.setContext tag { s.context tag with en := false, ranges := [], stale := s.framesOf tag }

/-- `tagkill` (R336). -/
def execTagkill (a : Args Unit) : State → Host.Outcome State Fault Refusal :=
  issue (headOf a (.tagkill a)) fun x s =>
    let tag := (s.get1 x a.a x.lane).toNat
    if s.badTarget x tag true then .trap 0x302 0 else .go ((s.endContext tag).put1 x a.d fun _ => 0)

/-- The 16-bit entries of a decode table's bytes. -/
def tableEntries (bs : List Byte) : List (BitVec 16) :=
  (List.range 1024).map fun k => BitVec.ofNat 16 (leNat ((bs.drop (2 * k)).take 2))

/-- The first check of R46 that an entry fails: 1, 2 or 3. -/
def entryFault (e : BitVec 16) : Option Nat :=
  let iop := (e.extractLsb' 4 12).toNat
  if iop = 0xFFF then none
  else if !assigned iop then some 1
  else if (e.extractLsb' 0 2).toNat ≠ formCode iop then some 2
  else if privileged iop && !e.getLsbD 3 then some 3 else none

/-- The status of a table (R337): the lowest failing entry with its reason, or accepted. -/
def tableStatus (es : List (BitVec 16)) : Word :=
  match es.zipIdx.findSome? fun e => (entryFault e.1).map fun r => (r, e.2) with
  | some (r, k) => BitVec.ofNat 32 (0x80000000 + r * 0x10000 + k)
  | none => 0

/-- `dtload` (R46, R337). -/
def execDtload (a : Args Unit) : State → Host.Outcome State Fault Refusal :=
  issue (headOf a (.dtload a)) fun x s =>
    let addr := (s.get x a.a 2 x.lane).toNat
    let b := (s.get1 x a.b x.lane).toNat
    let tag := b % 256
    if s.badTarget x tag false then .trap 0x302 0
    else if 2 ^ 11 ≤ b then .trap 0x302 3
    else if addr % 64 ≠ 0 then .trap 0x302 4
    else s.squadRead x (s.ctxRead (some (coreOf x.bid)) (s.tagOfBlock x.bid) addr 2048) [(addr, 2048)] fun s bs =>
      let es := tableEntries bs
      let st := tableStatus es
      let c := s.context tag
      let s := if st = 0 then s.setContext tag { c with tables := c.tables.put (b / 2 ^ 8 % 4) (.loaded (b.testBit 10) es) } else s
      .go (s.put1 x a.d fun _ => st)

end Sys2Proof.Machine
end

