-- ==== Sys2Proof/Machine/Sync.lean ====
section
/-! DEFINITION. Barriers, runners and drains (R246 to R257, R261). -/

namespace Sys2Proof.Machine

open Sys2Proof

/-! ## Barriers (R248 to R254) -/

/-- The cause of a barrier index beyond the declared count (R246). -/
def State.barCause (s : State) (x : Ins) (n : Nat) : Option (Nat × Nat) :=
  if (s.kernel x.bid).bars ≤ n then some (0x240, n) else none

/-- The threads of the masked squads that have not exited (R248). -/
def State.enrolled (s : State) (bid : Nat) (mask : Word) : BitVec 1024 :=
  (List.range 32).foldl (fun m q =>
    if mask.getLsbD q then m ||| threadSet q (s.squad bid q).ctl.alive else m) 0

/-- The effect of `bini` (R248). -/
def biniBody (a : Args SMod) (x : Ins) (s : State) : Result :=
  let n := a.mod.idx.toNat
  let mask := s.get1 x a.a x.lane
  let c := (s.get1 x a.b x.lane).toNat
  let b := s.bar x.bid n
  match s.barCause x n with
  | some e => .trap e.1 e.2
  | none =>
    if 2 ^ (s.kernel x.bid).nsq ≤ mask.toNat then .trap 0x242 0
    else if b.arr0 != 0 || b.arr1 != 0 || b.cb != 0 then .trap 0x242 1
    else if mask == 0 && c == 0 then .trap 0x242 2
    else .go (s.setBar x.bid n { enr := s.enrolled x.bid mask, eb0 := c, eb := c, ph := b.ph })

/-- The threads of a squad that the handler does not serve are enrolled where the instance says so (R253). -/
def State.mayArrive (s : State) (x : Ins) (n i : Nat) : Bool :=
  !(s.block x.bid).serves x.sq && (s.bar x.bid n).enr.getLsbD (x.sq * 32 + i)

/-- The arrival of one thread (R249). -/
def State.arriveLane (s : State) (x : Ins) (n i : Nat) : State :=
  let b := s.bar x.bid n
  let q := s.squad x.bid x.sq
  let t := threadBit x.sq i
  let first := b.arr0 &&& t == 0
  let s := s.setSquad x.bid x.sq { q with aph := q.aph.put (n * 32 + i) (if first then b.ph else b.ph + 1) }
  (s.setBar x.bid n (if first then { b with arr0 := b.arr0 ||| t } else { b with arr1 := b.arr1 ||| t })).checkBar x.bid n

/-- The lanes of a sub-group arrive one after another, those that have arrived in both phases apart, which wait. The
state, and the lanes that wait. -/
def State.arriveLanes (s : State) (x : Ins) (n : Nat) : List Nat → State × Lanes
  | [] => (s, 0)
  | i :: r =>
    let b := s.bar x.bid n
    if (b.arr0 &&& b.arr1).getLsbD (x.sq * 32 + i) then
      let t := s.arriveLanes x n r
      (t.1, laneBit i ||| t.2)
    else (s.arriveLane x n i).arriveLanes x n r

/-- The effect of `barv` (R249). -/
def barvBody (a : Args SMod) (x : Ins) (s : State) : Result :=
  let n := a.mod.idx.toNat
  match s.barCause x n with
  | some e => .trap e.1 e.2
  | none =>
    match x.firstLane fun i => !s.mayArrive x n i with
    | some i => .trap 0x241 i
    | none =>
      let t := s.arriveLanes x n (lanesOf x.pass)
      if t.2 = 0 then .go t.1 else .wait (t.1.markDone x (x.pass &&& ~~~t.2))

/-- The effect of `bexp` (R250). -/
def bexpBody (a : Args SMod) (x : Ins) (s : State) : Result :=
  let n := a.mod.idx.toNat
  let k := (s.get1 x a.a x.lane).toNat
  let b := s.bar x.bid n
  match s.barCause x n with
  | some e => .trap e.1 e.2
  | none =>
    if 2 ^ 32 ≤ b.eb + k then .trap 0x243 0
    else .go ((s.setBar x.bid n { b with eb := b.eb + k }).checkBar x.bid n)

/-- The unconsumed arrival of a thread (R247). -/
def State.aphOf (s : State) (x : Ins) (n i : Nat) : Option Word := (s.squad x.bid x.sq).aph.get? (n * 32 + i)

/-- Whether PH has passed a phase, both modulo 2^32 (R247, R252): it is less than half the range ahead (log entry 32).
-/
def phasePassed (ph w : Word) : Bool := decide (0 < (ph - w).toInt)

/-- Whether a phase that a thread awaits is complete: with LOC in a straddling flask, that of its own die
(R252, R254). -/
def State.phaseDone (s : State) (x : Ins) (n : Nat) (loc : Bool) (w : Word) : Bool :=
  let b := s.bar x.bid n
  phasePassed b.ph w || (loc && (s.flask (s.block x.bid).flask).straddle && b.localMet && w == b.ph)

/-- Whether a wait on a barrier is one at the seam phase of a straddling flask (R160, R254). -/
def State.seamWait (s : State) (x : Ins) (n : Nat) (loc : Bool) : Bool :=
  !loc && s.flaskScope x.bid n && (s.flask (s.block x.bid).flask).straddle

/-- Arrivals of some lanes consumed, with the view that the wait raises. -/
def State.consumeAph (s : State) (x : Ins) (n : Nat) (loc : Bool) (lanes : List Nat) : State :=
  let q := s.squad x.bid x.sq
  let seam := s.seamWait x n loc
  let s := s.setSquad x.bid x.sq { q with aph := lanes.foldl (fun t i => t.erase (n * 32 + i)) q.aph }
  if seam && !lanes.isEmpty then s.raiseView (s.block x.bid).flask else s

/-- The phases that the lanes of a waiting sub-group await, noted at the first issue of its `bwait`. -/
def State.noteAwait (s : State) (x : Ins) (n : Nat) : State :=
  match (s.squad x.bid x.sq).ctl.groups[x.grp]? with
  | some g =>
    let ph := (s.bar x.bid n).ph
    let await := (lanesOf x.pass).foldl (fun t i => if t.has i then t else t.put i ((s.aphOf x n i).getD ph)) g.await
    s.setGroup { bid := x.bid, sq := x.sq, grp := x.grp } { g with await }
  | none => s

/-- The phase that a lane of a waiting sub-group awaits. -/
def State.awaited (s : State) (x : Ins) (i : Nat) : Word :=
  match (s.squad x.bid x.sq).ctl.groups[x.grp]? with
  | some g => g.await.get i 0
  | none => 0

/-- The effect of `bwait` (R252). -/
def bwaitBody (a : Args SMod) (x : Ins) (s : State) : Result :=
  let n := a.mod.idx.toNat
  match s.barCause x n with
  | some e => .trap e.1 e.2
  | none =>
    let s := s.noteAwait x n
    if (lanesOf x.pass).all fun i => s.phaseDone x n a.mod.loc (s.awaited x i) then
      .go (s.consumeAph x n a.mod.loc (lanesOf x.pass))
    else .wait s

/-- The effect of `btest` (R252). -/
def btestBody (a : Args SMod) (x : Ins) (s : State) : Result :=
  let n := a.mod.idx.toNat
  match s.barCause x n with
  | some e => .trap e.1 e.2
  | none =>
    let ph := (s.bar x.bid n).ph
    let done := fun (i : Nat) => s.phaseDone x n a.mod.loc ((s.aphOf x n i).getD ph)
    .go ((s.consumeAph x n a.mod.loc ((lanesOf x.pass).filter done)).putBits x a.d done)

/-- `bini` (R248). -/
def execBini (a : Args SMod) : State → Host.Outcome State Fault Refusal := issue (headOf a (.bini a)) (biniBody a)
/-- `bini` under map 2 (R51). -/
def execBiniMap2 (a : Args SMod) : State → Host.Outcome State Fault Refusal := issue (headOf a (.biniMap2 a)) (biniBody a)
/-- `barv` (R249). -/
def execBarv (a : Args SMod) : State → Host.Outcome State Fault Refusal := issue (headOf a (.barv a) false true) (barvBody a)
/-- `barv` under map 2 (R51). -/
def execBarvMap2 (a : Args SMod) : State → Host.Outcome State Fault Refusal := issue (headOf a (.barvMap2 a) false true) (barvBody a)
/-- `bexp` (R250). -/
def execBexp (a : Args SMod) : State → Host.Outcome State Fault Refusal := issue (headOf a (.bexp a)) (bexpBody a)
/-- `bexp` under map 2 (R51). -/
def execBexpMap2 (a : Args SMod) : State → Host.Outcome State Fault Refusal := issue (headOf a (.bexpMap2 a)) (bexpBody a)
/-- `bwait` (R252). -/
def execBwait (a : Args SMod) : State → Host.Outcome State Fault Refusal := issue (headOf a (.bwait a)) (bwaitBody a)
/-- `bwait` under map 2 (R51). -/
def execBwaitMap2 (a : Args SMod) : State → Host.Outcome State Fault Refusal := issue (headOf a (.bwaitMap2 a)) (bwaitBody a)
/-- `btest` (R252). -/
def execBtest (a : Args SMod) : State → Host.Outcome State Fault Refusal := issue (headOf a (.btest a)) (btestBody a)
/-- `btest` under map 2 (R51). -/
def execBtestMap2 (a : Args SMod) : State → Host.Outcome State Fault Refusal := issue (headOf a (.btestMap2 a)) (btestBody a)

/-- `seam phase complete` (R254): both local phases have crossed the seam bridge, and every instance completes. The
barriers of a saved flask stand as they were saved, and a phase that was due then completes after the resume, on
whichever dies the flask then runs (R262). -/
def execSeamPhaseComplete (flask bar : Nat) (s : State) : Host.Outcome State Fault Refusal :=
  let fl := s.flask flask
  .next (if !fl.blocks.isEmpty && (fl.status == .resident || fl.status == .saving)
      && (fl.blocks.all fun b => (s.block b).bars.has bar && (s.bar b bar).localMet)
    then s.seamPhase fl bar else s)

/-! ## Runners (R256, R257) -/

/-- A runner of the flask of a block. -/
def State.runner (s : State) (f n : Nat) : Runner := (s.flask f).runners.get n {}
/-- A runner replaced. -/
def State.setRunner (s : State) (f n : Nat) (r : Runner) : State :=
  s.setFlask f { s.flask f with runners := (s.flask f).runners.put n r }

/-- The depth of a runner of a kernel (R58). -/
def Kernel.depth (k : Kernel) (n : Nat) : Nat := (k.depths[n]?).getD 2

/-- The block and offset of the word at a place of a ring. -/
def State.ringWord (s : State) (f : Nat) (r : Runner) (place : Nat) : Nat × Nat :=
  let ring := r.ring.getD 0
  (((s.flask f).blocks[ring / 2 ^ 19]?).getD 0, ring % 2 ^ 19 + 4 * place)

/-- A handle written into a squad's register (R36, R257); in a straddling flask the pop raises the view. -/
def State.popped (s : State) (f : Nat) (p : PopReq) (h : Word) : State :=
  let q := s.squad p.bid p.sq
  let s := (s.setSquad p.bid p.sq { q with rf := (q.rf.setScalar p.reg h).markFull (.s (BitVec.ofNat 6 p.reg)) 1 0 }).repair
    [scalarUnit p.bid p.sq p.reg]
  if (s.flask f).straddle then s.raiseView f else s

/-- ServePops of R257: the flask consumes a damaged word of its ring, and no pop takes it (R338, R341). -/
def State.servePops (f n : Nat) : Nat → State → State
  | 0, s => s
  | fuel + 1, s =>
    let r := s.runner f n
    match r.waiting with
    | p :: rest =>
      if r.n = 0 then s
      else
        let w := s.ringWord f r r.head
        let h : Word := BitVec.ofNat 32 (leNat (s.poolRead w.1 w.2 4 false))
        let depth := (s.pour (s.flask f).pour).kern.depth n
        match s.damaged (s.poolUnits w.1 w.2 4 false) with
        | some u => s.ruinBlock p.bid u.1 u.2
        | none =>
          let s := s.setRunner f n { r with waiting := rest, head := (r.head + 1) % depth, n := r.n - 1 }
          State.servePops f n fuel (s.popped f p h)
    | [] => s

/-- The cause of a runner that is not declared, or not initialised (R246, R256). -/
def State.runnerCause (s : State) (x : Ins) (n : Nat) : Option (Nat × Nat) :=
  if (s.kernel x.bid).runners ≤ n then some (0x246, 0)
  else if (s.runner (s.block x.bid).flask n).ring.isNone then some (0x247, n) else none

/-- `rinit` (R256). -/
def execRinit (a : Args SMod) : State → Host.Outcome State Fault Refusal :=
  issue (headOf a (.rinit a)) fun x s =>
    let n := a.mod.idx.toNat
    let f := (s.block x.bid).flask
    let r := s.runner f n
    let k := s.kernel x.bid
    let addr := (s.get1 x a.a x.lane).toNat % 2 ^ 24
    let c := (s.get1 x a.b x.lane).toNat
    if k.runners ≤ n then .trap 0x246 0
    else if addr % 4 ≠ 0 then .trap 0x246 1
    else match s.poolAt f addr (4 * k.depth n) with
      | .cause _ => .trap 0x246 1
      | .at' b o =>
        if c = 0 ∨ k.depth n < c then .trap 0x246 2
        else if r.n != 0 || !r.waiting.isEmpty || !r.pushers.isEmpty then .trap 0x246 3
        else .go (s.setRunner f n { ring := some ((s.block b).idx * 2 ^ 19 + o), allow := c })

/-- A handle pushed into a runner that has room (R257). -/
def State.pushHandle (s : State) (x : Ins) (n : Nat) (h : Word) : State :=
  let f := (s.block x.bid).flask
  let r := s.runner f n
  let k := s.kernel x.bid
  let w := s.ringWord f r r.tail
  let s := (s.poolWrite w.1 w.2 false (leBytes 4 h.toNat)).repair (s.poolUnits w.1 w.2 4 false)
  let s := s.setRunner f n { r with
    pushers := r.pushers.filter fun e => e != squadKey x.bid x.sq, pushStage := some (k.stageOf x.sq)
    tail := (r.tail + 1) % k.depth n, n := r.n + 1 }
  State.servePops f n 64 s

/-- `push` (R257). -/
def execPush (a : Args SMod) : State → Host.Outcome State Fault Refusal :=
  issue (headOf a (.push a)) fun x s =>
    let n := a.mod.idx.toNat
    let f := (s.block x.bid).flask
    let r := s.runner f n
    let me := squadKey x.bid x.sq
    match s.runnerCause x n with
    | some e => .trap e.1 e.2
    | none =>
      if r.allow ≤ r.n then
        .hold (s.setRunner f n { r with
          pushers := r.pushers.filter (fun e => e != me) ++ [me], pushStage := some ((s.kernel x.bid).stageOf x.sq) })
      else .go (s.pushHandle x n (s.get1 x a.a x.lane))

/-- A pop put at the end of its runner's waiting list, with its register marked empty, and served if it can be
(R257). -/
def State.askPop (s : State) (x : Ins) (n : Nat) (d : Opnd) : State :=
  let f := (s.block x.bid).flask
  let r := s.runner f n
  let reg := match d with
    | .s k => k.toNat
    | _ => 0
  let q := s.squad x.bid x.sq
  let s := s.setSquad x.bid x.sq { q with rf := q.rf.markEmpty d 1 x.pass }
  let s := s.setRunner f n { r with
    waiting := r.waiting ++ [{ bid := x.bid, sq := x.sq, reg }], popStage := some ((s.kernel x.bid).stageOf x.sq) }
  State.servePops f n 64 s

/-- `pop` (R257). -/
def execPop (a : Args SMod) : State → Host.Outcome State Fault Refusal :=
  issue (headOf a (.pop a)) fun x s =>
    match s.runnerCause x a.mod.idx.toNat with
    | some e => .trap e.1 e.2
    | none => .go (s.askPop x a.mod.idx.toNat a.d)

/-! ## Drains (R261) -/

/-- The drain group of a flask (R66). -/
def State.groupOf (s : State) (f : Nat) : Nat := (s.pour (s.flask f).pour).desc.drgrp

/-- The drain group of a block. -/
def State.groupOfBlock (s : State) (bid : Nat) : Nat := s.groupOf (s.block bid).flask

/-- Whether a die's idle tree of a group holds (R261): a message to a peer counts until it has left through a port; a
die that is being reset drives its wires idle (R347). -/
def State.idleDie (s : State) (g die : Nat) : Bool :=
  let here := fun (bid : Nat) => dieOfBlock bid == die && s.groupOfBlock bid == g
  (match (s.die die).phase with | .running | .quiescing => false | _ => true)
  || (!(s.homes.reqs.any fun r =>
        (match r.2.target with
          | .peer _ _ _ => r.2.status == .sent && r.2.port.isNone && dieOfBlock r.2.bid == die
          | .device => homeDie (r.2.line * 64) == die || dieOfBlock r.2.bid == die
          | .host => dieOfBlock r.2.bid == die) && s.groupOf r.2.flask == g)
    && !(s.homes.backs.any fun b => here b.2.bid)
    && !(s.squads.any fun q => here (q.1 / 32) && (!q.2.combine.isEmpty || q.2.posted.any fun p => p.spill.isSome))
    && !(s.tks.any fun t => here t.2.bid)
    && !(s.progs.any fun p => here p.2.bid && !p.2.ended)
    && !(s.cores.any fun c => dieOfCore c.1 == die && (c.2.mq.any (fun m => here m.bid) || c.2.atoms.any (fun a => here a.bid) || c.2.copies.any fun x => here x.2.bid)))

/-- Whether the trees that a drain reads hold. -/
def State.idleFor (s : State) (bid : Nat) (pkg : Bool) : Bool :=
  let g := s.groupOfBlock bid
  if pkg then s.idleDie g 0 && s.idleDie g 1 else s.idleDie g (dieOfBlock bid)

/-- The effect of a drain (R261): the squad waits until its condition has held long enough. -/
def drainBody (pkg : Bool) (x : Ins) (s : State) : Result :=
  let q := s.squad x.bid x.sq
  match q.drain with
  | some w =>
    if w.done then
      let s := s.setSquad x.bid x.sq { q with drain := none }
      .go (if pkg then s.raiseView (s.block x.bid).flask else s)
    else .hold s
  | none => .hold (s.setSquad x.bid x.sq { q with
      drain := some { pkg, since := if s.idleFor x.bid pkg then some s.ctrl.now else none } })

/-- The waits of drains brought up to date: a break of the idle condition starts the wait again. -/
def State.watchDrains (s : State) : State :=
  if s.squads.all fun q => q.2.drain.isNone then s
  else { s with squads := s.squads.map fun (e : Nat × Squad) =>
      match e.2.drain with
      | some w =>
        if w.done then e
        else (e.1, { e.2 with drain := some { w with
          since := if s.idleFor (e.1 / 32) w.pkg then some (w.since.getD s.ctrl.now) else none } })
      | none => e }

/-- `drain complete` (R261): the idle condition has held without a break for its time. -/
def execDrainComplete (squad : Nat) (s : State) : Host.Outcome State Fault Refusal :=
  let q := s.squad (squad / 32) (squad % 32)
  .next (match q.drain with
    | some w =>
      match w.since with
      | some t =>
        if t + (if w.pkg then 1400 else 600) ≤ s.ctrl.now && s.idleFor (squad / 32) w.pkg then
          s.setSquad (squad / 32) (squad % 32) { q with drain := some { w with done := true } }
        else s
      | none => s
    | none => s)

/-- `drain.die` (R261). -/
def execDrainDie (a : Args SMod) : State → Host.Outcome State Fault Refusal :=
  issue (headOf a (.drainDie a) false true) (drainBody false)
/-- `drain.pkg` (R261). -/
def execDrainPkg (a : Args SMod) : State → Host.Outcome State Fault Refusal :=
  issue (headOf a (.drainPkg a) false true) (drainBody true)
/-- `drain` under map 2 (R51). -/
def execDrainMap2 (a : Args SMod) : State → Host.Outcome State Fault Refusal :=
  issue (headOf a (.drainMap2 a) false true) (drainBody (a.mod.sc == some .pkg))

end Sys2Proof.Machine
end

