-- ==== Sys2Proof/Machine/Matrix.lean ====
section
/-! DEFINITION. Tile registers, accumulators and the matrix engine (R115 to R139). -/

namespace Sys2Proof

/-! ## Elements (R115, R116) -/

/-- The element width that a format requires of a tile (R116); 4 where no tile has it. -/
def Fmt.tileEw : Fmt → Nat
  | .bf16 | .f16 => 2
  | .e4m3 | .e5m2 | .i8 => 1
  | .e2m1 | .i4e => 0
  | _ => 4

/-- The elements of one row of a tile in a format (R116). -/
def Fmt.perRow (f : Fmt) (w : Word) : Nat :=
  match f.tileEw with
  | 2 => shapeCols w / 2
  | 1 => shapeCols w
  | _ => 2 * shapeCols w

/-- Element (row, col) of a tile's bytes in a format (R115, R116). -/
def tileElem (f : Fmt) (w : Word) (byte : Nat → Nat) (row col : Nat) : XVal :=
  let base := row * shapeCols w
  if f.tileEw = 2 then f.value (byte (base + 2 * col) + 256 * byte (base + 2 * col + 1))
  else elementValue f (fun k => byte (base + k)) col

/-! ## The order of summation (R120, R123, R124) -/

/-- The exact sum of a chunk's products: +0 whatever the signs of zero products (ChunkSum of R120). -/
def chunkSum (ps : List XVal) : XVal := ps.foldl XVal.add (.fin false 0 0)

/-- An accumulator element after one chunk (R120): the chunk is rounded once, then added with one rounding. -/
def addChunk (acc : Nat) (ps : List XVal) : Nat :=
  let narrow := narrowF (Fmt.float .f32) false
  narrow ((Fmt.value .f32 acc).add (Fmt.value .f32 (narrow (chunkSum ps))))

/-- An accumulator element after all chunks of 32 products in ascending order (R120). -/
def addProducts (acc k : Nat) (p : Nat → XVal) : Nat :=
  (List.range ((k + 31) / 32)).foldl (fun a c => addChunk a ((List.range (min 32 (k - 32 * c))).map fun i => p (32 * c + i))) acc

/-- The rows, columns and products of a matrix product of two shapes (R123). -/
structure MatDims where
  m : Nat
  n : Nat
  k : Nat
  kb : Nat
  deriving DecidableEq, Repr

/-- The dimensions of a product; `kb` is the K of operand B. -/
def matDims (f : Fmt) (trb : Bool) (sa sb : Word) : MatDims :=
  { m := shapeRows sa, k := f.perRow sa
    n := if trb then shapeRows sb else f.perRow sb
    kb := if trb then f.perRow sb else shapeRows sb }

/-- The sub-code of cause 0x060 of a product, checked in ascending order (R119, R123, R124). -/
def matShapeCause (f : Fmt) (trb scaled : Bool) (sa sb : Word) : Option Nat :=
  let d := matDims f trb sa sb
  if shapeEw sa ≠ f.tileEw then some 1
  else if shapeEw sb ≠ f.tileEw then some 2
  else if 32 < d.m then some 3
  else if d.k ≠ d.kb then some 4
  else if 32 < d.n then some 5
  else if scaled ∧ 32 < d.k then some 6
  else none

/-- Product k of element (i, j) (R120): the elements under their scales, multiplied exactly. -/
def matProduct (f : Fmt) (trb : Bool) (sa sb : Word) (scales : Option (List Word × Nat × Nat)) (ta tb : Nat → Nat)
    (i j k : Nat) : XVal :=
  let a := tileElem f sa ta i k
  let b := if trb then tileElem f sb tb j k else tileElem f sb tb k j
  match scales with
  | none => a.mul b
  | some (ws, x, y) =>
    let lane := fun (n : Nat) => (ws[n]?).getD 0
    (blockValue (scaleOf lane (32 * x + i)) a).mul (blockValue (scaleOf lane (32 * y + j)) b)

end Sys2Proof

namespace Sys2Proof.Machine

open Sys2Proof

/-! ## Storage -/

/-- The key of a tile's byte. -/
def tileKey (bid t o : Nat) : Nat := (bid * 16 + t) * 8192 + o
/-- The key of an accumulator's element. -/
def accKey (bid a i j : Nat) : Nat := (bid * 8 + a) * 1024 + i * 32 + j

/-- A tile's first bytes. -/
def State.tileRead (s : State) (bid t n : Nat) : List Byte := Memory.readBytes s.mem.tiles (tileKey bid t 0) n
/-- Bytes written to a tile from an offset. -/
def State.tileWrite (s : State) (bid t o : Nat) (bytes : List Byte) : State :=
  { s with mem := { s.mem with tiles := Memory.writeBytes s.mem.tiles (tileKey bid t o) bytes } }
/-- A byte of a tile as a number. -/
def State.tileByte (s : State) (bid t o : Nat) : Nat := (Memory.read s.mem.tiles (tileKey bid t o)).toNat

/-- The damaged-unit names of some bytes of a tile (R338). -/
def tileUnits (bid t o n : Nat) : List (Nat × Nat) := ((List.range n).map fun k => (0x03, tileKey bid t (o + k) / 4)).dedup
/-- The units that a write of some bytes of a tile covers only in part. -/
def tilePartial (bid t o n : Nat) : List (Nat × Nat) :=
  (tileUnits bid t o n).filter fun u => !decide (tileKey bid t o ≤ u.2 * 4 ∧ u.2 * 4 + 4 ≤ tileKey bid t (o + n))
/-- The units of the elements of an accumulator. -/
def accUnits (bid a : Nat) : List (Nat × Nat) := (List.range 1024).map fun k => (0x04, accKey bid a 0 k)

/-- An element of an accumulator. -/
def State.accElem (s : State) (bid a i j : Nat) : Word := s.mem.accs.get (accKey bid a i j) 0
/-- Elements of an accumulator written, row by row. -/
def State.accPut (s : State) (bid a : Nat) (cells : List (Nat × Nat)) (f : Nat → Nat → Word) : State :=
  { s with mem := { s.mem with accs := cells.foldl (fun t c => t.put (accKey bid a c.1 c.2) (f c.1 c.2)) s.mem.accs } }

/-- The places of the first rows and columns. -/
def cellsOf (m n : Nat) : List (Nat × Nat) := (List.range m).flatMap fun i => (List.range n).map fun j => (i, j)

/-- The shape in force of a block's tile (R63). -/
def State.shapeOf (s : State) (bid t : Nat) : Word := (s.block bid).tshape.get t 0x00013F7F

/-! ## The checks of a matrix command (R119, R125) -/

/-- What the checks of a matrix command give: the command, or a cause. -/
inductive MatChk where
  | ok (op : MatOp)
  | bad (code sub : Nat)

/-- The number of a tile or accumulator operand. -/
def matIndex : Opnd → Nat
  | .t n => n.toNat
  | .acc n => n.toNat
  | _ => 0

/-- Whether a tile or accumulator lies at or above the kernel's count (R119). -/
def Kernel.beyond (k : Kernel) : Opnd → Bool
  | .t n => decide (k.tiles ≤ n.toNat)
  | .acc n => decide (k.accs ≤ n.toNat)
  | _ => false

/-- The checks of the tile and accumulator operands: D, then A, then B. -/
def Kernel.matOperands (k : Kernel) (d a b : Opnd) (rest : MatChk) : MatChk :=
  if k.beyond d then .bad 0x061 0 else if k.beyond a then .bad 0x061 1 else if k.beyond b then .bad 0x061 2 else rest

/-- The checks of R125: alignment of the address and of the pitch, then every row inside the flask, then every
row inside its allocation: where one row fails the first and another the second, 0x120 is raised (log entry 145). -/
def State.rowsOk (s : State) (bid addr pitch rows len : Nat) (rest : MatChk) : MatChk :=
  let f := (s.block bid).flask
  let fails := fun (c : Nat) => (List.range rows).any fun r => s.poolAt f (rowAddr addr pitch r) len == .cause c
  if addr % 4 ≠ 0 then .bad 0x122 0
  else if pitch % 4 ≠ 0 then .bad 0x122 1
  else if fails 0x120 then .bad 0x120 0
  else if fails 0x121 then .bad 0x121 0
  else rest

/-- The checks of `tld` and `tst`; `rd` reads an s register or special. -/
def State.tileCheck (s : State) (bid : Nat) (rd : Opnd → Word) (a : Args MatMod) (op : Nat → Nat → Nat → Bool → Word → MatOp) : MatChk :=
  let t := matIndex a.d
  let w := s.shapeOf bid t
  let addr := addOfs 24 (rd a.a).toNat a.imm
  let pitch := (rd a.b).toNat
  (s.kernel bid).matOperands a.d a.a a.b (s.rowsOk bid addr pitch (shapeRows w) (shapeCols w) (.ok (op t addr pitch a.mod.skew w)))

/-- The checks of `accst`. -/
def State.accstCheck (s : State) (bid : Nat) (rd : Opnd → Word) (a : Args MatMod) : MatChk :=
  let addr := addOfs 24 (rd a.a).toNat a.imm
  let pitch := (rd a.b).toNat
  (s.kernel bid).matOperands a.d a.a a.b
    (s.rowsOk bid addr pitch 32 (32 * (a.mod.fmt.width / 8)) (.ok (.accst (matIndex a.d) addr pitch a.mod.skew a.mod.fmt)))

/-- The checks of `mma` and `mmas`, with the lanes of the scale register and the two slots for `mmas`. -/
def State.mmaCheck (s : State) (bid : Nat) (a : Args MatMod) (scales : Option (List Word × Nat × Nat)) : MatChk :=
  let sa := s.shapeOf bid (matIndex a.a)
  let sb := s.shapeOf bid (matIndex a.b)
  (s.kernel bid).matOperands a.d a.a a.b (match matShapeCause a.mod.fmt a.mod.trb scales.isSome sa sb with
    | some k => .bad 0x060 k
    | none => .ok (.mma (matIndex a.d) (matIndex a.a) (matIndex a.b) a.mod.fmt a.mod.trb sa sb scales))

/-- The checks of a command on one tile or accumulator. -/
def State.oneCheck (s : State) (bid : Nat) (d : Opnd) (op : MatOp) : MatChk := (s.kernel bid).matOperands d (.v 0) (.v 0) (.ok op)

/-- The scale slots X and Y of an `mmas` (R122). -/
def scaleSlots (m : MatMod) : Nat × Nat := (m.var.toNat % 4, m.var.toNat / 4)

/-! ## The queue (R118) -/

/-- Whether a core's matrix queue is full. -/
def State.matFull (s : State) (core : Nat) : Bool := decide (32 ≤ (s.core core).mq.length)

/-- A command put at the end of the queue of its block's core, by an instruction of a squad or an engine program. -/
def State.matPush (s : State) (bid : Nat) (op : MatOp) (prog : Option Nat) (by' : Option (Nat × Nat) := none) : State :=
  let c := s.core (coreOf bid)
  s.setCore (coreOf bid) { c with mq := c.mq ++ [{ bid, op, by', prog }] }

/-- A command at its issue: a wait for an entry of the queue, or of an access for the squad's pooled atomics that are
not yet performed (R129); a trap; or its entry. -/
def matIssue (x : Ins) (s : State) (chk : MatChk) : Result :=
  if s.matFull (coreOf x.bid) then .hold s
  else match chk with
    | .bad c k => .trap c k
    | .ok op =>
      if op.rows.isSome && ((s.core (coreOf x.bid)).atoms.any fun e => e.mine x.bid x.sq) then .wait s
      else .go (s.matPush x.bid op none (some (x.sq, (s.squad x.bid x.sq).seq)))

/-- The register reader of an issue: a scalar or special of the squad. -/
def State.reader (s : State) (x : Ins) (o : Opnd) : Word := s.get1 x o x.lane

/-- `tld` (R125, R126). -/
def execTld (a : Args MatMod) : State → Host.Outcome State Fault Refusal :=
  issue (headOf a (.tld a) true) fun x s => matIssue x s (s.tileCheck x.bid (s.reader x) a .tld)
/-- `tst` (R125, R126). -/
def execTst (a : Args MatMod) : State → Host.Outcome State Fault Refusal :=
  issue (headOf a (.tst a)) fun x s => matIssue x s (s.tileCheck x.bid (s.reader x) a .tst)
/-- `tzero` (R126). -/
def execTzero (a : Args Unit) : State → Host.Outcome State Fault Refusal :=
  issue (headOf a (.tzero a)) fun x s => matIssue x s (s.oneCheck x.bid a.d (.tzero (matIndex a.d)))
/-- `mma` (R123). -/
def execMma (a : Args MatMod) : State → Host.Outcome State Fault Refusal :=
  issue (headOf a (.mma a)) fun x s => matIssue x s (s.mmaCheck x.bid a none)
/-- `mmas` (R124). -/
def execMmas (a : Args MatMod) : State → Host.Outcome State Fault Refusal :=
  issue (headOf a (.mmas a)) fun x s =>
    let sl := scaleSlots a.mod
    matIssue x s (s.mmaCheck x.bid a (some ((List.range 32).map (s.cross x a.c), sl.1, sl.2)))
/-- `accz` (R127). -/
def execAccz (a : Args Unit) : State → Host.Outcome State Fault Refusal :=
  issue (headOf a (.accz a)) fun x s => matIssue x s (s.oneCheck x.bid a.d (.accz (matIndex a.d)))
/-- `accmul` (R127). -/
def execAccmul (a : Args Unit) : State → Host.Outcome State Fault Refusal :=
  issue (headOf a (.accmul a)) fun x s => matIssue x s (s.oneCheck x.bid a.d (.accmul (matIndex a.d) (s.reader x a.a)))

/-- The row that the immediate of `accrd` and `accwr` names. -/
def accRow (imm : Word) : Nat := imm.toNat % 32

/-- The number of a vector register operand. -/
def vecNum : Opnd → Nat
  | .v n => n.toNat
  | _ => 0

/-- `accrd` (R128): its destination is marked empty until the command executes. -/
def execAccrd (a : Args Unit) : State → Host.Outcome State Fault Refusal :=
  issue (headOf a (.accrd a)) fun x s =>
    let q := s.squad x.bid x.sq
    if s.matFull (coreOf x.bid) then .hold s
    else matIssue x (s.setSquad x.bid x.sq { q with rf := q.rf.markEmpty a.d 1 x.pass })
      ((s.kernel x.bid).matOperands a.d a.a a.b (.ok (.accrd (matIndex a.a) (accRow a.imm) x.sq (vecNum a.d) x.pass)))
/-- `accwr` (R128). -/
def execAccwr (a : Args Unit) : State → Host.Outcome State Fault Refusal :=
  issue (headOf a (.accwr a)) fun x s =>
    matIssue x s (s.oneCheck x.bid a.d (.accwr (matIndex a.d) (accRow a.imm) x.pass ((List.range 32).map (s.get1 x a.a))))
/-- `accst` (R125, R126). -/
def execAccst (a : Args MatMod) : State → Host.Outcome State Fault Refusal :=
  issue (headOf a (.accst a)) fun x s => matIssue x s (s.accstCheck x.bid (s.reader x) a)
/-- `accdecl.retain` (R136). -/
def execAccdeclRetain (a : Args Unit) : State → Host.Outcome State Fault Refusal :=
  issue (headOf a (.accdeclRetain a)) fun x s => matIssue x s (s.oneCheck x.bid a.d (.accdecl (matIndex a.d) false))
/-- `accdecl.recompute` (R136). -/
def execAccdeclRecompute (a : Args Unit) : State → Host.Outcome State Fault Refusal :=
  issue (headOf a (.accdeclRecompute a)) fun x s => matIssue x s (s.oneCheck x.bid a.d (.accdecl (matIndex a.d) true))

/-- `rstlbl` (R137). -/
def execRstlbl (a : Args Unit) : State → Host.Outcome State Fault Refusal :=
  issue (headOf a (.rstlbl a)) fun x s =>
    let pc := x.label a.imm
    if s.inCode x pc then .go (s.setBlock x.bid { s.block x.bid with rstpc := pc }) else .trap 0x011 1

/-! ## Execution (R118, R120, R126 to R128) -/

/-- The block and offset of a row of a transfer. -/
def State.rowPlace (s : State) (bid addr pitch r len : Nat) : Nat × Nat :=
  match s.poolAt (s.block bid).flask (rowAddr addr pitch r) len with
  | .at' b o => (b, o)
  | .cause _ => (0, 0)

/-- The damaged unit that some reads, or some writes that cover units only in part, meet. -/
def State.hurt (s : State) (units : Unit → List (Nat × Nat)) : Option (Nat × Nat) :=
  if s.dev.damage.isEmpty then none else s.damaged (units ())

/-- Rows stored to pooled space in ascending order (R125). -/
def State.storeRows (s : State) (bid addr pitch len : Nat) (skew : Bool) (rows : List (List Byte)) : State :=
  rows.zipIdx.foldl (fun s r =>
    let w := s.rowPlace bid addr pitch r.2 len
    (s.poolWrite w.1 w.2 skew r.1).repair (if s.dev.damage.isEmpty then [] else s.poolUnits w.1 w.2 len skew)) s

/-- A transfer to pooled space carried out unless it reads damage, or meets it in part (R338, R139). -/
def State.storeTransfer (s : State) (bid addr pitch len : Nat) (skew : Bool) (reads : Unit → List (Nat × Nat))
    (rows : List (List Byte)) : State :=
  match s.hurt fun _ => reads () ++ (List.range rows.length).flatMap fun r =>
      let w := s.rowPlace bid addr pitch r len
      s.poolPartial w.1 w.2 len skew with
  | some u => s.consume bid u.1 u.2
  | none => s.storeRows bid addr pitch len skew rows

/-- The effect of `tld`. -/
def State.runTld (s : State) (bid t addr pitch : Nat) (skew : Bool) (w : Word) : State :=
  let c := shapeCols w
  let place := fun (r : Nat) => s.rowPlace bid addr pitch r c
  match s.hurt fun _ => ((List.range (shapeRows w)).flatMap fun r => s.poolUnits (place r).1 (place r).2 c skew)
      ++ tilePartial bid t 0 (shapeBytes w) with
  | some u => s.consume bid u.1 u.2
  | none =>
    let bytes := (List.range (shapeRows w)).flatMap fun r => s.poolRead (place r).1 (place r).2 c skew
    (s.tileWrite bid t 0 bytes).repair (if s.dev.damage.isEmpty then [] else tileUnits bid t 0 (shapeBytes w))

/-- The effect of `tst`. -/
def State.runTst (s : State) (bid t addr pitch : Nat) (skew : Bool) (w : Word) : State :=
  let c := shapeCols w
  let bytes := s.tileRead bid t (shapeBytes w)
  s.storeTransfer bid addr pitch c skew (fun _ => tileUnits bid t 0 (shapeBytes w))
    ((List.range (shapeRows w)).map fun r => (bytes.drop (r * c)).take c)

/-- The effect of `accst` (R126). -/
def State.runAccst (s : State) (bid a addr pitch : Nat) (skew : Bool) (f : Fmt) : State :=
  let w := f.width / 8
  let conv := fun (x : Word) => if f = .f32 then x.toNat else narrowF (Fmt.float f) false (Fmt.value .f32 x.toNat)
  s.storeTransfer bid addr pitch (32 * w) skew (fun _ => accUnits bid a)
    ((List.range 32).map fun r => (List.range 32).flatMap fun j => leBytes w (conv (s.accElem bid a r j)))

/-- The effect of `tzero`: all 8 KiB. -/
def State.runTzero (s : State) (bid t : Nat) : State :=
  let s := { s with mem := { s.mem with tiles := dropRange s.mem.tiles 8192 (bid * 16 + t) } }
  { s with dev := { s.dev with damage := s.dev.damage.filter fun u => !(u.1 == 0x03 && u.2 * 4 / 8192 == bid * 16 + t) } }

/-- The effect of `mma` and `mmas` (R120). -/
def State.runMma (s : State) (bid acc ta tb : Nat) (f : Fmt) (trb : Bool) (sa sb : Word)
    (scales : Option (List Word × Nat × Nat)) : State :=
  let d := matDims f trb sa sb
  let cells := cellsOf d.m d.n
  match s.hurt fun _ => tileUnits bid ta 0 (shapeBytes sa) ++ tileUnits bid tb 0 (shapeBytes sb)
      ++ cells.map fun c => (0x04, accKey bid acc c.1 c.2) with
  | some u => s.consume bid u.1 u.2
  | none => s.accPut bid acc cells fun i j =>
      BitVec.ofNat 32 (addProducts (s.accElem bid acc i j).toNat d.k
        (matProduct f trb sa sb scales (s.tileByte bid ta) (s.tileByte bid tb) i j))

/-- The effect of `accz`. -/
def State.runAccz (s : State) (bid a : Nat) : State :=
  let s := { s with mem := { s.mem with accs := dropRange s.mem.accs 1024 (bid * 8 + a) } }
  { s with dev := { s.dev with damage := s.dev.damage.filter fun u => !(u.1 == 0x04 && u.2 / 1024 == bid * 8 + a) } }

/-- One accumulator element multiplied by a factor (R127). -/
def accScaled (e factor : Word) : Word :=
  BitVec.ofNat 32 (narrowF (Fmt.float .f32) false ((Fmt.value .f32 e.toNat).mul (Fmt.value .f32 factor.toNat)))

/-- The effect of `accmul`. -/
def State.runAccmul (s : State) (bid a : Nat) (factor : Word) : State :=
  match s.hurt fun _ => accUnits bid a with
  | some u => s.consume bid u.1 u.2
  | none => s.accPut bid a (cellsOf 32 32) fun i j => accScaled (s.accElem bid a i j) factor

/-- The effect of `accrd`: the lanes of the register that are still empty, those of exited threads apart
(R39), receive the row and become full. -/
def State.runAccrd (s : State) (bid a row sq reg : Nat) (lanes : Lanes) : State :=
  match s.hurt fun _ => (List.range 32).map fun j => (0x04, accKey bid a row j) with
  | some u => s.consume bid u.1 u.2
  | none =>
    let q := s.squad bid sq
    let on := lanes &&& q.rf.vE.get reg 0
    let rf := (q.rf.setVec reg on fun j => s.accElem bid a row j).markFull (.v (BitVec.ofNat 8 reg)) 1 on
    (s.setSquad bid sq { q with rf }).repair ((lanesOf on).map (vecUnit bid sq reg))

/-- The effect of `accwr`. -/
def State.runAccwr (s : State) (bid a row : Nat) (lanes : Lanes) (vals : List Word) : State :=
  let cells := (lanesOf lanes).map fun j => (row, j)
  (s.accPut bid a cells fun _ j => (vals[j]?).getD 0).repair (cells.map fun c => (0x04, accKey bid a c.1 c.2))

/-- The effect of `accdecl` (R136). -/
def State.runAccdecl (s : State) (bid a : Nat) (recompute : Bool) : State :=
  let b := s.block bid
  let m := (1#8) <<< a
  s.setBlock bid { b with accRc := if recompute then b.accRc ||| m else b.accRc &&& ~~~m }

/-- The effect of a matrix command (R118): complete before the next one begins. -/
def State.runMat (s : State) (bid : Nat) : MatOp → State
  | .tld t addr pitch skew w => s.runTld bid t addr pitch skew w
  | .tst t addr pitch skew w => s.runTst bid t addr pitch skew w
  | .tzero t => s.runTzero bid t
  | .mma acc ta tb f trb sa sb sc => s.runMma bid acc ta tb f trb sa sb sc
  | .accz a => s.runAccz bid a
  | .accmul a factor => s.runAccmul bid a factor
  | .accrd a row sq reg lanes => s.runAccrd bid a row sq reg lanes
  | .accwr a row lanes vals => s.runAccwr bid a row lanes vals
  | .accst a addr pitch skew f => s.runAccst bid a addr pitch skew f
  | .accdecl a rc => s.runAccdecl bid a rc

/-- The tile that a `tld` of a squad writes behind an open access of the squad, noted in its log (R321). -/
def State.noteTile (s : State) (m : MatCmd) : State :=
  match m.by', m.op with
  | some (sq, seq), .tld t _ _ _ _ =>
    let q := s.squad m.bid sq
    if (q.opens.any fun o => decide (o.seq < seq)) then
      s.setSquad m.bid sq { q with log := q.log ++ [⟨seq, .t, t, 0, (s.tileRead m.bid t 8192).map (·.setWidth 32)⟩] }
    else s
  | _, _ => s

/-- `matrix command execute` (R118): the oldest command of a core's queue. -/
def execMatrixCommandExecute (core : Nat) (s : State) : Host.Outcome State Fault Refusal :=
  .next (match (s.core core).mq with
    | m :: r => ((s.setCore core { s.core core with mq := r }).noteTile m).runMat m.bid m.op
    | [] => s)

/-! ## Follow-ons and engine programs (R131, R134) -/

/-- The command of a follow-on word, checked as at the squad's own issue; none for another operation. -/
def State.followCheck (s : State) (x : Ins) : Instr → Option MatChk
  | .mma a => some (s.mmaCheck x.bid a none)
  | .mmas a =>
    let sl := scaleSlots a.mod
    some (s.mmaCheck x.bid a (some ((List.range 32).map (s.cross x a.c), sl.1, sl.2)))
  | .accz a => some (s.oneCheck x.bid a.d (.accz (matIndex a.d)))
  | .accmul a => some (s.oneCheck x.bid a.d (.accmul (matIndex a.d) (s.reader x a.a)))
  | _ => none

/-- The command of an instruction of a matrix engine program (R133), with the registers captured at the fork;
none for an instruction outside the list. -/
def State.programCheck (s : State) (bid : Nat) (rd : Opnd → Word) : Instr → Option MatChk
  | .tld a => some (s.tileCheck bid rd a .tld)
  | .tst a => some (s.tileCheck bid rd a .tst)
  | .tzero a => some (s.oneCheck bid a.d (.tzero (matIndex a.d)))
  | .mma a => some (s.mmaCheck bid a none)
  | .accz a => some (s.oneCheck bid a.d (.accz (matIndex a.d)))
  | .accmul a => some (s.oneCheck bid a.d (.accmul (matIndex a.d) (rd a.a)))
  | .accst a => some (s.accstCheck bid rd a)
  | .accdeclRetain a => some (s.oneCheck bid a.d (.accdecl (matIndex a.d) false))
  | .accdeclRecompute a => some (s.oneCheck bid a.d (.accdecl (matIndex a.d) true))
  | _ => none

end Sys2Proof.Machine
end

