-- ==== Sys2Proof/Machine/CopyForm.lean ====
section
/-! DEFINITION. The form of a copy command: descriptors, window descriptors, the rows and granules of a
command, what each granule reads and lands, and CRC-32C (R83 to R85, R140 to R145, R207 to R214, R223). -/

namespace Sys2Proof

/-! ## CRC-32C (R223) -/

/-- One bit of the reflected CRC. -/
def crcBit (c : Nat) : Nat := if c % 2 = 1 then c / 2 ^^^ 0x82F63B78 else c / 2
/-- One byte folded into the CRC. -/
def crcByte (c : Nat) (b : Byte) : Nat := (List.range 8).foldl (fun c _ => crcBit c) (c ^^^ b.toNat)
/-- The CRC-32C of some bytes. -/
def crc32c (bs : List Byte) : Nat := bs.foldl crcByte 0xFFFFFFFF ^^^ 0xFFFFFFFF

/-! ## Bits of a descriptor (R209) -/

/-- The lowest set bit of a number among bits lo to hi. -/
def mustZero (d lo hi : Nat) : Option Nat := ((List.range (hi + 1 - lo)).map (· + lo)).find? d.testBit
/-- A bit position named when a condition fails. -/
def badAt (bad : Bool) (pos : Nat) : Option Nat := if bad then some pos else none
/-- The lowest position named. -/
def minPos (l : List (Option Nat)) : Option Nat :=
  l.foldl (fun m x => match m, x with
    | some a, some b => some (min a b)
    | some a, none => some a
    | none, y => y) none
/-- The lowest of bits 63:57 of a stride that differs from bit 56, the stride lying at a bit position. -/
def strideBad (d lo : Nat) : Option Nat :=
  ((List.range 7).map (· + (lo + 57))).find? fun k => d.testBit k != d.testBit (lo + 56)

/-! ## Window descriptors (R140, R141) -/

/-- A window: input height and width, elements per position, format, kernel, dilation, stride, divisor and pool
modes, padding. -/
structure Win where
  h : Nat
  w : Nat
  ch : Nat
  ef : Nat
  kh : Nat
  kw : Nat
  dy : Nat
  dx : Nat
  sy : Nat
  sx : Nat
  div : Nat
  pool : Nat
  pr : Nat
  pl : Nat
  pb : Nat
  pt : Nat
  deriving DecidableEq, Repr

/-- The window of words 0 to 3. -/
def winOf (ws : List Word) : Win :=
  let n := fun (k : Nat) => ((ws[k]?).getD 0).toNat
  { w := n 0 / 2 ^ 16, h := n 0 % 2 ^ 16
    ch := n 1 / 2 ^ 16, ef := n 1 / 2 ^ 8 % 16, kw := n 1 / 2 ^ 4 % 16 + 1, kh := n 1 % 16 + 1
    dx := n 2 / 2 ^ 21 % 8 + 1, dy := n 2 / 2 ^ 18 % 8 + 1, sx := n 2 / 2 ^ 15 % 8 + 1, sy := n 2 / 2 ^ 12 % 8 + 1
    div := n 2 / 2 ^ 10 % 4, pool := n 2 / 2 ^ 8 % 4
    pr := n 3 / 2 ^ 12 % 16, pl := n 3 / 2 ^ 8 % 16, pb := n 3 / 2 ^ 4 % 16, pt := n 3 % 16 }

/-- The sub-code of cause 0x218 of the window words (R140): word × 32 + the field's low bit, lowest first. -/
def winCause (ws : List Word) (pooling : Bool) : Option Nat :=
  let n := fun (k : Nat) => ((ws[k]?).getD 0).toNat
  let v := winOf ws
  minPos
    [badAt (v.ch == 0) (32 + 16), badAt (n 1 / 2 ^ 12 % 16 != 0) (32 + 12)
      , badAt (!(v.ef == 0 || v.ef == 1 || v.ef == 2 || v.ef == 3 || v.ef == 4 || v.ef == 8)) (32 + 8)
      , badAt (n 2 / 2 ^ 24 != 0) (64 + 24)
      , badAt (v.div == 3 || (v.div != 0 && v.pool != 2)) (64 + 10)
      , badAt (v.pool == 3 || (if pooling then v.pool == 0 else v.pool != 0)) (64 + 8)
      , badAt (n 2 % 2 ^ 8 != 0) 64
      , badAt (n 3 / 2 ^ 16 != 0) (96 + 16)]

/-- The format of the input elements. -/
def Win.fmt (v : Win) : Fmt := (Fmt.dec (BitVec.ofNat 4 v.ef)).getD .f32
/-- The bytes of an input element. -/
def Win.ew (v : Win) : Nat := v.fmt.width / 8
/-- The bytes of an output element of a pooling (R144). -/
def Win.ow' (v : Win) : Nat := if v.pool = 2 then 4 else v.ew

/-- OutExtent of R141. -/
def outExtent (n padlo padhi k d s : Nat) : Nat :=
  let span := d * (k - 1) + 1
  if n + padlo + padhi < span then 0 else (n + padlo + padhi - span) / s + 1

/-- The output height. -/
def Win.oh (v : Win) : Nat := outExtent v.h v.pt v.pb v.kh v.dy v.sy
/-- The output width. -/
def Win.ow (v : Win) : Nat := outExtent v.w v.pl v.pr v.kw v.dx v.sx

/-- The input row or column that an output position and a window offset read; none where it is padded. -/
def Win.input (out stride pad k dil n : Nat) : Option Nat :=
  let x := out * stride + k * dil
  if x < pad ∨ n ≤ x - pad then none else some (x - pad)

/-- The offset from the source base of element c at a window offset of an output position; none where padded. -/
def Win.elem (v : Win) (p ky kx c : Nat) : Option Nat :=
  match Win.input (p / v.ow) v.sy v.pt ky v.dy v.h, Win.input (p % v.ow) v.sx v.pl kx v.dx v.w with
  | some iy, some ix => some (((iy * v.w + ix) * v.ch + c) * v.ew)
  | _, _ => none

/-- The window offsets in the order (ky, kx). -/
def Win.offsets (v : Win) : List (Nat × Nat) := (List.range v.kh).flatMap fun i => (List.range v.kw).map fun j => (i, j)

/-- The offsets of the non-padded elements of a window: V of R144. -/
def Win.inside (v : Win) (p c : Nat) : List Nat := v.offsets.filterMap fun k => v.elem p k.1 k.2 c

/-- The last input row or column that some window reads. -/
def lastRead (outs stride pad ks dil n : Nat) : Option Nat :=
  (List.range outs).foldl (fun m o => (List.range ks).foldl (fun m k =>
    match Win.input o stride pad k dil n, m with
    | some x, some y => some (max x y)
    | some x, none => some x
    | none, y => y) m) none

/-- The bytes from the source base to the end of the last element that some window reads. -/
def Win.reach (v : Win) : Nat :=
  match lastRead v.oh v.sy v.pt v.kh v.dy v.h, lastRead v.ow v.sx v.pl v.kw v.dx v.w with
  | some iy, some ix => ((iy * v.w + ix) * v.ch + v.ch) * v.ew
  | _, _ => 0

/-- The bytes of the output of a pooling with its divisor plane (R144, R145). -/
def Win.poolBytes (v : Win) : Nat :=
  if v.oh = 0 ∨ v.ow = 0 then 0
  else v.oh * v.ow * v.ch * v.ow' + (if v.div = 0 then 0 else v.oh * v.ow * 4)

/-- The larger of two element codes by value, −0 below +0, the first among equals (R144). -/
def poolLarger (f : Fmt) (a b : Nat) : Nat :=
  let neg := fun (c : Nat) => c.testBit (f.width - 1)
  if (f.value a).lt (f.value b) || (f != .i8 && (f.value a).eqv (f.value b) && neg a && !neg b) then b else a

/-- One pooled element from the codes of V (R144). -/
def Win.pooled (v : Win) (codes : List Nat) : Nat :=
  let f := v.fmt
  if v.pool = 1 then
    match codes with
    | [] => 0
    | c :: r => if codes.any fun x => (f.value x).isNaN then narrowF (Fmt.float f) false .nan else r.foldl (poolLarger f) c
  else if f = .i8 then
    (codes.foldl (fun s c => s + narrowInt (-128) 127 (f.value c)) (0 : Int)).emod (2 ^ 32) |>.toNat
  else narrowF (Fmt.float .f32) false (chunkSum (codes.map f.value))

/-- The divisor of an output position (R145). -/
def Win.divisor (v : Win) (p : Nat) : Nat :=
  let m := if v.div = 1 then v.kh * v.kw else (v.inside p 0).length
  if m = 0 then 0 else narrowF (Fmt.float .f32) false ((XVal.fin false 1 0).div (XVal.ofInt m))

end Sys2Proof

namespace Sys2Proof.Machine

open Sys2Proof

/-! ## Fields (R207, R208) -/

/-- Whether a copy lands in the flask; the others write global memory or a peer. -/
def CopyKind.lands : CopyKind → Bool
  | .cpyo | .put => false
  | _ => true

/-- Whether a copy carries a window descriptor. -/
def CopyKind.window : CopyKind → Bool
  | .cpyw | .cpyp => true
  | _ => false

/-- A bit of the control word. -/
def CopyCmd.bit (c : CopyCmd) (k : Nat) : Bool := c.ctl.getLsbD k
/-- SKW. -/
def CopyCmd.skw (c : CopyCmd) : Bool := c.bit 27
/-- ORD: a put in class O. -/
def CopyCmd.ord (c : CopyCmd) : Bool := c.bit 26
/-- TILE. -/
def CopyCmd.tile (c : CopyCmd) : Bool := c.bit 24
/-- TNUM. -/
def CopyCmd.tnum (c : CopyCmd) : Nat := c.ctl.toNat / 2 ^ 20 % 16
/-- BEN. -/
def CopyCmd.ben (c : CopyCmd) : Bool := c.bit 19
/-- BAR. -/
def CopyCmd.bar (c : CopyCmd) : Nat := c.ctl.toNat / 2 ^ 12 % 128
/-- The block indices of MASK. -/
def CopyCmd.mask (c : CopyCmd) : List Nat := (List.range 12).filter fun b => c.bit b
/-- The window. -/
def CopyCmd.w (c : CopyCmd) : Win := winOf c.win

/-! ## Rows (R207, R211 to R214) -/

/-- The number of rows. -/
def CopyCmd.rows (c : CopyCmd) : Nat :=
  match c.kind with
  | .cpyl => c.lanes.length
  | .cpyw => c.w.oh * c.w.ow
  | .cpyp => if c.w.poolBytes = 0 then 0 else 1
  | _ => c.ext.foldl (· * ·) 1

/-- The length of a pooled row in bytes: LEN. -/
def CopyCmd.len (c : CopyCmd) : Nat :=
  match c.kind with
  | .cpyl => 32
  | .cpyw => c.w.kh * c.w.kw * c.w.ch * c.w.ew
  | .cpyp => c.w.poolBytes
  | _ => c.len0 * (128 / c.fmc.bytes)

/-- The pitch of pooled rows: Pitch of R211. -/
def CopyCmd.pitch (c : CopyCmd) : Nat := if c.ppitch = 0 then c.len else c.ppitch

/-- A position of an extent list. -/
def CopyCmd.extAt (c : CopyCmd) (k : Nat) : Nat := (c.ext[k]?).getD 1

/-- The global address of row r (RowAddress of R207), computed exactly. -/
def CopyCmd.rowAddress (c : CopyCmd) (r : Nat) : Int :=
  let n := c.extAt
  let i := [r % n 0, r / n 0 % n 1, r / (n 0 * n 1) % n 2, r / (n 0 * n 1 * n 2)]
  (i.zip c.strides).foldl (fun (a : Int) e => a + (e.1 : Int) * e.2) (c.gaddr : Int)

/-- The lowest and the highest row address. -/
def CopyCmd.rowBounds (c : CopyCmd) : Int × Int :=
  (c.ext.zip c.strides).foldl (fun (b : Int × Int) e =>
    let x := ((e.1 : Int) - 1) * e.2
    (b.1 + min 0 x, b.2 + max 0 x)) ((c.gaddr : Int), (c.gaddr : Int))

/-- The offset at which pooled row r starts: in the block's allocation, in the tile, or in pooled space for a
`cpyo`, a put or a lane of a `cpyl`. -/
def CopyCmd.dst (c : CopyCmd) (r : Nat) : Nat :=
  match c.kind with
  | .cpyl => (c.lanes[r]?).elim 0 (·.dst)
  | _ => if c.tile then r * c.len else c.paddr + r * c.pitch

/-! ## Granules (R130, R167, R211, R214) -/

/-- The bytes of a row as the command writes it: in the flask, or in global memory. -/
def CopyCmd.wrote (c : CopyCmd) : Nat := if c.kind.lands then c.len else c.len0

/-- Where row r begins in what the command writes. -/
def CopyCmd.side (c : CopyCmd) (r : Nat) : Nat := if c.kind.lands then c.dst r else (c.rowAddress r).toNat

/-- The 16-byte granules that a row may touch. -/
def CopyCmd.perRow (c : CopyCmd) : Nat := (c.wrote + 30) / 16

/-- A part of a row: the row, and its bytes lo to hi − 1 as the command writes it. -/
abbrev RowPart := Nat × Nat × Nat

/-- The part of row r that lies in the g-th granule of what the command writes. -/
def CopyCmd.part (c : CopyCmd) (g r : Nat) : RowPart := (r, 16 * g - c.side r, min c.wrote (16 * (g + 1) - c.side r))

/-- The parts of all rows that lie in a granule, in ascending row order. -/
def CopyCmd.partsIn (c : CopyCmd) (g : Nat) : List RowPart := ((List.range c.rows).map (c.part g)).filter fun p => decide (p.2.1 < p.2.2)

/-- The addresses of the bytes of some parts. -/
def CopyCmd.places (c : CopyCmd) (ps : List RowPart) : List Nat :=
  ps.flatMap fun p => (List.range (p.2.2 - p.2.1)).map fun k => c.side p.1 + p.2.1 + k

/-- What moves at once as number u (R167): the parts of all rows in a granule, under the first of them. Rows that write
the same bytes of global memory do so apart, in no fixed order (R153), and those of an ordered put apart too, in ascending
order (R215); in the flask the row of higher index stands (R209, R212). -/
def CopyCmd.parts (c : CopyCmd) (u : Nat) : List RowPart :=
  let r := u / c.perRow
  let all := c.partsIn (c.side r / 16 + u % c.perRow)
  if c.kind.lands || (!(c.kind == .put && c.ord) && decide (c.places all).Nodup) then (if (all.head?.map (·.1)) == some r then all else []) else all.filter (·.1 == r)

/-- The numbers of a command's granules. -/
def CopyCmd.granules (c : CopyCmd) : List Nat := (List.range (c.rows * c.perRow)).filter fun u => !(c.parts u).isEmpty

/-- The bytes of some parts. -/
def partBytes (ps : List RowPart) : Nat := (ps.map fun p => p.2.2 - p.2.1).sum

/-- The blocks of 128 pooled bytes of its row that a part touches, under a codec. -/
def CopyCmd.blocks (c : CopyCmd) (p : RowPart) : List Nat :=
  let z := if c.kind.lands then 128 else c.fmc.bytes
  (List.range ((p.2.2 + z - 1) / z - p.2.1 / z)).map (p.2.1 / z + ·)

/-- The key of global-side byte o of row r in what a command keeps of its bytes. -/
def rawKey (r o : Nat) : Nat := r * 2 ^ 17 + o

/-- The place of byte o of a gathered row: the window offset, the element and the byte in it (R143). -/
def CopyCmd.gather (c : CopyCmd) (r o : Nat) : Option Nat :=
  let v := c.w
  let e := o / v.ew
  (v.elem r (e / v.ch / v.kw) (e / v.ch % v.kw) (e % v.ch)).map fun a => c.gaddr + a + o % v.ew

/-- The output elements that some bytes of a pooling touch. -/
def CopyCmd.pools (c : CopyCmd) (lo hi : Nat) : List Nat :=
  let v := c.w
  let n := v.oh * v.ow * v.ch
  (((List.range (hi - lo)).map fun k => (lo + k) / v.ow').filter fun q => decide (q < n)).dedup

/-- The global byte ranges that a part of a landing copy reads (R216): a block under a codec only once. -/
def CopyCmd.reads (c : CopyCmd) (p : RowPart) : List (Nat × Nat) :=
  let (r, lo, hi) := p
  match c.kind with
  | .cpyl => (c.lanes[r]?).elim [] fun l => if lo < min hi l.n then [(l.src + lo, min hi l.n - lo)] else []
  | .cpyw => (List.range (hi - lo)).filterMap fun k => (c.gather r (lo + k)).map fun a => (a, 1)
  | .cpyp =>
    let v := c.w
    ((c.pools lo hi).flatMap fun q => (v.inside (q / v.ch) (q % v.ch)).map fun a => (c.gaddr + a, v.ew)).dedup
  | _ =>
    let a := (c.rowAddress r).toNat
    if c.fmc = .plain then [(a + lo, hi - lo)]
    else ((c.blocks p).filter fun b => !c.raw.has (rawKey r (b * c.fmc.bytes))).map fun b => (a + b * c.fmc.bytes, c.fmc.bytes)

/-- The BF16 codes of some bytes. -/
def halves (bs : List Byte) : List Nat := (List.range (bs.length / 2)).map fun k => leNat ((bs.drop (2 * k)).take 2)

/-- An encoded block of row r of a landing copy: as it was read, or from what is now read by global address. -/
def CopyCmd.code (c : CopyCmd) (r b : Nat) (rd : Nat → Byte) : List Byte :=
  (c.raw.get? (rawKey r (b * c.fmc.bytes))).getD
    ((List.range c.fmc.bytes).map fun k => rd ((c.rowAddress r).toNat + b * c.fmc.bytes + k))

/-- The global-side bytes that a part of a landing copy keeps: those that its later granules need under a codec, and
those that a CRC needs. -/
def CopyCmd.keeps (c : CopyCmd) (p : RowPart) (rd : Nat → Byte) : Table (List Byte) :=
  let (r, lo, hi) := p
  if c.fmc != .plain then (c.blocks p).map fun b => (rawKey r (b * c.fmc.bytes), c.code r b rd)
  else if c.crc.isSome then [(rawKey r lo, (List.range (hi - lo)).map fun k => rd ((c.rowAddress r).toNat + lo + k))]
  else []

/-- The bytes that a part of a landing copy lands, from what is read by global address. -/
def CopyCmd.output (c : CopyCmd) (p : RowPart) (rd : Nat → Byte) : List Byte :=
  let (r, lo, hi) := p
  match c.kind with
  | .cpyl => (List.range (hi - lo)).map fun k =>
      (c.lanes[r]?).elim 0 fun l => if lo + k < l.n then rd (l.src + lo + k) else 0
  | .cpyw => (List.range (hi - lo)).map fun k => (c.gather r (lo + k)).elim 0 rd
  | .cpyp =>
    let v := c.w
    let n := v.oh * v.ow * v.ch
    let code := fun (a : Nat) => leNat ((List.range v.ew).map fun k => rd (c.gaddr + a + k))
    let vals : Table Nat := (c.pools lo hi).foldl (fun t q =>
      t.put q (v.pooled ((v.inside (q / v.ch) (q % v.ch)).map code))) []
    (List.range (hi - lo)).map fun k =>
      let o := lo + k
      if o < n * v.ow' then BitVec.ofNat 8 (vals.get (o / v.ow') 0 / 256 ^ (o % v.ow'))
      else BitVec.ofNat 8 (v.divisor ((o - n * v.ow') / 4) / 256 ^ ((o - n * v.ow') % 4))
  | _ =>
    if c.fmc = .plain then (List.range (hi - lo)).map fun k => rd ((c.rowAddress r).toNat + lo + k)
    else
      let all := (c.blocks p).flatMap fun b => (fmcDecode c.fmc (leNat (c.code r b rd))).flatMap (leBytes 2)
      (all.drop (lo % 128)).take (hi - lo)

/-- The pooled bytes of its row that a part of a `cpyo` or put needs: first byte and number (R214). -/
def CopyCmd.needs (c : CopyCmd) (p : RowPart) : Nat × Nat :=
  if c.fmc = .plain then (p.2.1, p.2.2 - p.2.1) else (p.2.1 / c.fmc.bytes * 128, (c.blocks p).length * 128)

/-- The encoded blocks of a part of a `cpyo` or put under a codec: as they were read, or from the pooled bytes that it
needs. -/
def CopyCmd.encoded (c : CopyCmd) (p : RowPart) (pooled : List Byte) : Table (List Byte) :=
  (c.blocks p).zipIdx.map fun b =>
    let k := rawKey p.1 (b.1 * c.fmc.bytes)
    (k, (c.raw.get? k).getD (leBytes c.fmc.bytes (fmcEncode c.fmc (halves ((pooled.drop (128 * b.2)).take 128)))))

/-- The bytes that a part of a `cpyo` or put writes, from the pooled bytes that it needs (R214), with what it keeps. -/
def CopyCmd.written (c : CopyCmd) (p : RowPart) (pooled : List Byte) : List Byte × Table (List Byte) :=
  if c.fmc = .plain then (pooled, if c.crc.isSome then [(rawKey p.1 p.2.1, pooled)] else [])
  else
    let bs := c.encoded p pooled
    (((bs.flatMap (·.2)).drop (p.2.1 % c.fmc.bytes)).take (p.2.2 - p.2.1), bs)

/-- A command whose granule u has moved, with what it keeps of its bytes. -/
def CopyCmd.movedOn (c : CopyCmd) (u : Nat) (kept : Table (List Byte)) : CopyCmd :=
  { c with moved := c.moved ++ [u], raw := kept.foldl (fun t e => t.put e.1 e.2) c.raw, held := none }

/-- The granules not yet moved, lowest first. -/
def CopyCmd.next (c : CopyCmd) : Option Nat := c.granules.find? fun u => !c.moved.contains u

/-- The bytes that have not landed in each receiving block (R217). -/
def CopyCmd.unlanded (c : CopyCmd) : Nat := ((c.granules.filter fun u => !c.moved.contains u).map fun u => partBytes (c.parts u)).sum

/-! ## The checks of a descriptor (R209, R210, R250) -/

/-- The first check of R209 on a copy descriptor. -/
def copyFields (d : Nat) (lands : Bool) : Option Nat :=
  let n := fun (lo w : Nat) => d / 2 ^ lo % 2 ^ w
  minPos
    [mustZero d 57 63, badAt (n 64 32 == 0 || decide (65536 < n 64 32)) 64
      , badAt (n 96 16 == 0) 96, badAt (n 112 16 == 0) 112, badAt (n 128 16 == 0) 128, badAt (n 144 16 == 0) 144
      , mustZero d (if lands then 160 + 19 else 160 + 24) 191, mustZero d (192 + 28) (192 + 31)
      , strideBad d 256, strideBad d 320, strideBad d 384, strideBad d 448]

/-- The first check of R209 on a window copy descriptor. -/
def windowFields (d : Nat) : Option Nat := minPos [mustZero d 57 63, mustZero d (64 + 19) 95, mustZero d (96 + 28) (96 + 31), mustZero d 160 255]

/-- The second check of R209: the control word, whose bit 0 is a bit of the descriptor, the pitch of `cpyp`,
the run length under a codec, and the follow-on of a put (R210). -/
def controlFields (c : CopyCmd) (d base : Nat) (fol : Bool) : Option Nat :=
  let get := c.kind == .get
  minPos
    (if c.kind.lands then
      [mustZero d (base + 26) (base + 26), if get then none else mustZero d (base + 25) (base + 25)
        , if c.tile then none else mustZero d (base + 20) (base + 23)
        , if c.ben then badAt (decide (95 < c.bar)) (base + 12) else mustZero d (base + 12) (base + 18)
        , badAt c.mask.isEmpty base
        , if c.kind = .cpyp then mustZero d (base + 24) (base + 24) else none
        , if c.kind = .cpyp then mustZero d 128 159 else none
        , badAt (c.fmc == .fmc2 && c.len0 % 64 != 0 || c.fmc == .fmc4 && c.len0 % 32 != 0) 64]
    else
      [if c.kind = .put then none else mustZero d (base + 25) (base + 26), mustZero d base (base + 24)
        , badAt (c.fmc == .fmc2 && c.len0 % 64 != 0 || c.fmc == .fmc4 && c.len0 % 32 != 0) 64
        , badAt (c.kind == .put && fol) 217])

/-- A command of the fields of a descriptor of 64 or 48 bytes, read as a number. -/
def CopyCmd.fields (c : CopyCmd) (d : Nat) : CopyCmd :=
  let n := fun (lo w : Nat) => d / 2 ^ lo % 2 ^ w
  if c.kind.window then
    { c with gaddr := n 0 64, paddr := n 64 32, ctl := BitVec.ofNat 32 (n 96 32), ppitch := n 128 32
             win := (List.range 4).map fun k => BitVec.ofNat 32 (n (256 + 32 * k) 32) }
  else
    { c with gaddr := n 0 64, len0 := n 64 32, ext := [n 96 16, n 112 16, n 128 16, n 144 16], paddr := n 160 32
             ctl := BitVec.ofNat 32 (n 192 32), ppitch := n 224 32
             strides := (List.range 4).map fun k => (BitVec.ofNat 64 (n (256 + 64 * k) 64)).toInt }

/-- Whether the pooled rows of a `cpyo` or put leave the flask, or an allocation (R209). -/
def State.rowsOut (s : State) (c : CopyCmd) : Option Nat :=
  if 2 ^ 24 ≤ c.paddr + (c.rows - 1) * c.pitch then some 0x120
  else
    let fails := fun (k : Nat) => (List.range c.rows).any fun r => s.poolAt c.flask (c.dst r) c.len == .cause k
    if fails 0x120 then some 0x120 else if fails 0x121 then some 0x121 else none

/-- The sixth check of R209: pooled rows. -/
def State.pooledCause (s : State) (c : CopyCmd) : Option (Nat × Nat) :=
  if c.rows = 0 ∨ c.tile then none
  else if c.kind.lands then
    (if (s.kernel c.bid).shared < c.paddr + (c.rows - 1) * c.pitch + c.len then some (0x121, c.mask.headD 0) else none)
  else (s.rowsOut c).map fun k => (k, 0)

/-- The seventh check of R209: a tile destination. -/
def State.tileCause (s : State) (c : CopyCmd) : Option (Nat × Nat) :=
  if !c.tile then none
  else
    let w := s.shapeOf c.bid c.tnum
    if (s.kernel c.bid).tiles ≤ c.tnum then some (0x204, 0)
    else if c.len ≠ shapeCols w then some (0x204, 1)
    else if c.rows ≠ shapeRows w ∧ !(c.kind == .cpyw && c.rows == 0) then some (0x204, 2)
    else if c.paddr ≠ 0 ∨ c.ppitch ≠ 0 then some (0x204, 3)
    else none

/-- The last check of R209: global addresses below 2^57. -/
def CopyCmd.rangeCause (c : CopyCmd) : Option (Nat × Nat) :=
  let bad :=
    if c.kind.window then decide (2 ^ 57 < c.gaddr + c.w.reach)
    else
      let b := c.rowBounds
      decide (b.1 < 0 ∨ (2 ^ 57 : Int) < b.2 + c.len0)
  if bad then some (0x101, 0) else none

/-- The checks of R209 in their order, then that of R250, on a command whose fields are read from the
descriptor d. -/
def State.descCause (s : State) (c : CopyCmd) (d : Nat) (fol : Bool) : Option (Nat × Nat) :=
  let blocks := (s.kernel c.bid).flask
  ((if c.kind.window then windowFields d else copyFields d c.kind.lands).map fun k => (0x200, k))
  <|> ((controlFields c d (if c.kind.window then 96 else 192) fol).map fun k => (0x200, k))
  <|> (if c.kind.window then (winCause c.win (c.kind == .cpyp)).map (fun k => (0x218, k)) else none)
  <|> ((c.mask.find? fun b => decide (blocks ≤ b)).map fun b => (0x202, b))
  <|> (if c.paddr % 4 ≠ 0 then some (0x122, 0) else if c.ppitch % 4 ≠ 0 then some (0x122, 1) else none)
  <|> s.pooledCause c <|> s.tileCause c <|> c.rangeCause
  <|> (if c.ben ∧ (s.kernel c.bid).bars ≤ c.bar then some (0x244, c.mask.headD 0) else none)

end Sys2Proof.Machine
end

