-- ==== Sys2Proof/Machine/Copy.lean ====
section
/-! DEFINITION. The copy engine: the issue of copies, their movement by granules, completion, CRC chains and
tags (R203 to R225, R131, R132). -/

namespace Sys2Proof.Machine

open Sys2Proof

/-! ## Follow-on words (R131) -/

/-- What a follow-on word gives at the copy's issue: nothing carried, a decode cause, another operation, an
empty source to wait for or to trap on, or a command with its checks; the last is none where no lane passes. -/
inductive Follow where
  | absent
  | trap (code sub : Nat)
  | kind
  | wait
  | empty (pos : Nat)
  | ready (chk : Option MatChk)

/-- The instruction of a follow-on word: decode checks 2 to 5, the kind, then checks 6 and 7. -/
inductive FollowWord where
  | ok (i : Instr)
  | trap (code sub : Nat)
  | kind

/-- Whether an instruction may follow a copy. -/
def isFollow : Instr → Bool
  | .mma _ | .mmas _ | .accz _ | .accmul _ => true
  | _ => false

/-- The decoding of a follow-on word in its order of checks. -/
def followWord (env : DecEnv) (w : InsnWord) : FollowWord :=
  let f := unpack w
  let opc := f.opc.toNat
  let e := env.table.entry opc
  let iop := (e.extractLsb' 4 12).toNat
  match decode env w with
  | .ok i => if isFollow i then .ok i else .kind
  | .trap c k =>
    if c = 0x012 ∨ c = 0x013 then
      match build iop opc f with
      | some i => if isFollow i then .trap c k else .kind
      | none => .trap c k
    else .trap c k

/-- The head of a follow-on. -/
def followHead : Instr → Option Head
  | .mma a => some (headOf a (.mma a))
  | .mmas a => some (headOf a (.mmas a))
  | .accz a => some (headOf a (.accz a))
  | .accmul a => some (headOf a (.accmul a))
  | _ => none

/-- A follow-on word judged for a squad that issues a copy: its guard against the copy's passing lanes, its
register operands under R37, and its checks. -/
def State.followFor (s : State) (x : Ins) (w : InsnWord) : Follow :=
  match followWord (s.decEnv x.bid) w with
  | .trap c k => .trap c k
  | .kind => .kind
  | .ok i =>
    match followHead i with
    | none => .kind
    | some h =>
      let rf := (s.squad x.bid x.sq).rf
      let y := { x with pass := x.pass &&& rf.passing h.guard x.lanes }
      if y.pass = 0 then .ready none
      else if !h.interlocked rf y.pass then .wait
      else match h.emptySource rf y.pass with
        | some k => .empty k
        | none => match s.followCheck y i with
          | some chk => .ready (some chk)
          | none => .kind

/-- A follow-on word in a copy engine program (R259): no guard and no vector operand. -/
def State.followIn (s : State) (bid : Nat) (rd : Opnd → Word) (w : InsnWord) : Follow :=
  match followWord (s.decEnv bid) w with
  | .trap c k => .trap c k
  | .kind => .kind
  | .ok i =>
    match followHead i with
    | none => .kind
    | some h =>
      if h.guard != {} then .trap 0x010 (unpack w).opc.toNat
      else match s.programCheck bid rd i with
        | some chk => .ready (some chk)
        | none => .trap 0x013 0

/-! ## CRC chains (R223, R224) -/

/-- The key of the open chain of a queue and a block slot. -/
def chainKey (que bid : Nat) : Nat := que * 2 + bid % 2

/-- The phase of a CRC control word. -/
def crcPhase (w : Word) : Nat := w.toNat % 4
/-- Whether a phase closes its chain. -/
def crcCloses (w : Word) : Bool := decide (2 ≤ crcPhase w)
/-- SADDR × 4. -/
def crcAddr (w : Word) : Nat := w.toNat / 2 ^ 4 % 2 ^ 22 * 4

/-- The sub-code of cause 0x205 of a `.crc` command (R224). -/
def State.chainCause (s : State) (c : CopyCmd) (w : Word) : Option Nat :=
  let isOpen := (s.core (coreOf c.bid)).openChain.has (chainKey c.que c.bid)
  if (if crcCloses w then w.toNat / 2 ^ 26 != 0 else w.toNat / 4 != 0) then some 0
  else if (crcPhase w == 1 || crcPhase w == 2) && !isOpen then some 1
  else if (crcPhase w == 0 || crcPhase w == 3) && isOpen then some 2
  else if crcCloses w && (match s.poolAt c.flask (crcAddr w) 4 with | .at' _ _ => false | .cause _ => true) then some 3
  else none

/-- A command entered into its chain: opened, continued or closed. -/
def State.enterChain (s : State) (id : Nat) (c : CopyCmd) : State × CopyCmd :=
  match c.crc with
  | none => (s, c)
  | some w =>
    let k := s.core (coreOf c.bid)
    let key := chainKey c.que c.bid
    let n := k.openChain.get key id
    let ch := s.chains.get n {}
    let ch := { ch with cmds := ch.cmds ++ [id], closer := if crcCloses w then some id else none }
    let s := s.setCore (coreOf c.bid) { k with openChain := if crcCloses w then k.openChain.erase key else k.openChain.put key n }
    ({ s with chains := s.chains.put n ch }, { c with chain := n })

/-! ## Issue (R203 to R210) -/

/-- What the issue of a copy gives: a command, a cause, a wait for a register, or a damaged descriptor. -/
inductive CopyChk where
  | ok (c : CopyCmd)
  | bad (code sub : Nat)
  | wait
  | dead (struct addr : Nat)

/-- Whether the entries of a queue are all taken. -/
def State.copyFull (s : State) (core que : Nat) : Bool := decide (32 ≤ ((s.core core).copies.filter fun x => x.2.que == que).length)

/-- A command put into its queue and onto its tag (R203, R204); the first put of a flask sets its side-effect
bit (R215). -/
def State.copyEnter (s : State) (c : CopyCmd) : State :=
  let id := s.ctrl.nextId
  let (s, c) := s.bump.enterChain id { c with order := id, count := c.granules.length }
  let k := s.core (coreOf c.bid)
  let s := (s.setCore (coreOf c.bid) { k with copies := k.copies.put id c }).tagBegin c.bid c.tag
  if c.kind = .put then s.sideEffect c.flask else s

/-- The fields of a command that its issuer fixes. -/
def State.copyBase (s : State) (bid sq : Nat) (m : CMod) (kind : CopyKind) (prog : Option Nat) : CopyCmd :=
  let f := (s.block bid).flask
  { bid, sq, flask := f, ctx := s.tagOfBlock bid, tag := m.tag.toNat, que := m.que.toNat, kind, fmc := m.fmc
    viewGen := (s.flask f).viewGen, uclass := (s.pourOfBlock bid).cls == 0, prog }

/-- The descriptor of a copy at a pooled address (R207): its bytes, a cause, or a damaged unit. -/
inductive DescRead where
  | bytes (bs : List Byte)
  | cause (c : Nat)
  | dead (struct addr : Nat)

/-- The read of a descriptor of n bytes by a flask. -/
def State.readDesc (s : State) (f addr n : Nat) : DescRead :=
  if addr % 16 ≠ 0 then .cause 0x122
  else match s.poolAt f addr n with
    | .cause c => .cause c
    | .at' b o =>
      match s.hurt fun _ => s.poolUnits b o n false with
      | some u => .dead u.1 u.2
      | none => .bytes (s.poolRead b o n false)

/-- The checks of a copy with a descriptor (R131, R206 to R210, R224, R250): the causes of the follow-on word's
decoding and of its registers come first by their priority (R324), and its own checks last. `c` holds what the
issuer fixes, `rd` reads an s register or special, `fol` judges a follow-on word. -/
def State.copyCheck (s : State) (c : CopyCmd) (m : CMod) (rd : Opnd → Word) (d a b : Opnd) (imm : Word)
    (fol : InsnWord → Follow) : CopyChk :=
  let n := if c.kind.window then 48 else 64
  let badTag := decide ((s.kernel c.bid).tags ≤ c.tag)
  match s.readDesc c.flask (addOfs 24 (rd a).toNat imm) (if m.fol then n + 12 else n) with
  | .cause k => if badTag then .bad 0x201 c.tag else .bad k 0
  | .dead st u => .dead st u
  | .bytes bs =>
    match (if m.fol then fol (wordOfBytes (bs.drop n)) else .absent) with
    | .trap k sub => .bad k sub
    | .wait => .wait
    | .empty k => .bad 0x051 k
    | fw =>
      let desc := leNat (bs.take n)
      let kind := if c.kind = .put ∨ c.kind = .get then (if desc.testBit (192 + 25) then .get else .put) else c.kind
      let c := { c with kind }.fields desc
      let c := if m.crc then { c with crc := some (rd b), expect := rd d } else c
      if badTag then .bad 0x201 c.tag
      else match s.descCause c desc m.fol with
        | some e => .bad e.1 e.2
        | none =>
          match c.crc.bind (s.chainCause c) with
          | some k => .bad 0x205 k
          | none =>
            match fw with
            | .kind => .bad 0x200 (8 * n)
            | .ready (some (.bad k sub)) => .bad k sub
            | .ready (some (.ok op)) => .ok { c with follow := some op }
            | _ => .ok c

/-- Whether a command ends an audit's replay: a put would set the side-effect bit (R215, R355). -/
def State.putEnds (s : State) (c : CopyCmd) : Bool := c.kind == .put && s.silent c.flask

/-- A copy at a squad's issue. -/
def copyIssue (kind : CopyKind) (a : Args CMod) (x : Ins) (s : State) : Result :=
  let m := a.mod
  if s.copyFull (coreOf x.bid) m.que.toNat then .hold s
  else match s.copyCheck (s.copyBase x.bid x.sq m kind none) m (s.reader x) a.d a.a a.b a.imm (s.followFor x) with
    | .bad c k => .trap c k
    | .wait => .wait s
    | .dead st u => .dead (s.consume x.bid st u)
    | .ok c => if s.putEnds c then .dead (s.endReplay x.bid) else .go (s.copyEnter c)

/-- `cpy` (R211). -/
def execCpy (a : Args CMod) : State → Host.Outcome State Fault Refusal := issue (headOf a (.cpy a)) (copyIssue .cpy a)
/-- `cpyo` (R214). -/
def execCpyo (a : Args CMod) : State → Host.Outcome State Fault Refusal := issue (headOf a (.cpyo a)) (copyIssue .cpyo a)
/-- `cpyw` (R213). -/
def execCpyw (a : Args CMod) : State → Host.Outcome State Fault Refusal := issue (headOf a (.cpyw a)) (copyIssue .cpyw a)
/-- `cpyp` (R213). -/
def execCpyp (a : Args CMod) : State → Host.Outcome State Fault Refusal := issue (headOf a (.cpyp a)) (copyIssue .cpyp a)
/-- `cpyx` (R215): the descriptor's DIR says whether it is a put or a get. -/
def execCpyxPut (a : Args CMod) : State → Host.Outcome State Fault Refusal := issue (headOf a (.cpyxPut a)) (copyIssue .put a)
/-- `cpyx` (R215): the descriptor's DIR says whether it is a put or a get. -/
def execCpyxGet (a : Args CMod) : State → Host.Outcome State Fault Refusal := issue (headOf a (.cpyxGet a)) (copyIssue .get a)

/-- The valid bytes of a lane of a `cpyl`. -/
def State.laneBytes (s : State) (x : Ins) (b : Opnd) (i : Nat) : Nat := min (s.get1 x b i).toNat 32
/-- The source address of a lane of a `cpyl`. -/
def State.laneSource (s : State) (x : Ins) (a : Args CMod) (i : Nat) : Nat := addOfs 64 (s.get x a.a 2 i).toNat a.imm
/-- The pooled destination of a lane of a `cpyl`. -/
def State.laneDest (s : State) (x : Ins) (d : Opnd) (i : Nat) : Nat := (s.get1 x d i).toNat % 2 ^ 24

/-- The issue-time cause of a `cpyl` (R212). -/
def State.cpylCause (s : State) (x : Ins) (a : Args CMod) : Option (Nat × Nat) :=
  let f := (s.block x.bid).flask
  let out := fun (c i : Nat) => s.poolAt f (s.laneDest x a.d i) 32 == .cause c
  (if (s.kernel x.bid).tags ≤ a.mod.tag.toNat then some (0x201, a.mod.tag.toNat) else none)
  <|> ((x.firstLane fun i => s.laneDest x a.d i % 16 != 0).map fun _ => (0x122, 0))
  <|> ((x.firstLane (out 0x120)).map fun i => (0x120, i))
  <|> ((x.firstLane (out 0x121)).map fun i => (0x121, i))
  <|> ((x.firstLane fun i => s.laneBytes x a.b i != 0 && decide (2 ^ 57 < s.laneSource x a i + s.laneBytes x a.b i)).map
    fun i => (0x101, i))

/-- `cpyl` (R212). -/
def execCpyl (a : Args CMod) : State → Host.Outcome State Fault Refusal :=
  issue (headOf a (.cpyl a)) fun x s =>
    if s.copyFull (coreOf x.bid) a.mod.que.toNat then .hold s
    else match s.cpylCause x a with
      | some c => .trap c.1 c.2
      | none => .go (s.copyEnter { s.copyBase x.bid x.sq a.mod .cpyl none with
          lanes := (lanesOf x.pass).map fun i =>
            { src := s.laneSource x a i, n := s.laneBytes x a.b i, dst := s.laneDest x a.d i } })

/-! ## Global accesses of a copy (R216, R225) -/

/-- What a global access of a copy meets. -/
inductive CopyOut where
  | bytes (bs : List Byte)
  | held (fid : Nat)
  | ended (status : Nat)
  | dead (sub : Nat)
  | stalled

/-- The status of a copy that a cause ends (R218, R300, R305). -/
def copyStatus (code : Nat) : Nat :=
  if code = 0x102 then 5 else if code = 0x105 ∨ code = 0x100 then 3 else 4

/-- Bytes of global memory that a copy accesses at once: address, number, and the bytes written. -/
structure CopyRun where
  va : Nat
  n : Nat
  data : List Byte := []
  deriving DecidableEq, Repr

/-- A request of a copy for some runs of one line (R216). -/
def State.copyReq (s : State) (c : CopyCmd) (store uco : Bool) (target : Target) (va pa : Nat) (runs : List CopyRun) : Req :=
  { bid := c.bid, sq := c.sq, flask := c.flask, tag := s.tagOfBlock c.bid, inst := 0, rq := if store || uco then .uc else .wt
    op := if store then .store false else .load false, target, line := pa / 64
    pieces := runs.map fun e => { lane := 0, ofs := 0, va := e.va, addr := pa + e.va - va, n := e.n, data := e.data } }

/-- The parts of a command's rows that lie in a line, which together decide whether its writes cover a damaged unit whole
(R338). -/
def State.rowCover (s : State) (c : CopyCmd) (va pa : Nat) : List Piece :=
  if s.dev.damage.isEmpty then []
  else
    let line := va / 64 * 64
    (List.range c.rows).filterMap fun r =>
      let lo := max (c.rowAddress r).toNat line
      let hi := min ((c.rowAddress r).toNat + c.len0) (line + 64)
      if lo < hi then some { lane := 0, ofs := 0, va := lo, addr := pa / 64 * 64 + lo % 64, n := hi - lo, data := [] } else none

/-- The entry of the issuing die's remote-data cache that serves a read of a copy under the view of its issue (R178,
R216). -/
def State.copyEntry (s : State) (c : CopyCmd) (r : Req) : Option RdcEntry :=
  if s.cacheable r then (s.setFlask c.flask { s.flask c.flask with viewGen := c.viewGen }).rdcEntry r else none

/-- An access of a copy at its home: a read acts as a `.wt` load, which fills the issuing die's remote-data cache, and a
write as a `.uc` store (R172, R178, R216). -/
def State.copyHome (s : State) (c : CopyCmd) (store : Bool) (r : Req) (va pa : Nat) : State × Req :=
  let all := if store then { r with pieces := r.pieces ++ s.rowCover c va pa } else r
  let e := (s.recallNow r.line).runPieces r fun s p => s.homePiece all p
  (if s.cacheable r then (if e.2.bad.isEmpty then e.1.rdcFill r else e.1) else e.1.rdcPass r, e.2)

/-- Whether an access of a copy waits at the home of its line: at the seam (R347), or behind an earlier request that is
held there for the same words (R174). -/
def State.copyWaits (s : State) (c : CopyCmd) (r : Req) : Bool :=
  s.seamClosed (some (dieOfBlock c.bid)) (r.line * 64) || s.wordsHeld r.line r.words

/-- What an access of a copy that was answered gives. -/
def Req.copyOut (r : Req) : CopyOut :=
  match r.bad with
  | (_, k, sub) :: _ => if k = 0x300 then .dead sub else .ended (copyStatus k)
  | [] => .bytes ((r.results.head?).elim [] (·.2.2))

/-- An access of a copy to device memory: a read waits for the stores of its die before it looks for a copy (R171, R172). -/
def State.copyDevice (s : State) (c : CopyCmd) (store : Bool) (r : Req) (va pa : Nat) : State × CopyOut :=
  if !store && s.loadWaits (dieOfBlock c.bid) r.line then (s, .stalled)
  else match (if store then none else s.copyEntry c r) with
  | some e => (s, .bytes ((List.range ((r.pieces.map (·.n)).sum)).map fun k => (e.bytes[pa % 64 + k]?).getD 0))
  | none =>
    if s.copyWaits c r then (s, .stalled)
    else
      let e := s.copyHome c store r va pa
      (e.1, e.2.copyOut)

/-- An access of a copy to a peer (R184, R215, R368). -/
def State.copyPeer (s : State) (c : CopyCmd) (store : Bool) (r : Req) (ep kind : Nat) : State × CopyOut :=
  let cls := if !store then 0 else if kind = 4 then 4 else if c.ord then 3 else 2
  let n := (r.pieces.map (·.n)).sum
  match s.route ep cls n with
  | .refused => (s, .ended 6)
  | .waits => (s, .stalled)
  | .goes l =>
    let e := (s.sendFlit ep l cls n).runPieces r fun s p => s.farPiece r p
    (e.1, e.2.copyOut)

/-- An access of a copy to runs of bytes of one line: the lease cache, the window rules, and the home or the peer. -/
def State.copyPiece (s : State) (core : Nat) (c : CopyCmd) (store : Bool) (runs : List CopyRun) : State × CopyOut :=
  let va := (runs.head?).elim 0 (·.va)
  let (s, w) := s.translateLease core c.ctx va
  match s.resolve c.ctx c.uclass (if store then .store else .load) va w with
  | .absent =>
    let (s, fid) := s.pageFault c.ctx va (if store then 5 else 4) core
    (s, .held fid)
  | .cause k => (s, .ended (copyStatus k))
  | .damaged k => (s, .dead (unitSub (0x20, k)))
  | .waits => (s, .stalled)
  | .ok target pa0 uco =>
    let far := c.kind == .put || c.kind == .get
    match target with
    | .peer ep _ kind => if far then s.copyPeer c store (s.copyReq c store uco target va pa0 runs) ep kind else (s, .ended 4)
    | .device =>
      if far then (s, .ended 4)
      else
        let pa := s.forward pa0
        s.copyDevice c store (s.copyReq c store uco target va pa runs) va pa
    | .host =>
      if far then (s, .ended 4)
      else
        let r := s.copyReq c store uco target va pa0 runs
        let e := s.runPieces r fun s p => s.farPiece r p
        (e.1, e.2.copyOut)

/-- A range of bytes cut at the 64-byte lines. -/
def cutLines (va n : Nat) : List (Nat × Nat) :=
  let first := min n (64 - va % 64)
  if first = n then [(va, n)] else [(va, first), (va + first, n - first)]

/-- The reads of a granule: the bytes by address, or what stopped them. -/
def State.copyReads (s : State) (core : Nat) (c : CopyCmd) : List (Nat × Nat) → Table Byte → State × CopyOut × Table Byte
  | [], t => (s, .bytes [], t)
  | (va, n) :: r, t =>
    match s.copyPiece core c false [⟨va, n, []⟩] with
    | (s, .bytes bs) => s.copyReads core c r (bs.zipIdx.foldl (fun t e => t.put (va + e.2) e.1) t)
    | (s, o) => (s, o, t)

/-! ## Landing and writing (R211 to R218) -/

/-- A copy command of a core replaced. -/
def State.setCopy (s : State) (core id : Nat) (c : CopyCmd) : State :=
  let k := s.core core
  if k.copies.has id then s.setCore core { k with copies := k.copies.put id c } else s

/-- The blocks that a landing command lands in. -/
def State.receivers (s : State) (c : CopyCmd) : List Nat :=
  c.mask.filterMap fun b => (s.flask c.flask).blocks[b]?

/-- The places of pooled byte o of row r: blocks and offsets. -/
def State.landPlaces (s : State) (c : CopyCmd) (r o : Nat) : List (Nat × Nat) :=
  if c.kind = .cpyl then
    match s.poolAt c.flask (c.dst r) 32 with
    | .at' b k => [(b, k + o)]
    | .cause _ => []
  else (s.receivers c).map fun b => (b, c.dst r + o)

/-- The bytes of a part of a row landed in every receiver. -/
def State.landPart (s : State) (c : CopyCmd) (p : RowPart) (bytes : List Byte) : State :=
  (s.landPlaces c p.1 p.2.1).foldl (fun s q =>
    if c.tile then s.tileWrite q.1 c.tnum q.2 bytes else s.poolWrite q.1 q.2 c.skw bytes) s

/-- The bytes that some parts land on, by structure and key. -/
def State.landKeys (s : State) (c : CopyCmd) (ps : List RowPart) : List (Nat × Nat) :=
  (ps.flatMap fun p => (List.range (p.2.2 - p.2.1)).flatMap fun k => (s.landPlaces c p.1 (p.2.1 + k)).map fun q =>
    if c.tile then (0x03, tileKey q.1 c.tnum q.2) else (0x02, s.poolKey q.1 q.2 c.skw)).dedup

/-- The units that a landing touches, and those that it covers only in part (R338). -/
def State.landUnits (s : State) (c : CopyCmd) (ps : List RowPart) (part : Bool) : List (Nat × Nat) :=
  let keys := s.landKeys c ps
  let units := (keys.map fun k => (k.1, k.2 / 4)).dedup
  if part then units.filter fun u => decide ((keys.countP fun k => k.1 == u.1 && k.2 / 4 == u.2) < 4) else units

/-- Landed bytes counted into the barrier of each receiving block (R217, R250). -/
def State.countLanded (s : State) (c : CopyCmd) (n : Nat) : State :=
  if c.ben then (s.receivers c).foldl (fun s b => s.countBytes b c.bar n) s else s

/-- What a global access that did not answer leaves of a command. -/
def State.copyStop (s : State) (core id : Nat) (c : CopyCmd) : CopyOut → State
  | .held fid => s.setCopy core id { c with held := some fid }
  | .ended k => s.setCopy core id { c with status := k }
  | .dead st => s.consumeSub c.bid st
  | _ => s

/-- The bytes of some parts landed (R209, R212): where rows overlap, the row of higher index stands. -/
def State.landParts (s : State) (c : CopyCmd) (ps : List RowPart) (rd : Nat → Byte) : State :=
  let s := ps.foldl (fun s p => s.landPart c p (c.output p rd)) s
  s.repair (if s.dev.damage.isEmpty then [] else s.landUnits c ps false)

/-- A granule of a landing copy. -/
def State.landGranule (s0 : State) (core id : Nat) (c : CopyCmd) (u : Nat) : State :=
  let ps := c.parts u
  match s0.copyReads core c ((ps.flatMap c.reads).flatMap fun e => cutLines e.1 e.2) [] with
  | (_, .stalled, _) => s0
  | (s, .bytes _, t) =>
    let rd := fun (a : Nat) => t.get a 0
    match s.hurt fun _ => s.landUnits c ps true with
    | some d => s.consume c.bid d.1 d.2
    | none => ((s.landParts c ps rd).setCopy core id (c.movedOn u (ps.flatMap fun p => c.keeps p rd))).countLanded c (partBytes ps)
  | (s, o, _) => s.copyStop core id c o

/-- The pooled bytes that a part of a `cpyo` or put needs: block, offset and number. -/
def State.needsAt (s : State) (c : CopyCmd) (p : RowPart) : Nat × Nat × Nat :=
  let (lo, n) := c.needs p
  match s.poolAt c.flask (c.dst p.1) c.len with
  | .at' b o => (b, o + lo, n)
  | .cause _ => (0, 0, n)

/-- What a part of a `cpyo` or put writes, with what it keeps. -/
def State.writtenAt (s : State) (c : CopyCmd) (p : RowPart) : CopyRun × Table (List Byte) :=
  let (b, o, n) := s.needsAt c p
  let (bs, kept) := c.written p (s.poolRead b o n c.skw)
  (⟨c.side p.1 + p.2.1, p.2.2 - p.2.1, bs⟩, kept)

/-- The write events of some runs of a copy (R353). -/
def copyEvents (runs : List CopyRun) : List (List Byte) :=
  (byteRuns (runs.foldl (fun (t : Table Byte) e => e.data.zipIdx.foldl (fun t b => Table.put t (e.va + b.2) b.1) t) [])).map storeRecord

/-- A granule of a `cpyo` or a put. -/
def State.writeGranule (s : State) (core id : Nat) (c : CopyCmd) (u : Nat) : State :=
  let ps := c.parts u
  match s.hurt fun _ => ps.flatMap fun p => let (b, o, n) := s.needsAt c p; s.poolUnits b o n c.skw with
  | some d => s.consume c.bid d.1 d.2
  | none =>
    let out := ps.map (s.writtenAt c)
    match s.copyPiece core c true (out.map (·.1)) with
    | (_, .stalled) => s
    | (t, .bytes _) => (t.sign c.bid (copyEvents (out.map (·.1)))).setCopy core id (c.movedOn u (out.flatMap (·.2)))
    | (t, o) => t.copyStop core id c o

/-- Whether an ordered put must wait: its rows go in order, after the ordered puts that entered its queue before it
(R215). -/
def State.putBehind (s : State) (core id : Nat) (c : CopyCmd) (u : Nat) : Bool :=
  c.kind == .put && c.ord
  && (c.next != some u || (s.core core).copies.any fun e =>
    decide (e.2.order < c.order ∨ (e.2.order = c.order ∧ e.1 < id)) && e.2.que == c.que && e.2.kind == .put && e.2.ord
    && e.2.status == 0 && e.2.next.isSome)

/-- Whether the classes of R184 hold a put or a get back: a put in class O or U behind the earlier stores of its class
to its peer, and a get behind the earlier writes in class O. -/
def State.copyBehind (s : State) (id : Nat) (c : CopyCmd) : Bool :=
  match c.kind, s.putTo c with
  | .put, some (ep, cls) => s.storesAhead id ep true false cls
  | .get, some (ep, _) => s.storesAhead id ep false false 0 || s.putsAhead id ep false 0
  | _, _ => false

/-- Whether a command may start (R222, R262, R296): those of a context that is not enabled, and those of a flask that is
being saved, or is saved, wait for its resumption, but for those that make room for a copy engine program's own commands.
-/
def State.mayStart (s : State) (c : CopyCmd) : Bool :=
  s.enabled c.ctx && match (s.flask c.flask).status with
  | .saved => false
  | .saving => s.progs.any fun p => p.2.bid == c.bid && p.2.eng == .copy && !p.2.ended
  | _ => true

/-- The next command of a queue to start: of those that have not started, the first that entered (R203). -/
def State.nextStart (s : State) (core que : Nat) : Option (Nat × CopyCmd) :=
  let mine := (s.core core).copies.filter fun e => e.2.que == que && !e.2.started && s.mayStart e.2
  mine.foldl (fun b e => match b with
    | some x => if e.2.order < x.2.order then some e else b
    | none => some e) none

/-- The queue that the engine serves next: round-robin after the one served last, among those with a command to start
(R203). -/
def State.nextQueue (s : State) (core : Nat) : Option Nat :=
  ((List.range 4).map fun k => ((s.core core).served + 1 + k) % 4).find? fun q => (s.nextStart core q).isSome

/-- `copy start` (R203, R222): the next command of the queue whose turn it is, while the engine has a free stream. -/
def execCopyStart (core que : Nat) (s : State) : Host.Outcome State Fault Refusal :=
  let k := s.core core
  .next (if 8 ≤ k.copies.countP (fun e => e.2.started) || s.nextQueue core != some que then s
    else match s.nextStart core que with
      | some e => s.setCore core { k with served := que, copies := k.copies.put e.1 { e.2 with started := true } }
      | none => s)

/-- `copy landing` (R211 to R217): granule n of a started command of an enabled context (R296, log entry 151) moves, unless it
has, or the command waits or has ended. -/
def execCopyLanding (core cmd n : Nat) (s : State) : Host.Outcome State Fault Refusal :=
  .next (match (s.core core).copies.get? cmd with
    | none => s
    | some c =>
      if !c.started || !s.enabled c.ctx || c.status != 0 || c.moved.contains n || !c.granules.contains n || c.held.isSome || s.putBehind core cmd c n || s.copyBehind cmd c then s
      else if c.kind.lands then s.landGranule core cmd c n else s.writeGranule core cmd c n)

/-! ## Completion (R132, R204, R217, R218, R224) -/

/-- The global-side bytes of a command in ascending row and byte order. -/
def CopyCmd.crcBytes (c : CopyCmd) : List Byte := c.raw.flatMap (·.2)

/-- A command's bytes and status put into its chain. -/
def State.chainDone (s : State) (id : Nat) (c : CopyCmd) : State :=
  if c.crc.isNone || !s.chains.has c.chain then s
  else
    let ch := s.chains.get c.chain {}
    let ch := { ch with data := ch.data.put id c.crcBytes, bad := if ch.bad = 0 then c.status else ch.bad }
    { s with chains := s.chains.put c.chain ch }

/-- Whether every other command of a closing command's chain has completed. -/
def State.chainReady (s : State) (id : Nat) (c : CopyCmd) : Bool :=
  let ch := s.chains.get c.chain {}
  ch.closer != some id || ch.cmds.all fun k => k == id || ch.data.has k

/-- The last act of a chain: the store and the comparison, or the status that the closing command reports. -/
def State.closeChain (s : State) (id : Nat) (c : CopyCmd) : State × Nat :=
  let ch := s.chains.get c.chain {}
  if c.crc.isNone || ch.closer != some id then (s, c.status)
  else
    let s := { s with chains := s.chains.erase c.chain }
    if ch.bad ≠ 0 then (s, ch.bad)
    else
      let w := c.crc.getD 0
      let v := crc32c (ch.cmds.flatMap fun k => ch.data.get k [])
      let s := if w.getLsbD 2 then
          match s.poolAt c.flask (crcAddr w) 4 with
          | .at' b o => (s.poolWrite b o false (leBytes 4 v)).repair (s.poolUnits b o 4 false)
          | .cause _ => s
        else s
      (s, if w.getLsbD 3 ∧ v ≠ c.expect.toNat then 1 else 0)

/-- A command removed with its status: the bytes that did not land are counted, its chain and its tag learn of
it, and its follow-on enters the matrix queue. -/
def State.finishCopy (s : State) (core id : Nat) (c : CopyCmd) : State :=
  let s := if c.status ≠ 0 then s.countLanded c c.unlanded else s
  let (s, st) := (s.chainDone id c).closeChain id c
  let k := s.core core
  let s := s.setCore core { k with copies := k.copies.erase id }
  let s := match c.follow with
    | some op => if st = 0 then s.matPush c.bid op none else s
    | none => s
  s.tagEnd c.bid c.tag st

/-- `copy complete` (R218): every granule has moved, or the command has ended early; a closing command waits for
its chain, and a follow-on for an entry of the matrix queue. -/
def execCopyComplete (core cmd : Nat) (s : State) : Host.Outcome State Fault Refusal :=
  .next (match (s.core core).copies.get? cmd with
    | none => s
    | some c =>
      if !c.started || (c.status == 0 && c.next.isSome) || !s.chainReady cmd c
        || (c.follow.isSome && s.matFull (coreOf c.bid)) then s
      else s.finishCopy core cmd c)

/-! ## Tags (R219 to R221) -/

/-- The tags of a mask, lowest first. -/
def maskTags (m : DWord) : List Nat := (List.range 64).filter fun n => m.getLsbD n

/-- The lowest masked tag at or above the declared count. -/
def State.tagBeyond (s : State) (x : Ins) (m : DWord) : Option Nat := (maskTags m).find? fun n => decide ((s.kernel x.bid).tags ≤ n)

/-- The failure map of R219. -/
def State.failureMap (s : State) (x : Ins) (m : DWord) : DWord :=
  (maskTags m).foldl (fun r n =>
    let t := s.tag x.bid n
    if t.st = .done ∧ t.status ≠ 0 then r ||| (1#64) <<< n else r) 0

/-- The effect of `twait` (R219). -/
def twaitBody (all : Bool) (d a : Opnd) (x : Ins) (s : State) : Result :=
  let m := s.get x a 2 x.lane
  let st := fun (n : Nat) => (s.tag x.bid n).st
  let tags := maskTags m
  if !all && m == 0 then .trap 0x210 0
  else match s.tagBeyond x m with
    | some n => .trap 0x201 n
    | none =>
      match (if all || (tags.all fun n => st n == .idle) then tags.find? fun n => st n == .idle else none) with
      | some n => .trap 0x211 n
      | none =>
        if (if all then tags.all fun n => st n == .done else tags.any fun n => st n == .done) then
          .go (s.put x d 2 fun _ => s.failureMap x m)
        else .wait s

/-- `twait.any` (R219). -/
def execTwaitAny (a : Args Unit) : State → Host.Outcome State Fault Refusal :=
  issue (headOf a (.twaitAny a)) (twaitBody false a.d a.a)
/-- `twait.all` (R219). -/
def execTwaitAll (a : Args Unit) : State → Host.Outcome State Fault Refusal :=
  issue (headOf a (.twaitAll a)) (twaitBody true a.d a.a)

/-- `tfind` (R220). -/
def execTfind (a : Args Unit) : State → Host.Outcome State Fault Refusal :=
  issue (headOf a (.tfind a)) fun x s =>
    let m := s.get x a.a 2 x.lane
    match s.tagBeyond x m with
    | some n => .trap 0x201 n
    | none => .go (s.put1 x a.d fun _ =>
        match (maskTags m).find? fun n => (s.tag x.bid n).st == .done with
        | some n => BitVec.ofNat 32 (n + (s.tag x.bid n).status * 256)
        | none => 0xFFFFFFFF)

/-- A command cancelled (R221): one that has not started leaves its queue at once, and one that has stops. -/
def State.cancelCopy (s : State) (core id : Nat) : State :=
  match (s.core core).copies.get? id with
  | none => s
  | some c =>
    let c := { c with status := if c.status = 0 then 2 else c.status }
    if c.started then s.setCopy core id c else s.finishCopy core id c

/-- A masked tag acted on by `tclr` (R221). -/
def State.clearTag (s : State) (bid n : Nat) : State :=
  match (s.tag bid n).st with
  | .idle => s
  | .done => s.setTag bid n { s.tag bid n with st := .idle }
  | .busy =>
    let core := coreOf bid
    let mine := (s.core core).copies.filter fun e => e.2.bid == bid && e.2.tag == n
    let s := if mine.isEmpty then s
      else let t := s.tag bid n; s.setTag bid n { t with status := if t.status = 0 then 2 else t.status }
    mine.foldl (fun s e => s.cancelCopy core e.1) s

/-- `tclr` (R221). -/
def execTclr (a : Args Unit) : State → Host.Outcome State Fault Refusal :=
  issue (headOf a (.tclr a)) fun x s =>
    let m := s.get x a.a 2 x.lane
    match s.tagBeyond x m with
    | some n => .trap 0x201 n
    | none => .go ((maskTags m).foldl (fun s n => s.clearTag x.bid n) s)

end Sys2Proof.Machine
end

