-- ==== Sys2Proof/Machine/Engine.lean ====
section
/-! DEFINITION. Engine programs: `fork`, the sequencers, and `rdv` (R133, R134, R258 to R260). -/

namespace Sys2Proof.Machine

open Sys2Proof

/-- The number of instructions of a program that a `fork` names. -/
def forkCount (imm : Word) : Nat := imm.toNat / 2 ^ 26 + 1
/-- The address at which it begins. -/
def Ins.forkTarget (x : Ins) (imm : Word) : Pc := x.pc + 12 + 12 * (imm.extractLsb' 0 26).signExtend 64

/-- What a fork finds of its program's words: the instructions among those that can be read and decoded, the first page
that is not present, a damaged unit, or a word that must wait. -/
inductive ProgRead where
  | words (is : List Instr)
  | absent (va : Nat)
  | dead (struct key : Nat)
  | wait

/-- The words of a program of n instructions read at its fork: pages whose fault system software has declined are passed
over (log entry 128). -/
def State.programAt (s : State) (bid : Nat) (declined : Nat → Bool) : Nat → Nat → State × ProgRead
  | _, 0 => (s, .words [])
  | pc, n + 1 =>
    match s.fetchWord (coreOf bid) (s.tagOfBlock bid) pc with
    | (s, .wait) => (s, .wait)
    | (s, .dead u k) => (s, .dead u k)
    | (s, .cause _) => s.programAt bid declined (pc + 12) n
    | (s, .absent va) => if declined (va / 2 ^ 16) then s.programAt bid declined (pc + 12) n else (s, .absent va)
    | (s, .word w) =>
      match decode (s.decEnv bid) ((s.pourOfBlock bid).word pc w), s.programAt bid declined (pc + 12) n with
      | .ok i, (s, .words is) => (s, .words (i :: is))
      | _, r => r

/-- Whether an operand is a scalar register of a pair or more that is empty. -/
def RegFile.lacks (r : RegFile) (p : Pos) (o : Opnd) : Bool :=
  match p, o with
  | .use _ w false _, .s _ => !r.full o w 0
  | _, _ => false

/-- What the registers of a program say of its fork under R37: an empty one read with FE = 0 makes it wait, one
with FE = 1 traps at its position. -/
def RegFile.forkWaits (r : RegFile) (is : List Instr) : Bool :=
  is.any fun i => match i.heads with
    | some h => let p := shape i
      r.lacks p.d h.d || (!h.fea && r.lacks p.a h.a) || (!h.feb && r.lacks p.b h.b) || (!h.fec && r.lacks p.c h.c)
    | none => false

/-- The position of the first empty trapping register. -/
def RegFile.forkTraps (r : RegFile) (is : List Instr) : Option Nat :=
  is.findSome? fun i => match i.heads with
    | some h => let p := shape i
      if h.fea && r.lacks p.a h.a then some 1
      else if h.feb && r.lacks p.b h.b then some 2
      else if h.fec && r.lacks p.c h.c then some 3 else none
    | none => none

/-- The programs of an engine that a sequencer holds. -/
def State.heldProgs (s : State) (core : Nat) (eng : Engine) : Table Prog :=
  s.progs.filter fun p => p.2.core == core && p.2.eng == eng && !p.2.ended

/-- The number of an engine (R246). -/
def engineCode : Engine → Nat
  | .copy => 0
  | .matrix => 1

/-- Whether every word of a program lies in the code segment (R258). -/
def State.forkInside (s : State) (x : Ins) (imm : Word) : Bool :=
  (List.range (forkCount imm)).all fun k => inSegment (s.segment x.bid x.sq) ((x.forkTarget imm).toNat + 12 * k)

/-- A program put into a sequencer with the squad's scalar registers and clock as they are (R258). -/
def State.forked (s : State) (x : Ins) (eng : Engine) (imm : Word) : State :=
  let q := s.squad x.bid x.sq
  let id := s.ctrl.nextId
  let p : Prog :=
    { eng, core := coreOf x.bid, bid := x.bid, sq := x.sq, pc := (x.forkTarget imm).toNat, left := forkCount imm
      s := q.rf.s, clock := (s.clock x.bid).lo.toNat }
  let s := s.setSquad x.bid x.sq { q with forks := q.forks ++ [{ eng, prog := id }] }
  { s.bump with progs := s.progs.put id p }

/-- A `fork` whose words have been read (R258, R324): its registers under R37, an unjoined program of the squad, and the
four that the sequencer holds. -/
def State.forkOn (s : State) (x : Ins) (eng : Engine) (imm : Word) (is : List Instr) : Result :=
  let q := s.squad x.bid x.sq
  if q.rf.forkWaits is then .wait s
  else match q.rf.forkTraps is with
    | some k => .trap 0x051 k
    | none =>
      if q.forks.any fun f => f.eng == eng then .trap 0x248 (engineCode eng)
      else if 4 ≤ (s.heldProgs (coreOf x.bid) eng).length then .hold s
      else .go (s.forked x eng imm)

/-- The effect of `fork` (R258): the program is held by the sequencer. -/
def forkBody (eng : Engine) (imm : Word) (x : Ins) (s : State) : Result :=
  let declined := fun (page : Nat) => ((s.declinedAt x).get page 0) &&& x.pass != 0
  if !s.forkInside x imm then .trap 0x011 3
  else match s.programAt x.bid declined (x.forkTarget imm).toNat (forkCount imm) with
    | (t, .words is) => t.forkOn x eng imm is
    | (t, .absent va) =>
      let (t, fid) := t.pageFault (t.tagOfBlock x.bid) va 3 (coreOf x.bid)
      .mem t x.pass [(fid, x.pass)] 0 none
    | (t, .dead u k) => .dead (t.consume x.bid u k)
    | (_, .wait) => .wait s

/-- The engine that the index of a `fork` or `rdv` names (R246). -/
def engineOf (idx : BitVec 7) : Engine := if idx = 1 then .matrix else .copy

/-- `fork.copy` (R258). -/
def execForkCopy (a : Args SMod) : State → Host.Outcome State Fault Refusal :=
  issue (headOf a (.forkCopy a)) (forkBody .copy a.imm)
/-- `fork.matrix` (R258). -/
def execForkMatrix (a : Args SMod) : State → Host.Outcome State Fault Refusal :=
  issue (headOf a (.forkMatrix a)) (forkBody .matrix a.imm)
/-- `fork` under map 2 (R51). -/
def execForkMap2 (a : Args SMod) : State → Host.Outcome State Fault Refusal :=
  issue (headOf a (.forkMap2 a)) (forkBody (engineOf a.mod.idx) a.imm)

/-- Whether a program and all its commands have ended (R260). -/
def State.progDone (s : State) (id : Nat) (p : Prog) : Bool :=
  let k := s.core (coreOf p.bid)
  p.ended && !(k.copies.any fun e => e.2.prog == some id) && !(k.mq.any fun m => m.prog == some id)

/-- The effect of `rdv` (R260, R263): a fault of the program is raised after it. -/
def rdvBody (eng : Engine) (x : Ins) (s : State) : Result :=
  let q := s.squad x.bid x.sq
  match q.forks.find? fun f => f.eng == eng with
  | none => .trap 0x249 (engineCode eng)
  | some f =>
    let p := s.progs.get f.prog { eng, core := coreOf x.bid, bid := x.bid, sq := x.sq, pc := 0, left := 0, ended := true }
    if s.progDone f.prog p then
      let t := s.setSquad x.bid x.sq { q with forks := q.forks.filter fun e => e != f }
      let t := { t with progs := t.progs.erase f.prog }
      match p.fault with
      | some k => .after t (if eng = .matrix then 0x230 else 0x231) k
      | none => .go t
    else .hold s

/-- `rdv.copy` (R260). -/
def execRdvCopy (a : Args SMod) : State → Host.Outcome State Fault Refusal := issue (headOf a (.rdvCopy a)) (rdvBody .copy)
/-- `rdv.matrix` (R260). -/
def execRdvMatrix (a : Args SMod) : State → Host.Outcome State Fault Refusal := issue (headOf a (.rdvMatrix a)) (rdvBody .matrix)
/-- `rdv` under map 2 (R51). -/
def execRdvMap2 (a : Args SMod) : State → Host.Outcome State Fault Refusal :=
  issue (headOf a (.rdvMap2 a)) (rdvBody (engineOf a.mod.idx))

/-! ## The sequencers (R133, R134, R258, R259) -/

/-- The program that a sequencer runs. -/
def State.running (s : State) (core : Nat) (eng : Engine) : Option (Nat × Prog) :=
  (s.heldProgs core eng).find? fun p => p.2.begun

/-- A program replaced. -/
def State.setProg (s : State) (id : Nat) (p : Prog) : State := if s.progs.has id then { s with progs := s.progs.put id p } else s

/-- `engine program start` (R258): the next held program in fork order, when none runs. -/
def execEngineProgramStart (core : Nat) (eng : Engine) (s : State) : Host.Outcome State Fault Refusal :=
  .next (match s.running core eng with
    | some _ => s
    | none => match s.heldProgs core eng with
      | p :: _ => s.setProg p.1 { p.2 with begun := true }
      | [] => s)

/-- `engine program end` (R260): the running program has no instruction left. -/
def execEngineProgramEnd (core : Nat) (eng : Engine) (s : State) : Host.Outcome State Fault Refusal :=
  .next (match s.running core eng with
    | some p => if p.2.left = 0 then s.setProg p.1 { p.2 with ended := true } else s
    | none => s)

/-- The register reader of a program: the values captured at its fork. -/
def State.progReader (s : State) (p : Prog) : Opnd → Word
  | .s n => p.s.get n.toNat 0
  | .sp .clock => BitVec.ofNat 32 p.clock
  | .sp x => s.special p.bid p.sq 0 x
  | _ => 0

/-- A program that an instruction ends (R134): the index of the instruction and its cause. -/
def Prog.stop (p : Prog) (code : Nat) : Prog := { p with left := 0, fault := some (p.idx * 2 ^ 10 + code % 2 ^ 10) }
/-- A program after an instruction. -/
def Prog.step (p : Prog) : Prog := { p with pc := p.pc + 12, left := p.left - 1, idx := p.idx + 1 }

/-- The kind of copy of an instruction of a copy program (R259), with its arguments. -/
def programCopy : Instr → Option (CopyKind × Args CMod)
  | .cpy a => some (.cpy, a)
  | .cpyw a => some (.cpyw, a)
  | .cpyp a => some (.cpyp, a)
  | .cpyo a => some (.cpyo, a)
  | .cpyxPut a => some (.put, a)
  | .cpyxGet a => some (.get, a)
  | _ => none

/-- An instruction of a matrix program at the sequencer. -/
def State.seqMatrix (s : State) (id : Nat) (p : Prog) (i : Instr) : State :=
  match s.programCheck p.bid (s.progReader p) i with
  | none => s.setProg id (p.stop 0x010)
  | some (.bad c _) => s.setProg id (p.stop c)
  | some (.ok op) => if s.matFull p.core then s else (s.setProg id p.step).matPush p.bid op (some id)

/-- An instruction of a copy program at the sequencer. -/
def State.seqCopy (s : State) (id : Nat) (p : Prog) (i : Instr) : State :=
  match programCopy i with
  | none => s.setProg id (p.stop 0x010)
  | some (kind, a) =>
    let rd := s.progReader p
    if s.copyFull p.core a.mod.que.toNat then s
    else match s.copyCheck (s.copyBase p.bid p.sq a.mod kind (some id)) a.mod rd a.d a.a a.b a.imm (s.followIn p.bid rd) with
      | .bad c _ => s.setProg id (p.stop c)
      | .wait => s
      | .dead st u => s.consume p.bid st u
      | .ok c => if s.putEnds c then s.endReplay p.bid else (s.setProg id p.step).copyEnter c

/-- Whether a word carries a guard. -/
def guarded (w : InsnWord) : Bool := (unpack w).gneg || (unpack w).gsel != 7

/-- The next instruction of the program that a sequencer runs, while its context is enabled (R296, log entry 151); the save of
its flask waits for it (R138, R262). A page of the program that is not present holds it until its fault is answered. -/
def State.sequence (s : State) (core : Nat) (eng : Engine) : State :=
  match s.running core eng with
  | none => s
  | some (id, p) =>
    if p.left = 0 || p.waits.isSome || !s.enabled (s.tagOfBlock p.bid) then s
    else match s.fetchWord core (s.tagOfBlock p.bid) p.pc with
      | (s, .absent va) =>
        let (s, fid) := s.pageFault (s.tagOfBlock p.bid) va 3 core
        s.setProg id { p with waits := some fid }
      | (s, .cause c) => s.setProg id (p.stop c)
      | (s, .dead u k) => s.consume p.bid u k
      | (s, .wait) => s
      | (s, .word now) =>
        let w := (s.pourOfBlock p.bid).word p.pc now
        match decode (s.decEnv p.bid) w with
        | .trap c _ => s.setProg id (p.stop c)
        | .ok i =>
          if guarded w then s.setProg id (p.stop 0x010)
          else match eng with
            | .matrix => s.seqMatrix id p i
            | .copy => s.seqCopy id p i

end Sys2Proof.Machine
end

