-- ==== Sys2Proof/Machine/Recovery.lean ====
section
/-! DEFINITION. Recovery: the quiesce, reset and rejoin of a die, damage found in a structure, the scrubber,
leases, and the fettler's audits (R180, R310, R340, R345 to R358). -/

namespace Sys2Proof.Machine

open Sys2Proof

/-! ## Contexts ended (R346) -/

/-- The damaged units without some. -/
def State.withoutDamage (s : State) (which : Nat × Nat → Bool) : State :=
  { s with dev := { s.dev with damage := s.dev.damage.filter fun u => !which u } }

/-- A context ended for a damaged structure with this key (R346). Its launch records, replay records and save areas are
gone, and damage of their copies with them. -/
def State.ruinContext (s : State) (tag struct key : Nat) : State :=
  if (s.context tag).en then
    ((s.withoutDamage fun u => u.1 == 0x24 && recordTag (u.2 / 2) == tag).endContext tag).record (s.unitRecord true 3 tag struct key)
  else s

/-! ## Die quiesce and reset (R347 to R349) -/

/-- The flasks with a block on a die. -/
def State.flasksOn (s : State) (die : Nat) : List Nat :=
  (s.flasks.filter fun f => (f.2.status == .resident || f.2.status == .saving) && f.2.blocks.any fun b => dieOfBlock b == die).map (·.1)

/-- The cores that are retired, with nothing else (R358). -/
def State.retiredCores (s : State) : Table Core := (s.cores.filter fun c => c.2.retired).map fun c => (c.1, { retired := true })

/-- The registers after a reset of the whole device: what is retired stays so (R358). -/
def Regs.afterReset (g : Regs) : Regs := { repReq := g.repReq, slices := g.slices, nLink := g.nLink }

/-- The device after a reset of the whole device (R349): what the outside world gives it, the logs, retired ports and the
damage of HBM stay. -/
def Device.afterReset (d : Device) : Device :=
  { regs := d.regs.afterReset
    links := (d.links.filter fun l => l.2.phase == .retired).map fun l => (l.1, { phase := .retired })
    damage := d.damage.filter fun u => u.1 == 0x11 || u.1 == 0x111
    deviceLog := d.deviceLog, tenantLogs := d.tenantLogs, lossLogs := d.lossLogs, irqs := d.irqs
    messages := d.messages, watts := d.watts, celsius := d.celsius, hostAbsent := d.hostAbsent, refusing := d.refusing }

/-- The reset of the whole device (R349): its boot begins anew (R370), and every context has ended. -/
def State.deviceReset (s : State) (die : Nat) : State :=
  let r := State.reset
  { r with
    ctrl := s.ctrl
    cores := s.retiredCores
    mem := { r.mem with host := s.mem.host, peer := s.mem.peer }
    homes := { r.homes with farAged := s.homes.farAged }
    dev := s.dev.afterReset }.record { ue := true, act := 7, struct := 0x30, die }

/-- Steps 1 and 2 of R347, or the device reset of R349. -/
def State.quiesce (s : State) (die : Nat) : State :=
  if ((List.range 2).all fun d => (s.die d).phase == .running) then
    let s := s.record { ue := true, act := 4, struct := 0x30, die }
    let s := s.setDie die { s.die die with phase := .quiescing, deadline := s.ctrl.time + microseconds s.dev.regs.qdl }
    (s.flasksOn die).foldl (fun s f => s.killFlask f false (s.flaskRecord f (s.coreOfFlask f) 0)) s
  else s.deviceReset die

/-- Whether the homes of a die hold no request, answer or write-back, and its L2 no dirty line (R347, step 4): those that
the seam holds are not there. -/
def State.homesIdle (s : State) (die : Nat) : Bool :=
  !(s.homes.reqs.any fun e => (e.2.status == .held || e.2.status == .performed) && e.2.target == .device && homeDie (e.2.line * 64) == die)
  && !(s.homes.backs.any fun b => homeDie (b.2.line * 64) == die && dieOfBlock b.2.bid == die)
  && !(s.homes.dirty.any fun e => homeDie (e.1 * 64) == die)

/-- `seam fence` (R347, step 4). -/
def execSeamFence (die : Nat) (s : State) : Host.Outcome State Fault Refusal :=
  .next (if (s.die die).phase == .quiescing && s.homesIdle die then
      s.setDie die { s.die die with phase := .fenced }
    else s)

/-- Whether a request of the other die has crossed the seam to a die. -/
def Req.hasCrossed (r : Req) (die : Nat) : Bool :=
  r.target == .device && homeDie (r.line * 64) == die && dieOfBlock r.bid != die && (r.status == .held || r.status == .performed)

/-- A request answered by an abort completion that is not retried (R340, R348): a returning atomic takes "outcome
unknown", and any other is lost. -/
def Req.cutOff (r : Req) : Req :=
  match r.op with
  | .atom _ true => { ({ r with results := [], bad := [] } : Req).refuse 0x30C (·.lane) with status := .performed }
  | _ => { r with status := .lost, results := [], bad := [] }

/-- A request in flight across the seam to a die that is fenced by force. -/
def loseCrossing (die : Nat) (e : Nat × Req) : Nat × Req := if e.2.hasCrossed die then (e.1, e.2.cutOff) else e

/-- The global addresses that a granule of a copy accesses. -/
def CopyCmd.touches (c : CopyCmd) (u : Nat) : List Nat :=
  (c.parts u).flatMap fun p => if c.kind.lands then (c.reads p).map (·.1) else [c.side p.1 + p.2.1]

/-- Whether a started copy of the other die still has a granule to move at the homes of a die. -/
def State.copyCrosses (s : State) (die : Nat) (c : CopyCmd) : Bool :=
  c.started && c.status == 0 && dieOfBlock c.bid != die
  && (c.granules.filter fun u => !c.moved.contains u).any fun u => (c.touches u).any fun va =>
    match s.resolve c.ctx c.uclass (if c.kind.lands then .load else .store) va (s.walkBy (fun _ => false) c.ctx va) with
    | .ok .device pa _ => homeDie (s.forward pa) == die
    | _ => false

/-- The copies in flight across the seam to a die that is fenced by force end with status 6 (R348, log entry 52). -/
def State.loseCopies (s : State) (die : Nat) : State :=
  let lose := fun (x : Nat × CopyCmd) => if s.copyCrosses die x.2 then (x.1, { x.2 with status := 6 }) else x
  { s with cores := s.cores.map fun c => (c.1, { c.2 with copies := c.2.copies.map lose }) }

/-- A line that was still dirty when the fence of its die was forced: HBM's bytes stand, and the context that owns the
line is ended (R348). -/
def State.loseLine (s : State) (e : Nat × List Byte) : State :=
  let s := (s.withoutDamage fun u => u.1 == 0x10 && u.2 / 2 == e.1).cleaned (· == e.1)
  let s := { s with mem := { s.mem with dev := Memory.writeBytes s.mem.dev (e.1 * 64) e.2 } }
  s.ruinContext (s.ownerTag (e.1 * 64)) 0x10 (2 * e.1)

/-- `quiesce deadline` (R348): the fence is forced, and every request and copy in flight across the seam to the die and
every dirty line of its homes is lost. -/
def execQuiesceDeadline (die : Nat) (s : State) : Host.Outcome State Fault Refusal :=
  let d := s.die die
  .next (if d.phase == .quiescing && decide (d.deadline ≤ s.ctrl.time) then
      let s := s.setDie die { d with phase := .fenced, epoch := d.epoch + 1 }
      let s := (s.loseCopies die)
      let s := { s with homes := { s.homes with reqs := s.homes.reqs.map (loseCrossing die) } }
      (s.homes.dirty.filter fun e => homeDie (e.1 * 64) == die).foldl State.loseLine s
    else s)

/-- Whether a damaged unit is gone with the reset of a die (R347, step 5): it lies in an array of the die's cores or in a
line of its L2, or in a copy of a record that is rebuilt from the other die's sound copy (R345). What its L2 wrote to HBM
before, damaged as it stood, stays (R338). -/
def State.resetUnit (s : State) (die : Nat) (u : Nat × Nat) : Bool :=
  (((decide (1 ≤ u.1 ∧ u.1 ≤ 6) || u.1 == 0x09) && dieOfBlock (unitBlock u.1 u.2) == die)
  || (u.1 == 0x10 && homeDie (u.2 * 32) == die)
  || (u.1 == 0x24 && u.2 % 2 == die && !s.dev.damage.contains (0x24, u.2 / 2 * 2 + (1 - die))))

/-- The reset of a die (R347, step 5): its cores, its remote-data cache, its L2 and the memos of its homes are empty, no
memo of its cores' atomics is left, and its copies of the records are rebuilt from the other die's (R345). -/
def State.resetDie (s : State) (die : Nat) : State :=
  let d := s.die die
  let s := (s.withoutDamage (s.resetUnit die)).setDie die { d with phase := .reset, epoch := d.epoch + 1, rdc := [], scrub := 0, scrubQ := [] }
  let stays := fun (m : Memo) => dieOfCore m.core != die && (decide (2 ^ 60 ≤ m.home) || m.home / 48 != die)
  { s with
    cores := s.cores.map fun c => if dieOfCore c.1 == die then (c.1, { reserved := c.2.reserved, retired := c.2.retired }) else c
    homes := { s.homes with memos := s.homes.memos.filter stays } }

/-- The clear of both remote-data caches begins (R180, R347). -/
def State.clearCaches (s : State) : State :=
  (List.range 2).foldl (fun s d => s.setDie d { s.die d with rdc := [], clearing := true, clearEnd := s.ctrl.now + 4096 }) s

/-- `die rejoin` (R347, steps 5 to 7): the die is reset, measured and released, and runs once the clear has ended. A
measurement that differs resets the whole device (R371). A die that the boot has not released yet is no die at step 5
(R370). -/
def execDieRejoin (die : Nat) (s : State) : Host.Outcome State Fault Refusal :=
  let d := s.die die
  .next (match d.phase with
    | .fenced => s.resetDie die
    | .reset =>
      if s.dev.altered.contains die then s.deviceReset die
      else
        let s := s.raiseDgen.clearCaches
        s.setDie die { s.die die with phase := .rejoining, clkBase := s.ctrl.now }
    | .rejoining => if d.clearing then s else (s.setDie die { d with phase := .running }).irq none 0
    | _ => s)

/-- `remote-data cache clear end` (R180). -/
def execRemoteDataCacheClearEnd (s : State) : Host.Outcome State Fault Refusal :=
  .next ((List.range 2).foldl (fun s d =>
    let x := s.die d
    if x.clearing && decide (x.clearEnd ≤ s.ctrl.now) then s.setDie d { x with clearing := false } else s) s)

/-! ## Damage found in a structure (R340, R345, R346) -/

/-- A unit that is damaged from now on. -/
def State.breakUnit (s : State) (struct addr : Nat) : State :=
  if s.dev.damage.contains (struct, addr) then s else { s with dev := { s.dev with damage := s.dev.damage ++ [(struct, addr)] } }

/-- A response memo entry of a core found damaged (R340): it is discarded, in every part, and its keeper answers no retry of
the core that it does not know until it has kept 16 newer results. -/
def State.loseMemo (s : State) (core k : Nat) : State :=
  match (s.homes.memos.filter fun m => m.core == core)[k]? with
  | none => s
  | some l =>
    let same := fun (m : Memo) => m.core == l.core && m.home == l.home && m.ident == l.ident
    let s := { s with homes := { s.homes with
      memos := s.homes.memos.filter fun m => !same m, memoHoles := s.homes.memoHoles.put (holeKey l.home core) 16 } }
    let home := if l.home < 96 then l.home else 0
    s.record { ue := true, act := 5, struct := 0x15, die := home / 48, loc := home % 48 }

/-- A memo entry of the fabric ingress found damaged (R183, R340): the same, for its peer. -/
def State.losePeerMemo (s : State) (k : Nat) : State :=
  match s.homes.peerMemos[k]? with
  | none => s
  | some l =>
    let s := { s with homes := { s.homes with
      peerMemos := s.homes.peerMemos.eraseIdx k, peerHoles := s.homes.peerHoles.put l.peer 16 } }
    s.record { ue := true, act := 5, struct := 0x15 }

/-- An entry of a core's TLB or lease cache, or of the ingress's as those of core 240, found damaged (R340): it is discarded,
and fetched again where it is needed. -/
def State.loseEntry (s : State) (core k : Nat) : State :=
  let c := s.core core
  let entries := if core = 240 then s.dev.ingress else c.tlb ++ c.leases
  let tag := (entries[k]?).elim 0 (·.tag)
  let t := if core = 240 then { s with dev := { s.dev with ingress := s.dev.ingress.eraseIdx k } }
    else s.setCore core { c with tlb := c.tlb.eraseIdx k, leases := if k < c.tlb.length then c.leases else c.leases.eraseIdx (k - c.tlb.length) }
  t.corrected tag 0x13 (core + 256 * k)

/-- The lowest squad of a block with a thread left. -/
def State.firstSquad (s : State) (bid : Nat) : Nat := ((List.range 32).find? fun q => (s.squad bid q).ctl.alive != 0).getD 0

/-- The record of a message lost in a fabric, seam or replay buffer (R339, R340): at its port, or on its sender's die. -/
def lostRecord (tag bid : Nat) (port : Option Nat) : ErrRec :=
  { ue := true, act := 5, tag, struct := 0x16, die := port.elim (dieOfBlock bid) (· / 10), loc := port.elim 0 (· % 10) }

/-- Owned words lost on their way back to their home (R176, R340): a posted write of their block, whose cause 0x30C its lowest
squad holds (R322), and which sets the side-effect bit (log entry 155). -/
def State.loseBack (s : State) (id : Nat) (b : WriteBack) : State :=
  let s := { s with homes := { s.homes with backs := s.homes.backs.erase id } }
  let s := (s.disown b.line b.bid b.words).record (lostRecord (s.tagOfBlock b.bid) b.bid none)
  if s.blocks.has b.bid then (s.sideEffect (s.block b.bid).flask).defer b.bid (s.firstSquad b.bid) false (causeWord 0x30C 0) else s

/-- A message lost in a fabric, seam or replay buffer (R340): its sender receives an abort completion. -/
def State.loseMessage (s : State) (id : Nat) : State :=
  match s.homes.reqs.get? id, s.homes.backs.get? id with
  | some r, _ => (s.setReq id r.cutOff).record (lostRecord r.tag r.bid r.port)
  | none, some b => s.loseBack id b
  | none, none =>
    match s.cores.findSome? fun c => ((c.2.copies.get? id).filter fun x => x.started && x.status == 0).map fun x => (c.1, x) with
    | some (core, x) =>
      (s.setCopy core id { x with status := 6 }).record (lostRecord x.ctx x.bid ((s.putTo x).bind fun t => s.heldPort t.1 t.2))
    | none => s

/-- An uncorrectable error detected in a structure (R340): `addr` is the unit's key for the structures of a
flask, a block for 0x07, 0x08 and 0x0A, a sector of device memory, line × 2 + die of a remote-data
cache, a core (240 for the ingress) + 256 × the place of one of its entries for 0x13 and 0x15, where 2^32 + a place is an
entry of the ingress for 0x15, a line for 0x14, a request, write-back or copy for
0x16, a sector for 0x20, a context for 0x21 to 0x23, a record × 2 + the die of the copy for 0x24, and a die for 0x30; 0x31
stands for the trust die, which has no code (R349). An error in a memo or a message has no consumer of R341, and its
record has ACT = 5 (log entry 100). -/
def State.detectUnit (s : State) (struct addr : Nat) : State :=
  let block := unitBlock struct addr
  if (decide (1 ≤ struct ∧ struct ≤ 0x0A)) then (if s.blocks.has block then s.consume block struct addr else s)
  else match struct with
    | 0x10 => (s.breakUnit struct addr).record (s.unitRecord true 5 (s.ownerTag (addr * 32)) struct addr)
    | 0x11 => (s.breakUnit struct addr).record (s.unitRecord true 5 (s.ownerTag (addr * 32)) struct addr)
    | 0x12 =>
      let d := s.die (addr % 2)
      (s.setDie (addr % 2) { d with rdc := d.rdc.erase (addr / 2) }).corrected ((d.rdc.get? (addr / 2)).elim 0 (·.tag)) struct addr
    | 0x13 => s.loseEntry (addr % 256) (addr / 256)
    | 0x14 => s.ruinContext (s.ownerTag (addr * 64)) struct addr
    | 0x15 => if 2 ^ 32 ≤ addr then s.losePeerMemo (addr - 2 ^ 32) else s.loseMemo (addr % 256) (addr / 256)
    | 0x16 => s.loseMessage addr
    | 0x20 => s.ruinContext (s.ownerTag (addr * 32)) struct addr
    | 0x21 | 0x22 | 0x23 => s.ruinContext addr struct 0
    | 0x24 => (s.breakUnit struct addr).readRecord (addr / 2)
    | 0x30 => s.quiesce (addr % 2)
    | 0x31 => s.deviceReset 0
    | _ => s

/-! ## The scrubber (R350, R351) -/

/-- The lines of a die's stacks (R303). -/
def hbmLines : Nat := 288 * 10 ^ 9 / 64

/-- `scrub read` (R350): the next line of a die is read. -/
def execScrubRead (die : Nat) (s : State) : Host.Outcome State Fault Refusal :=
  let d := s.die die
  let pa := die * 2 ^ 39 + d.scrub * 64
  .next (if d.phase != .running then s
    else
      let s := s.setDie die { d with scrub := (d.scrub + 1) % hbmLines }
      let bad := ((sectorUnits pa 64).filter fun u => u.1 == 0x11 && s.dev.damage.contains u)
      let s := bad.foldl (fun s u => s.record (s.unitRecord true 5 (s.ownerTag pa) 0x11 u.2)) s
      s.correctRead pa 64)

/-- `scrub write-back` (R351): the oldest queued sector is written back; where a program write has come first,
its mark is gone already and nothing is written. -/
def execScrubWriteback (die : Nat) (s : State) : Host.Outcome State Fault Refusal :=
  let d := s.die die
  .next (match d.scrubQ with
    | [] => s
    | q :: r => (s.setDie die { d with scrubQ := r }).repair [(0x111, q)])

/-! ## Leases (R310) -/

/-- `lease expiry` (R310): an entry of a core's lease cache, or of the fabric ingress (unit 240), goes at the
end of its lease. -/
def execLeaseExpiry (unit idx : Nat) (s : State) : Host.Outcome State Fault Refusal :=
  let drop := fun (es : List TlbEntry) => match es[idx]? with
    | some e => if e.expires ≤ s.ctrl.time then es.eraseIdx idx else es
    | none => es
  .next (if unit < 240 then s.setCore unit { s.core unit with leases := drop (s.core unit).leases }
    else { s with dev := { s.dev with ingress := drop s.dev.ingress } })

/-! ## The fettler (R354 to R358) -/

/-- The key of another run of a flask. -/
def State.runKey (s : State) (f : Nat) (r : RunKind) : Nat := flaskKey (s.flask f).pour (s.flask f).idx r

/-- The cores of the masks of a tenant's queues. -/
def Tenant.cores (t : Tenant) : BitVec 240 := t.queues.foldl (fun m q => m ||| q.2.mask) 0

/-- A mask of the cores that satisfy a condition. -/
def coreMask (f : Nat → Bool) : BitVec 240 :=
  (List.range 240).foldl (fun m c => if f c then m ||| (1#240) <<< c else m) 0

/-- The bay of a core, over both dies (R7). -/
def bayOf (core : Nat) : Nat := core / 12

/-- The slots for an audit's run that avoids some cores: on the other die first, then in another bay, then on
other cores of the bay (R354). -/
def State.auditSlots (s : State) (first : Flask) (avoid : List Nat) : Option Slots :=
  let p := s.pour first.pour
  let m := (s.tenant (s.tenantOf p.tag)).cores &&& coreMask fun c => !avoid.contains c
  let home := first.sites.headD 0
  (s.findSlots p.kern (m &&& coreMask fun c => dieOfCore c != dieOfCore home) false)
  <|> (s.findSlots p.kern (m &&& coreMask fun c => bayOf c != bayOf home) false)
  <|> (s.findSlots p.kern m false)

/-- The run that an audit of a flask waits to place: its key, whether it must be made, and the cores it avoids. -/
structure AuditRun where
  key : Nat
  run : RunKind
  made : Bool
  avoid : List Nat

/-- The run of a chosen flask that waits for cores. -/
def State.auditRun (s : State) (f : Nat) : Option AuditRun :=
  let fl := s.flask f
  let rk := s.runKey f .replay
  let tk := s.runKey f .third
  let waits := fun (x : Flask) => !x.hold && (x.status == .again || x.status == .saved)
  if !fl.chosen then none
  else if s.flasks.has tk then
    if waits (s.flask tk) then some ⟨tk, .third, true, fl.cores ++ (s.flask rk).cores ++ (s.flask tk).cores⟩ else none
  else if s.flasks.has rk then
    if waits (s.flask rk) then some ⟨rk, .replay, true, fl.cores ++ (s.flask rk).cores⟩ else none
  else some ⟨rk, .replay, false, fl.cores⟩

/-- An audit's run as it is made: with the replay record of the first run (R279, R355). -/
def Flask.audit (fl : Flask) (r : RunKind) (now : Nat) : Flask :=
  { pour := fl.pour, idx := fl.idx, run := r, status := .again, replay := fl.replay, waitFrom := now }

/-- An audit's run put into its slots (R354, R356), from the launch record of its pour (R345). -/
def State.startAudit (s : State) (flask : Nat) (r : AuditRun) (x : Slots) : State :=
  let run := if r.made then s.flask r.key else { (s.flask flask).audit r.run s.ctrl.now with status := .resident }
  let s := s.readRecord (pourRecord run.pour)
  if run.status == .saved then s.resumeFlask r.key x else s.startFlask r.key run x

/-- `fettler replay start` (R354, R356). -/
def execFettlerReplayStart (flask : Nat) (s : State) : Host.Outcome State Fault Refusal :=
  .next (match s.auditRun flask with
    | none => s
    | some r =>
      if !s.enabled (s.pour (s.flask flask).pour).tag then s
      else match s.auditSlots (s.flask flask) r.avoid with
        | none => s
        | some x => s.startAudit flask r x)

/-- `fettler skip` (R354): a sample that found no cores for 2^24 cc. -/
def execFettlerSkip (flask : Nat) (s : State) : Host.Outcome State Fault Refusal :=
  .next (match s.auditRun flask with
    | none => s
    | some r =>
      let since := if r.made then (s.flask r.key).waitFrom else (s.flask flask).waitFrom
      if decide (since + 2 ^ 24 ≤ s.ctrl.now) && (s.auditSlots (s.flask flask) r.avoid).isNone then
        let key := s.runKey flask .first
        { (s.endAudit key) with dev := { s.dev with skipped := s.dev.skipped + 1 } }
      else s)

/-- A core out of service (R358): it leaves every queue mask, and the PF is asked to replace it. -/
def State.retireCore (s : State) (core : Nat) : State :=
  if (s.core core).retired then s
  else
    let keep := coreMask fun c => c != core
    let s := s.setCore core { s.core core with retired := true }
    { s with
      tenants := s.tenants.map fun (t : Nat × Tenant) =>
        (t.1, { t.2 with queues := t.2.queues.map fun (q : Nat × Queue) => (q.1, { q.2 with mask := q.2.mask &&& keep }) })
      dev := { s.dev with regs := { s.dev.regs with repReq := true } } }.irq none 0

/-- The blocks of a flask whose signatures differ between two runs. -/
def State.differing (s : State) (a b : Flask) : List Nat :=
  (List.range (s.pour a.pour).kern.flask).filter fun k => a.sigs.get k 0 != b.sigs.get k 0

/-- The verdict on a block (R357). -/
def State.verdict (s : State) (a b c : Flask) (k : Nat) : State :=
  let p := s.pour a.pour
  let third := c.sigs.get k 0
  let core := (a.sites[k]?).getD 0
  let report := fun (s : State) => (s.failPour a.pour).record
    { act := 6, tag := p.tag, die := dieOfCore core, loc := core % 120, flask := a.idx, pour := p.num }
  if third = a.sigs.get k 0 then s.retireCore ((b.sites[k]?).getD 0)
  else if third = b.sigs.get k 0 then report (s.retireCore core)
  else report s

/-- `replay end` (R357): the runs of a chosen flask are compared. -/
def execReplayEnd (flask : Nat) (s : State) : Host.Outcome State Fault Refusal :=
  let a := s.flask flask
  let rk := s.runKey flask .replay
  let tk := s.runKey flask .third
  let b := s.flask rk
  .next (if !a.chosen || b.status != .retired then s
    else if s.flasks.has tk then
      let c := s.flask tk
      if c.status != .retired then s
      else ((s.differing a b).foldl (fun s k => s.verdict a b c k) s).endAudit flask
    else if (s.differing a b).isEmpty then s.endAudit flask
    else s.setFlask tk (a.audit .third s.ctrl.now))

end Sys2Proof.Machine
end

