-- ==== Sys2Proof/Machine/Fabric.lean ====
section
/-! DEFINITION. The fabric: requests from peers at the ingress, sprue writes, and the ports with their link keys,
retraining and failures (R182 to R185, R280 to R282, R307, R310, R315, R352, R367 to R369, R376, R377). -/

namespace Sys2Proof.Machine

open Sys2Proof

/-! ## Requests from peers (R307) -/

/-- The number of bytes that a peer's request touches. -/
def peerBytes : PeerOp → Nat
  | .read n => n
  | .write d _ _ => d.length
  | .atomic _ wide _ _ => if wide then 8 else 4

/-- What R305 checks for a peer's request. -/
def peerAcc : PeerOp → AccKind
  | .read _ => .load
  | .write _ _ _ => .store
  | .atomic _ _ _ _ => .rmw

/-- Whether an inbound window permits a request of a source to a context (R307). -/
def InWindow.admits (w : InWindow) (r : PeerReq) : Bool :=
  w.en && w.dtag == r.ptag && decide (w.eplo ≤ r.src ∧ r.src ≤ w.ephi) && (match r.op with
    | .read _ => w.r
    | .write _ _ _ => w.w
    | .atomic _ _ _ _ => w.a)

/-- Whether a peer's request is admitted (R307). -/
def State.admitted (s : State) (r : PeerReq) : Bool :=
  let t := s.tenant (s.tenantOf r.ptag)
  (s.context r.ptag).en && t.en && t.inbound.any fun w => decide (w.1 < t.ninb) && w.2.admits r

/-- Whether an earlier request of a source still held holds back a later one (R184, R282): class O holds back O
and Q, and class U holds back U. -/
def holdsBack (e r : PeerReq) : Bool :=
  e.src == r.src && (match e.op, r.op with
    | .write _ _ true, .write _ _ u => u
    | .write _ true false, .write _ o u => o && !u
    | .write _ true false, _ => true
    | _, _ => false)

/-- The SRC field of a page fault of the ingress (R376): the die and port at which a request arrived. -/
def faultSrc (r : PeerReq) : Nat := 0x8000 + r.port / 10 * 16 + r.port % 10

/-- A translation through the ingress lease cache (R310). -/
def State.translateIngress (s : State) (tag va : Nat) : State × Walk :=
  let es := s.liveLeases s.dev.ingress
  match tlbHit es tag 0 va with
  | some e => ({ s with dev := { s.dev with ingress := s.useEntry es e va } }, s.hitWalk e va)
  | none =>
    match s.walk none tag va with
    | .leaf b z l =>
      let s := s.walked none tag va (.leaf b z l)
      let e : TlbEntry := { tag, base := b, size := z, leaf := l, expires := s.ctrl.time + microseconds s.dev.regs.lease }
      ({ s with dev := { s.dev with ingress := tlbPut es 256 (e.withPage va) } }, .leaf b z l)
    | w => (s.walked none tag va w, w)

/-- The parts of a range of bytes within units of 2^k bytes: addresses and lengths. -/
def cutAt (k va n : Nat) : List (Nat × Nat) :=
  (List.range ((va + n - 1) / 2 ^ k + 1 - va / 2 ^ k)).map fun i =>
    let lo := max va ((va / 2 ^ k + i) * 2 ^ k)
    (lo, min (va + n) ((va / 2 ^ k + i + 1) * 2 ^ k) - lo)

/-- What the ingress finds for the parts of a request: their targets with addresses and lengths, a wait with the page
faults to which the request is attached, or a refusal. -/
inductive Admit where
  | parts (ps : List (Target × Nat × Nat))
  | hold (faults : List Nat)
  | abort

/-- The translations of the parts of a request (R302 to R305). A window leaf is no place for a peer's access. -/
def State.admitParts (s : State) (r : PeerReq) : List (Nat × Nat) → State × Admit
  | [] => (s, .parts [])
  | (va, n) :: rest =>
    let (s, w) := s.translateIngress r.ptag va
    match s.resolve r.ptag false (peerAcc r.op) va w with
    | .absent =>
      let (s, fid) := s.pageFault r.ptag va 6 (faultSrc r)
      (s, .hold [fid])
    | .waits => (s, .hold [])
    | .cause _ | .damaged _ => (s, .abort)
    | .ok (.peer _ _ _) _ _ => (s, .abort)
    | .ok t a _ =>
      match s.admitParts r rest with
      | (s, .parts ps) => (s, .parts ((t, if t == .device then s.forward a else a, n) :: ps))
      | e => e

/-- The request to a home that stands for a part of a peer's request. -/
def homeReq (r : PeerReq) (t : Target) (addr n : Nat) (op : ReqOp) (data : List Byte) (cmp : Nat) : Req :=
  { bid := 0, sq := 0, flask := 0, tag := r.ptag, inst := 0, op, target := t, line := addr / 64
    pieces := [{ lane := 0, ofs := 0, va := addr, addr, n, data, cmp }] }

/-- One line's part performed at its home: the bytes it returns, or the refusal. -/
def State.peerLine (s : State) (q : Req) : State × PieceOut :=
  let p := q.pieces.headD ⟨0, 0, 0, 0, 0, [], 0⟩
  match q.target with
  | .device => (s.recallNow q.line).homePiece q p
  | _ => s.farPiece q p

/-- The lines of the parts of a request, each with its target, address, length and offset in the request. -/
def peerLines : List (Target × Nat × Nat) → Nat → List (Target × Nat × Nat × Nat)
  | [], _ => []
  | (t, a, n) :: r, o => (cutAt 6 a n).map (fun c => (t, c.1, c.2, o + (c.1 - a))) ++ peerLines r (o + n)

/-- The home operation of a peer's request on n bytes at an offset. -/
def lineReq (r : PeerReq) (e : Target × Nat × Nat × Nat) : Req :=
  let (t, a, n, o) := e
  match r.op with
  | .read _ => homeReq r t a n (.load false) [] 0
  | .write d _ _ => homeReq r t a n (.store false) ((d.drop o).take n) 0
  | .atomic op _ x c =>
    let f := ([.add, .min, .max, .and, .or, .xor, .exch, .cas, .inc, .dec, .fadd, .fmin, .fmax] : List AtomOp).find? fun f => f.code == op
    homeReq r t a n (.atom (f.getD .add) true) (leBytes n x.toNat) c.toNat

/-- The refusal that a line of a peer's request meets: none where it may be performed. A damaged sector is
recorded. -/
def State.peerRefusal (s : State) (r : PeerReq) (e : Target × Nat × Nat × Nat) : Option (Option (Nat × Nat)) :=
  let (t, a, n, _) := e
  if t != .device then none
  else if s.homes.retired.contains (a / 2 ^ 16) || !s.frameOk r.ptag a then some none
  else match (match r.op with | .write _ _ _ => s.storeDamage [(a, n)] a n | _ => s.readDamage a n) with
    | some u => some (some u)
    | none => none

/-- The lines of a request performed in ascending order: the bytes that they return. -/
def State.peerPerform (s : State) (r : PeerReq) (es : List (Target × Nat × Nat × Nat)) : State × List Byte :=
  es.foldl (fun acc e => match acc.1.peerLine (lineReq r e) with
    | (s, .bytes bs) => (s, acc.2 ++ bs)
    | (s, .refused _ _) => (s, acc.2)) (s, [])

/-- A sprue buffer of a context that some bytes touch: tenant, handle, sprue and buffer. -/
def State.sprueAt (s : State) (tag va n : Nat) : Option (Nat × Nat × Sprue × Nat) :=
  let t := s.tenantOf tag
  (s.tenant t).sprues.findSome? fun x =>
    if x.2.tag != tag then none
    else if decide (va < x.2.buf0 + x.2.len ∧ x.2.buf0 < va + n) then some (t, x.1, x.2, 0)
    else if x.2.buf1 != 0 && decide (va < x.2.buf1 + x.2.len ∧ x.2.buf1 < va + n) then some (t, x.1, x.2, 1) else none

/-- What a sprue says of a write to one of its buffers (R281, R282). -/
inductive AtSprue where
  | lands
  | hold
  | abort
  deriving DecidableEq, Repr

/-- The judgement of a sprue on a write: its class, then its state. -/
def State.sprueJudges (s : State) (r : PeerReq) : AtSprue :=
  match r.op with
  | .write d o u =>
    match s.sprueAt r.ptag r.addr.toNat d.length with
    | none => .lands
    | some (n, _, x, b) =>
      let urgent := ((s.tenant n).queues.get x.que {}).cls == 0
      if (if urgent then !u else u || !o) then .abort
      else match x.st with
        | .fault => .abort
        | .armed k => if k = b then .lands else .hold
        | _ => .hold
  | _ => .lands

/-- The count of a sprue after a write has landed (R282): bytes inside the armed buffer, or messages. -/
def State.countSprue (s : State) (r : PeerReq) : State :=
  match r.op with
  | .write d _ _ =>
    let va := r.addr.toNat
    match s.sprueAt r.ptag va d.length with
    | some (n, h, x, b) =>
      let base := if b = 0 then x.buf0 else x.buf1
      let bytes := min (va + d.length) (base + x.len) - max va base
      let bell := x.bell || decide (va < base + 16 ∧ base < va + d.length)
      s.setSprue n h { x with count := x.count + (if x.msg then 1 else bytes), bell }
    | none => s
  | _ => s

/-- How a peer's request ends: answered, or held, with the page faults to which it is attached. -/
inductive PeerEnd where
  | answer (a : PeerAnswer)
  | held (faults : List Nat)

/-- The memo of a peer's atomic (R183). -/
def State.peerMemo (s : State) (r : PeerReq) : Option PeerMemo :=
  s.homes.peerMemos.find? fun m => m.peer == r.src && m.ident == r.ident

/-- Whether a request is an atomic. -/
def isPeerAtomic (r : PeerReq) : Bool := match r.op with | .atomic _ _ _ _ => true | _ => false

/-- Whether a request keeps to the alignment of R188 and the address range. -/
def peerFits (r : PeerReq) : Bool :=
  decide (0 < peerBytes r.op ∧ r.addr.toNat + peerBytes r.op ≤ 2 ^ 57) && (!isPeerAtomic r || r.addr.toNat % peerBytes r.op == 0)

/-- The memo of a peer's atomic put down (R183): one of an older atomic under the same identity goes, and it is one of the
newer results that a lost entry of the peer's waits for (R340). -/
def State.keepPeerMemo (s : State) (r : PeerReq) (bs : List Byte) : State :=
  let m : PeerMemo := { peer := r.src, ident := r.ident, result := BitVec.ofNat 64 (leNat bs), since := s.ctrl.time }
  { s with homes := { s.homes with
      peerMemos := (s.homes.peerMemos.filter fun e => !(e.peer == r.src && e.ident == r.ident)) ++ [m]
      aged := s.homes.aged.filter fun e => e != (r.src, r.ident)
      peerHoles := if s.homes.peerHoles.has r.src then fillHole s.homes.peerHoles r.src else s.homes.peerHoles } }

/-- Whether a line of a request waits at its home: behind an earlier request that is held for the same words (R174), or
for its die (R347). -/
def State.lineHeld (s : State) (e : Target × Nat × Nat × Nat) : Bool := e.1 == .device && s.homeWaits none e.2.1 e.2.2.1

/-- A request whose lines are known: refused, held, or performed on the state that follows its admission. -/
def State.atLines (s : State) (r : PeerReq) (es : List (Target × Nat × Nat × Nat)) (admitted : State → State) : State × PeerEnd :=
  match es.findSome? (s.peerRefusal r) with
  | some (some u) => (s.deadRead r.ptag u.1 u.2, .answer .abort)
  | some none => (s, .answer .abort)
  | none =>
    if es.any s.lineHeld then (s, .held [])
    else
      let (s, bs) := (admitted s).peerPerform r es
      (if isPeerAtomic r then s.keepPeerMemo r bs else s, .answer (.bytes bs))

/-- Whether a request is the retry of an atomic that no memo answers and whose outcome is unknown (R183, R340): its memo has
aged, or an entry of the peer's has been lost to an error. -/
def State.peerMemoGone (s : State) (r : PeerReq) : Bool :=
  isPeerAtomic r && r.retry && (s.homes.aged.contains (r.src, r.ident) || s.homes.peerHoles.has r.src)

/-- Whether the home die of a retried atomic was reset after its issue (R183). -/
def State.staleEpoch (s : State) (r : PeerReq) (es : List (Target × Nat × Nat × Nat)) : Bool :=
  isPeerAtomic r && r.retry && es.any fun e => e.1 == .device && (s.die (homeDie e.2.1)).epoch != r.epoch

/-- A peer's request whose lines are known: the outcome of a retried atomic whose home die was reset after its issue is
unknown (R183). -/
def State.ingressLines (s : State) (r : PeerReq) (es : List (Target × Nat × Nat × Nat)) : State × PeerEnd :=
  if s.staleEpoch r es then (s, .answer .unknown) else s.atLines r es fun s => s.countSprue r

/-- A peer's request that the ingress takes up: the memo answers a retried atomic, and the outcome of one whose memo is
gone is unknown (R183). -/
def State.ingressOne (s : State) (r : PeerReq) : State × PeerEnd :=
  if !s.admitted r || !peerFits r then (s, .answer .abort)
  else match (if isPeerAtomic r && r.retry then s.peerMemo r else none) with
    | some m => (s, .answer (.bytes (leBytes (peerBytes r.op) m.result.toNat)))
    | none =>
      if s.peerMemoGone r then (s, .answer .unknown)
      else match s.sprueJudges r with
        | .abort => (s, .answer .abort)
        | .hold => (s, .held [])
        | .lands =>
          match s.admitParts r (cutAt 16 r.addr.toNat (peerBytes r.op)) with
          | (s, .hold fs) => (s, .held fs)
          | (s, .abort) => (s, .answer .abort)
          | (s, .parts ps) => s.ingressLines r (peerLines ps 0)

/-- The bytes of an answer. -/
def PeerAnswer.length : PeerAnswer → Nat
  | .bytes bs => bs.length
  | .abort | .unknown => 0

/-- The answer to a peer: to a read or an atomic, and an abort, a message of class A (R184), which goes out as a flit
(R315). -/
def State.answered (s : State) (src : Nat) (a : PeerAnswer) : State :=
  let s := { s with dev := { s.dev with answer := a } }
  match s.route src 0 a.length with
  | .goes l => s.sendFlit src l 0 a.length
  | _ => s

/-- `fabric ingress request` (R307): one that an earlier held request of its source holds back is held too. -/
def execFabricIngressRequest (req : PeerReq) (s : State) : Host.Outcome State Fault Refusal :=
  let hold := fun (s : State) (faults : List Nat) => { s with dev := { s.dev with ingressHeld := s.dev.ingressHeld ++ [⟨req, faults⟩] } }
  .next (if s.dev.ingressHeld.any fun e => holdsBack e.req req then hold s []
    else match s.ingressOne req with
      | (s, .answer a) => s.answered req.src a
      | (s, .held fs) => hold s fs)

/-- Whether a page fault to which a held request is attached has not been answered (R376). -/
def State.pageWaits (s : State) (h : HeldReq) : Bool := h.faults.any (s.tenant (s.tenantOf h.req.ptag)).faults.has

/-- The held requests of peers taken up again in the order of their arrival (R282, R376). -/
def State.presentHeld (s : State) : State :=
  if s.dev.ingressHeld.isEmpty then s
  else
    let (s, kept) := s.dev.ingressHeld.foldl (fun (acc : State × List HeldReq) h =>
      if (acc.2.any fun e => holdsBack e.req h.req) || acc.1.pageWaits h then (acc.1, acc.2 ++ [h])
      else match acc.1.ingressOne h.req with
        | (s, .answer a) => (s.answered h.req.src a, acc.2)
        | (s, .held fs) => (s, acc.2 ++ [⟨h.req, fs⟩])) (s, [])
    { s with dev := { s.dev with ingressHeld := kept } }

/-- Some held requests answered with an abort completion. -/
def State.abortHeld (s : State) (which : HeldReq → Bool) : State :=
  (s.dev.ingressHeld.filter which).foldl (fun s h => s.answered h.req.src .abort)
    { s with dev := { s.dev with ingressHeld := s.dev.ingressHeld.filter fun h => !which h } }

/-- `memo entry aged` (R183): a peer's memo older than the retry window. -/
def execMemoEntryAged (peer idx : Nat) (s : State) : Host.Outcome State Fault Refusal :=
  let window := microseconds (10 * s.dev.regs.retryW)
  .next (match s.homes.peerMemos.find? fun m => m.peer == peer && m.ident == idx with
    | some m =>
      if m.since + window ≤ s.ctrl.time then
        { s with homes := { s.homes with
            peerMemos := s.homes.peerMemos.filter fun e => !(e.peer == peer && e.ident == idx)
            aged := s.homes.aged ++ [(peer, idx)] } }
      else s
    | none => s)

/-! ## Ports (R185, R315, R367 to R369) -/

/-- A port brought up by the PF (R369, R370). -/
def State.linkUp (s : State) (l : Nat) : State :=
  let k := s.link l
  if s.dev.regs.bootStep = 7 && decide (l < 20) && (k.phase == .down || k.phase == .failed) then
    s.setLink l { phase := .up, keySince := s.ctrl.time, limLog := s.dev.regs.rkLog2, limSec := s.dev.regs.rkSec }
  else s

/-- The acknowledgement of flits by a port's receiver: they leave the replay buffer. -/
def State.linkAck (s : State) (l n : Nat) : State :=
  let k := s.link l
  if k.phase == .up then s.setLink l { k with replay := k.replay.drop n } else s

/-- `u cap release` (R185): the messages of class U that left more than 10 µs ago no longer count. -/
def execUCapRelease (port : Nat) (s : State) : Host.Outcome State Fault Refusal :=
  let k := s.link port
  .next (s.setLink port { k with uLog := k.uLog.filter fun e => decide (s.ctrl.time < e.1 + microseconds 10) })

/-- Whether a receiver holds the key of an index. -/
def Link.holds (k : Link) (i : Bool) : Bool := if i then k.recv.2 else k.recv.1
/-- The receiver with the key of an index installed or erased. -/
def Link.setKey (k : Link) (i on : Bool) : Link := { k with recv := if i then (k.recv.1, on) else (on, k.recv.2) }

/-- `key rollover due` (R315): the flit count or time of LINKCFG is reached in STEADY, and the old key of the
other index is gone. -/
def execKeyRolloverDue (link : Nat) (s : State) : Host.Outcome State Fault Refusal :=
  let k := s.link link
  .next (match k.key with
    | .steady i =>
      if !k.holds (!i) && decide (2 ^ k.limLog ≤ k.flits ∨ k.keySince + microseconds (k.limSec * 1000000) ≤ s.ctrl.time) then
        s.setLink link { k.setKey (!i) true with key := .wait i }
      else s
    | _ => s)

/-- `key ready` (R315): new flits go out under the other index. -/
def execKeyReady (link : Nat) (s : State) : Host.Outcome State Fault Refusal :=
  let k := s.link link
  .next (match k.key with
    | .wait i => s.setLink link { k with
        key := .drain i, flits := 0, keySince := s.ctrl.time, limLog := s.dev.regs.rkLog2, limSec := s.dev.regs.rkSec }
    | _ => s)

/-- `replay drained` (R315): no flit under the old index is in the replay buffer. -/
def execReplayDrained (link : Nat) (s : State) : Host.Outcome State Fault Refusal :=
  let k := s.link link
  .next (match k.key with
    | .drain i => if k.replay.contains i then s else s.setLink link { k with key := .steady (!i) }
    | _ => s)

/-- `retire key` (R315): the receiver erases the index that the sender has left. -/
def execRetireKey (link : Nat) (s : State) : Host.Outcome State Fault Refusal :=
  let k := s.link link
  .next (match k.key with
    | .steady i => s.setLink link (k.setKey (!i) false)
    | _ => s)

/-- A link that retrains (R369). -/
def State.retrain (s : State) (l : Nat) : State :=
  let k := s.link l
  if k.phase == .up then s.setLink l { k with phase := .retraining, since := s.ctrl.time } else s

/-- `link integrity failure` (R315): the link retrains. -/
def execLinkIntegrityFailure (link : Nat) (s : State) : Host.Outcome State Fault Refusal := .next (s.retrain link)

/-- `lane loss` (R369). -/
def execLaneLoss (link : Nat) (s : State) : Host.Outcome State Fault Refusal := .next (s.retrain link)

/-- `flit check failure` (R315): the replay buffer sends its flits again under their own indices, and the link
retrains where the receiver lacks the key of one. -/
def execFlitCheckFailure (link : Nat) (s : State) : Host.Outcome State Fault Refusal :=
  let k := s.link link
  .next (if k.replay.any fun i => !k.holds i then s.retrain link else s)

/-- `link retrained` (R369): within 100 µs; the replay buffer sends again. -/
def execLinkRetrained (link : Nat) (s : State) : Host.Outcome State Fault Refusal :=
  let k := s.link link
  .next (if k.phase == .retraining && decide (s.ctrl.time ≤ k.since + microseconds 100) then s.setLink link { k with phase := .up } else s)

/-! ## The failure of a port (R369, R377) -/

/-- The class code of a link-loss entry for the KIND of a window leaf (R303, R377). -/
def lossClass (kind : Nat) : Nat := if kind = 4 then 0 else if kind = 3 then 1 else 2

/-- The port through which a request to a peer has left that has not been answered. -/
def Req.portUsed (r : Req) : Option Nat := if r.status == .sent || r.status == .performed then r.port else none

/-- The writes that a failing port loses, by tenant, endpoint and class code, with their numbers. -/
def State.lostWrites (s : State) (l : Nat) : List ((Nat × Nat × Nat) × Nat) :=
  s.homes.reqs.foldl (fun acc e =>
    match e.2.portUsed == some l && e.2.status == .sent, e.2.op, e.2.target with
    | true, .store _, .peer ep _ kind =>
      let key := (s.tenantOf e.2.tag, ep, lossClass kind)
      if acc.any fun x => x.1 == key then acc.map fun x => if x.1 == key then (x.1, x.2 + 1) else x else acc ++ [(key, 1)]
    | _, _, _ => acc) []

/-- An entry put into a link-loss log (R377). -/
def LossLog.push (g : LossLog) (r : LossRec) : LossLog := { recs := g.recs.put g.next r, next := (g.next + 1) % 64 }

/-- Lost writes entered into their tenant's log, with its interrupt. -/
def State.logLoss (s : State) (e : (Nat × Nat × Nat) × Nat) : State :=
  let (n, ep, cls) := e.1
  let r : LossRec := { time := s.ctrl.now - (s.die 0).clkBase, count := e.2, cls, ep }
  ({ s with dev := { s.dev with lossLogs := s.dev.lossLogs.put n ((s.dev.lossLogs.get n {}).push r) } }).irq (some n) 0

/-- A request on a failed port (R369): an atomic takes cause 0x30C, a load is sent again, a posted
write that has not been performed is lost (log entry 51). -/
def Req.onFailure (r : Req) : Req :=
  match r.op with
  | .load _ => { r with status := .lost, results := [], bad := [] }
  | .store _ => if r.status == .sent then { r with status := .performed } else r
  | _ => { r with status := .performed, results := [], bad := r.pieces.map fun p => (p.lane, 0x30C, p.lane) }

/-- The endpoint that a `cpyx` copies with, and the class of its messages. -/
def State.copyPair (s : State) (c : CopyCmd) : Option (Nat × Nat) :=
  match c.kind with
  | .put => s.putTo c
  | .get =>
    match s.resolve c.ctx c.uclass .load c.gaddr (s.walkBy (fun _ => false) c.ctx c.gaddr) with
    | .ok (.peer ep _ _) _ _ => some (ep, 0)
    | _ => none
  | _ => none

/-- Whether a copy with a peer has messages on a port: those of a pair are on the port to which it is held, and others
are spread over every port of their medium (R368, log entry 81). -/
def State.copyUses (s : State) (l : Nat) (t : Nat × Nat) : Bool :=
  if t.2 == 3 || t.2 == 4 then s.heldPort t.1 t.2 == some l else s.medium t.1 l

/-- A copy command on a failed port. -/
def State.copyOnFailure (s : State) (l : Nat) (c : CopyCmd) : CopyCmd :=
  if c.started && c.status == 0 && (s.copyPair c).any (s.copyUses l) then { c with status := 6 } else c

/-- A port counted failed (R369): what is in flight through it is lost or aborted, and the pairs held to it are free to
move. -/
def State.failLink (s : State) (l : Nat) (ph : LinkPhase) : State :=
  let losses := s.lostWrites l
  let reqs := s.homes.reqs.map fun (e : Nat × Req) => if e.2.portUsed == some l then (e.1, e.2.onFailure) else e
  let cores := s.cores.map fun (c : Nat × Core) =>
    (c.1, { c.2 with copies := c.2.copies.map fun (x : Nat × CopyCmd) => (x.1, s.copyOnFailure l x.2) })
  let s := { s with cores, homes := { s.homes with reqs } }
  let s := losses.foldl State.logLoss s
  { s.setLink l { phase := ph } with dev := { (s.setLink l { phase := ph }).dev with pairs := s.dev.pairs.filter fun e => e.2 != l } }

/-- `retrain timeout` (R369): a link that has not recovered in 100 µs. -/
def execRetrainTimeout (link : Nat) (s : State) : Host.Outcome State Fault Refusal :=
  let k := s.link link
  .next (if k.phase == .retraining && decide (k.since + microseconds 100 < s.ctrl.time) then s.failLink link .failed else s)

end Sys2Proof.Machine
end

