-- ==== Sys2Proof/Machine/Host.lean ====
section
/-! DEFINITION. The host interface: configuration registers, doorbells, BAR2, the firmware mailbox, page-fault
answers, sprue requests, page migration, boot, measurements and the clock (R181, R265, R296, R297, R300, R301,
R305 to R307, R325, R352, R362 to R378). -/

namespace Sys2Proof.Machine

open Sys2Proof

/-- Bits hi : lo of a number. -/
def fieldBits (v hi lo : Nat) : Nat := v / 2 ^ lo % 2 ^ (hi + 1 - lo)

/-- The PF's registers replaced. -/
def State.setRegs (s : State) (r : Regs) : State := { s with dev := { s.dev with regs := r } }

/-- Whether the VFs are enabled: the boot has completed (R370). -/
def State.vfs (s : State) : Bool := s.dev.regs.bootStep == 7

/-- Whether the virtual function of a tenant is enabled (R296, R370). -/
def State.vf (s : State) (n : Nat) : Bool := s.vfs && decide (n < 64) && (s.tenant n).en

/-! ## Configuration registers (R265, R296, R297, R352, R364, R373) -/

/-- Whether every fabric port is down (R364). -/
def State.portsDown (s : State) : Bool := (List.range 20).all fun l => (s.link l).phase != .up && (s.link l).phase != .retraining

/-- `fabcfg write` (R364). -/
def execFabcfgWrite (val : DWord) (s : State) : Host.Outcome State Fault Refusal :=
  let v := val.toNat
  let hi := fieldBits v 57 40
  let lo := fieldBits v 39 22
  let ep := fieldBits v 17 0
  let g := s.dev.regs
  .next (if (decide (lo ≤ hi) && decide (1024 < hi - lo + 1)) || (ep != g.epid && !s.portsDown) then s
    else s.setRegs { g with podHi := hi, podLo := lo, epid := ep })

/-- Whether a pour runs on a die (R178): some flask has a block there. -/
def State.pourRuns (s : State) (die : Nat) : Bool := !(s.flasksOn die).isEmpty

/-- Whether frames of a die between two sizes of its remote-data cache are owned by a context (R304, R364). -/
def State.ownedBetween (s : State) (die old new : Nat) : Bool :=
  s.homes.frames.any fun f =>
    f.2.setWidth 8 != (0 : BitVec 8) && f.1 * 2 ^ 16 / 2 ^ 39 == die
    && decide ((236 - new) * 2 ^ 30 ≤ f.1 * 2 ^ 16 % 2 ^ 39 ∧ f.1 * 2 ^ 16 % 2 ^ 39 < (236 - old) * 2 ^ 30)

/-- Whether a die's remote-data cache may take a size. -/
def State.sizeOk (s : State) (die new : Nat) : Bool :=
  let old := s.dev.regs.rdcSz die
  new == old || (decide (new ≤ 64) && !s.pourRuns die && !s.ownedBetween die old new)

/-- A die's remote-data cache empty after a change of its size (R178). -/
def State.resized (s : State) (die new : Nat) : State :=
  if s.dev.regs.rdcSz die = new then s else s.setDie die { s.die die with rdc := [] }

/-- `memcfg write` (R311, R364): a lease that ends is kept for the longest lease. -/
def execMemcfgWrite (val : DWord) (s : State) : Host.Outcome State Fault Refusal :=
  let v := val.toNat
  let lease := fieldBits v 49 40
  let retry := fieldBits v 39 30
  let z1 := fieldBits v 13 7
  let z0 := fieldBits v 6 0
  .next (if decide (1 ≤ lease ∧ lease ≤ 1000 ∧ 1 ≤ retry ∧ retry ≤ 100) && s.sizeOk 0 z0 && s.sizeOk 1 z1 then
      let old := s.dev.regs.lease
      let s := (s.resized 0 z0).resized 1 z1
      let s := { s with dev := { s.dev with leaseMax := s.dev.leaseMax ++ [(s.ctrl.time, old)] } }
      s.setRegs { s.dev.regs with lease, retryW := retry, rdcSz0 := z0, rdcSz1 := z1 }
    else s)

/-- `linkcfg write` (R364): it applies from each link's next rollover. -/
def execLinkcfgWrite (val : DWord) (s : State) : Host.Outcome State Fault Refusal :=
  let log := fieldBits val.toNat 55 50
  let sec := fieldBits val.toNat 17 0
  .next (if 24 ≤ log ∧ log ≤ 48 ∧ 1 ≤ sec then s.setRegs { s.dev.regs with rkLog2 := log, rkSec := sec } else s)

/-- `contcfg write` (R352). -/
def execContcfgWrite (val : DWord) (s : State) : Host.Outcome State Fault Refusal :=
  let v := val.toNat
  let hours := fieldBits v 35 28
  let qdl := fieldBits v 9 0
  .next (if hours = 0 ∨ qdl < 10 ∨ 1000 < qdl then s
    else s.setRegs { s.dev.regs with fetEn := v.testBit 63, ceThr := fieldBits v 51 36, scrubH := hours, qdl })

/-- Whether a queue's locked fields may not change (R265). -/
def Queue.locked (q : Queue) : Bool := q.en || !q.entries.isEmpty || !q.overflow.isEmpty

/-- `launch queue config write` (R265). -/
def execLaunchQueueConfigWrite (tenant queue : Nat) (val : BitVec 512) (s : State) : Host.Outcome State Fault Refusal :=
  let v := val.toNat
  let t := s.tenant tenant
  let q := t.queues.get queue {}
  let new : Queue := { q with
    en := v.testBit 255, cls := fieldBits v 249 248, depthM1 := fieldBits v 247 240, ovfBase := fieldBits v 312 256
    ovfQuota := fieldBits v 351 336, mask := val.setWidth 240 &&& coreMask fun c => !(s.core c).retired }
  let same := new.cls == q.cls && new.depthM1 == q.depthM1 && new.ovfBase == q.ovfBase && new.ovfQuota == q.ovfQuota
  .next (if !s.vf tenant || decide (t.nq ≤ queue) || (new.cls == 0 && !t.urt) || new.ovfBase % 4096 != 0 || (q.locked && !same) then s
    else s.setTenant tenant { t with queues := t.queues.put queue new })

/-- `tenant word write` (R296). -/
def execTenantWordWrite (tenant : Nat) (val : DWord) (s : State) : Host.Outcome State Fault Refusal :=
  let v := val.toNat
  let t := s.tenant tenant
  let new : Tenant := { t with
    en := v.testBit 63, urt := v.testBit 62, nwin := fieldBits v 52 44, ninb := fieldBits v 43 37, nvec := fieldBits v 36 30
    nq := fieldBits v 29 25, nsave := fieldBits v 24 9 }
  let same := new.urt == t.urt && new.nwin == t.nwin && new.ninb == t.ninb && new.nvec == t.nvec && new.nq == t.nq && new.nsave == t.nsave
  let legal := decide (new.nwin ≤ 256 ∧ new.ninb ≤ 64 ∧ (new.nvec = 0 ∨ 4 ≤ new.nvec) ∧ new.nvec ≤ 64 ∧ new.nq ≤ 16)
  .next (if decide (64 ≤ tenant) || !legal || (t.en && !same) then s else s.setTenant tenant new)

/-- `context entry write` (R297, R373): enabling an entry begins the loading of a new key, and the context begins
with ASGEN 0 (R66), empty slots of decode tables (R45), and no translation, pour or range of its own. Disabling an entry
ends its context as `tagkill` does (log entry 131), and the tag of an ended context is not given to a new one before its
frames have been reassigned (R314, log entry 99). -/
def execContextEntryWrite (tag : Nat) (val : BitVec 128) (s : State) : Host.Outcome State Fault Refusal :=
  let v := val.toNat
  let c := s.context tag
  let en := v.testBit 127
  let priv := v.testBit 126
  let tenant := fieldBits v 125 120
  let root := fieldBits v 115 64
  .next (if decide (tag = 0 ∨ 256 ≤ tag) || !(s.tenant tenant).en || root % 4096 != 0
      || ((c.en || c.loading) && (priv != c.priv || tenant != c.tenant)) || (en && !c.stale.isEmpty) then s
    else if en && !c.en && !c.loading then
      (s.clearTlbs tag).setContext tag { priv, tenant, root, loading := true, hentry := c.hentry }
    else
      let s := if c.en && !en then s.endContext tag else s
      s.setContext tag { s.context tag with loading := c.loading && en, priv, tenant, root })

/-- `context key loaded` (R373): EN becomes 1, and firmware writes the native table of map 3 into slot 0 (R45). -/
def execContextKeyLoaded (tag : Nat) (s : State) : Host.Outcome State Fault Refusal :=
  let c := s.context tag
  .next (if c.loading then s.setContext tag { c with en := true, loading := false, tables := [(0, .map3)], dtsel := 0 } else s)

/-! ## Doorbells and BAR2 (R365, R366) -/

/-- Whether a host request's second half names an enabled context of a tenant (R365). -/
def State.namesContext (s : State) (tenant : Nat) (tail : DWord) : Bool :=
  let tag := tail.toNat % 256
  decide (tail.toNat < 256) && tag != 0 && (s.context tag).en && (s.context tag).tenant == tenant && (s.tenant tenant).en

/-- The launch of a doorbell (R365): the result word, once its reads do not wait. -/
def State.ring (s : State) (tenant queue : Nat) (desc tail : DWord) : Option (State × Word) :=
  if !s.namesContext tenant tail then some (s, 0x80000006)
  else if desc.toNat % 128 ≠ 0 then some (s, 0x80000002)
  else s.launchAt (tail.toNat % 256) queue desc.toNat none

/-- One part of a host access through the aperture (R300, R305): its place, or how it fails or waits. -/
def State.hostPart (s : State) (tag : Nat) (k : AccKind) (va n : Nat) : State × Admit :=
  let w := s.walk none tag va
  let t := s.walked none tag va w
  match s.resolve tag false k va w with
  | .ok (.peer ep ptag kind) a _ =>
    let cls := if k = .load then 0 else kind
    (match s.route ep cls n with
      | .refused => (t, .abort)
      | .waits => (s, .hold [])
      | .goes _ => if s.ordered ep (k == .store) cls then (s, .hold []) else (t, .parts [(.peer ep ptag kind, a, n)]))
  | .ok g a _ => (t, .parts [(g, if g == .device then s.forward a else a, n)])
  | .waits => (s, .hold [])
  | _ => (t, .abort)

/-- The parts of a host access: the first that does not find its place decides. -/
def State.hostParts (s : State) (tag : Nat) (k : AccKind) : List (Nat × Nat) → State × Admit
  | [] => (s, .parts [])
  | p :: rest =>
    match s.hostPart tag k p.1 p.2 with
    | (s, .parts ps) =>
      (match s.hostParts tag k rest with
        | (s, .parts qs) => (s, .parts (ps ++ qs))
        | e => e)
    | e => e

/-- The messages of a host access to peers sent (R315). -/
def State.hostFlits (s : State) (k : AccKind) (ps : List (Target × Nat × Nat)) : State :=
  ps.foldl (fun s p => match p.1 with
    | .peer ep _ kind =>
      let cls := if k = .load then 0 else kind
      (match s.route ep cls p.2.2 with
        | .goes l => s.sendFlit ep l cls p.2.2
        | _ => s)
    | _ => s) s

/-- An access of the host to a context's memory (R366): it waits where a load or a store of the context would. -/
def State.hostAccess (s : State) (tag va : Nat) (op : PeerOp) : State × PeerEnd :=
  let n := peerBytes op
  let r : PeerReq := { src := 0x3FFFF, ptag := tag, addr := BitVec.ofNat 64 va, ident := 0, op }
  if n = 0 ∨ 2 ^ 57 < va + n then (s, .answer .abort)
  else match s.hostParts tag (peerAcc op) (cutAt 16 va n) with
    | (s, .hold _) => (s, .held [])
    | (s, .abort) => (s, .answer .abort)
    | (s, .parts ps) => s.atLines r (peerLines ps 0) fun s => s.hostFlits (peerAcc op) ps

/-- What a read of the host returns. -/
def State.hostReturns (s : State) (bs : List Byte) : State := { s with dev := { s.dev with hostRead := bs } }

/-- The answer to an access through BAR2: a read that fails returns all ones (R366). -/
def State.bar2Answer (s : State) (write : Option (List Byte)) (len : Nat) (a : PeerAnswer) : State :=
  match write, a with
  | some _, _ => s
  | none, .bytes bs => s.hostReturns bs
  | none, _ => s.hostReturns (List.replicate len 0xFF)

/-- The access of a context that an access through BAR2 makes (R366), with the aperture select that it found. -/
def State.throughAperture (s : State) (tenant aperture ofs : Nat) (write : Option (List Byte)) (len : Nat) : State × PeerEnd :=
  let tag := aperture % 256
  if s.namesContext tenant (BitVec.ofNat 64 tag) then
    s.hostAccess tag (fieldBits aperture 56 30 * 2 ^ 30 + ofs) (match write with
      | some d => .write d false false
      | none => .read len)
  else (s, .answer .abort)

/-- The arming of a sprue by a tenant's system software (R378): the result word, once its reads do not wait. -/
def State.armRequest (s : State) (tenant : Nat) (desc tail : DWord) : Option (State × Word) :=
  let tag := tail.toNat % 256
  if !s.namesContext tenant tail then some (s, 0x80000006)
  else if desc.toNat % 64 ≠ 0 then some (s, 0x80000002)
  else match s.readSprue none tag desc.toNat with
    | (.wait, _) => none
    | (.bytes _, b, d, i) => some ((s.readsMade none tag (sprueReads desc.toNat b i)).armSprue tag b d i)
    | (.dead u k, b, _, i) => some ((s.readsMade none tag (sprueReads desc.toNat b i)).deadRead tag u k, 0x80000002)
    | (_, b, _, i) => some (s.readsMade none tag (sprueReads desc.toNat b i), 0x80000002)

/-- The tenant through whose function a request came. -/
def HostReq.tenant : HostReq → Nat
  | .bar2 n _ _ _ _ | .doorbell n _ _ _ | .sparmreq n _ _ => n

/-- A request of the host taken up: none where it has to wait. -/
def State.hostTry (s : State) : HostReq → Option State
  | .bar2 n ap ofs w len =>
    match s.throughAperture n ap ofs w len with
    | (t, .answer a) => some (t.bar2Answer w len a)
    | (_, .held _) => none
  | .doorbell n q desc tail =>
    (s.ring n q desc tail).map fun e => e.1.setTenant n { e.1.tenant n with results := (e.1.tenant n).results.put q e.2 }
  | .sparmreq n desc tail =>
    (s.armRequest n desc tail).map fun e => e.1.setTenant n { e.1.tenant n with spRes := e.2 }

/-- A request of the host: it waits behind the earlier ones of its function that wait (R365, R378). -/
def State.hostAccept (s : State) (r : HostReq) : State :=
  let hold := { s with dev := { s.dev with hostHeld := s.dev.hostHeld ++ [r] } }
  if s.dev.hostHeld.any fun e => e.tenant == r.tenant then hold else (s.hostTry r).getD hold

/-- The waiting requests of the host taken up again in the order of their arrival. -/
def State.presentHost (s : State) : State :=
  if s.dev.hostHeld.isEmpty then s
  else s.dev.hostHeld.foldl State.hostAccept { s with dev := { s.dev with hostHeld := [] } }

/-- `doorbell` (R365). -/
def execDoorbell (tenant queue : Nat) (desc : DWord) (tail : DWord) (s : State) : Host.Outcome State Fault Refusal :=
  .next (if !s.vf tenant || decide (16 ≤ queue) then s else s.hostAccept (.doorbell tenant queue desc tail))

/-- The size of a function's BAR2 in bytes (R361): 64 GiB until the host has resized it (log entry 153). -/
def State.bar2Size (s : State) (fn : Nat) : Nat := 2 ^ (30 + s.dev.bar2.get fn 6)

/-- The number of bytes of an access through BAR2. -/
def bar2Bytes (write : Option (List Byte)) (len : Nat) : Nat := write.elim len (·.length)

/-- `bar2 access` (R361, R366): BAR2 of the PF, function 64, which is there once the boot has completed (R370), reads 0 and
ignores writes. An access beyond a function's BAR2 reaches nothing. -/
def execBar2Access (tenant : Nat) (ofs : Nat) (write : Option (List Byte)) (len : Nat) (s : State) : Host.Outcome State Fault Refusal :=
  .next (if s.bar2Size tenant < ofs + bar2Bytes write len then s.bar2Answer write len .abort
    else if tenant = 64 then s.bar2Answer write len (if s.vfs then .bytes (List.replicate len 0) else .abort)
    else if s.vf tenant then s.hostAccept (.bar2 tenant (s.tenant tenant).aperture ofs write len)
    else s.bar2Answer write len .abort)

/-! ## Page migration (R181, R182) -/

/-- The 64 KiB device leaf that maps a page: the address of its entry, and the entry. -/
def State.pageLeaf (s : State) (tag va : Nat) : Option (Nat × Nat) :=
  match s.leafFrom tag va 4 (s.context tag).root with
  | some (0, at', e) => if bitsOf e 55 53 = 0 then some (at', e) else none
  | _ => none

/-- Whether a line lies in the frame of an address. -/
def inFrame (frame line : Nat) : Bool := line * 64 / 2 ^ 16 * 2 ^ 16 == frame

/-- Every combined store to a frame sent to its home. -/
def State.sendFrame (s : State) (frame : Nat) : State :=
  s.squads.foldl (fun (s : State) (q : Nat × Squad) =>
    s.sendLines (q.1 / 32) (q.1 % 32) ((q.2.combine.map (·.line)).filter (inFrame frame))) s

/-- Whether a command may not read a page's translation now: a read of the walk waits, or a die of the page or of the
new frame is out of service (R347). -/
def State.pageBusy (s : State) (tag va frame : Nat) : Bool :=
  (match s.walk none tag va with
    | .leaf base _ l => s.seamClosed none (l.addr + (va - base))
    | .waits => true
    | _ => false)
  || s.seamClosed none frame

/-- The start of a migration (R181, step 1): the state, and the result of the command. From here a `.si` store to the
page acts as `.uc`, so those that its die still combines are sent. The owner of the old frame is not checked: R181 and R375
ask for that of the new one (log entry 152). -/
def State.startMigration (s : State) (tag va frame : Nat) : State × Nat :=
  if !decide (va % 2 ^ 16 = 0 ∧ va < 2 ^ 57 ∧ frame % 2 ^ 16 = 0) || !(s.context tag).en || s.ownerTag frame != tag then (s, 1)
  else if s.pageBusy tag va frame then (s, 2)
  else match s.pageLeaf tag va with
    | none => (s.walked none tag va (s.walk none tag va), 1)
    | some (_, e) =>
      let s := s.walked none tag va (s.walk none tag va)
      if s.homes.migration.isSome then (s, 2)
      else
        let m : Migration := { tag, va, old := entryAddr e, new := frame, until' := s.ctrl.time + s.longestLease }
        let s := s.sendFrame (entryAddr e)
        ({ s with homes := { s.homes with migration := some m } }.raiseAsgen tag, 0)

/-- An owner record of a line of a frame, with the recall of all its words asked for. -/
def recallIn (frame : Nat) (o : Nat × OwnerRec) : Nat × OwnerRec :=
  if inFrame frame (o.1 / 512) then (o.1, { o.2 with pending := o.2.words }) else o

/-- The migration replaced. -/
def State.setMigration (s : State) (m : Option Migration) : State := { s with homes := { s.homes with migration := m } }

/-- `migration lease wait end` (R181): after the first wait the old home recalls the owned words of the page; after
the second the drain that ends forwarding begins. -/
def execMigrationLeaseWaitEnd (s : State) : Host.Outcome State Fault Refusal :=
  .next (match s.homes.migration with
    | none => s
    | some m =>
      if s.ctrl.time < m.until' then s
      else match m.step with
        | .marked =>
          let s := s.setMigration (some { m with step := .recalled })
          let owners := s.homes.owners.map (recallIn m.old)
          { s with homes := { s.homes with owners } }
        | .switched => s.setMigration (some { m with step := .forwarding })
        | _ => s)

/-- An address of the old frame moved to the new one. -/
def Migration.moved (m : Migration) (a : Nat) : Nat := if a / 2 ^ 16 * 2 ^ 16 = m.old then m.new + a % 2 ^ 16 else a

/-- A commutative range as the frames of its areas lie after the handover (R149). -/
def Migration.range (m : Migration) (r : Range) : Range :=
  { r with homeMap := r.homeMap.map m.moved, shadowMap := r.shadowMap.map m.moved }

/-- Steps 3 and 4 of R181: the values, damage, held requests and memos of every line move, with the ranges
that lie there, and the leaf names the new frame. -/
def State.handOver (s : State) (m : Migration) : State :=
  let s := s.cleaned fun l => inFrame m.old l || inFrame m.new l
  let bytes := s.mem.dev.filter fun e => e.1 / 2 ^ 16 * 2 ^ 16 == m.old
  let clear := s.mem.dev.filter fun e => e.1 / 2 ^ 16 * 2 ^ 16 != m.new
  let dev := bytes.foldl (fun (t : Memory) e => Table.put t (m.moved e.1) e.2) clear
  let line := fun (l : Nat) => m.moved (l * 64) / 64
  let reqs := s.homes.reqs.map fun (e : Nat × Req) =>
    if e.2.status == .held && e.2.target == .device && inFrame m.old e.2.line then
      (e.1, { e.2 with
        line := line e.2.line, pieces := e.2.pieces.map fun p => { p with addr := m.moved p.addr }
        epoch := s.movedEpoch e.2 (line e.2.line) })
    else e
  let memos := s.homes.memos.map fun (x : Memo) =>
    if x.home < 96 && inFrame m.old x.line then { x with line := line x.line, home := s.sliceKey (line x.line) } else x
  let sector := fun (u : Nat × Nat) => u.1 == 0x10 || u.1 == 0x11 || u.1 == 0x111
  let damage := (s.dev.damage.filter fun u => !(sector u && inFrame m.new (u.2 / 2))).map fun u =>
    if sector u then (u.1, m.moved (u.2 * 32) / 32) else u
  let s := { s with
    mem := { s.mem with dev }
    contexts := s.contexts.map fun (c : Nat × Context) => (c.1, { c.2 with ranges := c.2.ranges.map m.range })
    homes := { s.homes with reqs, memos, migration := some { m with step := .switched, until' := s.ctrl.time + s.longestLease } }
    dev := { s.dev with damage } }
  let s := match s.pageLeaf m.tag m.va with
    | some (at', e) => s.homeWrite at' (leBytes 8 (e - m.old + m.new))
    | none => s
  s.raiseAsgen m.tag

/-- Whether the homes of a migration may not hand over yet: an owned word is not home, or a die of the frames or of the
page's leaf is out of reach (R174, R347). -/
def State.handoverWaits (s : State) (m : Migration) : Bool :=
  (s.homes.owners.any fun o => inFrame m.old (o.1 / 512)) || (s.homes.backs.any fun b => inFrame m.old b.2.line)
  || s.seamClosed none m.old || s.seamClosed none m.new || (s.pageLeaf m.tag m.va).any fun e => s.homeWaits none e.1 8

/-- `migration handover` (R181): once every owned word of the page is home. -/
def execMigrationHandover (s : State) : Host.Outcome State Fault Refusal :=
  .next (match s.homes.migration with
    | none => s
    | some m => if m.step != .recalled || s.handoverWaits m then s else s.handOver m)

/-- Whether the drain that ends a migration's forwarding is idle (R181, R261): a drain of the package in the drain group
of system software (log entry 74). -/
def State.migrationIdle (s : State) (m : Migration) : Bool :=
  m.step == .forwarding && s.idleDie (Config.systemGroup % 16) 0 && s.idleDie (Config.systemGroup % 16) 1

/-- The drain that ends a migration brought up to date: a break of the idle condition starts its wait again (R261). -/
def State.watchMigration (s : State) : State :=
  match s.homes.migration with
  | some m => s.setMigration (some { m with since := if s.migrationIdle m then some (m.since.getD s.ctrl.now) else none })
  | none => s

/-- `migration forwarding end` (R181): once its drain has been idle for 1,400 cc (R261); DGEN is raised, and the old
frame is retired. -/
def execMigrationForwardingEnd (s : State) : Host.Outcome State Fault Refusal :=
  .next (match s.homes.migration with
    | none => s
    | some m =>
      if !s.migrationIdle m || (m.since.elim true fun t => decide (s.ctrl.now < t + 1400)) then s
      else
        let s := s.raiseDgen
        { s with
          homes := { s.homes with migration := none, retired := s.homes.retired ++ [m.old / 2 ^ 16] }
          dev := { s.dev with mailbox := { s.dev.mailbox with busy := s.dev.mailbox.busy.map fun c => { c with migrating := false } } } })

/-! ## The firmware mailbox (R375) -/

/-- The command in progress. -/
def State.setBusy (s : State) (c : Option MailCmd) : State := { s with dev := { s.dev with mailbox := { s.dev.mailbox with busy := c } } }

/-- A command started: ignored while another is in progress; a refused one changes nothing. -/
def State.command (s : State) (r : Nat) (t : State) : State :=
  if s.dev.mailbox.busy.isSome then s else (if r = 0 then t else s).setBusy (some { result := r })

/-- A die whose remote-data cache no longer holds lines of a frame. -/
def Die.forget (d : Die) (frame : Nat) : Die := { d with rdc := d.rdc.filter fun e => !inFrame (frame * 2 ^ 16) e.1 }

/-- A frame written with zeros (R301), its owned words recalled by the writes (R174): its sectors are no longer
damaged, no remote-data cache holds its lines, and it is in use again. -/
def State.zeroFrame (s : State) (frame : Nat) : State :=
  let here := fun (u : Nat × Nat) => (u.1 = 0x10 ∨ u.1 = 0x11 ∨ u.1 = 0x111) ∧ u.2 * 32 / 2 ^ 16 = frame
  let s := s.zeroBytes (frame * 2 ^ 16) (2 ^ 16)
  { s with
    homes := { s.homes with retired := s.homes.retired.filter fun f => f != frame }
    dev := { s.dev with
      dies := s.dev.dies.map fun d => (d.1, d.2.forget frame)
      damage := s.dev.damage.filter fun u => !decide (here u) } }

/-- A frame no longer counts among those that a freed tag still owns (R314). -/
def Context.reassign (c : Context) (frame : Nat) : Context := { c with stale := c.stale.filter fun f => f != frame }

/-- Command 0x01 (R300, R301). -/
def State.cmdFrameOwner (s : State) (frame : Nat) (entry : BitVec 16) : State :=
  let pa := frame * 2 ^ 16
  let e := entry &&& 0xC0FF
  let old := s.homes.frames.get frame 0
  s.command (if installed pa && s.contextMemory pa then 0 else 1)
    (let tag := (old.setWidth 8 : BitVec 8)
     let s := if tag = (e.setWidth 8 : BitVec 8) then s
       else (s.zeroFrame frame).setContext tag.toNat ((s.context tag.toNat).reassign frame)
     { s with homes := { s.homes with frames := if e = 0 then s.homes.frames.erase frame else s.homes.frames.put frame e } })

/-- `frame owner` (R300, R375). -/
def execFrameOwner (frame : Nat) (entry : BitVec 16) (s : State) : Host.Outcome State Fault Refusal :=
  .next (s.cmdFrameOwner frame entry)

/-- Command 0x02 (R271). -/
def State.cmdReserved (s : State) (map : BitVec 240) : State :=
  s.command 0 ((List.range 240).foldl (fun s c =>
    if (s.core c).reserved == map.getLsbD c then s else s.setCore c { s.core c with reserved := map.getLsbD c }) s)

/-- `reserved slots` (R271). -/
def execReservedSlots (map : BitVec 240) (s : State) : Host.Outcome State Fault Refusal := .next (s.cmdReserved map)

/-- A unit counted as retired, with the request for its replacement (R352, R358). -/
def State.unitRetired (s : State) (slice : Option Nat) : State :=
  let g := s.dev.regs
  (s.setRegs { g with
    repReq := true, slices := g.slices ++ slice.toList, nLink := if slice.isSome then g.nLink else g.nLink + 1 }).irq none 0

/-- Command 0x03 (R352, R358): a slice at step 5 of R347 alone. A slice that is retired already is refused with 2, as a port is (log entry 109). -/
def State.cmdRetire (s : State) (kind die index : Nat) : State :=
  if kind = 0 then
    let u := die * 48 + index
    s.command (if 2 ≤ die ∨ 48 ≤ index then 1 else if (s.die die).phase != .reset || s.dev.regs.slices.contains u then 2 else 0)
      (s.unitRetired (some u))
  else
    let l := die * 10 + index
    s.command (if 2 ≤ kind ∨ 2 ≤ die ∨ 10 ≤ index then 1 else if (s.link l).phase = .retired then 2 else 0)
      ((s.failLink l .retired).unitRetired none)

/-- `retire unit` (R352, R358, R375). -/
def execRetireUnit (kind die index : Nat) (s : State) : Host.Outcome State Fault Refusal := .next (s.cmdRetire kind die index)

/-- A flask that is not placed again until command 0x07 releases it, where a command holds it (R375). -/
def State.holdFlask (s : State) (c : MailCmd) (f : Nat) : State :=
  if c.hold then s.setFlask f { s.flask f with hold := true } else s

/-- A flask pre-empted by a command of the mailbox. -/
def State.mailPreempt (s : State) (c : MailCmd) (f : Nat) : State :=
  (match c.action with
    | 0 => s.preempt f (some c.deadline)
    | 1 => s.beginSave f
    | _ => if s.flushable f then s.flush f else s.beginSave f).holdFlask c f

/-- Whether a flask named by a pre-emption still holds its slots. -/
def State.placed (s : State) (f : Nat) : Bool := s.flasks.has f && ((s.flask f).status == .resident || (s.flask f).status == .saving)

/-- The flasks of a command in progress that may now be acted on: one whose handler runs waits (R285), one that an
earlier trigger drains is acted on too, and one that is being saved is held. -/
def State.advanceMail (s : State) (c : MailCmd) : State :=
  let ready := c.todo.filter fun f => s.flasks.has f && (s.flask f).status == .resident && !s.handling (s.flask f)
  let saving := c.flasks.filter fun f => (s.flask f).status == .saving
  let s := ready.foldl (fun s f => s.mailPreempt c f) (saving.foldl (fun s f => s.holdFlask c f) s)
  s.setBusy (some { c with flasks := c.flasks.filter s.placed, todo := c.todo.filter fun f => !ready.contains f && s.placed f })

/-- The flasks of a command in progress that have left their slots are no longer awaited. -/
def State.watchMail (s : State) : State :=
  match s.dev.mailbox.busy with
  | some c => if c.flasks.isEmpty then s else s.setBusy (some { c with flasks := c.flasks.filter s.placed, todo := c.todo.filter s.placed })
  | none => s

/-- Command 0x04 (R285, R286). -/
def State.cmdPreempt (s : State) (tag pour flask action deadline : Nat) (hold : Bool) : State :=
  if s.dev.mailbox.busy.isSome then s
  else if action > 2 ∨ (s.context tag).en = false then s.command 1 s
  else
    let named := (s.flasks.filter fun f =>
      let p := s.pour f.2.pour
      (f.2.status == .resident || f.2.status == .saving) && p.tag == tag && (pour == 0 || p.num == pour)
        && (flask == 0xFFFFFFFF || f.2.idx == flask)).map (·.1)
    s.advanceMail { flasks := named, todo := named, action, deadline, hold }

/-- `pre-empt` (R375). -/
def execPreEmpt (tag pour flask action deadline : Nat) (hold : Bool) (s : State) : Host.Outcome State Fault Refusal :=
  .next (s.cmdPreempt tag pour flask action deadline hold)

/-- Command 0x05 (R181). -/
def State.cmdMigrate (s : State) (tag va frame : Nat) : State :=
  if s.dev.mailbox.busy.isSome then s
  else
    let (t, r) := s.startMigration tag va frame
    t.setBusy (some { result := r, migrating := r == 0 })

/-- `migrate page` (R181). -/
def execMigratePage (tag : Nat) (va frame : DWord) (s : State) : Host.Outcome State Fault Refusal :=
  .next (s.cmdMigrate tag va.toNat frame.toNat)

/-- Command 0x06 (R368). -/
def State.cmdEndpoint (s : State) (ep : Nat) (ip : BitVec 128) (valid : Bool) : State :=
  let es := s.dev.endpoints
  s.command (if ep < 2 ^ 18 then 0 else 1) { s with dev := { s.dev with endpoints := if valid then es.put ep ip else es.erase ep } }

/-- `endpoint map` (R368). -/
def execEndpointMap (ep : Nat) (ip : BitVec 128) (valid : Bool) (s : State) : Host.Outcome State Fault Refusal :=
  .next (s.cmdEndpoint ep ip valid)

/-- Command 0x07 (R375). -/
def State.cmdRelease (s : State) (tag pour : Nat) : State :=
  s.command (if (s.context tag).en then 0 else 1) { s with flasks := s.flasks.map fun (f : Nat × Flask) =>
    let p := s.pour f.2.pour
    if p.tag == tag && (pour == 0 || p.num == pour) then (f.1, { f.2 with hold := false }) else f }

/-- `release held` (R375). -/
def execReleaseHeld (tag pour : Nat) (s : State) : Host.Outcome State Fault Refusal := .next (s.cmdRelease tag pour)

/-- Command 0x08 (R374). -/
def State.cmdPower (s : State) (watts : Nat) : State :=
  s.command (if 800 ≤ watts ∧ watts ≤ 2200 then 0 else 1) (s.setRegs { s.dev.regs with power := watts })

/-- `power limit` (R374). -/
def execPowerLimit (watts : Nat) (s : State) : Host.Outcome State Fault Refusal := .next (s.cmdPower watts)

/-- A write to GO (R375): the command that CMD holds. -/
def State.goMailbox (s : State) : State :=
  let b := leBytes 64 s.dev.mailbox.cmd.toNat
  match fieldOf b 0 3 with
  | 1 => s.cmdFrameOwner (fieldOf b 8 15) (BitVec.ofNat 16 (fieldOf b 16 17))
  | 2 => s.cmdReserved (BitVec.ofNat 240 (fieldOf b 8 37))
  | 3 => s.cmdRetire (fieldOf b 8 8) (fieldOf b 9 9) (fieldOf b 10 10)
  | 4 => s.cmdPreempt (fieldOf b 8 8) (fieldOf b 12 15) (fieldOf b 16 19) (fieldOf b 20 20) (fieldOf b 24 27) (fieldOf b 21 21 % 2 == 1)
  | 5 => s.cmdMigrate (fieldOf b 8 8) (fieldOf b 16 23) (fieldOf b 24 31)
  | 6 => s.cmdEndpoint (fieldOf b 8 11) (BitVec.ofNat 128 (fieldOf b 12 27)) (fieldOf b 28 28 % 2 == 1)
  | 7 => s.cmdRelease (fieldOf b 8 8) (fieldOf b 12 15)
  | 8 => s.cmdPower (fieldOf b 8 11)
  | _ => s.command 3 s

/-- `mailbox done` (R375): the command in progress goes on, or has finished and is signalled. -/
def execMailboxDone (s : State) : Host.Outcome State Fault Refusal :=
  .next (match s.dev.mailbox.busy with
    | none => s
    | some c =>
      let t := s.advanceMail c
      match t.dev.mailbox.busy with
      | some d =>
        if d.flasks.isEmpty && !d.migrating then
          { t with dev := { t.dev with mailbox := { t.dev.mailbox with busy := none, result := d.result } } }.irq none 0
        else t
      | none => t)

/-! ## Page faults (R233, R376) -/

/-- A parked sub-group after the answer to the fault of a page: its lanes no longer wait for it, and are declined or
not. -/
def Group.answered (g : Group) (fid page : Nat) (decline : Bool) : Group :=
  match g.kind with
  | .parked fs d fetch =>
    let hit := fs.foldl (fun m f => if f.1 = fid then m ||| f.2 else m) (0 : Lanes)
    { g with kind := .parked (fs.filter fun f => f.1 != fid) (if decline && hit != 0 then d.put page (d.get page 0 ||| hit) else d) fetch }
  | _ => g

/-- The sub-groups of a control state after the answer to a fault. -/
def Ctl.answered (c : Ctl) (fid page : Nat) (decline : Bool) : Ctl :=
  { c with groups := c.groups.map fun g => g.answered fid page decline }

/-- An open access after the answer to a fault: the lanes that wait for it are among those that parked there. -/
def OpenAcc.answered (o : OpenAcc) (fid page : Nat) (decline : Bool) : OpenAcc :=
  { o with ctl := o.ctl.answered fid page decline, park := o.park.map fun g => g.answered fid page decline }

/-- A squad after the answer to a fault. -/
def Squad.answered (q : Squad) (fid page : Nat) (decline : Bool) : Squad :=
  { q with ctl := q.ctl.answered fid page decline, opens := q.opens.map fun o => o.answered fid page decline }

/-- A copy command after the answer to a fault: one that waits for it translates again, or ends with status 3 (R225). -/
def CopyCmd.answered (c : CopyCmd) (fid : Nat) (decline : Bool) : CopyCmd :=
  if c.held == some fid then { c with held := none, status := if decline && c.status = 0 then 3 else c.status } else c

/-- An engine program after the answer to a fault: one that waits for it goes on, or ends (R134, R225). -/
def Prog.answered (p : Prog) (fid : Nat) (decline : Bool) : Prog :=
  if p.waits == some fid then (if decline then { p.stop 0x100 with waits := none } else { p with waits := none }) else p

/-- A slot freed, with the answer given to everything that waits for it: lanes, those of a squad that a handler serves
among them, copies, programs and stack spills. -/
def State.answerFault (s : State) (tenant fid : Nat) (decline : Bool) : State :=
  let t := s.tenant tenant
  let page := (t.faults.get? fid).elim 0 fun f => f.va / 2 ^ 16
  let s := s.setTenant tenant { t with faults := t.faults.erase fid }
  let s := { s with
    squads := s.squads.map fun (q : Nat × Squad) => (q.1, q.2.answered fid page decline)
    blocks := s.blocks.map fun (b : Nat × Block) =>
      (b.1, { b.2 with handler := b.2.handler.map fun (h : Handler) => { h with kept := h.kept.answered fid page decline } })
    cores := s.cores.map fun (c : Nat × Core) =>
      (c.1, { c.2 with copies := c.2.copies.map fun (x : Nat × CopyCmd) => (x.1, x.2.answered fid decline) })
    progs := s.progs.map fun (p : Nat × Prog) => (p.1, p.2.answered fid decline) }
  s.answerSpills fid decline

/-- The fault of a valid slot. -/
def State.slot (s : State) (tenant fid : Nat) : Option PageFault :=
  ((s.tenant tenant).faults.get? fid).filter (·.slot.isSome)

/-- `pfresp serve` (R376). -/
def execPfrespServe (tenant fid : Nat) (s : State) : Host.Outcome State Fault Refusal :=
  .next (if s.vf tenant && (s.slot tenant fid).isSome then s.answerFault tenant fid false else s)

/-- `pfresp decline` (R134, R225, R376): what is attached to the fault ends. -/
def execPfrespDecline (tenant fid : Nat) (s : State) : Host.Outcome State Fault Refusal :=
  .next (if s.vf tenant && (s.slot tenant fid).isSome then
      (s.answerFault tenant fid true).abortHeld fun h => s.tenantOf h.req.ptag == tenant && h.faults.contains fid
    else s)

/-- `page fault enqueue` (R376): the oldest waiting fault takes a free slot. -/
def execPageFaultEnqueue (tenant : Nat) (s : State) : Host.Outcome State Fault Refusal :=
  let t := s.tenant tenant
  .next (match t.faults.find? (fun f => f.2.slot.isNone), t.freeSlot with
    | some f, some k => (s.setTenant tenant { t with faults := t.faults.put f.1 { f.2 with slot := some k } }).irq (some tenant) 1
    | _, _ => s)

/-- `lost clear` (R377). -/
def execLostClear (log : Option Nat) (s : State) : Host.Outcome State Fault Refusal :=
  .next (match log with
    | none => { s with dev := { s.dev with deviceLog := { s.dev.deviceLog with lost := 0 } } }
    | some n => if !s.vf n then s else { s with dev := { s.dev with tenantLogs := s.dev.tenantLogs.put n { s.dev.tenantLogs.get n {} with lost := 0 } } })

/-! ## Sprues (R281, R282, R378) -/

/-- `sparmreq` (R378). -/
def execSparmreq (tenant : Nat) (desc : DWord) (tail : DWord) (s : State) : Host.Outcome State Fault Refusal :=
  .next (if s.vf tenant then s.hostAccept (.sparmreq tenant desc tail) else s)

/-- Whether a held request is a write to a buffer of a sprue. -/
def Sprue.takes (x : Sprue) (r : PeerReq) : Bool :=
  let va := r.addr.toNat
  let n := peerBytes r.op
  r.ptag == x.tag && (match r.op with | .write _ _ _ => true | _ => false)
  && (decide (va < x.buf0 + x.len ∧ x.buf0 < va + n) || (x.buf1 != 0 && decide (va < x.buf1 + x.len ∧ x.buf1 < va + n)))

/-- `spdis` (R282, R378). -/
def execSpdis (tenant : Nat) (val : DWord) (s : State) : Host.Outcome State Fault Refusal :=
  let v := val.toNat
  let h := v % 2 ^ 31
  let tag := fieldBits v 39 32
  let t := s.tenant tenant
  let set := fun (s : State) (w : Word) => s.setTenant tenant { s.tenant tenant with spdisRes := w }
  .next (if !s.vf tenant then s else if !s.namesContext tenant (BitVec.ofNat 64 tag) || fieldBits v 63 40 != 0 || v.testBit 31 then set s 0x80000006
    else match t.sprues.get? h with
      | some x =>
        if x.tag = tag then
          set ((s.setTenant tenant { t with sprues := t.sprues.erase h }).abortHeld fun e => x.takes e.req) 0
        else set s 0x80000007
      | none => set s 0x80000007)

/-! ## ATS (R362) -/

/-- An entry without the ATS translations that an invalidation covers. -/
def TlbEntry.invalidated (e : TlbEntry) (va len : Nat) : TlbEntry :=
  { e with ats := e.ats.filter fun p => !decide (p * 2 ^ 16 < va + len ∧ va < (p + 1) * 2 ^ 16) }

/-- The accesses to host memory that are in flight. -/
def State.hostFlight (s : State) : List Nat :=
  (s.homes.reqs.filter fun e => e.2.target == .host && e.2.status != .performed).map (·.1)

/-- `invalidate request` (R362): it waits for the accesses that are in flight now. -/
def execInvalidateRequest (va len : Nat) (s : State) : Host.Outcome State Fault Refusal :=
  let clear := fun (es : List TlbEntry) => es.map fun e => e.invalidated va len
  .next { s with
    cores := s.cores.map fun (c : Nat × Core) => (c.1, { c.2 with tlb := clear c.2.tlb, leases := clear c.2.leases })
    dev := { s.dev with ingress := clear s.dev.ingress, invalidating := s.dev.invalidating ++ [s.hostFlight] } }

/-- `invalidate completion` (R362): for the oldest request that waits for no access any more. -/
def execInvalidateCompletion (s : State) : Host.Outcome State Fault Refusal :=
  .next (match s.dev.invalidating.find? fun ids => !ids.any s.hostFlight.contains with
    | some ids => { s with dev := { s.dev with invalidating := s.dev.invalidating.erase ids } }
    | none => s)

/-! ## Boot, measurements and the clock (R370 to R372, R374) -/

/-- `get measurements` (R372): an index that is not listed is absent. -/
def execGetMeasurements (fn index : Nat) (s : State) : Host.Outcome State Fault Refusal :=
  .next (if s.dev.regs.bootStep = 7 ∧ 1 ≤ index ∧ index ≤ 6 ∧ fn ≤ 64 then
      let map := if index = 6 then coreMask fun c => (s.core c).retired else 0
      { s with dev := { s.dev with measured := s.dev.measured ++ [Config.measurement index map] } }
    else s)

/-- A step of the boot fails a check (R371): the boot halts there, and no compute die runs. -/
def State.bootFails (s : State) (step check : Nat) : State :=
  let g := s.dev.regs
  if decide (step = g.bootStep + 1 ∧ step ≤ 6 ∧ 1 ≤ check ∧ check ≤ 4) && g.bootFail == 0 then
    (List.range 2).foldl (fun s d => s.setDie d { s.die d with phase := .held }) (s.setRegs { g with bootFail := check })
  else s

/-- A die released from reset by the boot once its firmware has been measured (R370, R371): its cycle counter begins (R69),
that of die 1 at the count of die 0 (log entry 113). -/
def State.releaseDie (s : State) (d : Nat) : State :=
  let s := { s with dev := { s.dev with altered := s.dev.altered.filter fun e => e != d } }
  s.setDie d { s.die d with phase := .running, clkBase := if d = 0 then s.ctrl.now else (s.die 0).clkBase }

/-- What a step of the boot does (R370): die 0 and die 1 leave reset, and with the seam the generation of the dies
begins. -/
def State.bootEffect (s : State) (step : Nat) : State :=
  match step with
  | 3 => s.releaseDie 0
  | 4 => s.releaseDie 1
  | 6 => { s with homes := { s.homes with dgen := 1 } }
  | _ => s

/-- `boot` (R370, R371): the next of the seven steps. -/
def execBoot (s : State) : Host.Outcome State Fault Refusal :=
  let step := s.dev.regs.bootStep + 1
  .next (if 7 < step ∨ s.dev.regs.bootFail ≠ 0 then s
    else (s.setRegs { s.dev.regs with bootStep := step }).bootEffect step)

/-- The package power limit in force (R374, R375): on a module, the lower of the programmed one and its own. -/
def State.powerLimit (s : State) : Nat := Config.moduleLimit.elim s.dev.regs.power (min s.dev.regs.power)

/-- Whether the package power or a junction is above its limit (R374). -/
def State.hot (s : State) : Bool := decide (s.powerLimit < s.dev.watts ∨ 105 < s.dev.celsius)

/-- `clock throttle` (R374). -/
def execClockThrottle (s : State) : Host.Outcome State Fault Refusal :=
  let g := s.dev.regs
  .next (if s.hot ∧ 1600 < g.mhz then s.setRegs { g with mhz := g.mhz - 100 } else s)

/-- `clock restore` (R374). -/
def execClockRestore (s : State) : Host.Outcome State Fault Refusal :=
  let g := s.dev.regs
  .next (if s.hot = false ∧ g.mhz < 3300 then s.setRegs { g with mhz := g.mhz + 100 } else s)

end Sys2Proof.Machine
end

