-- ==== Sys2Proof/Machine/Bar0.lean ====
section
/-! DEFINITION. The registers that the host reaches through BAR0 of each function, and their MSI-X tables (R265, R296,
R297, R306, R307, R325, R339, R352, R361, R363 to R366, R371, R375 to R378). Function n is the virtual function of
tenant n, and function 64 is the PF. -/

namespace Sys2Proof.Machine

open Sys2Proof

/-! ## The registers (R363, R376 to R378) -/

/-- The kinds of register of BAR0. -/
inductive BarKind where
  | bootst | contcfg | cstat | coreMap | fabcfg | memcfg | linkcfg | tenantWord | contextEntry | hentry
  | mailCmd | mailStat | mailGo | deviceLog | deviceNext | deviceLost
  | queueConfig | doorbell | result | aperture | sparmreq | sparmres | spdis | spdisres
  | tenantLog | tenantNext | tenantLost | faultSlot | pfcnt | pfresp | lossLog | lossNext
  deriving DecidableEq, Repr

/-- Consecutive registers of one kind: the offset of the first, how many, and their width in bytes. -/
structure BarRow where
  base : Nat
  count : Nat
  width : Nat
  kind : BarKind
  deriving DecidableEq, Repr

/-- BAR0 of the PF. -/
def pfRows : List BarRow :=
  [ ⟨0x000000, 1, 8, .bootst⟩, ⟨0x001000, 1, 8, .contcfg⟩, ⟨0x001008, 1, 8, .cstat⟩, ⟨0x001010, 1, 32, .coreMap⟩,
    ⟨0x002000, 1, 8, .fabcfg⟩, ⟨0x002008, 1, 8, .memcfg⟩, ⟨0x002010, 1, 8, .linkcfg⟩,
    ⟨0x010000, 64, 8, .tenantWord⟩, ⟨0x020000, 256, 16, .contextEntry⟩, ⟨0x030000, 256, 8, .hentry⟩,
    ⟨0x040000, 1, 64, .mailCmd⟩, ⟨0x040040, 1, 8, .mailStat⟩, ⟨0x040048, 1, 8, .mailGo⟩,
    ⟨0x100000, 1024, 24, .deviceLog⟩, ⟨0x106000, 1, 8, .deviceNext⟩, ⟨0x106008, 1, 4, .deviceLost⟩ ]

/-- BAR0 of a virtual function. -/
def vfRows : List BarRow :=
  [ ⟨0x0000, 16, 64, .queueConfig⟩, ⟨0x1000, 16, 16, .doorbell⟩, ⟨0x1100, 16, 4, .result⟩, ⟨0x1200, 1, 8, .aperture⟩,
    ⟨0x1300, 1, 16, .sparmreq⟩, ⟨0x1310, 1, 4, .sparmres⟩, ⟨0x1318, 1, 8, .spdis⟩, ⟨0x1320, 1, 4, .spdisres⟩,
    ⟨0x2000, 256, 24, .tenantLog⟩, ⟨0x3800, 1, 8, .tenantNext⟩, ⟨0x3808, 1, 4, .tenantLost⟩,
    ⟨0x4000, 64, 32, .faultSlot⟩, ⟨0x4800, 1, 8, .pfcnt⟩, ⟨0x4810, 1, 8, .pfresp⟩,
    ⟨0x5000, 64, 16, .lossLog⟩, ⟨0x5400, 1, 8, .lossNext⟩ ]

/-- A register of BAR0: its kind, its index among those of the kind, its offset and its width. -/
structure BarReg where
  kind : BarKind
  ix : Nat
  base : Nat
  width : Nat
  deriving DecidableEq, Repr

/-- The rows of a function. -/
def rowsOf (fn : Nat) : List BarRow := if fn = 64 then pfRows else vfRows

/-- The register that holds the byte at an offset. -/
def regAt (fn ofs : Nat) : Option BarReg :=
  ((rowsOf fn).find? fun r => decide (r.base ≤ ofs ∧ ofs < r.base + r.count * r.width)).map fun r =>
    let i := (ofs - r.base) / r.width
    ⟨r.kind, i, r.base + i * r.width, r.width⟩

/-- The registers that some bytes touch, in ascending order. -/
def regsIn (fn ofs n : Nat) : List BarReg := ((List.range n).filterMap fun k => regAt fn (ofs + k)).dedup

/-! ## Reading -/

/-- A word of fields: their values, each at its lowest bit. -/
def fieldWord (fs : List (Nat × Nat)) : Nat := (fs.map fun f => f.1 * 2 ^ f.2).sum

/-- A bit of a word. -/
def bitAt (b : Bool) (k : Nat) : Nat × Nat := (b.toNat, k)

/-- The code of a die's phase in CSTAT (R352): a die that the boot has not released yet reads as the reset value. -/
def DiePhase.code : DiePhase → Nat
  | .held | .running => 0
  | .quiescing | .fenced => 1
  | .reset => 2
  | .rejoining => 3

/-- The retired-core map (R352). -/
def State.retiredMap (s : State) : BitVec 240 := coreMask fun c => (s.core c).retired

/-- CSTAT (R352). -/
def State.cstat (s : State) : Nat :=
  let g := s.dev.regs
  fieldWord [bitAt g.repReq 63, ((List.range 240).countP fun c => (s.core c).retired, 48), (g.slices.length, 40), (g.nLink, 32),
    ((s.die 1).phase.code, 2), ((s.die 0).phase.code, 0)]

/-- A tenant's configuration word (R296). -/
def Tenant.word (t : Tenant) : Nat :=
  fieldWord [bitAt t.en 63, bitAt t.urt 62, (t.nwin, 44), (t.ninb, 37), (t.nvec, 30), (t.nq, 25), (t.nsave, 9)]

/-- A context's entry (R297), with the EN that it reads (R373). -/
def Context.entry (c : Context) (en : Bool) : Nat :=
  fieldWord [bitAt en 127, bitAt c.priv 126, (c.tenant, 120), (c.root, 64)]

/-- A queue's configuration block (R265). -/
def Queue.block (q : Queue) : Nat :=
  fieldWord [(q.ovfQuota, 336), (q.ovfBase, 256), bitAt q.en 255, (q.cls, 248), (q.depthM1, 240), (q.mask.toNat, 0)]

/-- An error record (R339). -/
def ErrRec.word (r : ErrRec) : Nat :=
  fieldWord [(1, 191), bitAt r.ue 190, (r.act, 187), (r.tag, 176), (r.struct, 168), (r.die, 167), (r.loc, 160), (r.flask, 128),
    (r.pour, 96), (r.cause.toNat, 64), (r.addr, 0)]

/-- An entry of a log ring: one that has not been written reads 0. -/
def ErrLog.entry (l : ErrLog) (k : Nat) : Nat := (l.recs.get? k).elim 0 ErrRec.word

/-- An entry of a link-loss log (R377). -/
def LossLog.entry (l : LossLog) (k : Nat) : Nat :=
  (l.recs.get? k).elim 0 fun r => fieldWord [(r.time % 2 ^ 64, 64), (r.count, 32), (r.cls, 18), (r.ep, 0)]

/-- A slot of a page-fault queue (R376). -/
def Tenant.faultSlot (t : Tenant) (k : Nat) : Nat :=
  match t.faults.find? fun f => f.2.slot == some k with
  | some (fid, f) => fieldWord [(1, 63), (f.va, 0), (f.tag, 64), (f.kind, 72), (f.src, 80), (fid, 96), (f.count, 128)]
  | none => 0

/-- A register of the PF as it reads. A register that is only written reads 0. -/
def State.pfReads (s : State) (k : BarKind) (i : Nat) : Nat :=
  let g := s.dev.regs
  let c := s.context i
  match k with
  | .bootst => fieldWord [(g.bootStep, 0), (g.bootFail, 8), bitAt (g.bootFail != 0) 31]
  | .contcfg => fieldWord [bitAt g.fetEn 63, (g.ceThr, 36), (g.scrubH, 28), (g.qdl, 0)]
  | .cstat => s.cstat
  | .coreMap => s.retiredMap.toNat
  | .fabcfg => fieldWord [(g.podHi, 40), (g.podLo, 22), (g.epid, 0)]
  | .memcfg => fieldWord [(g.lease, 40), (g.retryW, 30), (g.rdcSz1, 7), (g.rdcSz0, 0)]
  | .linkcfg => fieldWord [(g.rkLog2, 50), (g.rkSec, 0)]
  | .tenantWord => (s.tenant i).word
  | .contextEntry => c.entry c.en
  | .hentry => c.hentry
  | .mailCmd => s.dev.mailbox.cmd.toNat
  | .mailStat => fieldWord [bitAt s.dev.mailbox.busy.isSome 63, (s.dev.mailbox.result, 0)]
  | .deviceLog => s.dev.deviceLog.entry i
  | .deviceNext => s.dev.deviceLog.next
  | .deviceLost => s.dev.deviceLog.lost.toNat
  | _ => 0

/-- A register of a tenant's function as it reads. -/
def State.vfReads (s : State) (n : Nat) (k : BarKind) (i : Nat) : Nat :=
  let t := s.tenant n
  match k with
  | .queueConfig => (t.queues.get i {}).block
  | .result => (t.results.get i 0).toNat
  | .aperture => t.aperture
  | .sparmres => t.spRes.toNat
  | .spdisres => t.spdisRes.toNat
  | .tenantLog => (s.dev.tenantLogs.get n {}).entry i
  | .tenantNext => (s.dev.tenantLogs.get n {}).next
  | .tenantLost => (s.dev.tenantLogs.get n {}).lost.toNat
  | .faultSlot => t.faultSlot i
  | .pfcnt => t.slots
  | .lossLog => (s.dev.lossLogs.get n {}).entry i
  | .lossNext => (s.dev.lossLogs.get n {}).next
  | _ => 0

/-- A register as it reads. -/
def State.regReads (s : State) (fn : Nat) (r : BarReg) : Nat := if fn = 64 then s.pfReads r.kind r.ix else s.vfReads fn r.kind r.ix

/-- The byte at an offset as it reads: 0 where no register is. -/
def State.bar0Byte (s : State) (fn ofs : Nat) : Byte :=
  (regAt fn ofs).elim 0 fun r => BitVec.ofNat 8 (s.regReads fn r / 2 ^ (8 * (ofs - r.base)))

/-- Whether a function is there: the PF once the first step of the boot is past, or has failed (log entry 154), and a tenant's
function while it is enabled (R296, R370). -/
def State.function (s : State) (fn : Nat) : Bool :=
  if fn = 64 then decide (1 ≤ s.dev.regs.bootStep) || s.dev.regs.bootFail != 0 else s.vf fn

/-- Whether a function has its BAR2 and BAR4: the PF enumerates with BAR0 alone until the boot has completed (R370, log
entry 154). -/
def State.barred (s : State) (fn : Nat) : Bool := if fn = 64 then s.vfs else s.vf fn

/-- A read through BAR0 (R363): one of a function that is not there returns all ones. -/
def State.bar0Read (s : State) (fn ofs len : Nat) : State :=
  s.hostReturns ((List.range len).map fun k => if s.function fn then s.bar0Byte fn (ofs + k) else 0xFF)

/-! ## Writing -/

/-- An outbound window of a 128-bit entry (R306). -/
def outWindowOf (v : Nat) : OutWindow :=
  { en := v.testBit 127, ep := fieldBits v 126 109, ptag := fieldBits v 108 101, npgm1 := fieldBits v 91 64
    pbase := fieldBits v 56 16 * 2 ^ 16 }

/-- An inbound window of a 64-bit entry (R307). -/
def inWindowOf (v : Nat) : InWindow :=
  { en := v.testBit 63, r := v.testBit 62, w := v.testBit 61, a := v.testBit 60, dtag := fieldBits v 59 52
    ephi := fieldBits v 35 18, eplo := fieldBits v 17 0 }

/-- The state in which an instruction that always goes on leaves the machine. -/
def State.after (s : State) (f : State → Host.Outcome State Fault Refusal) : State :=
  match f s with
  | .next t => t
  | _ => s

/-- HENTRY of a context written (R325, R363): entry 0 ignores writes. -/
def State.setHentry (s : State) (tag v : Nat) : State :=
  if tag = 0 ∨ 256 ≤ tag then s else s.setContext tag { s.context tag with hentry := fieldBits v 56 6 * 2 ^ 6 }

/-- The command of the mailbox written (R375). -/
def State.setCommand (s : State) (cmd : BitVec 512) : State := { s with dev := { s.dev with mailbox := { s.dev.mailbox with cmd } } }

/-- The aperture select of a tenant written (R366). -/
def State.setAperture (s : State) (n v : Nat) : State :=
  if s.vf n then s.setTenant n { s.tenant n with aperture := fieldBits v 56 30 * 2 ^ 30 + v % 256 } else s

/-- An answer to a page fault (R376): one with a bit of 63:33 set is ignored (log entry 129). -/
def State.setPfresp (s : State) (n v : Nat) : State :=
  if 2 ^ 33 ≤ v then s
  else if v.testBit 32 then s.after (execPfrespDecline n (v % 2 ^ 32)) else s.after (execPfrespServe n (v % 2 ^ 32))

/-- A register of the PF written with a value. -/
def State.pfWrites (s : State) (k : BarKind) (i v : Nat) : State :=
  match k with
  | .contcfg => s.after (execContcfgWrite (BitVec.ofNat 64 v))
  | .fabcfg => s.after (execFabcfgWrite (BitVec.ofNat 64 v))
  | .memcfg => s.after (execMemcfgWrite (BitVec.ofNat 64 v))
  | .linkcfg => s.after (execLinkcfgWrite (BitVec.ofNat 64 v))
  | .tenantWord => s.after (execTenantWordWrite i (BitVec.ofNat 64 v))
  | .contextEntry => s.after (execContextEntryWrite i (BitVec.ofNat 128 v))
  | .hentry => s.setHentry i v
  | .mailCmd => s.setCommand (BitVec.ofNat 512 v)
  | .mailGo => s.goMailbox
  | .deviceLost => s.after (execLostClear none)
  | _ => s

/-- A register of a tenant's function written with a value. -/
def State.vfWrites (s : State) (n : Nat) (k : BarKind) (i v : Nat) : State :=
  match k with
  | .queueConfig => s.after (execLaunchQueueConfigWrite n i (BitVec.ofNat 512 v))
  | .doorbell => s.after (execDoorbell n i (BitVec.ofNat 64 v) (BitVec.ofNat 64 (v / 2 ^ 64)))
  | .aperture => s.setAperture n v
  | .sparmreq => s.after (execSparmreq n (BitVec.ofNat 64 v) (BitVec.ofNat 64 (v / 2 ^ 64)))
  | .spdis => s.after (execSpdis n (BitVec.ofNat 64 v))
  | .tenantLost => s.after (execLostClear (some n))
  | .pfresp => s.setPfresp n v
  | _ => s

/-- Whether a register acts on a write of all its bytes alone (log entry 133). -/
def BarKind.whole : BarKind → Bool
  | .doorbell | .sparmreq | .spdis | .pfresp => true
  | _ => false

/-- What a register holds where a write leaves its bytes: what it reads, with the EN of a context whose key is still
loading (R373). -/
def State.regKept (s : State) (fn : Nat) (r : BarReg) : Nat :=
  if r.kind = .contextEntry then (let c := s.context r.ix; c.entry (c.en || c.loading)) else s.regReads fn r

/-- A register written with the bytes of a write at an offset that touch it, over those that it holds. -/
def State.regWrites (s : State) (fn ofs : Nat) (bytes : List Byte) (r : BarReg) : State :=
  let here := fun (k : Nat) => decide (ofs ≤ r.base + k ∧ r.base + k < ofs + bytes.length)
  let v := leNat ((List.range r.width).map fun k =>
    if here k then (bytes[r.base + k - ofs]?).getD 0 else BitVec.ofNat 8 (s.regKept fn r / 2 ^ (8 * k)))
  if r.kind.whole && !(List.range r.width).all here then s
  else if fn = 64 then s.pfWrites r.kind r.ix v else s.vfWrites fn r.kind r.ix v

/-- A write through BAR0 (R363): the registers that it touches, in ascending order. -/
def State.bar0Write (s : State) (fn ofs : Nat) (bytes : List Byte) : State :=
  if s.function fn then (regsIn fn ofs bytes.length).foldl (fun s r => s.regWrites fn ofs bytes r) s else s

/-- `register write` (R363): a register that no other row of the table writes. An offset of the PF's BAR0 that begins a
register writes it whole, and any other changes nothing. -/
def execRegisterWrite (reg : HostReg) (val : BitVec 512) (s : State) : Host.Outcome State Fault Refusal :=
  let v := val.toNat
  .next (match reg with
    | .hentry tag => s.setHentry tag v
    | .aperture n => s.setAperture n v
    | .outWindow n i =>
      if 64 ≤ n ∨ 256 ≤ i ∨ (outWindowOf v).ptag = 0 then s
      else s.setTenant n { s.tenant n with windows := (s.tenant n).windows.put i (outWindowOf v) }
    | .inWindow tag i =>
      let c := s.context tag
      let w := inWindowOf v
      let d := s.context w.dtag
      if !s.enabled tag || !c.priv || decide (64 ≤ i) || w.dtag == 0 || !(d.en || d.loading) || d.tenant != c.tenant then s
      else s.setTenant c.tenant { s.tenant c.tenant with inbound := (s.tenant c.tenant).inbound.put i w }
    | .mailboxCmd => s.setCommand val
    | .other ofs =>
      match regAt 64 ofs with
      | some r => if r.base = ofs then s.pfWrites r.kind r.ix (v % 2 ^ (8 * r.width)) else s
      | none => s)

/-! ## MSI-X (R361) -/

/-- Whether a function has a vector (R316, R361). -/
def State.hasVector (s : State) (fn vector : Nat) : Bool :=
  s.barred fn && decide (vector < 64) && (fn == 64 || decide (vector < (s.tenant fn).nvec))

/-- An entry of a function's MSI-X table written: a pending interrupt whose vector is no longer masked is sent, as the
message of the entry. -/
def State.msixWrite (s : State) (fn vector : Nat) (e : MsixEntry) : State :=
  let i : Irq := { tenant := if fn = 64 then none else some fn, vector }
  if !s.hasVector fn vector then s
  else
    let s := { s with dev := { s.dev with msix := s.dev.msix.put i.place e } }
    if !e.masked && s.dev.pending.contains i then
      { s with dev := { s.dev with pending := s.dev.pending.filter (· != i) } }.sendIrq i
    else s

/-- The 16 bytes of an entry of an MSI-X table: the message's address and data, and the vector control with its mask bit. -/
def MsixEntry.bytes (e : MsixEntry) : List Byte := leBytes 8 e.addr.toNat ++ leBytes 4 e.data.toNat ++ leBytes 4 e.masked.toNat

/-- A read of an entry of a function's MSI-X table in BAR4 (R361): all ones where the function has no such vector. -/
def State.msixRead (s : State) (fn vector : Nat) : State :=
  s.hostReturns (if s.hasVector fn vector then (s.dev.msix.get (fn * 64 + vector) {}).bytes else List.replicate 16 0xFF)

/-- A read of a function's pending bits in BAR4 (R361): bit n for vector n. -/
def State.pbaRead (s : State) (fn : Nat) : State :=
  let pends := fun (v : Nat) => s.dev.pending.any fun i => i.place == fn * 64 + v
  s.hostReturns (if s.barred fn then leBytes 8 (((List.range 64).filter pends).map (2 ^ ·)).sum else List.replicate 8 0xFF)

/-- BAR2 of a function resized by the host, to 2^log GiB (R361). -/
def State.resizeBar2 (s : State) (fn log : Nat) : State :=
  if s.barred fn && decide (log ≤ 6) then { s with dev := { s.dev with bar2 := s.dev.bar2.put fn log } } else s

end Sys2Proof.Machine
end

