-- ==== Sys2Proof/Machine/Float.lean ====
section
/-! DEFINITION. The floating-point and conversion instructions (R98 to R107). -/

namespace Sys2Proof.Machine

open Sys2Proof

/-- `fadd` (R100). -/
def execFadd (a : Args FpMod) : State → Host.Outcome State Fault Refusal :=
  alu2 (headOf a (.fadd a) true) (opFadd a.mod)
/-- `fsub` (R100). -/
def execFsub (a : Args FpMod) : State → Host.Outcome State Fault Refusal :=
  alu2 (headOf a (.fsub a) true) (opFsub a.mod)
/-- `fmul` (R100). -/
def execFmul (a : Args FpMod) : State → Host.Outcome State Fault Refusal :=
  alu2 (headOf a (.fmul a) true) (opFmul a.mod)
/-- `fmin` (R101). -/
def execFmin (a : Args FpMod) : State → Host.Outcome State Fault Refusal :=
  alu2 (headOf a (.fmin a) true) (opFmin a.mod)
/-- `fmax` (R101). -/
def execFmax (a : Args FpMod) : State → Host.Outcome State Fault Refusal :=
  alu2 (headOf a (.fmax a) true) (opFmax a.mod)
/-- `fdiv` (R104). -/
def execFdiv (a : Args FpMod) : State → Host.Outcome State Fault Refusal :=
  alu2 (headOf a (.fdiv a) true) (opFdiv a.mod)
/-- `hadd2` (R105). -/
def execHadd2 (a : Args FpMod) : State → Host.Outcome State Fault Refusal :=
  alu2 (headOf a (.hadd2 a) true) (opHadd2 a.mod)
/-- `hmul2` (R105). -/
def execHmul2 (a : Args FpMod) : State → Host.Outcome State Fault Refusal :=
  alu2 (headOf a (.hmul2 a) true) (opHmul2 a.mod)
/-- `fma` (R100). -/
def execFma (a : Args FpMod) : State → Host.Outcome State Fault Refusal :=
  alu3 (headOf a (.fma a) true) (opFma a.mod)
/-- `hfma2` (R105). -/
def execHfma2 (a : Args FpMod) : State → Host.Outcome State Fault Refusal :=
  alu3 (headOf a (.hfma2 a) true) (opHfma2 a.mod)
/-- `fclass` (R103). -/
def execFclass (a : Args FpMod) : State → Host.Outcome State Fault Refusal :=
  alu1 (headOf a (.fclass a) true) (opFclass a.mod)
/-- `frcp` (R104). -/
def execFrcp (a : Args FpMod) : State → Host.Outcome State Fault Refusal :=
  alu1 (headOf a (.frcp a) true) (opFrcp a.mod)
/-- `frsq` (R104). -/
def execFrsq (a : Args FpMod) : State → Host.Outcome State Fault Refusal :=
  alu1 (headOf a (.frsq a) true) (opFrsq a.mod)
/-- `fsqrt` (R104). -/
def execFsqrt (a : Args FpMod) : State → Host.Outcome State Fault Refusal :=
  alu1 (headOf a (.fsqrt a) true) (opFsqrt a.mod)
/-- `fexp2` (R104). -/
def execFexp2 (a : Args FpMod) : State → Host.Outcome State Fault Refusal :=
  alu1 (headOf a (.fexp2 a) true) (opFexp2 a.mod)
/-- `flog2` (R104). -/
def execFlog2 (a : Args FpMod) : State → Host.Outcome State Fault Refusal :=
  alu1 (headOf a (.flog2 a) true) (opFlog2 a.mod)
/-- `fsin` (R104). -/
def execFsin (a : Args FpMod) : State → Host.Outcome State Fault Refusal :=
  alu1 (headOf a (.fsin a) true) (opFsin a.mod)
/-- `fcos` (R104). -/
def execFcos (a : Args FpMod) : State → Host.Outcome State Fault Refusal :=
  alu1 (headOf a (.fcos a) true) (opFcos a.mod)
/-- `ftanh` (R104). -/
def execFtanh (a : Args FpMod) : State → Host.Outcome State Fault Refusal :=
  alu1 (headOf a (.ftanh a) true) (opFtanh a.mod)
/-- `faddImm` (R100). -/
def execFaddImm (a : Args FpMod) : State → Host.Outcome State Fault Refusal :=
  alu1 (headOf a (.faddImm a) true) fun x => opFadd a.mod x (a.imm.setWidth 64)
/-- `fsubImm` (R100). -/
def execFsubImm (a : Args FpMod) : State → Host.Outcome State Fault Refusal :=
  alu1 (headOf a (.fsubImm a) true) fun x => opFsub a.mod x (a.imm.setWidth 64)
/-- `fmulImm` (R100). -/
def execFmulImm (a : Args FpMod) : State → Host.Outcome State Fault Refusal :=
  alu1 (headOf a (.fmulImm a) true) fun x => opFmul a.mod x (a.imm.setWidth 64)
/-- `fminImm` (R101). -/
def execFminImm (a : Args FpMod) : State → Host.Outcome State Fault Refusal :=
  alu1 (headOf a (.fminImm a) true) fun x => opFmin a.mod x (a.imm.setWidth 64)
/-- `fmaxImm` (R101). -/
def execFmaxImm (a : Args FpMod) : State → Host.Outcome State Fault Refusal :=
  alu1 (headOf a (.fmaxImm a) true) fun x => opFmax a.mod x (a.imm.setWidth 64)
/-- `cvt` (R107). -/
def execCvt (a : Args FpMod) : State → Host.Outcome State Fault Refusal :=
  alu1 (headOf a (.cvt a) true) (opCvt a.mod a.imm)
/-- `fsetp` (R102). -/
def execFsetp (a : Args FpMod) : State → Host.Outcome State Fault Refusal :=
  let h := headOf a (.fsetp a) true
  flagged h fun x s i => flagFsetp a.mod (s.srcA x h i) (s.srcB x h i)
/-- `fsetpImm` (R102). -/
def execFsetpImm (a : Args FpMod) : State → Host.Outcome State Fault Refusal :=
  let h := headOf a (.fsetpImm a) true
  flagged h fun x s i => flagFsetp a.mod (s.srcA x h i) (a.imm.setWidth 64)

end Sys2Proof.Machine
end

