-- ==== Sys2Proof/Machine/Dispatch.lean ====
section
/-! DEFINITION. The meaning of each instruction and event: one direct call per constructor. -/

namespace Sys2Proof.Machine

open Sys2Proof

/-- The effect of an instruction at the site of its issue, or of an event. -/
def exec (i : Instr) (s : State) : Host.Outcome State Fault Refusal :=
  match i with
  | .nop a => Sys2Proof.Machine.execNop a s
  | .bra a => Sys2Proof.Machine.execBra a s
  | .brx a => Sys2Proof.Machine.execBrx a s
  | .call a => Sys2Proof.Machine.execCall a s
  | .callInd a => Sys2Proof.Machine.execCallInd a s
  | .ret a => Sys2Proof.Machine.execRet a s
  | .meet a => Sys2Proof.Machine.execMeet a s
  | .meetSave a => Sys2Proof.Machine.execMeetSave a s
  | .rejoin a => Sys2Proof.Machine.execRejoin a s
  | .rejoinRest a => Sys2Proof.Machine.execRejoinRest a s
  | .exit a => Sys2Proof.Machine.execExit a s
  | .yield a => Sys2Proof.Machine.execYield a s
  | .voteAny a => Sys2Proof.Machine.execVoteAny a s
  | .voteAll a => Sys2Proof.Machine.execVoteAll a s
  | .voteMask a => Sys2Proof.Machine.execVoteMask a s
  | .shflPick a => Sys2Proof.Machine.execShflPick a s
  | .shflRot a => Sys2Proof.Machine.execShflRot a s
  | .shflSlide a => Sys2Proof.Machine.execShflSlide a s
  | .shflMir a => Sys2Proof.Machine.execShflMir a s
  | .add a => Sys2Proof.Machine.execAdd a s
  | .sub a => Sys2Proof.Machine.execSub a s
  | .mulLo a => Sys2Proof.Machine.execMulLo a s
  | .mulHi a => Sys2Proof.Machine.execMulHi a s
  | .mad a => Sys2Proof.Machine.execMad a s
  | .madWide a => Sys2Proof.Machine.execMadWide a s
  | .div a => Sys2Proof.Machine.execDiv a s
  | .rem a => Sys2Proof.Machine.execRem a s
  | .min a => Sys2Proof.Machine.execMin a s
  | .max a => Sys2Proof.Machine.execMax a s
  | .abs a => Sys2Proof.Machine.execAbs a s
  | .neg a => Sys2Proof.Machine.execNeg a s
  | .and a => Sys2Proof.Machine.execAnd a s
  | .or a => Sys2Proof.Machine.execOr a s
  | .xor a => Sys2Proof.Machine.execXor a s
  | .not a => Sys2Proof.Machine.execNot a s
  | .shl a => Sys2Proof.Machine.execShl a s
  | .shr a => Sys2Proof.Machine.execShr a s
  | .sar a => Sys2Proof.Machine.execSar a s
  | .rot a => Sys2Proof.Machine.execRot a s
  | .clz a => Sys2Proof.Machine.execClz a s
  | .popc a => Sys2Proof.Machine.execPopc a s
  | .brev a => Sys2Proof.Machine.execBrev a s
  | .bfx a => Sys2Proof.Machine.execBfx a s
  | .bfi a => Sys2Proof.Machine.execBfi a s
  | .lea a => Sys2Proof.Machine.execLea a s
  | .setp a => Sys2Proof.Machine.execSetp a s
  | .sel a => Sys2Proof.Machine.execSel a s
  | .plop a => Sys2Proof.Machine.execPlop a s
  | .mov a => Sys2Proof.Machine.execMov a s
  | .movi a => Sys2Proof.Machine.execMovi a s
  | .dp4 a => Sys2Proof.Machine.execDp4 a s
  | .addImm a => Sys2Proof.Machine.execAddImm a s
  | .subImm a => Sys2Proof.Machine.execSubImm a s
  | .mulLoImm a => Sys2Proof.Machine.execMulLoImm a s
  | .mulHiImm a => Sys2Proof.Machine.execMulHiImm a s
  | .divImm a => Sys2Proof.Machine.execDivImm a s
  | .remImm a => Sys2Proof.Machine.execRemImm a s
  | .minImm a => Sys2Proof.Machine.execMinImm a s
  | .maxImm a => Sys2Proof.Machine.execMaxImm a s
  | .andImm a => Sys2Proof.Machine.execAndImm a s
  | .orImm a => Sys2Proof.Machine.execOrImm a s
  | .xorImm a => Sys2Proof.Machine.execXorImm a s
  | .shlImm a => Sys2Proof.Machine.execShlImm a s
  | .shrImm a => Sys2Proof.Machine.execShrImm a s
  | .sarImm a => Sys2Proof.Machine.execSarImm a s
  | .rotImm a => Sys2Proof.Machine.execRotImm a s
  | .leaImm a => Sys2Proof.Machine.execLeaImm a s
  | .setpImm a => Sys2Proof.Machine.execSetpImm a s
  | .mulLoMap2 a => Sys2Proof.Machine.execMulLoMap2 a s
  | .mulHiMap2 a => Sys2Proof.Machine.execMulHiMap2 a s
  | .fadd a => Sys2Proof.Machine.execFadd a s
  | .fsub a => Sys2Proof.Machine.execFsub a s
  | .fmul a => Sys2Proof.Machine.execFmul a s
  | .fma a => Sys2Proof.Machine.execFma a s
  | .fmin a => Sys2Proof.Machine.execFmin a s
  | .fmax a => Sys2Proof.Machine.execFmax a s
  | .fsetp a => Sys2Proof.Machine.execFsetp a s
  | .fclass a => Sys2Proof.Machine.execFclass a s
  | .frcp a => Sys2Proof.Machine.execFrcp a s
  | .frsq a => Sys2Proof.Machine.execFrsq a s
  | .fsqrt a => Sys2Proof.Machine.execFsqrt a s
  | .fdiv a => Sys2Proof.Machine.execFdiv a s
  | .fexp2 a => Sys2Proof.Machine.execFexp2 a s
  | .flog2 a => Sys2Proof.Machine.execFlog2 a s
  | .fsin a => Sys2Proof.Machine.execFsin a s
  | .fcos a => Sys2Proof.Machine.execFcos a s
  | .ftanh a => Sys2Proof.Machine.execFtanh a s
  | .hadd2 a => Sys2Proof.Machine.execHadd2 a s
  | .hmul2 a => Sys2Proof.Machine.execHmul2 a s
  | .hfma2 a => Sys2Proof.Machine.execHfma2 a s
  | .cvt a => Sys2Proof.Machine.execCvt a s
  | .faddImm a => Sys2Proof.Machine.execFaddImm a s
  | .fsubImm a => Sys2Proof.Machine.execFsubImm a s
  | .fmulImm a => Sys2Proof.Machine.execFmulImm a s
  | .fminImm a => Sys2Proof.Machine.execFminImm a s
  | .fmaxImm a => Sys2Proof.Machine.execFmaxImm a s
  | .fsetpImm a => Sys2Proof.Machine.execFsetpImm a s
  | .qblk a => Sys2Proof.Machine.execQblk a s
  | .dqblk a => Sys2Proof.Machine.execDqblk a s
  | .pk4 a => Sys2Proof.Machine.execPk4 a s
  | .upk4 a => Sys2Proof.Machine.execUpk4 a s
  | .amax a => Sys2Proof.Machine.execAmax a s
  | .tld a => Sys2Proof.Machine.execTld a s
  | .tst a => Sys2Proof.Machine.execTst a s
  | .tzero a => Sys2Proof.Machine.execTzero a s
  | .mma a => Sys2Proof.Machine.execMma a s
  | .mmas a => Sys2Proof.Machine.execMmas a s
  | .accz a => Sys2Proof.Machine.execAccz a s
  | .accmul a => Sys2Proof.Machine.execAccmul a s
  | .accrd a => Sys2Proof.Machine.execAccrd a s
  | .accwr a => Sys2Proof.Machine.execAccwr a s
  | .accst a => Sys2Proof.Machine.execAccst a s
  | .accdeclRetain a => Sys2Proof.Machine.execAccdeclRetain a s
  | .accdeclRecompute a => Sys2Proof.Machine.execAccdeclRecompute a s
  | .rstlbl a => Sys2Proof.Machine.execRstlbl a s
  | .matrixCommandExecute a => Sys2Proof.Machine.execMatrixCommandExecute a s
  | .lds a => Sys2Proof.Machine.execLds a s
  | .sts a => Sys2Proof.Machine.execSts a s
  | .ldg a => Sys2Proof.Machine.execLdg a s
  | .stg a => Sys2Proof.Machine.execStg a s
  | .ldk a => Sys2Proof.Machine.execLdk a s
  | .stk a => Sys2Proof.Machine.execStk a s
  | .fence a => Sys2Proof.Machine.execFence a s
  | .crdecl a => Sys2Proof.Machine.execCrdecl a s
  | .crfold a => Sys2Proof.Machine.execCrfold a s
  | .cred a => Sys2Proof.Machine.execCred a s
  | .atomsAdd a => Sys2Proof.Machine.execAtomsAdd a s
  | .atomsMin a => Sys2Proof.Machine.execAtomsMin a s
  | .atomsMax a => Sys2Proof.Machine.execAtomsMax a s
  | .atomsAnd a => Sys2Proof.Machine.execAtomsAnd a s
  | .atomsOr a => Sys2Proof.Machine.execAtomsOr a s
  | .atomsXor a => Sys2Proof.Machine.execAtomsXor a s
  | .atomsExch a => Sys2Proof.Machine.execAtomsExch a s
  | .atomsCas a => Sys2Proof.Machine.execAtomsCas a s
  | .atomsInc a => Sys2Proof.Machine.execAtomsInc a s
  | .atomsDec a => Sys2Proof.Machine.execAtomsDec a s
  | .atomsFadd a => Sys2Proof.Machine.execAtomsFadd a s
  | .atomsFmin a => Sys2Proof.Machine.execAtomsFmin a s
  | .atomsFmax a => Sys2Proof.Machine.execAtomsFmax a s
  | .atomgAdd a => Sys2Proof.Machine.execAtomgAdd a s
  | .atomgMin a => Sys2Proof.Machine.execAtomgMin a s
  | .atomgMax a => Sys2Proof.Machine.execAtomgMax a s
  | .atomgAnd a => Sys2Proof.Machine.execAtomgAnd a s
  | .atomgOr a => Sys2Proof.Machine.execAtomgOr a s
  | .atomgXor a => Sys2Proof.Machine.execAtomgXor a s
  | .atomgExch a => Sys2Proof.Machine.execAtomgExch a s
  | .atomgCas a => Sys2Proof.Machine.execAtomgCas a s
  | .atomgInc a => Sys2Proof.Machine.execAtomgInc a s
  | .atomgDec a => Sys2Proof.Machine.execAtomgDec a s
  | .atomgFadd a => Sys2Proof.Machine.execAtomgFadd a s
  | .atomgFmin a => Sys2Proof.Machine.execAtomgFmin a s
  | .atomgFmax a => Sys2Proof.Machine.execAtomgFmax a s
  | .redgAdd a => Sys2Proof.Machine.execRedgAdd a s
  | .redgMin a => Sys2Proof.Machine.execRedgMin a s
  | .redgMax a => Sys2Proof.Machine.execRedgMax a s
  | .redgAnd a => Sys2Proof.Machine.execRedgAnd a s
  | .redgOr a => Sys2Proof.Machine.execRedgOr a s
  | .redgXor a => Sys2Proof.Machine.execRedgXor a s
  | .redgInc a => Sys2Proof.Machine.execRedgInc a s
  | .redgDec a => Sys2Proof.Machine.execRedgDec a s
  | .redgFadd a => Sys2Proof.Machine.execRedgFadd a s
  | .redgFmin a => Sys2Proof.Machine.execRedgFmin a s
  | .redgFmax a => Sys2Proof.Machine.execRedgFmax a s
  | .cpy a => Sys2Proof.Machine.execCpy a s
  | .cpyl a => Sys2Proof.Machine.execCpyl a s
  | .cpyw a => Sys2Proof.Machine.execCpyw a s
  | .cpyp a => Sys2Proof.Machine.execCpyp a s
  | .cpyo a => Sys2Proof.Machine.execCpyo a s
  | .cpyxPut a => Sys2Proof.Machine.execCpyxPut a s
  | .cpyxGet a => Sys2Proof.Machine.execCpyxGet a s
  | .twaitAny a => Sys2Proof.Machine.execTwaitAny a s
  | .twaitAll a => Sys2Proof.Machine.execTwaitAll a s
  | .tfind a => Sys2Proof.Machine.execTfind a s
  | .tclr a => Sys2Proof.Machine.execTclr a s
  | .copyStart a b => Sys2Proof.Machine.execCopyStart a b s
  | .copyLanding a b c => Sys2Proof.Machine.execCopyLanding a b c s
  | .copyComplete a b => Sys2Proof.Machine.execCopyComplete a b s
  | .bini a => Sys2Proof.Machine.execBini a s
  | .barv a => Sys2Proof.Machine.execBarv a s
  | .bexp a => Sys2Proof.Machine.execBexp a s
  | .bwait a => Sys2Proof.Machine.execBwait a s
  | .btest a => Sys2Proof.Machine.execBtest a s
  | .biniMap2 a => Sys2Proof.Machine.execBiniMap2 a s
  | .barvMap2 a => Sys2Proof.Machine.execBarvMap2 a s
  | .bexpMap2 a => Sys2Proof.Machine.execBexpMap2 a s
  | .bwaitMap2 a => Sys2Proof.Machine.execBwaitMap2 a s
  | .btestMap2 a => Sys2Proof.Machine.execBtestMap2 a s
  | .seamPhaseComplete a b => Sys2Proof.Machine.execSeamPhaseComplete a b s
  | .rinit a => Sys2Proof.Machine.execRinit a s
  | .push a => Sys2Proof.Machine.execPush a s
  | .pop a => Sys2Proof.Machine.execPop a s
  | .forkCopy a => Sys2Proof.Machine.execForkCopy a s
  | .forkMatrix a => Sys2Proof.Machine.execForkMatrix a s
  | .forkMap2 a => Sys2Proof.Machine.execForkMap2 a s
  | .rdvCopy a => Sys2Proof.Machine.execRdvCopy a s
  | .rdvMatrix a => Sys2Proof.Machine.execRdvMatrix a s
  | .rdvMap2 a => Sys2Proof.Machine.execRdvMap2 a s
  | .engineProgramStart a b => Sys2Proof.Machine.execEngineProgramStart a b s
  | .engineProgramEnd a b => Sys2Proof.Machine.execEngineProgramEnd a b s
  | .drainDie a => Sys2Proof.Machine.execDrainDie a s
  | .drainPkg a => Sys2Proof.Machine.execDrainPkg a s
  | .drainMap2 a => Sys2Proof.Machine.execDrainMap2 a s
  | .drainComplete a => Sys2Proof.Machine.execDrainComplete a s
  | .pour a => Sys2Proof.Machine.execPour a s
  | .cwait a => Sys2Proof.Machine.execCwait a s
  | .tknxt a => Sys2Proof.Machine.execTknxt a s
  | .tknxtPooled a => Sys2Proof.Machine.execTknxtPooled a s
  | .tknxtAnswer a => Sys2Proof.Machine.execTknxtAnswer a s
  | .sparm a => Sys2Proof.Machine.execSparm a s
  | .prog a => Sys2Proof.Machine.execProg a s
  | .movcr a => Sys2Proof.Machine.execMovcr a s
  | .movrc a => Sys2Proof.Machine.execMovrc a s
  | .rdclk a => Sys2Proof.Machine.execRdclk a s
  | .sysVersion a => Sys2Proof.Machine.execSysVersion a s
  | .sysRecoveryState a => Sys2Proof.Machine.execSysRecoveryState a s
  | .sysSetSideEffect a => Sys2Proof.Machine.execSysSetSideEffect a s
  | .sysPourNumber a => Sys2Proof.Machine.execSysPourNumber a s
  | .trap a => Sys2Proof.Machine.execTrap a s
  | .rft a => Sys2Proof.Machine.execRft a s
  | .rftAbort a => Sys2Proof.Machine.execRftAbort a s
  | .asgen a => Sys2Proof.Machine.execAsgen a s
  | .splint a => Sys2Proof.Machine.execSplint a s
  | .tagkill a => Sys2Proof.Machine.execTagkill a s
  | .dtload a => Sys2Proof.Machine.execDtload a s
  | .splinterComplete a => Sys2Proof.Machine.execSplinterComplete a s
  | .handlerStart a => Sys2Proof.Machine.execHandlerStart a s
  | .accessResponse a => Sys2Proof.Machine.execAccessResponse a s
  | .siCombineTimeout a b => Sys2Proof.Machine.execSiCombineTimeout a b s
  | .homeRequest a => Sys2Proof.Machine.execHomeRequest a s
  | .recallOwner a => Sys2Proof.Machine.execRecall a s
  | .ownerWriteback a => Sys2Proof.Machine.execOwnerWriteback a s
  | .seamFence a => Sys2Proof.Machine.execSeamFence a s
  | .quiesceDeadline a => Sys2Proof.Machine.execQuiesceDeadline a s
  | .dieRejoin a => Sys2Proof.Machine.execDieRejoin a s
  | .scrubRead a => Sys2Proof.Machine.execScrubRead a s
  | .scrubWriteback a => Sys2Proof.Machine.execScrubWriteback a s
  | .leaseExpiry a b => Sys2Proof.Machine.execLeaseExpiry a b s
  | .migrationHandover => Sys2Proof.Machine.execMigrationHandover s
  | .migrationForwardingEnd => Sys2Proof.Machine.execMigrationForwardingEnd s
  | .flaskPlace => Sys2Proof.Machine.execFlaskPlace s
  | .hWaitTimeout a => Sys2Proof.Machine.execHWaitTimeout a s
  | .saveComplete a => Sys2Proof.Machine.execSaveComplete a s
  | .blockRetire a b => Sys2Proof.Machine.execBlockRetire a b s
  | .fettlerReplayStart a => Sys2Proof.Machine.execFettlerReplayStart a s
  | .fettlerSkip a => Sys2Proof.Machine.execFettlerSkip a s
  | .replayEnd a => Sys2Proof.Machine.execReplayEnd a s
  | .pourRetire a => Sys2Proof.Machine.execPourRetire a s
  | .sprueFire a b => Sys2Proof.Machine.execSprueFire a b s
  | .fabricIngressRequest a => Sys2Proof.Machine.execFabricIngressRequest a s
  | .uCapRelease a => Sys2Proof.Machine.execUCapRelease a s
  | .keyRolloverDue a => Sys2Proof.Machine.execKeyRolloverDue a s
  | .keyReady a => Sys2Proof.Machine.execKeyReady a s
  | .replayDrained a => Sys2Proof.Machine.execReplayDrained a s
  | .retireKey a => Sys2Proof.Machine.execRetireKey a s
  | .linkIntegrityFailure a => Sys2Proof.Machine.execLinkIntegrityFailure a s
  | .laneLoss a => Sys2Proof.Machine.execLaneLoss a s
  | .retrainTimeout a => Sys2Proof.Machine.execRetrainTimeout a s
  | .doorbell a b c d => Sys2Proof.Machine.execDoorbell a b c d s
  | .bar2Access a b c d => Sys2Proof.Machine.execBar2Access a b c d s
  | .launchQueueConfigWrite a b c => Sys2Proof.Machine.execLaunchQueueConfigWrite a b c s
  | .tenantWordWrite a b => Sys2Proof.Machine.execTenantWordWrite a b s
  | .contextEntryWrite a b => Sys2Proof.Machine.execContextEntryWrite a b s
  | .contextKeyLoaded a => Sys2Proof.Machine.execContextKeyLoaded a s
  | .fabcfgWrite a => Sys2Proof.Machine.execFabcfgWrite a s
  | .memcfgWrite a => Sys2Proof.Machine.execMemcfgWrite a s
  | .linkcfgWrite a => Sys2Proof.Machine.execLinkcfgWrite a s
  | .contcfgWrite a => Sys2Proof.Machine.execContcfgWrite a s
  | .registerWrite a b => Sys2Proof.Machine.execRegisterWrite a b s
  | .frameOwner a b => Sys2Proof.Machine.execFrameOwner a b s
  | .reservedSlots a => Sys2Proof.Machine.execReservedSlots a s
  | .retireUnit a b c => Sys2Proof.Machine.execRetireUnit a b c s
  | .preEmpt a b c d e f => Sys2Proof.Machine.execPreEmpt a b c d e f s
  | .migratePage a b c => Sys2Proof.Machine.execMigratePage a b c s
  | .endpointMap a b c => Sys2Proof.Machine.execEndpointMap a b c s
  | .releaseHeld a b => Sys2Proof.Machine.execReleaseHeld a b s
  | .powerLimit a => Sys2Proof.Machine.execPowerLimit a s
  | .mailboxDone => Sys2Proof.Machine.execMailboxDone s
  | .pfrespServe a b => Sys2Proof.Machine.execPfrespServe a b s
  | .pfrespDecline a b => Sys2Proof.Machine.execPfrespDecline a b s
  | .pageFaultEnqueue a => Sys2Proof.Machine.execPageFaultEnqueue a s
  | .lostClear a => Sys2Proof.Machine.execLostClear a s
  | .sparmreq a b c => Sys2Proof.Machine.execSparmreq a b c s
  | .spdis a b => Sys2Proof.Machine.execSpdis a b s
  | .invalidateRequest a b => Sys2Proof.Machine.execInvalidateRequest a b s
  | .invalidateCompletion => Sys2Proof.Machine.execInvalidateCompletion s
  | .getMeasurements a b => Sys2Proof.Machine.execGetMeasurements a b s
  | .boot => Sys2Proof.Machine.execBoot s
  | .clockThrottle => Sys2Proof.Machine.execClockThrottle s
  | .clockRestore => Sys2Proof.Machine.execClockRestore s
  | .postedAccessAnswer a => Sys2Proof.Machine.execPostedAccessAnswer a s
  | .linkRetrained a => Sys2Proof.Machine.execLinkRetrained a s
  | .flitCheckFailure a => Sys2Proof.Machine.execFlitCheckFailure a s
  | .memoEntryAged a b => Sys2Proof.Machine.execMemoEntryAged a b s
  | .migrationLeaseWaitEnd => Sys2Proof.Machine.execMigrationLeaseWaitEnd s
  | .remoteDataCacheClearEnd => Sys2Proof.Machine.execRemoteDataCacheClearEnd s

end Sys2Proof.Machine
end

