-- ==== Sys2Proof/Machine/Latency.lean ====
section
/-! DEFINITION. The result latencies and unit occupancies that the specification gives, and which registers an instruction
touches: what may keep a sub-group back that is otherwise ready (R41, R97, R114, R202, R229, R245; log entry 8). -/

namespace Sys2Proof

/-- The result latency of an integer instruction by its type (R97). -/
def Ty.latency (t : Ty) (narrow wide : Nat) : Nat := if t.bits = 64 then wide else narrow

/-- The result latency of an instruction that is no long-latency producer, in core cycles (R25, R97, R114, R202, R245): of
`lds` and `ldk` the longest, with every bank conflict or a miss. Where the specification gives none, the longest that it
gives for an instruction on registers (log entry 8). -/
def Instr.latency : Instr → Nat
  | .add a | .sub a | .min a | .max a | .abs a | .neg a | .and a | .or a | .xor a | .not a | .shl a | .shr a | .sar a | .rot a
  | .clz a | .popc a | .brev a | .bfx a | .bfi a | .lea a | .setp a | .sel a | .plop a
  | .addImm a | .subImm a | .minImm a | .maxImm a | .andImm a | .orImm a | .xorImm a | .shlImm a | .shrImm a | .sarImm a
  | .rotImm a | .leaImm a | .setpImm a => a.mod.ty.latency 4 6
  | .mulLo a | .mulHi a | .mad a | .madWide a | .dp4 a | .mulLoImm a | .mulHiImm a | .mulLoMap2 a | .mulHiMap2 a =>
    a.mod.ty.latency 8 12
  | .div a | .rem a | .divImm a | .remImm a => a.mod.ty.latency 24 44
  | .fadd _ | .fsub _ | .fmul _ | .fma _ | .fmin _ | .fmax _ | .fsetp _ | .fclass _ | .hadd2 _ | .hmul2 _ | .hfma2 _ | .cvt _
  | .faddImm _ | .fsubImm _ | .fmulImm _ | .fminImm _ | .fmaxImm _ | .fsetpImm _ => 4
  | .frcp _ | .frsq _ | .fsqrt _ | .fexp2 _ | .flog2 _ | .ftanh _ => 20
  | .fsin _ | .fcos _ => 28
  | .fdiv _ => 32
  | .pk4 _ | .upk4 _ | .amax _ => 8
  | .qblk _ | .dqblk _ => 12
  | .voteAny _ | .voteAll _ | .voteMask _ => 4
  | .shflPick _ | .shflRot _ | .shflSlide _ | .shflMir _ => 6
  | .lds _ => 150 + 127
  | .ldk _ => 12 + 980
  | _ => 44

/-- The unit of its issue slot that an instruction occupies, and for how many core cycles (R97, R114): 0 the divider, 1 the
function unit, 2 the cross-lane unit. -/
def Instr.unit : Instr → Option (Nat × Nat)
  | .div a | .rem a | .divImm a | .remImm a => some (0, a.mod.ty.latency 8 16)
  | .frcp _ | .frsq _ | .fsqrt _ | .fexp2 _ | .flog2 _ | .ftanh _ | .fsin _ | .fcos _ | .fdiv _ => some (1, 8)
  | .pk4 _ | .upk4 _ | .amax _ | .qblk _ | .dqblk _ => some (2, 4)
  | _ => none

/-- Whether an instruction is a branch, whose sub-groups may issue 6 cc later (R245). -/
def Instr.branches : Instr → Bool
  | .bra _ | .brx _ | .call _ | .callInd _ | .ret _ => true
  | _ => false

/-- The registers of an operand of some width: v by number, s from 256 and p from 384. -/
def Opnd.regs (o : Opnd) (w : Nat) : List Nat :=
  match o with
  | .v n => (List.range w).map (n.toNat + ·)
  | .s n => (List.range w).map (256 + n.toNat + ·)
  | .p n => [384 + n.toNat]
  | _ => []

/-- The registers at an operand position; those that are written alone where `dst` says so. -/
def Pos.regs (p : Pos) (o : Opnd) (dst : Bool) : List Nat :=
  match p with
  | .unused => []
  | .use _ w d _ => if dst && !d then [] else o.regs w

/-- The registers that an instruction's operands touch, or those that it writes. -/
def Instr.regs (i : Instr) (dst : Bool) : List Nat :=
  i.heads.elim [] fun h =>
    let s := shape i
    s.d.regs h.d dst ++ s.a.regs h.a dst ++ s.b.regs h.b dst ++ s.c.regs h.c dst

/-- The predicate register that an instruction's guard reads (R35). -/
def Instr.guardRegs (i : Instr) : List Nat :=
  (encode i).elim [] fun w => let g := (unpack w).gsel; if g = 7 then [] else [384 + g.toNat]

/-- Whether an instruction waits for the result of an earlier one: it touches a register that the other writes (R41). -/
def Instr.awaits (i earlier : Instr) : Bool :=
  let ws := earlier.regs true
  !ws.isEmpty && (i.regs false ++ i.guardRegs).any ws.contains

end Sys2Proof
end

