-- ==== Sys2Proof/Machine/Turn.lean ====
section
/-! DEFINITION. Turns: what one turn of the agenda does, the events of the device that may happen by themselves,
and the choice of the next turn when the agenda is empty (R174, R229, R270, R283; log entry 8). -/

namespace Sys2Proof.Machine

open Sys2Proof

/-! ## One turn -/

/-- A turn of a sub-group: what its fetch and decoding lead to, and the effect of its instruction. -/
def State.issueTurn (s : State) (p : Site) : Host.Outcome State Fault Refusal :=
  match s.turnOf p with
  | (t, some i) => exec i t
  | (t, none) => .next t

/-! ## The order of issue (R229, R283) -/

/-- The issue slot of a squad: its core, and its squad slot modulo 4 (R283). The squad slot of squad q of a block is
block slot × 32 + q (log entry 8). -/
def issueSlot (key : Nat) : Nat := key / 64 * 4 + key % 4

/-- The stage weight of a squad: the runners into which its stage pushes that hold no handle while pops wait, plus
those from which it pops while pushes wait. -/
def State.stageScore (s : State) (bid sq : Nat) : Nat :=
  let st := (s.kernel bid).stageOf sq
  let rs := (s.flask (s.block bid).flask).runners
  rs.countP (fun r => r.2.pushStage == some st && r.2.n == 0 && !r.2.waiting.isEmpty)
  + rs.countP (fun r => r.2.popStage == some st && !r.2.pushers.isEmpty)

/-- The standing of a squad in R283, the lowest first: a handler, unless the handlers of its slot yield; a squad ready for 32 cc, the
longest first; a squad of a U-class pour; and by stage weight; the last three the least recently issued first, and
ties in ascending squad slot. -/
def State.standing (s : State) (yields : Bool) (key : Nat) : Nat :=
  let bid := key / 32
  let sq := key % 32
  let c : Nat × Nat :=
    if (s.block bid).serves sq then (if yields then (2000, 0) else (0, 0))
    else match s.ctrl.ready.get? key with
      | some t =>
        if t + 32 ≤ s.ctrl.now then (1, t)
        else if (s.pourOfBlock bid).cls = 0 then (2, (s.squad bid sq).issued)
        else (1000 - s.stageScore bid sq, (s.squad bid sq).issued)
      | none =>
        if (s.pourOfBlock bid).cls = 0 then (2, (s.squad bid sq).issued)
        else (1000 - s.stageScore bid sq, (s.squad bid sq).issued)
  (c.1 * 2 ^ 64 + c.2) * 64 + key % 64

/-- The sub-groups of an issue slot's squads in the order in which it considers them: by the standing of their
squad, then the least recently issued first, those that ceded last (R40, R229). -/
def State.order (s : State) (yields : Bool) (slot : Nat) : List Site :=
  let keyed := (s.squads.filter fun q => issueSlot q.1 == slot).flatMap fun q => q.2.ctl.groups.zipIdx.map fun g =>
    (((s.standing yields q.1) * 2 ^ 65 + (if g.1.lanes &&& q.2.ceded = 0 then 0 else 2 ^ 64) + g.1.issued) * 64 + g.2,
      ({ bid := q.1 / 32, sq := q.1 % 32, grp := g.2 } : Site))
  (keyed.foldl (fun (t : Table Site) e => t.put e.1 e.2) []).map (·.2)

/-- Whether a sub-group's turn would be an issue. -/
def State.readyAt (s : State) (p : Site) : Bool :=
  match s.issueTurn p with
  | .next t => !t.ctrl.waited
  | _ => true

/-- The key under which a sub-group's readiness is noted: its squad and its lowest lane. -/
def State.groupKey (s : State) (p : Site) : Nat :=
  squadKey p.bid p.sq * 32 + (s.groupAt p).elim 0 fun g => lowestLane g.lanes

/-- Whether the next instruction of a squad waits for a result that the squad's earlier issues are yet to give (R41, R97,
R114, R245). -/
def State.awaitsResult (s : State) (key : Nat) (i : Instr) : Bool :=
  s.ctrl.recent.any fun e => e.key == key && decide (s.ctrl.now < e.at' + e.insn.latency) && i.awaits e.insn

/-- Whether the next instruction of a squad waits for a unit of its issue slot (R97, R114). -/
def State.awaitsUnit (s : State) (key : Nat) (i : Instr) : Bool :=
  i.unit.any fun u => s.ctrl.recent.any fun e =>
    issueSlot e.key == issueSlot key && e.insn.unit.any fun w => w.1 == u.1 && decide (s.ctrl.now < e.at' + w.2)

/-- Whether a sub-group has just been formed (R245): by a branch 6 cc ago, by a release 2 cc ago, or served 4 cc ago. -/
def State.forming (s : State) (p : Site) : Bool :=
  let t := stampCycle ((s.groupAt p).elim 0 (·.issued))
  let key := squadKey p.bid p.sq
  (s.ctrl.recent.any fun e => e.key == key && e.at' == t && decide (s.ctrl.now < t + (if e.insn.branches then 6 else 2)))
  || ((s.groupAt p).any fun g => g.kind != .running)
    && (match s.ctrl.groupsReady.get? (s.groupKey p) with
      | some t => decide (s.ctrl.now < t + 4)
      | none => true)

/-- Whether a sub-group named late may be passed over: its instruction still waits for a result of its squad or for a unit
of its slot, or it has just been formed (log entry 8). -/
def State.excused (s : State) (p : Site) (late : List Site) : Bool :=
  let key := squadKey p.bid p.sq
  late.contains p && (s.forming p || (s.turnOf p).2.any fun i => s.awaitsResult key i || s.awaitsUnit key i)

/-- Whether the handlers of a slot yield: one issued there in the previous cycle (R283). -/
def State.yielding (s : State) (slot : Nat) : Bool :=
  match s.ctrl.slots.get? slot with
  | some e => decide (s.ctrl.now ≤ e.1 + 1) && e.2
  | none => false

/-- Whether a slot may give a sub-group its issue: one pick in a cycle, and no sub-group ahead of it in the order of
R283 and R229 is ready. -/
def State.admits (s : State) (p : Site) (late : List Site) : Bool :=
  let slot := issueSlot (squadKey p.bid p.sq)
  (match s.ctrl.slots.get? slot with | some e => e.1 != s.ctrl.now | none => true)
  && ((s.order (s.yielding slot) slot).takeWhile (· != p)).all fun q => s.excused q late || !s.readyAt q

/-- A slot's pick begins: the turn is noted with its instruction, and the sub-group no longer waits to issue. -/
def State.picks (s : State) (p : Site) : State :=
  { s with ctrl := { s.ctrl with picked := some p, insn := (s.turnOf p).2, groupsReady := s.ctrl.groupsReady.erase (s.groupKey p) } }

/-- The sub-groups that are ready to issue. -/
def State.readySites (s : State) : List Site :=
  s.squads.flatMap fun q =>
    ((List.range q.2.ctl.groups.length).map fun g => ({ bid := q.1 / 32, sq := q.1 % 32, grp := g } : Site)).filter s.readyAt

/-- Times kept for some keys, and begun for those that have none. -/
def sinceWhen (t : Table Nat) (now : Nat) (keys : List Nat) : Table Nat := keys.foldl (fun u k => u.put k (t.get k now)) []

/-- Since when each squad and each sub-group has been ready without issuing, brought up to date: what is not ready, or
gone, has no time (R229, R283). -/
def State.noteReady (s : State) : State :=
  let ready := s.readySites
  { s with ctrl := { s.ctrl with
      ready := sinceWhen s.ctrl.ready s.ctrl.now (ready.map fun p => squadKey p.bid p.sq)
      groupsReady := sinceWhen s.ctrl.groupsReady s.ctrl.now (ready.map s.groupKey) } }

/-- The issues that still count, with one more (R97, R114): none keeps another back for longer than 1,024 cc. -/
def Ctrl.issuing (c : Ctrl) (key : Nat) : List Issued :=
  (c.recent.filter fun e => decide (c.now < e.at' + 1024)) ++ (c.insn.map fun i => { at' := c.now, key, insn := i : Issued }).toList

/-- A pick that was an issue noted with its slot. -/
def State.notePick (s : State) : State :=
  match s.ctrl.picked with
  | none => s
  | some p =>
    let c := { s.ctrl with picked := none, insn := none }
    let key := squadKey p.bid p.sq
    if s.ctrl.waited then { s with ctrl := c }
    else
      let hnd := (s.block p.bid).serves p.sq
      { s with ctrl := { c with
          slots := c.slots.put (issueSlot key) (s.ctrl.now, hnd), ready := c.ready.erase key, recent := s.ctrl.issuing key } }

/-- A peer lets its memo of an atomic of this device age (R183). -/
def State.peerMemoAged (s : State) (ep core ident : Nat) : State :=
  let aged := fun (m : Memo) => m.home == 2 ^ 61 + ep && m.core == core && m.ident == ident
  if s.homes.memos.any aged then
    { s with homes := { s.homes with
      memos := s.homes.memos.filter fun m => !aged m
      farAged := s.homes.farAged ++ [(ep, core, ident)] } }
  else s

/-- A peer refuses this device's accesses from now on, or no longer does (R218). -/
def State.peerRefuses (s : State) (ep : Nat) (on : Bool) : State :=
  let others := s.dev.refusing.filter fun e => e != ep
  { s with dev := { s.dev with refusing := if on then others ++ [ep] else others } }

/-- Whether an event is one that the host makes through the PF (R363, R375). -/
def ofPf : Instr → Bool
  | .fabcfgWrite _ | .memcfgWrite _ | .linkcfgWrite _ | .contcfgWrite _ | .tenantWordWrite _ _ | .contextEntryWrite _ _
  | .frameOwner _ _ | .reservedSlots _ | .retireUnit _ _ _ | .preEmpt _ _ _ _ _ _ | .migratePage _ _ _ | .endpointMap _ _ _
  | .releaseHeld _ _ | .powerLimit _ | .lostClear none | .registerWrite (.hentry _) _ | .registerWrite .mailboxCmd _
  | .registerWrite (.other _) _ => true
  | _ => false

/-- What an act does. An instruction that has a word is no event, an issue that its slot does not admit does not
happen, and nothing reaches the PF before it enumerates (R370). -/
def State.act (s : State) : Act → Host.Outcome State Fault Refusal
  | .issue p late => if s.admits p late then (s.picks p).issueTurn p else .next s
  | .event i => if i.isWord || (ofPf i && !s.function 64) then .next s else exec i s
  | .engine core eng => .next (s.sequence core eng)
  | .hostWrites a bs => .next { s with mem := { s.mem with host := Memory.writeBytes s.mem.host a bs } }
  | .peerWrites k bs => .next { s with mem := { s.mem with peer := Memory.writeBytes s.mem.peer k bs } }
  | .peerAged ep core ident => .next (s.peerMemoAged ep core ident)
  | .peerRefuses ep on => .next (s.peerRefuses ep on)
  | .writeBack ls => .next (s.cleaned ls.contains)
  | .damage st a => .next (s.breakUnit st a)
  | .detect st a => .next (s.detectUnit st a)
  | .bootFails k c => .next (s.bootFails k c)
  | .abortAnswer id => .next (s.abortAnswer id)
  | .codeChanged p va => .next (s.codeChanged p va)
  | .linkUp l => .next (s.linkUp l)
  | .linkAck l n => .next (s.linkAck l n)
  | .sensors w c => .next { s with dev := { s.dev with watts := w, celsius := c } }
  | .hostPage page present =>
    let others := s.dev.hostAbsent.filter fun e => e != page
    .next { s with dev := { s.dev with hostAbsent := if present then others else others ++ [page] } }
  | .altersDie d => .next (if s.dev.altered.contains d then s else { s with dev := { s.dev with altered := s.dev.altered ++ [d] } })
  | .bar0Read fn ofs n => .next (s.bar0Read fn ofs n)
  | .bar0Write fn ofs bs => .next (s.bar0Write fn ofs bs)
  | .msixWrite fn v e => .next (s.msixWrite fn v e)
  | .msixRead fn v => .next (s.msixRead fn v)
  | .pbaRead fn => .next (s.pbaRead fn)
  | .resizeBar2 fn log => .next (s.resizeBar2 fn log)
  | .idle => .next s

/-- The squads of a block that has just halted stop where they stand if they are not ready (R319). -/
def State.stopIdle (s : State) (bid : Nat) : State :=
  let ready := fun (k : Nat) => (List.range (s.squad (k / 32) (k % 32)).ctl.groups.length).any fun g => s.readyAt ⟨bid, k % 32, g⟩
  let s' := s.setBlock bid { s.block bid with halting := false }
  { s' with squads := s'.squads.map fun q =>
      if q.1 / 32 == bid && q.2.cause == 0 && !ready q.1 then (q.1, { q.2 with stopped := true }) else q }

/-- The halts of this turn carried out. -/
def State.stopHalted (s : State) : State := ((s.blocks.filter fun b => b.2.halting).map (·.1)).foldl State.stopIdle s

/-- The damaged units that the turn has found act: flasks consume theirs (R341), and contexts end (R346). -/
def State.ruin (s : State) : State :=
  if s.homes.ruined.isEmpty && s.homes.ruinedCtx.isEmpty then s
  else
    let t := s.homes.ruined.foldl (fun (s : State) r => if s.blocks.has r.1 then s.consume r.1 r.2.1 r.2.2 else s)
      { s with homes := { s.homes with ruined := [] } }
    t.homes.ruinedCtx.foldl (fun s r => s.ruinContext r.1 r.2.1 r.2.2) { t with homes := { t.homes with ruinedCtx := [] } }

/-- What follows every turn at once: the note of a slot's pick, the halts that it has begun (R319), the damage that it has
found (R341, R346), the spills that waited (R196), the idle times of drains (R181, R261), the requests held at the
ingress (R282, R376) and those of the host (R365, R366, R378), and who is ready to issue now (R283). -/
def State.settle (s : State) : State :=
  s.notePick.stopHalted.ruin.retrySpills.watchDrains.watchMigration.presentHeld.presentHost.watchMail.noteReady

/-! ## Events that happen by themselves -/

/-- What a turn does to the state. -/
abbrev Effect : Type := State → Host.Outcome State Fault Refusal

/-- The events of requests, owners and combined stores. -/
def State.memoryEvents (s : State) : List Effect :=
  (s.homes.reqs.flatMap fun r => [execHomeRequest r.1, execAccessResponse r.1, execPostedAccessAnswer r.1])
  ++ (s.cores.flatMap fun (c : Nat × Core) => c.2.atoms.map fun a => execAccessResponse a.id)
  ++ (((s.homes.owners.filter fun o => o.2.pending != 0).map fun o => execRecall (o.1 / 512)))
  ++ (s.homes.backs.map fun b => execOwnerWriteback b.1)
  ++ (s.squads.flatMap fun q => q.2.combine.map fun c => execSiCombineTimeout q.1 c.id)

/-- The events of the engines. -/
def State.engineEvents (s : State) : List Effect :=
  s.cores.flatMap fun (c : Nat × Core) =>
    [execMatrixCommandExecute c.1]
    ++ ((List.range 4).map fun q => execCopyStart c.1 q)
    ++ (c.2.copies.flatMap fun (x : Nat × CopyCmd) =>
        (match x.2.next with | some u => [execCopyLanding c.1 x.1 u] | none => []) ++ [execCopyComplete c.1 x.1])
    ++ ([Engine.copy, .matrix].flatMap fun e =>
        [execEngineProgramStart c.1 e, execEngineProgramEnd c.1 e, fun s => .next (s.sequence c.1 e)])

/-- The events of squads, blocks, flasks and pours. -/
def State.workEvents (s : State) : List Effect :=
  (s.tks.map fun t => execTknxtAnswer t.1)
  ++ (s.squads.filterMap fun q => if q.2.drain.isSome then some (execDrainComplete q.1) else none)
  ++ (s.flasks.flatMap fun f =>
      (List.range 96).filterMap fun b =>
        if s.allLocal f.2.blocks b && !f.2.blocks.isEmpty then some (execSeamPhaseComplete f.1 b) else none)
  ++ (s.blocks.flatMap fun b => [execHandlerStart b.1, execBlockRetire b.1 0xFFFF])
  ++ (s.flasks.map fun f => execSaveComplete f.1)
  ++ (s.flasks.flatMap fun f => if f.2.chosen then [execFettlerReplayStart f.1, execReplayEnd f.1, execFettlerSkip f.1] else [])
  ++ (s.pours.map fun p => execPourRetire p.1)
  ++ (s.dev.splinters.map fun z => execSplinterComplete z.1)
  ++ (s.tenants.flatMap fun t => t.2.sprues.map fun x => execSprueFire t.1 x.1)
  ++ [execFlaskPlace]
  ++ ((s.heads 1).map fun h => execHWaitTimeout (flaskKey h.2 (s.pour h.2).placed .first))
  ++ ((s.returning 1).filterMap fun w => match w with
      | .back f => some (execHWaitTimeout f)
      | .new _ => none)

/-- The events of the device. -/
def State.deviceEvents (s : State) : List Effect :=
  (if s.dev.regs.bootStep = 7 then [] else [execBoot])
  ++ ((List.range 2).map fun d (s : State) =>
      .next (if (s.die d).phase == .quiescing then s.cleaned fun l => homeDie (l * 64) == d else s))
  ++ (s.contexts.map fun c => execContextKeyLoaded c.1)
  ++ (s.tenants.map fun t => execPageFaultEnqueue t.1)
  ++ [execMailboxDone, execMigrationLeaseWaitEnd, execMigrationHandover, execMigrationForwardingEnd, execRemoteDataCacheClearEnd]
  ++ (if s.dev.invalidating.isEmpty then [] else [execInvalidateCompletion])
  ++ ((List.range 2).flatMap fun d => [execSeamFence d, execQuiesceDeadline d, execDieRejoin d, execScrubWriteback d])
  ++ (s.dev.links.flatMap fun l =>
      [execUCapRelease l.1, execLinkRetrained l.1, execRetrainTimeout l.1, execKeyRolloverDue l.1, execKeyReady l.1, execReplayDrained l.1, execRetireKey l.1])
  ++ (s.homes.peerMemos.map fun m => execMemoEntryAged m.peer m.ident)
  ++ [execClockThrottle, execClockRestore]

/-- Everything that may happen by itself, in the order in which the model lets it happen. -/
def State.events (s : State) : List Effect :=
  s.memoryEvents ++ s.engineEvents ++ s.workEvents ++ s.deviceEvents
  ++ s.dev.links.map fun l => fun s => .next (s.linkAck l.1 l.2.replay.length)

/-! ## The default order -/

/-- The sub-groups of all squads: the slots in the order of their last picks, each in its own order. Where a handler made
the last pick of its slot, the handlers come last there. -/
def State.sites (s : State) : List Site :=
  let slots := (s.squads.map fun q => issueSlot q.1).eraseDups
  let last := fun (l : Nat) => (s.ctrl.slots.get? l).map (·.1)
  let sorted := slots.foldl (fun (t : Table Nat) l => t.put (((last l).getD 0) * 1024 + l) l) []
  sorted.flatMap fun l => s.order ((s.ctrl.slots.get? l.2).any (·.2)) l.2

/-- Whether an effect changes anything but the model's own part of the state. -/
def State.changes (s : State) (e : Effect) : Bool :=
  match e s with
  | .next t => decide ({ t with ctrl := s.ctrl } ≠ s)
  | _ => false

/-- What happens where the agenda is empty: the first event that changes something, else the turn of the first
sub-group that changes something, else nothing. -/
def State.choose (s : State) : Effect :=
  ((s.events ++ s.sites.map fun p (s : State) => (s.picks p).issueTurn p).find? s.changes).getD .next

/-- The next turn: the agenda's first, or one chosen a cycle later. -/
def State.turn (s : State) : Host.Outcome State Fault Refusal :=
  match s.ctrl.agenda with
  | t :: r => ({ s with ctrl := { s.ctrl with agenda := r } }.elapse t.dt).act t.act
  | [] =>
    let s := s.elapse 1
    s.choose s

/-! ## The state in which a given word is the next instruction -/

/-- The kernel of that state: every amount that a block may declare. -/
def slotKernel : Kernel :=
  { codeHi := 1200, regs := 255, tiles := 16, accs := 8, tags := 64, bars := 96, runners := 16, shared := 524288
    depths := List.replicate 16 4 }

/-- A word placed as the next instruction of squad 0 of block slot 0: a booted device with one privileged context,
one pour of one flask, its code page present in the core's TLB, and the squad's issue as the next turn. -/
def State.placeWord (s : State) (bytes : List Byte) : State :=
  let table := tableFor (wordOfBytes bytes)
  let p : Pour := { tag := 1, num := 1, kern := { slotKernel with map := tableMap table }, table, placed := 1 }
  let key := pourKey 1 1
  let f := flaskKey key 0 .first
  let leaf : Leaf := { kind := 0, x := true, w := true, r := true, addr := 65536 }
  let fl : Flask := { pour := key, idx := 0, blocks := [0], viewGen := 1, runners := (List.range 16).map fun n => (n, {}) }
  let s := (List.range 2).foldl State.releaseDie (s.setRegs { s.dev.regs with bootStep := 7 })
  let s := { s with
    mem := { s.mem with dev := Memory.writeBytes s.mem.dev 65536 bytes }
    homes := { s.homes with dgen := 1, frames := s.homes.frames.put 1 1 } }
  let s := (s.setTenant 0 { s.tenant 0 with en := true }).setContext 1 { s.context 1 with en := true, priv := true, tables := [(0, .map3)] }
  let s := s.setCore 0 { s.core 0 with tlb := [{ tag := 1, base := 0, size := 65536, leaf }] }
  let s := ((s.setPour key p).setFlask f fl).startBlock 0 { flask := f, idx := 0 } p
  { s with ctrl := { s.ctrl with agenda := [{ act := .issue { bid := 0, sq := 0, grp := 0 } }] } }

end Sys2Proof.Machine
end

