-- ==== Sys2Proof/Machine/Step.lean ====
section
/-! DEFINITION. One step of the machine: the next turn, what it does, and what follows it at once. -/

namespace Sys2Proof.Machine

open Sys2Proof

/-- One step. -/
def step (s : State) : Host.Outcome State Fault Refusal :=
  match s.turn with
  | .next t => .next t.settle
  | .fault f => .fault f
  | .refused r => .refused r

/-- The state with a word of the operation table where the next step fetches its instruction. -/
def State.withFetchWord (s : State) (nbits w : Nat) : State := s.placeWord (tableBytes nbits w)

end Sys2Proof.Machine
end

