-- ==== Sys2Proof/Safety.lean ====
section
/-! DEFINITION. What counts as a safe run: every step answers a next state, and every memory keeps its canonical
form; and the words in which statements speak of an instruction's completion, its result and its frame. -/

namespace Sys2Proof

/-- The native map under which an instruction's word is read: map 2 for the codes that R51 moves. -/
def Instr.table : Instr → DTable
  | .mulLoMap2 _ | .mulHiMap2 _ | .biniMap2 _ | .barvMap2 _ | .bexpMap2 _ | .bwaitMap2 _ | .btestMap2 _
    | .forkMap2 _ | .rdvMap2 _ | .drainMap2 _ => .map2
  | _ => .map3

/-- A `cpyx` named as a get: its word is that of the put, and the descriptor's DIR decides (R215). -/
def Instr.isGet : Instr → Bool
  | .cpyxGet _ => true
  | _ => false

/-- Whether an operand of w registers covers vector register n. -/
def Opnd.coversV (o : Opnd) (w n : Nat) : Bool :=
  match o with
  | .v k => decide (k.toNat ≤ n ∧ n < k.toNat + w)
  | _ => false
/-- Whether it covers scalar register n. -/
def Opnd.coversS (o : Opnd) (w n : Nat) : Bool :=
  match o with
  | .s k => decide (k.toNat ≤ n ∧ n < k.toNat + w)
  | _ => false
/-- Whether it covers predicate register n. -/
def Opnd.coversP (o : Opnd) (n : Nat) : Bool :=
  match o with
  | .p k => k.toNat == n
  | _ => false

end Sys2Proof

namespace Sys2Proof.Machine

open Sys2Proof

/-! ## Runs -/

/-- Every memory is in canonical form. -/
def Memories.wf (m : Memories) : Bool :=
  Memory.wf m.dev && Memory.wf m.pooled && Memory.wf m.tiles && Memory.wf m.host && Memory.wf m.peer

/-- A run of k steps that no fault or refusal stops and that leaves every memory in canonical form. -/
def SafeRun (k : Nat) (s : State) : Prop := ∃ t, Sys2Proof.core.run k s = .next t ∧ t.mem.wf = true

/-! ## Completion -/

/-- An instruction that issues with a head completes: whenever the issue stage lets it run, the next state is its
effect followed by the advance of its sub-group to the next instruction. -/
def CompletesWith (i : Instr) (h : Head) (eff : Ins → State → State) : Prop :=
  ∀ (s : State) (x : Ins), s.prepare h = .run x → exec i s = .next ((eff x (s.begin x)).finish x h.hint)

/-- An instruction completes under a condition on the state and its operands. -/
def CompletesWhen (i : Instr) (h : Head) (cond : Ins → State → Prop) (eff : Ins → State → State) : Prop :=
  ∀ (s : State) (x : Ins), s.prepare h = .run x → cond x (s.begin x) →
    exec i s = .next ((eff x (s.begin x)).finish x h.hint)

/-- An instruction raises a cause under a condition: a trap precise at it, with no other effect. -/
def TrapsWhen (i : Instr) (h : Head) (cond : Ins → State → Prop) (code : Nat) (sub : Ins → State → Nat) : Prop :=
  ∀ (s : State) (x : Ins), s.prepare h = .run x → cond x (s.begin x) →
    exec i s = .next (s.trapAt x code (sub x (s.begin x)))

/-! ## Results -/

/-- What w registers hold of a 64-bit result: one register its low half, two the whole of it. -/
def cutTo (w : Nat) (v : DWord) : DWord := if w = 1 then v.lo.setWidth 64 else v

/-- A destination holds a result: a vector register in every passing lane, a scalar register, or a predicate register
other than p7, that of the lowest passing lane. -/
def State.holdsIn (t : State) (x : Ins) (o : Opnd) (w : Nat) (f : Nat → DWord) : Prop :=
  match o with
  | .v _ => ∀ i, i < 32 → x.pass.getLsbD i = true → t.get x o w i = cutTo w (f i)
  | .s _ => ∀ i, t.get x o w i = cutTo w (f x.lane)
  | .p n => w = 1 → n ≠ 7 → (t.squad x.bid x.sq).rf.pred n.toNat = (f x.lane).lo
  | _ => True

/-- A predicate destination holds the bits of a test in the passing lanes and its own old bits in the others; p7
takes no write. -/
def State.bitsIn (s t : State) (x : Ins) (o : Opnd) (f : Nat → Bool) : Prop :=
  match o with
  | .p n => ∀ i, i < 32 → ((t.squad x.bid x.sq).rf.pred n.toNat).getLsbD i
      = (if n ≠ 7 ∧ x.pass.getLsbD i = true then f i else ((s.squad x.bid x.sq).rf.pred n.toNat).getLsbD i)
  | _ => True

/-- An instruction completes and leaves a result in its destination; the result is computed from the state before
it. -/
def Yields (i : Instr) (h : Head) (f : State → Ins → Nat → DWord) : Prop :=
  ∀ (s : State) (x : Ins), s.prepare h = .run x →
    ∃ t, exec i s = .next t ∧ t.holdsIn x h.ops.d h.shape.d.width (f s x)

/-- An instruction completes and leaves the bits of a test in its predicate destination. -/
def YieldsBits (i : Instr) (h : Head) (f : State → Ins → Nat → Bool) : Prop :=
  ∀ (s : State) (x : Ins), s.prepare h = .run x → ∃ t, exec i s = .next t ∧ s.bitsIn t x h.ops.d (f s x)

/-- The result of one, two or three sources. -/
def of1 (h : Head) (op : DWord → DWord) (s : State) (x : Ins) (i : Nat) : DWord := op (s.srcA x h i)
/-- The result of two sources. -/
def of2 (h : Head) (op : DWord → DWord → DWord) (s : State) (x : Ins) (i : Nat) : DWord := op (s.srcA x h i) (s.srcB x h i)
/-- The result of three sources. -/
def of3 (h : Head) (op : DWord → DWord → DWord → DWord) (s : State) (x : Ins) (i : Nat) : DWord :=
  op (s.srcA x h i) (s.srcB x h i) (s.srcC x h i)

/-! ## Control -/

/-- A lane runs at an address. -/
def Ctl.runsAt (c : Ctl) (i : Nat) (pc : Pc) : Prop :=
  ∃ g ∈ c.groups, g.kind = .running ∧ g.lanes.getLsbD i = true ∧ g.pc = pc

/-- A lane has gone to an address: it runs there, or meets there. -/
def Ctl.goneTo (c : Ctl) (i : Nat) (pc : Pc) : Prop :=
  ∃ g ∈ c.groups, (g.kind = .running ∨ g.kind = .meet) ∧ g.lanes.getLsbD i = true ∧ g.pc = pc

/-- A lane is held at an address, at a meeting or at a rejoin. -/
def Ctl.heldAt (c : Ctl) (kind : GKind) (i : Nat) (pc : Pc) : Prop :=
  ∃ g ∈ c.groups, g.kind = kind ∧ g.lanes.getLsbD i = true ∧ g.pc = pc

/-- An instruction completes and every lane of its sub-group goes on at an address, where no lane of the squad has
a meeting in front of it. -/
def GoesTo (i : Instr) (h : Head) (target : State → Ins → Nat → Pc) : Prop :=
  ∀ (s : State) (x : Ins), s.prepare h = .run x → (s.squad x.bid x.sq).ctl.mr = [] →
    ∃ t, exec i s = .next t ∧
      ∀ k, k < 32 → x.lanes.getLsbD k = true → (t.squad x.bid x.sq).ctl.runsAt k (target s x k)

/-! ## Memory accesses -/

/-- A destination of w registers holds the words of a number, the first register lowest: a vector operand in every
passing lane, a scalar one that of the lowest passing lane. -/
def State.wordsIn (t : State) (x : Ins) (o : Opnd) (w : Nat) (f : Nat → Nat) : Prop :=
  ∀ k, k < w → match o with
    | .v _ => ∀ i, i < 32 → x.pass.getLsbD i = true → t.regWord x.bid x.sq o k i = BitVec.ofNat 32 (f i / 2 ^ (32 * k))
    | .s _ => ∀ i, t.regWord x.bid x.sq o k i = BitVec.ofNat 32 (f x.lane / 2 ^ (32 * k))
    | _ => True

/-- The head of a memory access whose ordering may make it a wait point. -/
def orderedHead {μ : Type} (a : Args μ) (i : Instr) (ordered : Bool) : Head := headOf a i false ordered

/-- Two register files agree outside a destination of w registers in some lanes, and in every full/empty bit. -/
def RegFile.agreeBut (r r' : RegFile) (o : Opnd) (w : Nat) (lanes : Lanes) : Prop :=
  (∀ n i, i < 32 → (o.coversV w n && lanes.getLsbD i) = false → r'.vec n i = r.vec n i)
  ∧ (∀ n, o.coversS w n = false → r'.scalar n = r.scalar n)
  ∧ (∀ n, o.coversP n = false → r'.pred n = r.pred n)
  ∧ r'.vE = r.vE ∧ r'.sE = r.sE

/-- No passing lane of an instruction stands where a page of it has been declined (R189). -/
def State.noneDeclined (s : State) (x : Ins) : Prop := (s.declinedAt x).any (fun d => d.2 &&& x.pass != 0) = false

/-- Whether a pre-emption of the mailbox names a flask: by its context, pour and index (R375). -/
def State.namedBy (s : State) (tag pour flask : Nat) (fl : Flask) : Prop :=
  (s.pour fl.pour).tag = tag ∧ (pour = 0 ∨ (s.pour fl.pour).num = pour) ∧ (flask = 0xFFFFFFFF ∨ fl.idx = flask)

/-- Every squad but one is as before. -/
def State.sameSquadsBut (s t : State) (x : Ins) : Prop :=
  ∀ b q, squadKey b q ≠ squadKey x.bid x.sq → t.squad b q = s.squad b q

/-- What an access on its way leaves alone: every other squad, every block with its control registers, every context
and tenant, the values of every register of its squad, and its squad's trap registers. -/
def State.accessFrame (s t : State) (x : Ins) : Prop :=
  s.sameSquadsBut t x ∧ t.blocks = s.blocks ∧ t.contexts = s.contexts ∧ t.tenants = s.tenants
  ∧ (t.squad x.bid x.sq).rf.v = (s.squad x.bid x.sq).rf.v ∧ (t.squad x.bid x.sq).rf.s = (s.squad x.bid x.sq).rf.s
  ∧ (t.squad x.bid x.sq).rf.p = (s.squad x.bid x.sq).rf.p ∧ (t.squad x.bid x.sq).cause = (s.squad x.bid x.sq).cause
  ∧ (t.squad x.bid x.sq).trapPc = (s.squad x.bid x.sq).trapPc

/-- What an access that is complete at its issue leaves alone: every register but its destination's in the passing
lanes, every other squad, and every block. -/
def State.loadFrame (s t : State) (x : Ins) (d : Opnd) (w : Nat) : Prop :=
  RegFile.agreeBut (s.squad x.bid x.sq).rf (t.squad x.bid x.sq).rf d w x.pass ∧ s.sameSquadsBut t x ∧ t.blocks = s.blocks
  ∧ (t.squad x.bid x.sq).cause = (s.squad x.bid x.sq).cause ∧ (t.squad x.bid x.sq).trapPc = (s.squad x.bid x.sq).trapPc

/-- A pooled access of n bytes of a squad goes ahead: its lanes pass the checks of R188, and no earlier access of the
squad to one of their bytes is still to be performed (R155). -/
def State.poolGoes (s : State) (x : Ins) (a : Args PMod) (atom : Bool) : Prop :=
  s.poolCause x (s.poolAddr x a) a.mod.sz.bytes atom a.mod.skew = none
  ∧ (s.begin x).poolBusy x (fun i => s.lanePlace x (s.poolAddr x a i) a.mod.sz.bytes) a.mod.sz.bytes a.mod.skew = false

/-- The stack cache of a squad has room for the lines that a stack access fills ahead, which it need not read back, or
holds them. -/
def State.stackRoom (s : State) (x : Ins) (a : Args PMod) : Prop :=
  ((s.squad x.bid x.sq).stack.length < 32
    ∧ ∀ i, i < 32 → x.pass.getLsbD i = true → (s.squad x.bid x.sq).readsBack (s.stackOfs x a i / 4 + 1) = false)
  ∨ ∀ i, i < 32 → x.pass.getLsbD i = true → ((s.squad x.bid x.sq).stackLine (s.stackOfs x a i / 4 + 1)).isSome = true

/-- A pooled atomic completes where its lanes pass the checks of an atomic and its core has fewer than 16 outstanding:
it is on its way with the place, operand and compare value of each lane, its destination is empty in the passing
lanes, and no memory has changed yet. Where a lane fails a check, it traps with no effect. -/
def PooledAtomicCompletes (op : AtomOp) (i : Instr) (a : Args PMod) : Prop :=
  (∀ (s : State) (x : Ins) (c : Nat × Nat), s.prepare (orderedHead a i (a.mod.ord != .relaxed)) = .run x →
    s.poolCause x (s.poolAddr x a) a.mod.sz.bytes true a.mod.skew = some c → exec i s = .next (s.trapAt x c.1 c.2))
  ∧ ∀ (s : State) (x : Ins), s.prepare (orderedHead a i (a.mod.ord != .relaxed)) = .run x → s.poolGoes x a true →
    (s.begin x).atomsOut (coreOf x.bid) < 16 →
    ∃ t e, exec i s = .next t ∧ t.mem = s.mem ∧ s.accessFrame t x
      ∧ (t.squad x.bid x.sq).rf = (s.squad x.bid x.sq).rf.markEmpty a.d a.mod.sz.regs x.pass
      ∧ (t.core (coreOf x.bid)).atoms = (s.core (coreOf x.bid)).atoms ++ [e]
      ∧ e.bid = x.bid ∧ e.sq = x.sq ∧ e.op = op ∧ e.n = a.mod.sz.bytes ∧ e.skew = a.mod.skew ∧ e.d = a.d
      ∧ e.pieces = (lanesOf x.pass).map fun k =>
          let p := s.lanePlace x (s.poolAddr x a k) a.mod.sz.bytes
          ⟨k, p.1, p.2, (s.atomOperands x op a.b a.mod.sz.bytes k).1, (s.atomOperands x op a.b a.mod.sz.bytes k).2⟩

/-- A returning access has been opened: its record with its PC, destination and lanes stands last among the squad's open
accesses, every register of its destination is empty in its lanes and no other register is, a request for it with its
operation is on its way, and no memory has changed. -/
def OpensAccess (s t : State) (x : Ins) (d : Opnd) (n : Nat) (lanes : Lanes) (isOp : ReqOp → Prop) : Prop :=
  t.mem = s.mem ∧ s.accessFrame t x ∧ ∃ o, (t.squad x.bid x.sq).opens = (s.squad x.bid x.sq).opens ++ [o]
    ∧ o.pc = x.pc ∧ o.d = d ∧ o.size = n ∧ o.left = lanes
    ∧ (t.squad x.bid x.sq).rf = (s.squad x.bid x.sq).rf.markEmpty d ((n + 3) / 4) lanes
    ∧ ∃ e ∈ t.homes.reqs, e.2.inst = o.id ∧ e.2.bid = x.bid ∧ e.2.sq = x.sq ∧ e.2.status = .sent ∧ isOp e.2.op

/-- A returning global atomic opens its access. -/
def GlobalAtomicOpens (op : AtomOp) (i : Instr) (a : Args GMod) : Prop :=
  ∀ (s : State) (x : Ins), s.prepare (orderedHead a i true) = .run x →
    s.silent (s.block x.bid).flask = false → s.atomsOut (coreOf x.bid) < 16 →
    globalCause x (s.globalAddr x a.a a.imm) a.mod.sz.bytes true = none →
    let c := (s.begin x).coalesce x x.pass (s.globalAddr x a.a a.imm) a.mod.sz.bytes .rmw
    c.waits = false → c.trap = none → c.parked = 0 → c.absent = [] →
    c.made x.pass (s.globalAddr x a.a a.imm) a.mod.sz.bytes = x.pass →
    ∃ t, exec i s = .next t ∧ OpensAccess s t x a.d a.mod.sz.bytes x.pass (fun o => o = .atom op true)
      ∧ (t.flask (s.block x.bid).flask).side = true

/-- Where the coalescer has found that a byte lies: its target and its address there. -/
def Coal.place (c : Coal) (va : Nat) : Target × Nat :=
  let e := c.pages.get (va / 2 ^ 16) (.device, 0, false)
  (e.1, e.2.1 + va % 2 ^ 16)

/-- Every byte of a lane's store, but one that a higher lane stores too (R190), is on its way to its place: in a request
of its squad, or, where the instruction may combine, in the combined store of its thread and line (R171). -/
def State.storesGo (t : State) (x : Ins) (place : Nat → Target × Nat) (addr : Nat → Nat) (n : Nat) (val : Nat → Nat) (joins : Bool) : Prop :=
  ∀ i k, i < 32 → x.pass.getLsbD i = true → k < n →
    let pl := place (addr i + k)
    let byte : Byte := BitVec.ofNat 8 (val i / 256 ^ k)
    (∃ e ∈ t.homes.reqs, e.2.bid = x.bid ∧ e.2.sq = x.sq ∧ e.2.status = .sent ∧ e.2.target = pl.1 ∧ (∃ o, e.2.op = .store o)
      ∧ ∃ p ∈ e.2.pieces, p.lane = i ∧ p.addr ≤ pl.2 ∧ p.data[pl.2 - p.addr]? = some byte)
    ∨ (joins = true ∧ ∃ c ∈ (t.squad x.bid x.sq).combine, c.lane = i ∧ c.line * 64 ≤ pl.2
        ∧ c.bytes.get? (pl.2 - c.line * 64) = some byte)
    ∨ ∃ j l, i < j ∧ j < 32 ∧ x.pass.getLsbD j = true ∧ l < n ∧ (place (addr j + l)).1.same pl.1 = true
        ∧ (place (addr j + l)).2 = pl.2

/-- A posted instruction has been sent: it is registered last with its squad, and a request for it with its operation is
on its way. -/
def SendsPosted (s t : State) (x : Ins) (op : ReqOp) : Prop :=
  s.accessFrame t x ∧ ∃ p, (t.squad x.bid x.sq).posted = (s.squad x.bid x.sq).posted ++ [p]
    ∧ ∃ e ∈ t.homes.reqs, e.2.inst = p.id ∧ e.2.bid = x.bid ∧ e.2.sq = x.sq ∧ e.2.status = .sent ∧ e.2.op = op

/-- A posted operation at a home is sent, and changes no memory and no register. -/
def PostedSends (op : ReqOp) (i : Instr) (a : Args GMod) : Prop :=
  ∀ (s : State) (x : Ins), s.prepare (orderedHead a i (a.mod.ord != .relaxed)) = .run x →
    globalCause x (s.globalAddr x a.a a.imm) a.mod.sz.bytes true = none →
    let c := (s.begin x).coalesce x x.pass (s.globalAddr x a.a a.imm) a.mod.sz.bytes .rmw
    c.waits = false → c.trap = none → c.parked = 0 → c.absent = [] →
    c.made x.pass (s.globalAddr x a.a a.imm) a.mod.sz.bytes = x.pass →
    ∃ t, exec i s = .next t ∧ t.mem = s.mem ∧ (t.squad x.bid x.sq).rf = (s.squad x.bid x.sq).rf ∧ SendsPosted s t x op

/-- The range that a `crdecl` names, with the pages of its areas (R198). -/
def State.declared (s : State) (x : Ins) (a : Args GMod) (hm sm : List Nat) : Range :=
  { tag := s.tagOfBlock x.bid, home := (s.get x a.a 2 x.lane).toNat, shadow := (s.get x a.b 2 x.lane).toNat, homeMap := hm
    shadowMap := sm, len := (s.get1 x a.d x.lane).toNat, slots := a.imm.toNat % 256 + 1, fmt := rangeFmt a.imm
    pour := (s.flask (s.block x.bid).flask).pour }

/-- The home and shadow areas of a range are aligned to 64 bytes and end at 2^57 or below (R198). -/
def Range.placed (r : Range) : Prop :=
  r.home % 64 = 0 ∧ r.shadow % 64 = 0 ∧ r.home + r.sizes.1 ≤ 2 ^ 57 ∧ r.shadow + r.sizes.2 ≤ 2 ^ 57

/-- A reduction is sent. -/
def ReductionSends (op : AtomOp) (i : Instr) (a : Args GMod) : Prop := PostedSends (.atom op false) i a

/-! ## Service at a home -/

/-- A request stands before the home of its line in device memory, on its way or held: nothing of its squad goes first,
the seam lets it pass, no page migrates, its context may access the frame, and no unit is damaged. -/
def State.atHome (s : State) (id : Nat) (r : Req) : Prop :=
  s.homes.reqs.get? id = some r ∧ (r.status = .sent ∨ r.status = .held) ∧ r.target = .device ∧ s.homes.migration = none
  ∧ s.behind id r = false ∧ s.combinedAhead r = false ∧ s.seamHolds id r = false ∧ s.frameRefused r.tag r.line = none
  ∧ s.dev.damage = [] ∧ (∀ p ∈ r.pieces, p.addr / 64 = r.line)

/-- No copy in the remote-data cache of its die serves a request, and no answer is kept for it: its home decides. -/
def State.homeDecides (s : State) (id : Nat) (r : Req) : Prop :=
  (s.cacheable r = true → r.left.isSome = true ∨ s.rdcEntry r = none) ∧ s.memoOf r = none ∧ s.memoGone r = false
  ∧ s.heldBefore id r = false

/-- A request as it leaves its die's remote-data cache: a fill request notes the generation at which it does (R179). -/
def State.fillAsked (s : State) (r : Req) : Req :=
  if s.cacheable r && r.left.isNone then { r with left := some s.homes.dgen } else r

/-- The state with that note. -/
def State.missed (s : State) (id : Nat) (r : Req) : State :=
  if s.cacheable r && r.left.isNone then s.setReq id (s.fillAsked r) else s

/-- The event leaves a request performed with some results and refusals, and the memories as they are given. -/
def State.serves (s : State) (id : Nat) (results : List (Nat × Nat × List Byte)) (bad : List (Nat × Nat × Nat)) (m : Memories) : Prop :=
  ∃ t q, exec (.homeRequest id) s = .next t ∧ t.homes.reqs.get? id = some q ∧ q.status = .performed
    ∧ q.results = results ∧ q.bad = bad ∧ t.mem = m

/-- The pieces of an atomic performed one after another on a memory: the memory after them and the old values. -/
def Req.atomRun (r : Req) (op : AtomOp) (m : Memory) : Memory × List (Nat × Nat × List Byte) :=
  r.pieces.foldl (fun acc p =>
    let old := leNat (Memory.readBytes acc.1 p.addr p.n)
    (Memory.writeBytes acc.1 p.addr (leBytes p.n (atomNew op p.n old (leNat p.data) p.cmp)), acc.2 ++ [(p.lane, p.ofs, leBytes p.n old)]))
    (m, r.results)

/-- The words of a line that stand in the owner buffer of a block. -/
def State.ownedWords (s : State) (bid line : Nat) : BitVec 16 :=
  ((s.core (coreOf bid)).owner.find? fun l => l.line == line && l.bid == bid).elim 0 (·.words)

/-- Byte k of the line of a request as its block holds it once words are granted to it: of a word that it owned, the byte
in its owner buffer, and of any other that of the home (R174). -/
def State.grantedByte (s : State) (r : Req) (k : Nat) : Byte :=
  if (s.ownedWords r.bid r.line).getLsbD (k / 4) then s.ownedByte r.bid r.line k else Memory.read s.mem.dev (r.line * 64 + k)

/-- The bytes of a line under the stores of a request, in ascending lane order (R190). -/
def Req.overlay (r : Req) (f : Nat → Byte) : Nat → Byte :=
  r.pieces.foldl (fun (f : Nat → Byte) p k =>
    if p.addr % 64 ≤ k ∧ k < p.addr % 64 + p.data.length then (p.data[k - p.addr % 64]?).getD (f k) else f k) f

/-! ## Frames -/

/-- Everything outside the squads, the damage marks and the model's own counters is as before: memory of every
kind, homes, blocks with their tags, barriers and control registers, flasks, pours, cores, contexts, tenants. -/
def State.sameOutside (s t : State) : Prop :=
  t.mem = s.mem ∧ t.homes = s.homes ∧ t.blocks = s.blocks ∧ t.flasks = s.flasks ∧ t.pours = s.pours
  ∧ t.cores = s.cores ∧ t.progs = s.progs ∧ t.chains = s.chains ∧ t.tks = s.tks ∧ t.contexts = s.contexts
  ∧ t.tenants = s.tenants ∧ { t.dev with damage := [] } = { s.dev with damage := [] }

/-- What an instruction that only writes registers leaves of its squad's other state: trap registers, accesses,
held causes, combined stores, arrivals, forks, drains and the stack cache. -/
def Squad.sameRest (q q' : Squad) : Prop :=
  q'.cause = q.cause ∧ q'.trapPc = q.trapPc ∧ q'.trapLanes = q.trapLanes ∧ q'.opens = q.opens ∧ q'.posted = q.posted
  ∧ q'.deferred = q.deferred ∧ q'.lost = q.lost ∧ q'.combine = q.combine ∧ q'.aph = q.aph ∧ q'.turn = q.turn
  ∧ q'.forks = q.forks ∧ q'.drain = q.drain ∧ q'.cwaits = q.cwaits ∧ q'.stack = q.stack ∧ q'.written = q.written

/-- Outside the squads and the model's own counters, a state is this one. -/
def State.sameButSquads (s t : State) : Prop := { t with squads := s.squads, ctrl := s.ctrl } = s

/-- An instruction has done to everything outside the squads what leads to u, and to the squads nothing but the advance
of its sub-group: every other squad, every register, and its squad's other state are as before. -/
def State.advanced (s u t : State) (x : Ins) : Prop :=
  (u.endWait x.bid x.sq).sameButSquads t ∧ s.sameSquadsBut t x ∧ (t.squad x.bid x.sq).rf = (s.squad x.bid x.sq).rf
  ∧ (s.squad x.bid x.sq).sameRest (t.squad x.bid x.sq)

/-- The words of a program as its fork reads them (R258). -/
def State.forkReads (s : State) (x : Ins) (imm : Word) : State × ProgRead :=
  s.programAt x.bid (fun page => ((s.declinedAt x).get page 0) &&& x.pass != 0) (x.forkTarget imm).toNat (forkCount imm)

/-- Whether a command that moves rows waits for a pooled atomic of its squad (R129). -/
def State.rowsWait (s : State) (x : Ins) (op : MatOp) : Bool :=
  op.rows.isSome && (s.core (coreOf x.bid)).atoms.any fun e => e.mine x.bid x.sq

/-- A matrix instruction enters the queue of its core behind the commands that stand there, and changes nothing else,
where the queue has room, its checks pass and, where it moves rows of pooled space, no pooled atomic of its squad is
still to be performed (R129); where a check fails, it traps with no effect. -/
def MatrixEnters (i : Instr) (h : Head) (chk : State → Ins → MatChk) : Prop :=
  (∀ (s : State) (x : Ins) (op : MatOp), s.prepare h = .run x → s.matFull (coreOf x.bid) = false →
    chk (s.begin x) x = .ok op → s.rowsWait x op = false →
    ∃ t, exec i s = .next t ∧ s.advanced (s.matPush x.bid op none (some (x.sq, (s.squad x.bid x.sq).seq + 1))) t x)
  ∧ ∀ (s : State) (x : Ins) (c k : Nat), s.prepare h = .run x → s.matFull (coreOf x.bid) = false →
    chk (s.begin x) x = .bad c k → exec i s = .next (s.trapAt x c k)

/-- Rows have been stored to pooled space as `tst` and `accst` store them (R125, R126): row r of some bytes at its place,
in ascending order, so that the last byte to reach a place stands; nothing else has changed. -/
def State.rowsStored (s t : State) (bid addr pitch rows len : Nat) (skew : Bool) (byte : Nat → Nat → Byte) : Prop :=
  let key := fun (r k : Nat) => s.poolKey (s.rowPlace bid addr pitch r len).1 ((s.rowPlace bid addr pitch r len).2 + k) skew
  t = { s with mem := { s.mem with pooled := t.mem.pooled } }
  ∧ (∀ m, (∀ r k, r < rows → k < len → key r k ≠ m) → Memory.read t.mem.pooled m = Memory.read s.mem.pooled m)
  ∧ ∀ r k, r < rows → k < len → (∀ r' k', r' < rows → k' < len → (r < r' ∨ (r = r' ∧ k < k')) → key r' k' ≠ key r k) →
      Memory.read t.mem.pooled (key r k) = byte r k

/-- An accumulator element as `accst` stores it in a format (R126). -/
def accstCode (f : Fmt) (e : Word) : Nat :=
  if f = .f32 then e.toNat else narrowF (Fmt.float f) false (Fmt.value .f32 e.toNat)

/-! ## Copies -/

/-- The memory in which a landing copy lands: the tiles, or pooled space. -/
def CopyCmd.landMem (c : CopyCmd) (m : Memories) : Memory := if c.tile then m.tiles else m.pooled

/-- The memories with another in which a landing copy lands. -/
def CopyCmd.setLandMem (c : CopyCmd) (m : Memories) (x : Memory) : Memories :=
  if c.tile then { m with tiles := x } else { m with pooled := x }

/-- Where byte k of what a copy lands from an offset of a block lies in that memory (R211). -/
def State.landKey (s : State) (c : CopyCmd) (q : Nat × Nat) (k : Nat) : Nat :=
  if c.tile then tileKey q.1 c.tnum (q.2 + k) else s.poolKey q.1 (q.2 + k) c.skw

/-- What the issue of a copy with a descriptor finds. -/
def copyFinds (kind : CopyKind) (a : Args CMod) (s : State) (x : Ins) : CopyChk :=
  s.copyCheck (s.copyBase x.bid x.sq a.mod kind none) a.mod (s.reader x) a.d a.a a.b a.imm (s.followFor x)

/-- A copy enters its queue and its tag, and changes nothing else, where the queue has room, its checks pass and it is no
put of an audit's replay, which it would end (R355); where a check fails, it traps with no effect. -/
def CopyEnters (kind : CopyKind) (i : Instr) (a : Args CMod) : Prop :=
  (∀ (s : State) (x : Ins) (c : CopyCmd), s.prepare (headOf a i) = .run x →
    s.copyFull (coreOf x.bid) a.mod.que.toNat = false → copyFinds kind a (s.begin x) x = .ok c → s.putEnds c = false →
    ∃ t, exec i s = .next t ∧ s.advanced (s.copyEnter c) t x)
  ∧ ∀ (s : State) (x : Ins) (c k : Nat), s.prepare (headOf a i) = .run x →
    s.copyFull (coreOf x.bid) a.mod.que.toNat = false → copyFinds kind a (s.begin x) x = .bad c k →
    exec i s = .next (s.trapAt x c k)

/-- An event has its effect where its condition holds, and none where it does not. -/
def EventIs (ev : Instr) (cond : State → Prop) (eff : State → State) : Prop :=
  ∀ s, (cond s → exec ev s = .next (eff s)) ∧ (¬cond s → exec ev s = .next s)

end Sys2Proof.Machine

namespace Sys2Proof

open Sys2Proof.Machine

/-- The head of an instruction whose only effects are on its destination register and its sub-group's place. -/
def Instr.regHead (i : Instr) : Option Head :=
  match i with
  | .nop a | .yield a | .bra a | .brx a | .call a | .callInd a | .ret a | .voteAny a | .voteAll a | .voteMask a
    | .shflPick a | .shflRot a | .shflSlide a | .shflMir a | .rdclk a => some (headOf a i true)
  | .add a | .sub a | .mulLo a | .mulHi a | .mad a | .madWide a | .div a | .rem a | .min a | .max a | .abs a
    | .neg a | .and a | .or a | .xor a | .not a | .shl a | .shr a | .sar a | .rot a | .clz a | .popc a
    | .brev a | .bfx a | .bfi a | .lea a | .setp a | .sel a | .plop a | .mov a | .movi a | .dp4 a
    | .addImm a | .subImm a | .mulLoImm a | .mulHiImm a | .divImm a | .remImm a | .minImm a | .maxImm a
    | .andImm a | .orImm a | .xorImm a | .shlImm a | .shrImm a | .sarImm a | .rotImm a | .leaImm a
    | .setpImm a | .mulLoMap2 a | .mulHiMap2 a => some (headOf a i true)
  | .fadd a | .fsub a | .fmul a | .fma a | .fmin a | .fmax a | .fsetp a | .fclass a | .frcp a | .frsq a
    | .fsqrt a | .fdiv a | .fexp2 a | .flog2 a | .fsin a | .fcos a | .ftanh a | .hadd2 a | .hmul2 a
    | .hfma2 a | .cvt a | .faddImm a | .fsubImm a | .fmulImm a | .fminImm a | .fmaxImm a | .fsetpImm a =>
      some (headOf a i true)
  | .dqblk a | .pk4 a | .upk4 a | .amax a => some (headOf a i true)
  | .sysRecoveryState a | .sysPourNumber a => some (headOf a i)
  | _ => none

end Sys2Proof
end

