-- ==== Sys2Proof/Certificates/Slice0/Obligations.lean ====
section
/-! DEFINITION. The statements for the provers: encoding and decoding, the step, reset, the invariant of memory, and
for each family where its instructions complete, what they leave, where they trap and what they leave alone. -/

open Sys2Proof Sys2Proof.Machine

/-! ## Words -/

/-- Words written out from the fields of R30, the operand codes of R33, the modifiers of R42 and R43 and the opcodes
of R49 decode to the instructions they stand for: bits 9:0 OPC, 13:10 guard, 22:14 D, 31:23 A, 40:32 B, 75:44 IMM,
87:76 MOD, 95:88 HNT. -/
def Obligations.SpecWordsDecode : Prop :=
  decodeTableWord 96 (0x3000 * 2 ^ 64 + 0x82001F80) = some (.movcr { a := .s 4, mod := .tshape 3 })
  ∧ decodeTableWord 96 (0x000 + 7 * 2 ^ 10) = some (.nop { mod := () })
  ∧ decodeTableWord 96 (0x040 + 7 * 2 ^ 10 + 4 * 2 ^ 14 + 5 * 2 ^ 23 + 6 * 2 ^ 32 + 2 * 2 ^ 84)
      = some (.add { d := .v 4, a := .v 5, b := .v 6, mod := { ty := .i32 } })
  ∧ decodeTableWord 96 (0x0C0 + 8 * 2 ^ 10 + 1 * 2 ^ 14 + 2 * 2 ^ 23 + 3 * 2 ^ 32)
      = some (.fadd { guard := { neg := true, sel := 0 }, d := .v 1, a := .v 2, b := .v 3, mod := {} })
  ∧ decodeTableWord 96 (0x001 + 7 * 2 ^ 10 + 0xFFFFFFFF * 2 ^ 44) = some (.bra { imm := 0xFFFFFFFF, mod := () })
  ∧ decodeTableWord 96 (0x301 + 7 * 2 ^ 10 + 5 * 2 ^ 81) = some (.barv { mod := { idx := 5 } })
  ∧ decodeTableWord 96 (0x3C1 + 7 * 2 ^ 10 + 5 * 2 ^ 81) = some (.barvMap2 { mod := { idx := 5 } })
  ∧ decodeTableWord 96 (0x385 + 7 * 2 ^ 10 + 480 * 2 ^ 23) = some (.rft { a := .sp .zero, mod := () })
  ∧ decodeTableWord 96 (0x03F + 7 * 2 ^ 10) = none

/-- Encoding a well-formed instruction and decoding the word under its native map gives the instruction back, with
every operand, modifier, hint and guard. A `cpyx` has one word for both directions, and the decoder names it as the
put (log entry 12). -/
def Obligations.DecodeEncodeAgree : Prop :=
  ∀ (regs : Nat) (i : Instr), i.wf regs = true → i.isGet = false →
    ∃ w, encode i = some w ∧ decode ⟨i.table, true, regs⟩ w = .ok i

/-- Checks 2 to 4 of R48 in their order, under any table: an entry whose IOP is 0xFFF raises 0x010, a privileged entry
in a context that is not privileged 0x014, and an entry with TOU set 0x015, each with the opcode as sub-code. -/
def Obligations.EntryChecksInOrder : Prop :=
  ∀ (env : DecEnv) (w : InsnWord),
    let opc := (unpack w).opc.toNat
    let e := env.table.entry opc
    ((e.extractLsb' 4 12).toNat = 0xFFF → decode env w = .trap 0x010 opc)
    ∧ ((e.extractLsb' 4 12).toNat ≠ 0xFFF → e.getLsbD 3 = true → env.priv = false → decode env w = .trap 0x014 opc)
    ∧ ((e.extractLsb' 4 12).toNat ≠ 0xFFF → (e.getLsbD 3 = false ∨ env.priv = true) → e.getLsbD 2 = true →
        decode env w = .trap 0x015 opc)

/-- Whatever decodes is well formed: no instruction leaves the decoder that fails a check of R48. -/
def Obligations.DecodedIsWellFormed : Prop :=
  ∀ (env : DecEnv) (w : InsnWord) (i : Instr), decode env w = .ok i → i.wf env.regs = true

/-! ## The step and reset -/

/-- Where the next turn gives a sub-group its issue, and its slot admits it, and the 12 bytes at its PC, or the word that its
pour has fetched there before a change that is not yet complete (R58, log entry 150), decode to an instruction, the step is
that instruction at that sub-group, followed by what every turn settles (`State.settle`): the
note of the slot's pick, the halts and the damage that the turn has found, the spills that waited, the idle times of
drains, the accesses of peers and of the host that wait, the mailbox, and who is ready to issue. An issue that the slot
does not admit (R229, R283) does nothing but let the time pass. -/
def Obligations.StepRunsTheDecodedInstruction : Prop :=
  ∀ (s : State) (dt : Nat) (p : Site) (late : List Site) (rest : List Turn),
    s.ctrl.agenda = { dt, act := .issue p late } :: rest →
    let s0 := ({ s with ctrl := { s.ctrl with agenda := rest } }).elapse dt
    let s1 := (s0.picks p).atSite p
    (s0.admits p late = false → step s = .next s0.settle)
    ∧ ∀ (g : Group) (t : State) (w : InsnWord) (i : Instr), s0.admits p late = true →
      s1.squadMay p.bid p.sq = true → s1.groupAt p = some g → g.kind = .running →
      (s1.squad p.bid p.sq).waitsFor g = false →
      inSegment ((s1.setGroup p g).segment p.bid p.sq) g.pc.toNat = true →
      (s1.setGroup p g).fetchWord (coreOf p.bid) ((s1.setGroup p g).tagOfBlock p.bid) g.pc.toNat = (t, .word w) →
      decode (t.decEnv p.bid) ((t.pourOfBlock p.bid).word g.pc.toNat w) = .ok i →
      step s = (match exec i t with
        | .next u => .next u.settle
        | .fault f => .fault f
        | .refused r => .refused r)

/-- A fetch through a translation that the core's TLB holds, of a word that lies in one page of device memory that the
context may execute and that no migration has retired, gives the 12 bytes that loads at their home return, the lowest
address first, where no unit is damaged and nothing at the home makes a load of the core's die wait (R29, R171, R174,
R347). It leaves what such a load leaves: owned words recalled and a copy in the die's remote-data cache patched. -/
def Obligations.FetchReadsTheWordAtItsAddress : Prop :=
  ∀ (s : State) (core tag va : Nat) (e : TlbEntry),
    va % 2 ^ 16 + 12 ≤ 2 ^ 16 →
    tlbHit (s.core core).tlb tag (s.context tag).asgen.toNat va = some e →
    e.leaf.kind = 0 → e.leaf.permits .fetch (s.context tag).priv = true →
    s.homes.retired.contains ((e.leaf.addr + (va - e.base)) / 2 ^ 16) = false →
    s.frameOk tag (e.leaf.addr + (va - e.base)) = true → s.dev.damage = [] →
    let pa := s.forward (e.leaf.addr + (va - e.base))
    s.homeWaits (some (dieOfCore core)) pa 12 = false →
    s.fetchWord core tag va
      = (s.loadDone (some (dieOfCore core)) pa 12, .word (wordOfBytes (s.valueBytes pa 12)))

/-- No step stops: every broken rule has its stated consequence, which is a next state (R3), and no instruction is
refused. -/
def Obligations.EveryStepAnswersANextState : Prop := ∀ s : State, ∃ t, step s = .next t

/-- The machine right after reset: nothing is placed, mapped or owned, every memory reads as 0, the boot has not
run, no die has left reset (R370), CSTAT reads 0 for both (R352), and the configuration registers hold the values that R364
(FABCFG, MEMCFG, LINKCFG), R352 (CONTCFG) and R374 give them. That memory reads as 0 and the tables are empty is the model's
choice (log entries 1 and 2), and so is the phase, held by the boot, in which CSTAT reads 0 (log entry 134). -/
def Obligations.ResetState : Prop :=
  let m := State.reset.mem
  let g := State.reset.dev.regs
  (∀ a, Memory.read m.dev a = 0 ∧ Memory.read m.pooled a = 0 ∧ Memory.read m.tiles a = 0 ∧ Memory.read m.host a = 0
    ∧ Memory.read m.peer a = 0 ∧ m.accs.get a 0 = 0)
  ∧ State.reset.squads = [] ∧ State.reset.blocks = [] ∧ State.reset.flasks = [] ∧ State.reset.pours = []
  ∧ State.reset.contexts = [] ∧ State.reset.tenants = [] ∧ State.reset.homes.owners = [] ∧ State.reset.homes.reqs = []
  ∧ g.bootStep = 0 ∧ g.bootFail = 0 ∧ (∀ d, (State.reset.die d).phase = .held ∧ (State.reset.die d).phase.code = 0)
  ∧ g.podHi = 0 ∧ g.podLo = 0x3FFFF ∧ g.epid = 0x3FFFF
  ∧ g.lease = 100 ∧ g.retryW = 10 ∧ g.rdcSz0 = 0 ∧ g.rdcSz1 = 0 ∧ g.rkLog2 = 36 ∧ g.rkSec = 3600
  ∧ g.fetEn = true ∧ g.ceThr = 64 ∧ g.scrubH = 24 ∧ g.qdl = 50 ∧ g.power = 2200 ∧ g.mhz = 3300

/-- Every memory is in canonical form after reset. -/
def Obligations.ResetMemoryCanonical : Prop := State.reset.mem.wf = true

/-- Every step keeps every memory in canonical form: strictly rising addresses and no listed zero. -/
def Obligations.StepKeepsMemoryCanonical : Prop :=
  ∀ s t : State, s.mem.wf = true → step s = .next t → t.mem.wf = true

/-- A guard that no lane passes lets any instruction complete with no effect but the advance (R35). -/
def Obligations.NoPassingLaneNoEffect : Prop :=
  ∀ (h : Head) (body : Ins → State → Result) (s : State) (x : Ins),
    s.insAt h.guard = some x → x.pass = 0 → issue h body s = .next (s.finish x h.hint)

/-- An empty source with FE = 1 in a passing lane, every other source full and nothing before it for which the
instruction waits, raises cause 0x051 with the position of the first such source, before the instruction has any
effect, whether its destination is full or not (R37). -/
def Obligations.EmptyTrappingSource : Prop :=
  ∀ (h : Head) (body : Ins → State → Result) (s : State) (x : Ins) (k : Nat),
    s.insAt h.guard = some x → x.pass ≠ 0 →
    let q := s.squad x.bid x.sq
    h.interlocked q.rf x.pass = true → q.held h = false → ((h.access || h.orders) && s.acquiring x.bid x.sq) = false →
    ((h.waits || h.orders || h.forks) && !q.combine.isEmpty) = false → (h.waits && s.unanswered x.bid x.sq) = false →
    (h.orders && s.accessing x.bid x.sq) = false → (h.forks && s.sending x.bid x.sq) = false →
    (h.waits = true → s.deferredOf x.bid x.sq = [] ∧ s.lostOf x.bid x.sq = false) →
    h.emptySource q.rf x.pass = some k →
    issue h body s = .next (s.trapAt x 0x051 k)

/-! ## Integer instructions -/

/-- Every integer instruction with a v or s destination completes and leaves in its destination the result of its
operation (R86 to R92, R95) on the values that its sources held before it. -/
def Obligations.IntegerResults : Prop :=
  (∀ a, Yields (.add a) (headOf a (.add a) true) (of2 (headOf a (.add a)) (opAdd a.mod)))
  ∧ (∀ a, Yields (.sub a) (headOf a (.sub a) true) (of2 (headOf a (.sub a)) (opSub a.mod)))
  ∧ (∀ a, Yields (.mulLo a) (headOf a (.mulLo a) true) (of2 (headOf a (.mulLo a)) (opMulLo a.mod)))
  ∧ (∀ a, Yields (.mulHi a) (headOf a (.mulHi a) true) (of2 (headOf a (.mulHi a)) (opMulHi a.mod)))
  ∧ (∀ a, Yields (.mulLoMap2 a) (headOf a (.mulLoMap2 a) true) (of2 (headOf a (.mulLoMap2 a)) (opMulLo a.mod)))
  ∧ (∀ a, Yields (.mulHiMap2 a) (headOf a (.mulHiMap2 a) true) (of2 (headOf a (.mulHiMap2 a)) (opMulHi a.mod)))
  ∧ (∀ a, Yields (.mad a) (headOf a (.mad a) true) (of3 (headOf a (.mad a)) (opMad a.mod)))
  ∧ (∀ a, Yields (.madWide a) (headOf a (.madWide a) true) (of3 (headOf a (.madWide a)) (opMadWide a.mod)))
  ∧ (∀ a, Yields (.div a) (headOf a (.div a) true) (of2 (headOf a (.div a)) (opDiv a.mod)))
  ∧ (∀ a, Yields (.rem a) (headOf a (.rem a) true) (of2 (headOf a (.rem a)) (opRem a.mod)))
  ∧ (∀ a, Yields (.min a) (headOf a (.min a) true) (of2 (headOf a (.min a)) (opMin a.mod)))
  ∧ (∀ a, Yields (.max a) (headOf a (.max a) true) (of2 (headOf a (.max a)) (opMax a.mod)))
  ∧ (∀ a, Yields (.abs a) (headOf a (.abs a) true) (of1 (headOf a (.abs a)) (opAbs a.mod)))
  ∧ (∀ a, Yields (.neg a) (headOf a (.neg a) true) (of1 (headOf a (.neg a)) (opNeg a.mod)))
  ∧ (∀ a, Yields (.and a) (headOf a (.and a) true) (of2 (headOf a (.and a)) (opAnd a.mod)))
  ∧ (∀ a, Yields (.or a) (headOf a (.or a) true) (of2 (headOf a (.or a)) (opOr a.mod)))
  ∧ (∀ a, Yields (.xor a) (headOf a (.xor a) true) (of2 (headOf a (.xor a)) (opXor a.mod)))
  ∧ (∀ a, Yields (.not a) (headOf a (.not a) true) (of1 (headOf a (.not a)) (opNot a.mod)))
  ∧ (∀ a, Yields (.shl a) (headOf a (.shl a) true) (of2 (headOf a (.shl a)) (opShl a.mod)))
  ∧ (∀ a, Yields (.shr a) (headOf a (.shr a) true) (of2 (headOf a (.shr a)) (opShr a.mod)))
  ∧ (∀ a, Yields (.sar a) (headOf a (.sar a) true) (of2 (headOf a (.sar a)) (opSar a.mod)))
  ∧ (∀ a, Yields (.rot a) (headOf a (.rot a) true) (of2 (headOf a (.rot a)) (opRot a.mod)))
  ∧ (∀ a, Yields (.clz a) (headOf a (.clz a) true) (of1 (headOf a (.clz a)) (opClz a.mod)))
  ∧ (∀ a, Yields (.popc a) (headOf a (.popc a) true) (of1 (headOf a (.popc a)) (opPopc a.mod)))
  ∧ (∀ a, Yields (.brev a) (headOf a (.brev a) true) (of1 (headOf a (.brev a)) (opBrev a.mod)))
  ∧ (∀ a, Yields (.bfx a) (headOf a (.bfx a) true) (of2 (headOf a (.bfx a)) (opBfx a.mod)))
  ∧ (∀ a, Yields (.bfi a) (headOf a (.bfi a) true) (of3 (headOf a (.bfi a)) (opBfi a.mod)))
  ∧ (∀ a, Yields (.lea a) (headOf a (.lea a) true) (of2 (headOf a (.lea a)) (opLea a.mod)))
  ∧ (∀ a, Yields (.dp4 a) (headOf a (.dp4 a) true) (of3 (headOf a (.dp4 a)) (opDp4 a.mod)))
  ∧ (∀ a, Yields (.mov a) (headOf a (.mov a) true) (of1 (headOf a (.mov a)) id))
  ∧ (∀ a, Yields (.movi a) (headOf a (.movi a) true) fun _ _ _ => a.mod.ty.immB a.imm)

/-- Every integer instruction with an immediate B completes and leaves the result of its operation on its source A
and the immediate, extended under R54. -/
def Obligations.IntegerImmediateResults : Prop :=
  (∀ a, Yields (.addImm a) (headOf a (.addImm a) true) (of1 (headOf a (.addImm a)) fun x => opAdd a.mod x (a.mod.ty.immB a.imm)))
  ∧ (∀ a, Yields (.subImm a) (headOf a (.subImm a) true) (of1 (headOf a (.subImm a)) fun x => opSub a.mod x (a.mod.ty.immB a.imm)))
  ∧ (∀ a, Yields (.mulLoImm a) (headOf a (.mulLoImm a) true) (of1 (headOf a (.mulLoImm a)) fun x => opMulLo a.mod x (a.mod.ty.immB a.imm)))
  ∧ (∀ a, Yields (.mulHiImm a) (headOf a (.mulHiImm a) true) (of1 (headOf a (.mulHiImm a)) fun x => opMulHi a.mod x (a.mod.ty.immB a.imm)))
  ∧ (∀ a, Yields (.divImm a) (headOf a (.divImm a) true) (of1 (headOf a (.divImm a)) fun x => opDiv a.mod x (a.mod.ty.immB a.imm)))
  ∧ (∀ a, Yields (.remImm a) (headOf a (.remImm a) true) (of1 (headOf a (.remImm a)) fun x => opRem a.mod x (a.mod.ty.immB a.imm)))
  ∧ (∀ a, Yields (.minImm a) (headOf a (.minImm a) true) (of1 (headOf a (.minImm a)) fun x => opMin a.mod x (a.mod.ty.immB a.imm)))
  ∧ (∀ a, Yields (.maxImm a) (headOf a (.maxImm a) true) (of1 (headOf a (.maxImm a)) fun x => opMax a.mod x (a.mod.ty.immB a.imm)))
  ∧ (∀ a, Yields (.andImm a) (headOf a (.andImm a) true) (of1 (headOf a (.andImm a)) fun x => opAnd a.mod x (a.mod.ty.immB a.imm)))
  ∧ (∀ a, Yields (.orImm a) (headOf a (.orImm a) true) (of1 (headOf a (.orImm a)) fun x => opOr a.mod x (a.mod.ty.immB a.imm)))
  ∧ (∀ a, Yields (.xorImm a) (headOf a (.xorImm a) true) (of1 (headOf a (.xorImm a)) fun x => opXor a.mod x (a.mod.ty.immB a.imm)))
  ∧ (∀ a, Yields (.shlImm a) (headOf a (.shlImm a) true) (of1 (headOf a (.shlImm a)) fun x => opShl a.mod x (a.mod.ty.immB a.imm)))
  ∧ (∀ a, Yields (.shrImm a) (headOf a (.shrImm a) true) (of1 (headOf a (.shrImm a)) fun x => opShr a.mod x (a.mod.ty.immB a.imm)))
  ∧ (∀ a, Yields (.sarImm a) (headOf a (.sarImm a) true) (of1 (headOf a (.sarImm a)) fun x => opSar a.mod x (a.mod.ty.immB a.imm)))
  ∧ (∀ a, Yields (.rotImm a) (headOf a (.rotImm a) true) (of1 (headOf a (.rotImm a)) fun x => opRot a.mod x (a.mod.ty.immB a.imm)))
  ∧ (∀ a, Yields (.leaImm a) (headOf a (.leaImm a) true) (of1 (headOf a (.leaImm a)) fun x => opLea a.mod x (a.mod.ty.immB a.imm)))

/-- The wrapped arithmetic of R87 on 32-bit types is arithmetic modulo 2^32 on the low words of the operands; a
saturated sum or difference of 32-bit values, signed or not, stays in the range of the type and is exact inside it. -/
def Obligations.WrappedAndSaturatedArithmetic : Prop :=
  (∀ (m : IntMod) (a b c : DWord), (m.ty = .i32 ∨ m.ty = .n32) → m.sat = false →
    (opAdd m a b).lo = a.lo + b.lo ∧ (opSub m a b).lo = a.lo - b.lo ∧ (opMulLo m a b).lo = a.lo * b.lo
    ∧ (opMad m a b c).lo = a.lo * b.lo + c.lo ∧ (opNeg m a).lo = -a.lo)
  ∧ (∀ (m : IntMod) (a b : DWord), m.ty = .i32 → m.sat = true →
    (opAdd m a b).lo.toInt = max (-2 ^ 31) (min (2 ^ 31 - 1) (a.lo.toInt + b.lo.toInt))
    ∧ (opSub m a b).lo.toInt = max (-2 ^ 31) (min (2 ^ 31 - 1) (a.lo.toInt - b.lo.toInt)))
  ∧ ∀ (m : IntMod) (a b : DWord), m.ty = .n32 → m.sat = true →
    (opAdd m a b).lo.toNat = min (2 ^ 32 - 1) (a.lo.toNat + b.lo.toNat)
    ∧ (opSub m a b).lo.toNat = a.lo.toNat - b.lo.toNat

/-- Quotient and remainder of R89 on exact integers of the type, for every type that `div` and `rem` accept: a
divisor of 0 gives all ones and the dividend, the signed overflow the smallest value (under `.sat` the largest) and 0,
and every other division truncates towards zero. `div` writes the quotient and
`rem` the remainder, an immediate B among them. -/
def Obligations.DivisionRule : Prop :=
  (∀ (m : IntMod) (x y : DWord), (m.ty = .i32 ∨ m.ty = .n32 ∨ m.ty = .i64 ∨ m.ty = .n64) →
    let a := m.ty.read x
    let b := m.ty.read y
    let q := m.ty.read (opDiv m x y)
    let r := m.ty.read (opRem m x y)
    (b = 0 → q = (if m.ty.signed then -1 else 2 ^ m.ty.bits - 1) ∧ r = a)
    ∧ (m.ty.signed = true → a = -(2 ^ (m.ty.bits - 1)) → b = -1 →
        q = (if m.sat then 2 ^ (m.ty.bits - 1) - 1 else -(2 ^ (m.ty.bits - 1))) ∧ r = 0)
    ∧ (b ≠ 0 → ¬(m.ty.signed = true ∧ a = -(2 ^ (m.ty.bits - 1)) ∧ b = -1) → q = a.tdiv b ∧ r = a - q * b))
  ∧ (∀ a, Yields (.div a) (headOf a (.div a) true) (of2 (headOf a (.div a)) (opDiv a.mod)))
  ∧ (∀ a, Yields (.rem a) (headOf a (.rem a) true) (of2 (headOf a (.rem a)) (opRem a.mod)))
  ∧ (∀ a, Yields (.divImm a) (headOf a (.divImm a) true) (of1 (headOf a (.divImm a)) fun x => opDiv a.mod x (a.mod.ty.immB a.imm)))
  ∧ (∀ a, Yields (.remImm a) (headOf a (.remImm a) true) (of1 (headOf a (.remImm a)) fun x => opRem a.mod x (a.mod.ty.immB a.imm)))

/-- The table of R90 on the low W bits of the operand, W being 32 or 64, for a shift amount that is the whole 32-bit
value of b. -/
def Obligations.ShiftRule : Prop :=
  (∀ (m : IntMod) (x y : DWord),
    let n := y.toNat % 2 ^ 32
    ((m.ty = .b32 ∨ m.ty = .n64) →
      let w := m.ty.bits
      let a := x.toNat % 2 ^ w
      (opShl m x y).toNat = (if n < w then a * 2 ^ n % 2 ^ w else 0)
      ∧ (opShr m x y).toNat = (if n < w then a / 2 ^ n else 0)
      ∧ (opRot m x y).toNat = (a * 2 ^ (n % w) % 2 ^ w) + a / 2 ^ (w - n % w))
    ∧ ((m.ty = .i32 ∨ m.ty = .i64) →
      let a := m.ty.read x
      m.ty.read (opSar m x y) = (if n < m.ty.bits then a.fdiv (2 ^ n) else if 0 ≤ a then 0 else -1)))
  ∧ (∀ a, Yields (.shl a) (headOf a (.shl a) true) (of2 (headOf a (.shl a)) (opShl a.mod)))
  ∧ (∀ a, Yields (.shr a) (headOf a (.shr a) true) (of2 (headOf a (.shr a)) (opShr a.mod)))
  ∧ (∀ a, Yields (.sar a) (headOf a (.sar a) true) (of2 (headOf a (.sar a)) (opSar a.mod)))
  ∧ (∀ a, Yields (.rot a) (headOf a (.rot a) true) (of2 (headOf a (.rot a)) (opRot a.mod)))

/-- The instructions that write predicate bits, and the selection by one, complete; in each passing lane bit i is
the comparison, the truth table or, for `vote`, the reduction over the passing lanes, other bits keep their values, and
p7 takes no write (R93, R94, R241). -/
def Obligations.PredicateResults : Prop :=
  (∀ a, YieldsBits (.setp a) (headOf a (.setp a) true) fun s x i =>
    flagSetp a.mod (s.srcA x (headOf a (.setp a)) i) (s.srcB x (headOf a (.setp a)) i))
  ∧ (∀ a, YieldsBits (.setpImm a) (headOf a (.setpImm a) true) fun s x i =>
    flagSetp a.mod (s.srcA x (headOf a (.setpImm a)) i) (a.mod.ty.immB a.imm))
  ∧ (∀ a, YieldsBits (.plop a) (headOf a (.plop a) true) fun s x i =>
    flagPlop a.mod (s.bitOf x a.a i) (s.bitOf x a.b i) (s.bitOf x a.c i))
  ∧ (∀ a, YieldsBits (.fsetp a) (headOf a (.fsetp a) true) fun s x i =>
    flagFsetp a.mod (s.srcA x (headOf a (.fsetp a)) i) (s.srcB x (headOf a (.fsetp a)) i))
  ∧ (∀ a, YieldsBits (.fsetpImm a) (headOf a (.fsetpImm a) true) fun s x i =>
    flagFsetp a.mod (s.srcA x (headOf a (.fsetpImm a)) i) (a.imm.setWidth 64))
  ∧ (∀ a, YieldsBits (.voteAny a) (headOf a (.voteAny a) true) fun s x _ => decide (s.get1 x a.a 0 &&& x.pass ≠ 0))
  ∧ (∀ a, YieldsBits (.voteAll a) (headOf a (.voteAll a) true) fun s x _ => decide (s.get1 x a.a 0 &&& x.pass = x.pass))
  ∧ (∀ a, Yields (.voteMask a) (headOf a (.voteMask a) true) fun s x _ => (s.get1 x a.a 0 &&& x.pass).setWidth 64)
  ∧ (∀ a, Yields (.sel a) (headOf a (.sel a) true) fun s x i =>
    if s.bitOf x a.c i then s.srcA x (headOf a (.sel a)) i else s.srcB x (headOf a (.sel a)) i)

/-- A shuffle gives each passing lane the value of its source lane, or its own where that lane does not pass or lies
outside the segment (R242); `rdclk` gives the cycles since the die left reset, 0 in an audited pour (R69, R61). -/
def Obligations.ShuffleAndClockResults : Prop :=
  (∀ a, Yields (.shflPick a) (headOf a (.shflPick a) true) fun s x i => (s.shuffled x .pick a.a a.b i).setWidth 64)
  ∧ (∀ a, Yields (.shflRot a) (headOf a (.shflRot a) true) fun s x i => (s.shuffled x .rot a.a a.b i).setWidth 64)
  ∧ (∀ a, Yields (.shflSlide a) (headOf a (.shflSlide a) true) fun s x i => (s.shuffled x .slide a.a a.b i).setWidth 64)
  ∧ (∀ a, Yields (.shflMir a) (headOf a (.shflMir a) true) fun s x i => (s.shuffled x .mir a.a a.b i).setWidth 64)
  ∧ (∀ a, Yields (.rdclk a) (headOf a (.rdclk a) true) fun s x _ =>
    if (s.kernel x.bid).audit then 0 else BitVec.ofNat 64 (s.ctrl.now - (s.die (dieOfBlock x.bid)).clkBase))

/-! ## Floating point, quantise and narrow -/

/-- Every floating-point instruction with a v or s destination completes and leaves the result of its operation
(R100 to R107) on the values that its sources held before it. How `fexp2`, `flog2`, `fsin`, `fcos` and `ftanh` compute
the result that R104 asks for, in fixed point, is the model's choice (log entry 6). -/
def Obligations.FloatResults : Prop :=
  (∀ a, Yields (.fadd a) (headOf a (.fadd a) true) (of2 (headOf a (.fadd a)) (opFadd a.mod)))
  ∧ (∀ a, Yields (.fsub a) (headOf a (.fsub a) true) (of2 (headOf a (.fsub a)) (opFsub a.mod)))
  ∧ (∀ a, Yields (.fmul a) (headOf a (.fmul a) true) (of2 (headOf a (.fmul a)) (opFmul a.mod)))
  ∧ (∀ a, Yields (.fma a) (headOf a (.fma a) true) (of3 (headOf a (.fma a)) (opFma a.mod)))
  ∧ (∀ a, Yields (.fmin a) (headOf a (.fmin a) true) (of2 (headOf a (.fmin a)) (opFmin a.mod)))
  ∧ (∀ a, Yields (.fmax a) (headOf a (.fmax a) true) (of2 (headOf a (.fmax a)) (opFmax a.mod)))
  ∧ (∀ a, Yields (.fclass a) (headOf a (.fclass a) true) (of1 (headOf a (.fclass a)) (opFclass a.mod)))
  ∧ (∀ a, Yields (.frcp a) (headOf a (.frcp a) true) (of1 (headOf a (.frcp a)) (opFrcp a.mod)))
  ∧ (∀ a, Yields (.frsq a) (headOf a (.frsq a) true) (of1 (headOf a (.frsq a)) (opFrsq a.mod)))
  ∧ (∀ a, Yields (.fsqrt a) (headOf a (.fsqrt a) true) (of1 (headOf a (.fsqrt a)) (opFsqrt a.mod)))
  ∧ (∀ a, Yields (.fdiv a) (headOf a (.fdiv a) true) (of2 (headOf a (.fdiv a)) (opFdiv a.mod)))
  ∧ (∀ a, Yields (.fexp2 a) (headOf a (.fexp2 a) true) (of1 (headOf a (.fexp2 a)) (opFexp2 a.mod)))
  ∧ (∀ a, Yields (.flog2 a) (headOf a (.flog2 a) true) (of1 (headOf a (.flog2 a)) (opFlog2 a.mod)))
  ∧ (∀ a, Yields (.fsin a) (headOf a (.fsin a) true) (of1 (headOf a (.fsin a)) (opFsin a.mod)))
  ∧ (∀ a, Yields (.fcos a) (headOf a (.fcos a) true) (of1 (headOf a (.fcos a)) (opFcos a.mod)))
  ∧ (∀ a, Yields (.ftanh a) (headOf a (.ftanh a) true) (of1 (headOf a (.ftanh a)) (opFtanh a.mod)))
  ∧ (∀ a, Yields (.hadd2 a) (headOf a (.hadd2 a) true) (of2 (headOf a (.hadd2 a)) (opHadd2 a.mod)))
  ∧ (∀ a, Yields (.hmul2 a) (headOf a (.hmul2 a) true) (of2 (headOf a (.hmul2 a)) (opHmul2 a.mod)))
  ∧ (∀ a, Yields (.hfma2 a) (headOf a (.hfma2 a) true) (of3 (headOf a (.hfma2 a)) (opHfma2 a.mod)))
  ∧ (∀ a, Yields (.cvt a) (headOf a (.cvt a) true) (of1 (headOf a (.cvt a)) (opCvt a.mod a.imm)))
  ∧ (∀ a, Yields (.faddImm a) (headOf a (.faddImm a) true) (of1 (headOf a (.faddImm a)) fun x => opFadd a.mod x (a.imm.setWidth 64)))
  ∧ (∀ a, Yields (.fsubImm a) (headOf a (.fsubImm a) true) (of1 (headOf a (.fsubImm a)) fun x => opFsub a.mod x (a.imm.setWidth 64)))
  ∧ (∀ a, Yields (.fmulImm a) (headOf a (.fmulImm a) true) (of1 (headOf a (.fmulImm a)) fun x => opFmul a.mod x (a.imm.setWidth 64)))
  ∧ (∀ a, Yields (.fminImm a) (headOf a (.fminImm a) true) (of1 (headOf a (.fminImm a)) fun x => opFmin a.mod x (a.imm.setWidth 64)))
  ∧ (∀ a, Yields (.fmaxImm a) (headOf a (.fmaxImm a) true) (of1 (headOf a (.fmaxImm a)) fun x => opFmax a.mod x (a.imm.setWidth 64)))

/-- The quantise and narrow instructions complete: `dqblk`, `pk4`, `upk4` and `amax` leave their results, and `qblk`
the image in the passing lanes with the scale byte in its lane of the scale register (R110 to R113). That a NaN in b of
`amax` makes its own lane alone NaN (log entry 103), and that a scale byte is read and written in a lane whose thread has
exited (log entry 104), are the model's choice. -/
def Obligations.QuantiseResults : Prop :=
  (∀ a, Yields (.dqblk a) (headOf a (.dqblk a) true) fun s x i =>
    (BitVec.ofNat 32 (narrowF (Fmt.float .f32) a.mod.sat (blockValue (scaleOf (s.get1 x a.b) (slotOf a.imm))
      (elementValue a.mod.fmt (imageByte (s.cross x a.a)) i)))).setWidth 64)
  ∧ (∀ a, Yields (.pk4 a) (headOf a (.pk4 a) true) fun s x i => (imageWord (pk4Image a.mod.fmt (s.cross x a.a)) i).setWidth 64)
  ∧ (∀ a, Yields (.upk4 a) (headOf a (.upk4 a) true) fun s x i => (upk4Word a.mod.fmt (s.cross x a.a) i).setWidth 64)
  ∧ (∀ a, Yields (.amax a) (headOf a (.amax a) true) fun s x i =>
    (amaxWith (amaxOf ((List.range 32).map (s.cross x a.a))) (s.get1 x a.b i)).setWidth 64)
  ∧ (∀ a, CompletesWith (.qblk a) (headOf a (.qblk a) true) fun x s =>
    let q := quantiseBlock a.mod.fmt ((List.range 32).map fun k => Fmt.value .f32 (s.cross x a.a k).toNat)
    (s.put1 x a.d fun i => imageWord q.2 i).putScale x a.b (slotOf a.imm) q.1)

/-! ## Control flow -/

/-- Where control goes: `nop` and `yield` to the next instruction; `bra`, `brx`, `call`, `call.ind` and `ret` send the
passing lanes to their targets and the others to the next instruction; `call` and `call.ind` write the address of the
next instruction into pair D of each passing lane. `yield` leaves its sub-group as the one that cedes the squad's next
issue (R235, R236, R240). -/
def Obligations.ControlTargets : Prop :=
  (∀ a, GoesTo (.nop a) (headOf a (.nop a) true) fun _ x _ => x.pc + 12)
  ∧ (∀ a, GoesTo (.yield a) (headOf a (.yield a) true) fun _ x _ => x.pc + 12)
  ∧ (∀ a, GoesTo (.bra a) (headOf a (.bra a) true) fun _ x k =>
      if x.pass.getLsbD k then x.pc + 12 + 12 * a.imm.signExtend 64 else x.pc + 12)
  ∧ (∀ a, GoesTo (.brx a) (headOf a (.brx a) true) fun s x k =>
      if x.pass.getLsbD k then x.pc + 12 + 12 * (a.imm.signExtend 64 + (s.get1 x a.a k).signExtend 64) else x.pc + 12)
  ∧ (∀ a, GoesTo (.call a) (headOf a (.call a) true) fun _ x k =>
      if x.pass.getLsbD k then x.pc + 12 + 12 * a.imm.signExtend 64 else x.pc + 12)
  ∧ (∀ a, GoesTo (.callInd a) (headOf a (.callInd a) true) fun s x k =>
      if x.pass.getLsbD k then s.get x a.a 2 k else x.pc + 12)
  ∧ (∀ a, GoesTo (.ret a) (headOf a (.ret a) true) fun s x k =>
      if x.pass.getLsbD k then s.get x a.a 2 k else x.pc + 12)
  ∧ (∀ a, Yields (.call a) (headOf a (.call a) true) fun _ x _ => x.pc + 12)
  ∧ (∀ a, Yields (.callInd a) (headOf a (.callInd a) true) fun _ x _ => x.pc + 12)
  ∧ ∀ a (s : State) (x : Ins), s.prepare (headOf a (.yield a) true) = .run x →
      ∃ t, exec (.yield a) s = .next t ∧ (t.squad x.bid x.sq).ceded = x.lanes

/-- `meet` and `meet.save` set the meeting register of the passing lanes, the second after it has written the old one
into pair D with NONE as all ones; a target outside the code segment traps with cause 0x011, sub-code 2, before
anything is written (R237). -/
def Obligations.MeetSetsOrTraps : Prop :=
  (∀ a, CompletesWhen (.meet a) (headOf a (.meet a) true) (fun x s => s.inCode x (x.pc + 12 + 12 * a.imm.signExtend 64) = true)
    fun x s => s.setMeet x (x.pc + 12 + 12 * a.imm.signExtend 64))
  ∧ (∀ a, TrapsWhen (.meet a) (headOf a (.meet a) true) (fun x s => s.inCode x (x.pc + 12 + 12 * a.imm.signExtend 64) = false)
    0x011 fun _ _ => 2)
  ∧ (∀ a, CompletesWhen (.meetSave a) (headOf a (.meetSave a) true)
    (fun x s => s.inCode x (x.pc + 12 + 12 * a.imm.signExtend 64) = true)
    fun x s => (s.put x a.d 2 fun i => (s.squad x.bid x.sq).ctl.mr.get i 0xFFFFFFFFFFFFFFFF).setMeet x
      (x.pc + 12 + 12 * a.imm.signExtend 64))
  ∧ (∀ a, TrapsWhen (.meetSave a) (headOf a (.meetSave a) true)
    (fun x s => s.inCode x (x.pc + 12 + 12 * a.imm.signExtend 64) = false) 0x011 fun _ _ => 2)
  ∧ ∀ (s : State) (x : Ins) (pc : Pc) (k : Nat), k < 32 →
      ((s.setMeet x pc).squad x.bid x.sq).ctl.mr.get? k
        = (if x.pass.getLsbD k then some pc else (s.squad x.bid x.sq).ctl.mr.get? k)

/-- A `rejoin`, or a `rejoin.rest` whose values are NONE or addresses of the code segment, completes; without
companions and with no thread held at a rejoin, every lane of the sub-group goes on. A lane whose companions have exited, are
held there or belong to the issuing sub-group goes on, as do the held lanes that the issue satisfies, and their companion sets
are cleared; any other is held there (R231, R238). A lane that reaches the address of its meeting register is held at the
meeting, and any other runs on; once every thread that meets at an address is held there, they go on as one sub-group, with
no meeting in front of them, and before that they stay (R230). -/
def Obligations.RejoinCompletes : Prop :=
  (∀ a (s : State) (x : Ins), s.prepare (headOf a (.rejoin a) true) = .run x →
    exec (.rejoin a) s = .next (((s.begin x).rejoin x []).issued x a.hint))
  ∧ (∀ a (s : State) (x : Ins), s.prepare (headOf a (.rejoinRest a) true) = .run x →
    ((lanesOf x.pass).all fun i => let v := s.get x a.a 2 i
      v == 0xFFFFFFFFFFFFFFFF || (decide (v.toNat < 2 ^ 57) && s.inCode x v)) = true →
    exec (.rejoinRest a) s
      = .next (((s.begin x).rejoin x ((lanesOf x.pass).map fun i => (i, s.get x a.a 2 i))).issued x a.hint))
  ∧ (∀ (s : State) (x : Ins), (s.squad x.bid x.sq).ctl.mr = [] → (s.squad x.bid x.sq).ctl.aw = [] →
    (∀ g ∈ (s.squad x.bid x.sq).ctl.groups, g.kind ≠ .rejoin) → x.pass &&& ~~~x.lanes = 0 →
    ∀ k, k < 32 → x.lanes.getLsbD k = true → ((s.rejoin x []).squad x.bid x.sq).ctl.runsAt k (x.pc + 12))
  ∧ (∀ (c : Ctl) (stamp k : Nat) (pc : Pc) (lanes others : Lanes) (rest : List (Nat × Pc)), k < 32 →
    let t := c.rejoin stamp pc lanes others rest
    let here := ~~~c.alive ||| c.rejoinAt pc ||| lanes ||| others
    let satisfied := c.aw.get k 0 &&& ~~~here = 0
    ((lanes ||| c.rejoinAt pc).getLsbD k = true → satisfied → t.goneTo k (pc + 12) ∧ t.aw.get? k = none)
    ∧ (lanes.getLsbD k = true → ¬satisfied → t.heldAt .rejoin k pc ∧ t.aw.get? k = c.aw.get? k))
  ∧ (∀ (c : Ctl) (stamp k : Nat) (pc : Pc) (lanes : Lanes), k < 32 → lanes.getLsbD k = true →
    (c.mr.get? k = some pc → (c.arrive stamp pc lanes).heldAt .meet k pc)
    ∧ (c.mr.get? k ≠ some pc → (c.arrive stamp pc lanes).runsAt k pc))
  ∧ ∀ (c : Ctl) (stamp : Nat) (pc : Pc),
    let held := c.meetAt pc
    let t := c.releaseMeet stamp pc
    (held ≠ 0 → c.meeting c.alive pc = held →
      (∃ g ∈ t.groups, g.kind = .running ∧ g.lanes = held ∧ g.pc = pc) ∧ (∀ k, ¬t.heldAt .meet k pc)
      ∧ ∀ k, k < 32 → held.getLsbD k = true → t.mr.get? k = none)
    ∧ (c.meeting c.alive pc ≠ held → t = c)

/-- `exit` completes: no passing lane is left in the squad, and it is enrolled in no barrier of its block (R239,
R253). -/
def Obligations.ExitEndsThreads : Prop :=
  ∀ a (s : State) (x : Ins), s.prepare (headOf a (.exit a) false true) = .run x →
    ∃ t, exec (.exit a) s = .next t
      ∧ (t.squad x.bid x.sq).ctl.alive &&& x.pass = 0
      ∧ ∀ n, (s.block x.bid).bars.has n = true → (t.bar x.bid n).enr &&& threadSet x.sq x.pass = 0

/-! ## Traps and the handler -/

/-- Taking a trap where no handler serves the squad, none is known to be unusable and the cause is not of priority 2: CAUSE
takes the code and the sub-code, TRAPPC the PC, the block halts, every other squad keeps its CAUSE, and the partition
of the squad, memory and every register stay (R319, R320, R323). -/
def Obligations.TrapSaves : Prop :=
  ∀ (s : State) (bid sq code sub : Nat) (pc : Pc) (lanes : Lanes),
    (s.block bid).serves sq = false → s.noHandler bid = none → priority2 code = false →
    let t := s.takeTrap bid sq code sub pc lanes
    (t.squad bid sq).cause.toNat % 1024 = code % 1024 ∧ (t.squad bid sq).cause.toNat / 65536 = sub % 65536
    ∧ (t.squad bid sq).trapPc = pc ∧ (t.squad bid sq).trapLanes = lanes
    ∧ (t.squad bid sq).ctl = (s.squad bid sq).ctl ∧ (t.squad bid sq).rf = (s.squad bid sq).rf
    ∧ (t.block bid).halted = true ∧ t.mem = s.mem ∧ t.flasks = s.flasks
    ∧ ∀ b q, squadKey b q ≠ squadKey bid sq → (t.squad b q).cause = (s.squad b q).cause

/-- A cause in a squad that the handler serves, or in a block whose context has no usable handler, kills the flask
and reports it (R325, R328). Where the reads of the handler's record meet a damaged unit, the flask consumes the error: that
is the model's choice, the specification naming no consumer for those reads (log entries 41 and 132). -/
def Obligations.TrapWithoutHandlerKills : Prop :=
  ∀ (s : State) (bid sq code sub : Nat) (pc : Pc) (lanes : Lanes),
    (priority2 code && (s.flask (s.block bid).flask).run != .first) = false →
    ((s.block bid).serves sq = true →
      s.takeTrap bid sq code sub pc lanes = s.killFlask (s.block bid).flask true
        (s.flaskRecord (s.block bid).flask (coreOf bid) (causeWord 0x301 code)))
    ∧ ((s.block bid).serves sq = false → s.noHandler bid = some .unusable →
      s.takeTrap bid sq code sub pc lanes = (s.handlerDone bid).killFlask (s.block bid).flask true
        (s.flaskRecord (s.block bid).flask (coreOf bid) (causeWord code sub)))
    ∧ ∀ st k, (s.block bid).serves sq = false → s.noHandler bid = some (.damaged st k) →
      s.takeTrap bid sq code sub pc lanes = (s.handlerDone bid).consume bid st k

/-- `trap n, a` raises cause n with bits 15:0 of a as sub-code after it is complete: TRAPPC holds the next
instruction, and in the handler squad the flask ends (R331, R328). -/
def Obligations.SoftwareTrap : Prop :=
  ∀ a (s : State) (x : Ins), s.prepare (headOf a (.trap a)) = .run x → 0x380 ≤ a.imm.toNat → a.imm.toNat < 0x400 →
    ((s.block x.bid).serves x.sq = false → ((s.begin x).finish x a.hint).noHandler x.bid = none →
      ∃ t, exec (.trap a) s = .next t
        ∧ (t.squad x.bid x.sq).cause.toNat % 1024 = a.imm.toNat
        ∧ (t.squad x.bid x.sq).cause.toNat / 65536 = (s.get1 x a.a x.lane).toNat % 65536
        ∧ (t.squad x.bid x.sq).trapPc = x.pc + 12 ∧ (t.block x.bid).halted = true
        ∧ (t.squad x.bid x.sq).ctl = (((s.begin x).finish x a.hint).squad x.bid x.sq).ctl)
    ∧ ((s.block x.bid).serves x.sq = true →
      let t := (s.begin x).finish x a.hint
      exec (.trap a) s = .next (t.killFlask (s.block x.bid).flask true
        (t.flaskRecord (s.block x.bid).flask (coreOf x.bid) (causeWord 0x301 a.imm.toNat))))

/-- The handler of a halted block begins with its lowest trapped squad at the entry of the handler record: the threads
that have not exited form one sub-group there, with no meeting and no companion (R326). -/
def Obligations.HandlerStarts : Prop :=
  ∀ (s : State) (blk q : Nat) (k : Kernel), s.blocks.has blk = true → (s.block blk).handler = none →
    (s.block blk).halted = true → s.trapOpen blk = false → s.trapped blk = some q →
    (s.stopSiblings blk).handlerOf blk = some k →
    ∃ t, exec (.handlerStart blk) s = .next t
      ∧ (t.squad blk q).ctl.groups.map (fun g => (g.lanes, g.pc, g.kind))
          = [((s.squad blk q).ctl.alive, BitVec.ofNat 64 k.entry, .running)]
      ∧ (t.squad blk q).ctl.mr = [] ∧ (t.squad blk q).ctl.aw = [] ∧ (t.block blk).serves q = true
      ∧ (t.squad blk q).cause = (s.squad blk q).cause

/-- `rft` returns to the control state that was kept, without the lanes it ends, clears CAUSE and serves the next
trapped squad or resumes the block; `rft.abort` kills and reports the flask with the cause; outside the handler both
raise cause 0x019 (R332). -/
def Obligations.ReturnFromTrap : Prop :=
  (∀ a (s : State) (x : Ins) (h : Handler), s.prepare (headOf a (.rft a)) = .run x →
    (s.block x.bid).serves x.sq = true → (s.block x.bid).handler = some h →
    exec (.rft a) s = .next (((s.begin x).returnFrom x h (s.get1 x a.a x.lane)).issued x a.hint))
  ∧ (∀ a (s : State) (x : Ins), s.prepare (headOf a (.rftAbort a)) = .run x → (s.block x.bid).serves x.sq = true →
    exec (.rftAbort a) s = .next ((s.begin x).killFlask (s.block x.bid).flask true
      ((s.begin x).flaskRecord (s.block x.bid).flask (coreOf x.bid) (s.squad x.bid x.sq).cause)))
  ∧ (∀ a, TrapsWhen (.rft a) (headOf a (.rft a)) (fun x s => (s.block x.bid).serves x.sq = false) 0x019 fun _ _ => 0)
  ∧ (∀ a, TrapsWhen (.rftAbort a) (headOf a (.rftAbort a)) (fun x s => (s.block x.bid).serves x.sq = false) 0x019 fun _ _ => 0)
  ∧ ∀ (s : State) (x : Ins) (h : Handler) (lanes : Lanes), x.sq < 32 →
      (∀ q, q < 32 → q ≠ x.sq → (s.squad x.bid q).cause = 0) →
      let t := s.returnFrom x h lanes
      (t.squad x.bid x.sq).cause = 0 ∧ (t.block x.bid).handler = none ∧ (t.block x.bid).halted = false

/-! ## Pooled memory -/

/-- `lds` completes where every lane passes the checks of R188 and R189, no earlier access of its squad to its bytes
is still to be performed, and no unit is damaged: each passing lane's destination holds the bytes at its address,
lowest first, extended under R191, and no memory changes. -/
def Obligations.PooledLoadCompletes : Prop :=
  ∀ a (s : State) (x : Ins), s.prepare (headOf a (.lds a) (a.mod.ord != .sc) (a.mod.ord != .relaxed)) = .run x →
    s.poolGoes x a false → s.dev.damage = [] →
    ∃ t, exec (.lds a) s = .next t ∧ t.mem = s.mem
      ∧ (t.wordsIn x a.d a.mod.sz.regs fun i =>
          let p := s.lanePlace x (s.poolAddr x a i) a.mod.sz.bytes
          extendLoad a.mod.sz.bytes a.mod.sx (leNat (s.poolRead p.1 p.2 a.mod.sz.bytes a.mod.skew)))
      ∧ s.loadFrame t x a.d a.mod.sz.regs

/-- `sts` completes under the same conditions. Its address is that of R188 with R24 and R192 in each passing lane; a
byte that the instruction stores to holds the byte of the last lane, and of that lane's last byte, that reaches it;
every other byte of pooled memory, every other memory, every register and every other squad stay (R190, R191). -/
def Obligations.PooledStoreWritesItsBytes : Prop :=
  ∀ a (s : State) (x : Ins), s.prepare (headOf a (.sts a) false (a.mod.ord != .relaxed)) = .run x →
    s.poolGoes x a false → s.dev.damage = [] →
    let key := fun (i k : Nat) =>
      let p := s.lanePlace x (s.poolAddr x a i) a.mod.sz.bytes
      s.poolKey p.1 (p.2 + k) a.mod.skew
    ∃ t, exec (.sts a) s = .next t
      ∧ (∀ m, (∀ i k, i < 32 → x.pass.getLsbD i = true → k < a.mod.sz.bytes → key i k ≠ m) →
          Memory.read t.mem.pooled m = Memory.read s.mem.pooled m)
      ∧ (∀ i k, i < 32 → x.pass.getLsbD i = true → k < a.mod.sz.bytes →
          (∀ j l, j < 32 → x.pass.getLsbD j = true → l < a.mod.sz.bytes → (i < j ∨ (i = j ∧ k < l)) → key j l ≠ key i k) →
          Memory.read t.mem.pooled (key i k) = BitVec.ofNat 8 (s.regNat x.bid x.sq a.d a.mod.sz.regs i / 256 ^ k))
      ∧ t.mem = { s.mem with pooled := t.mem.pooled }
      ∧ (t.squad x.bid x.sq).rf = (s.squad x.bid x.sq).rf ∧ (t.squad x.bid x.sq).sameRest (s.squad x.bid x.sq)
      ∧ s.sameSquadsBut t x ∧ t.blocks = s.blocks ∧ t.flasks = (s.endWait x.bid x.sq).flasks
      ∧ t.contexts = s.contexts

/-- Every pooled atomic completes under the checks of an atomic: it is on its way, with its destination empty. It is
then performed at the scratchpad: its lanes' operations are made in ascending lane order, and each lane of its
destination that is still empty receives the value before its own. One lane's operation returns what its bytes held,
leaves there the new value of R146, and changes no other byte (R36, R39, R146, R190, R197). -/
def Obligations.PooledAtomicsComplete : Prop :=
  (∀ a, PooledAtomicCompletes .add (.atomsAdd a) a) ∧ (∀ a, PooledAtomicCompletes .min (.atomsMin a) a)
  ∧ (∀ a, PooledAtomicCompletes .max (.atomsMax a) a) ∧ (∀ a, PooledAtomicCompletes .and (.atomsAnd a) a)
  ∧ (∀ a, PooledAtomicCompletes .or (.atomsOr a) a) ∧ (∀ a, PooledAtomicCompletes .xor (.atomsXor a) a)
  ∧ (∀ a, PooledAtomicCompletes .exch (.atomsExch a) a) ∧ (∀ a, PooledAtomicCompletes .cas (.atomsCas a) a)
  ∧ (∀ a, PooledAtomicCompletes .inc (.atomsInc a) a) ∧ (∀ a, PooledAtomicCompletes .dec (.atomsDec a) a)
  ∧ (∀ a, PooledAtomicCompletes .fadd (.atomsFadd a) a) ∧ (∀ a, PooledAtomicCompletes .fmin (.atomsFmin a) a)
  ∧ (∀ a, PooledAtomicCompletes .fmax (.atomsFmax a) a)
  ∧ (∀ (s : State) (a : PoolAtom), (s.cores.findSome? fun c => c.2.atoms.find? fun e => e.id == a.id) = some a →
    exec (.accessResponse a.id) s = .next (s.performAtom a))
  ∧ (∀ (s : State) (a : PoolAtom), s.dev.damage = [] → a.raises = false → a.sc = false →
    let t := s.performAtom a
    t.mem = (s.poolAtoms a).1.mem ∧ (∀ e ∈ (t.core (coreOf a.bid)).atoms, e.id ≠ a.id)
    ∧ ∀ n k i, a.d = .v n → k < (a.n + 3) / 4 → i < 32 → (∃ p ∈ a.pieces, p.lane = i) →
        ((s.squad a.bid a.sq).rf.vE.get n.toNat 0).getLsbD i = true →
        t.regWord a.bid a.sq a.d k i = BitVec.ofNat 32 ((s.poolAtoms a).2.get i 0 / 2 ^ (32 * k)))
  ∧ (∀ (s : State) (a : PoolAtom) (p : PoolPiece), a.pieces = [p] →
    s.poolAtoms a = ((s.poolAtom a.op (p.bid, p.ofs) a.n a.skew p.data p.cmp).1,
      [(p.lane, (s.poolAtom a.op (p.bid, p.ofs) a.n a.skew p.data p.cmp).2)]))
  ∧ (∀ (s : State) (op : AtomOp) (b o n : Nat) (v c : Nat),
    (s.poolAtom op (b, o) n false v c).2 = leNat (s.poolRead b o n false)
    ∧ leNat ((s.poolAtom op (b, o) n false v c).1.poolRead b o n false)
        = atomNew op n (leNat (s.poolRead b o n false)) v c % 256 ^ n
    ∧ ∀ m, (m < b * 2 ^ 19 + o ∨ b * 2 ^ 19 + o + n ≤ m) →
        Memory.read (s.poolAtom op (b, o) n false v c).1.mem.pooled m = Memory.read s.mem.pooled m)
  ∧ ∀ (old v c : Nat), old < 2 ^ 32 → v < 2 ^ 32 →
      atomNew .add 4 old v c = (old + v) % 2 ^ 32
      ∧ (BitVec.ofNat 32 (atomNew .min 4 old v c)).toInt = min (BitVec.ofNat 32 old).toInt (BitVec.ofNat 32 v).toInt
      ∧ (BitVec.ofNat 32 (atomNew .max 4 old v c)).toInt = max (BitVec.ofNat 32 old).toInt (BitVec.ofNat 32 v).toInt
      ∧ atomNew .exch 4 old v c = v ∧ atomNew .cas 4 old v c = (if old = c then v else old)
      ∧ atomNew .inc 4 old v c = (if v ≤ old then 0 else old + 1)
      ∧ atomNew .dec 4 old v c = (if old = 0 ∨ v < old then v else old - 1)

/-- A pooled access that fails a check traps precisely and makes no lane's access: first alignment (0x122, sub-code 0)
in any passing lane, then a place outside the flask (0x120), then beyond the allocation (0x121), each with the lowest
lane that fails it (R188, R189). -/
def Obligations.PooledChecksTrap : Prop :=
  (∀ a (s : State) (x : Ins) c, s.prepare (headOf a (.lds a) (a.mod.ord != .sc) (a.mod.ord != .relaxed)) = .run x →
    s.poolCause x (s.poolAddr x a) a.mod.sz.bytes false a.mod.skew = some c → exec (.lds a) s = .next (s.trapAt x c.1 c.2))
  ∧ (∀ a (s : State) (x : Ins) c, s.prepare (headOf a (.sts a) false (a.mod.ord != .relaxed)) = .run x →
    s.poolCause x (s.poolAddr x a) a.mod.sz.bytes false a.mod.skew = some c → exec (.sts a) s = .next (s.trapAt x c.1 c.2))
  ∧ ∀ (s : State) (x : Ins) (addr : Nat → Nat) (n : Nat) (atom skew : Bool),
      let f := (s.block x.bid).flask
      ((∃ i, i < 32 ∧ x.pass.getLsbD i = true ∧ s.poolMisaligned f (addr i) n atom skew = true) →
        s.poolCause x addr n atom skew = some (0x122, 0))
      ∧ ∀ i, i < 32 → x.pass.getLsbD i = true →
          (∀ j, j < 32 → x.pass.getLsbD j = true → s.poolMisaligned f (addr j) n atom skew = false) →
          (s.poolAt f (addr i) n = .cause 0x120 → (∀ j, j < i → x.pass.getLsbD j = true → s.poolAt f (addr j) n ≠ .cause 0x120) →
            s.poolCause x addr n atom skew = some (0x120, i))
          ∧ (s.poolAt f (addr i) n = .cause 0x121 →
            (∀ j, j < 32 → x.pass.getLsbD j = true → s.poolAt f (addr j) n ≠ .cause 0x120) →
            (∀ j, j < i → x.pass.getLsbD j = true → s.poolAt f (addr j) n ≠ .cause 0x121) →
            s.poolCause x addr n atom skew = some (0x121, i))

/-! ## The stack -/

/-- `ldk` and `stk` complete where their lanes pass the checks of R195, their lines are in the stack cache, which has
room for the line above or holds it, and no unit is damaged: a load leaves the bytes of the thread's own stack, extended
under R191, and a store puts the register's bytes there; no memory outside the cache changes. -/
def Obligations.StackAccessesComplete : Prop :=
  (∀ a (s : State) (x : Ins), s.prepare (headOf a (.ldk a) true) = .run x → s.stackRoom x a →
    s.stackCause x (s.stackOfs x a) a.mod.sz.bytes = none → s.dev.damage = [] →
    (∀ i, i < 32 → x.pass.getLsbD i = true → s.stackFills x (s.stackOfs x a) a.mod.sz.bytes i = []) →
    ∃ t, exec (.ldk a) s = .next t ∧ t.mem = s.mem
      ∧ (t.wordsIn x a.d a.mod.sz.regs fun i => extendLoad a.mod.sz.bytes a.mod.sx
          (leNat ((List.range a.mod.sz.bytes).map fun k => s.stackByte x.bid x.sq i (s.stackOfs x a i + k))))
      ∧ s.loadFrame t x a.d a.mod.sz.regs)
  ∧ (∀ a (s : State) (x : Ins), s.prepare (headOf a (.stk a)) = .run x → s.stackRoom x a →
    s.stackCause x (s.stackOfs x a) a.mod.sz.bytes = none → s.dev.damage = [] →
    (∀ i, i < 32 → x.pass.getLsbD i = true → s.stackFills x (s.stackOfs x a) a.mod.sz.bytes i = []) →
    (∀ l ∈ (s.squad x.bid x.sq).stack, l.bytes.length = 128) →
    ∃ t, exec (.stk a) s = .next t ∧ t.mem = s.mem ∧ (t.squad x.bid x.sq).rf = (s.squad x.bid x.sq).rf ∧ s.accessFrame t x
      ∧ ∀ i k, i < 32 → x.pass.getLsbD i = true → k < a.mod.sz.bytes →
          t.stackByte x.bid x.sq i (s.stackOfs x a i + k) = BitVec.ofNat 8 (s.regNat x.bid x.sq a.d a.mod.sz.regs i / 256 ^ k))

/-! ## Global memory -/

/-- `ldg` and the returning atomics complete where their lanes pass the checks of R188 and every page translates: every
register of the destination is marked empty in the lanes that make the access and no other register is, an open access
with the instruction's PC is recorded, a request for it with its operation is on its way to a home, no memory has
changed yet, and an atomic sets the flask's side-effect bit (R36, R193, R197, R321). -/
def Obligations.ReturningAccessesOpen : Prop :=
  (∀ a (s : State) (x : Ins), s.prepare (headOf a (.ldg a) true true) = .run x →
    globalCause x (s.globalAddr x a.a a.imm) a.mod.sz.bytes false = none →
    let c := (s.begin x).coalesce x x.pass (s.globalAddr x a.a a.imm) a.mod.sz.bytes .load
    c.waits = false → c.trap = none → c.parked = 0 → c.absent = [] →
    c.made x.pass (s.globalAddr x a.a a.imm) a.mod.sz.bytes = x.pass →
    ∃ t, exec (.ldg a) s = .next t
      ∧ OpensAccess s t x a.d a.mod.sz.bytes (onceOf a.d x.pass) (fun o => ∃ own, o = .load own))
  ∧ (∀ a, GlobalAtomicOpens .add (.atomgAdd a) a) ∧ (∀ a, GlobalAtomicOpens .min (.atomgMin a) a)
  ∧ (∀ a, GlobalAtomicOpens .max (.atomgMax a) a) ∧ (∀ a, GlobalAtomicOpens .and (.atomgAnd a) a)
  ∧ (∀ a, GlobalAtomicOpens .or (.atomgOr a) a) ∧ (∀ a, GlobalAtomicOpens .xor (.atomgXor a) a)
  ∧ (∀ a, GlobalAtomicOpens .exch (.atomgExch a) a) ∧ (∀ a, GlobalAtomicOpens .cas (.atomgCas a) a)
  ∧ (∀ a, GlobalAtomicOpens .inc (.atomgInc a) a) ∧ (∀ a, GlobalAtomicOpens .dec (.atomgDec a) a)
  ∧ (∀ a, GlobalAtomicOpens .fadd (.atomgFadd a) a) ∧ (∀ a, GlobalAtomicOpens .fmin (.atomgFmin a) a)
  ∧ (∀ a, GlobalAtomicOpens .fmax (.atomgFmax a) a)

/-- The reductions, `cred` and `crfold` complete under the same conditions: a posted instruction is registered with its
squad, a request for it is on its way, and no memory and no register has changed (R197, R199, R322). -/
def Obligations.PostedOperationsSend : Prop :=
  (∀ a, ReductionSends .add (.redgAdd a) a) ∧ (∀ a, ReductionSends .min (.redgMin a) a)
  ∧ (∀ a, ReductionSends .max (.redgMax a) a) ∧ (∀ a, ReductionSends .and (.redgAnd a) a)
  ∧ (∀ a, ReductionSends .or (.redgOr a) a) ∧ (∀ a, ReductionSends .xor (.redgXor a) a)
  ∧ (∀ a, ReductionSends .inc (.redgInc a) a) ∧ (∀ a, ReductionSends .dec (.redgDec a) a)
  ∧ (∀ a, ReductionSends .fadd (.redgFadd a) a) ∧ (∀ a, ReductionSends .fmin (.redgFmin a) a)
  ∧ (∀ a, ReductionSends .fmax (.redgFmax a) a)
  ∧ (∀ a, PostedSends .cred (.cred a) a) ∧ (∀ a, PostedSends .crfold (.crfold a) a)

/-- `stg` completes under the same conditions: it is registered with its squad as a posted instruction, and each byte
that it stores, but one that a higher lane stores too, is on its way to its place: in a request of its squad, or, for
`.si` without an ordering, in the combined store of its thread and line. No memory and no register has changed yet
(R171, R190, R193, R322). -/
def Obligations.GlobalStoreSends : Prop :=
  ∀ a (s : State) (x : Ins), s.prepare (headOf a (.stg a) false (a.mod.ord != .relaxed)) = .run x →
    (a.mod.rq == .ow && s.silent (s.block x.bid).flask) = false →
    globalCause x (s.globalAddr x a.a a.imm) a.mod.sz.bytes false = none →
    let c := (s.begin x).coalesce x x.pass (s.globalAddr x a.a a.imm) a.mod.sz.bytes .store
    c.waits = false → c.trap = none → c.parked = 0 → c.absent = [] →
    c.made x.pass (s.globalAddr x a.a a.imm) a.mod.sz.bytes = x.pass →
    ∃ t, exec (.stg a) s = .next t ∧ t.mem = s.mem ∧ (t.squad x.bid x.sq).rf = (s.squad x.bid x.sq).rf ∧ s.accessFrame t x
      ∧ (∃ p, (t.squad x.bid x.sq).posted = (s.squad x.bid x.sq).posted ++ [p])
      ∧ t.storesGo x c.place (s.globalAddr x a.a a.imm) a.mod.sz.bytes (s.regNat x.bid x.sq a.d a.mod.sz.regs)
          (a.mod.rq == .si && a.mod.ord == .relaxed)

/-- A fence completes once nothing of its squad is outstanding, a release at die scope or wider once the words that its
block owned have been written back too, until when it waits; an acquire that forms an edge from the other die has raised
the view, `.sc` has taken a stamp, and no register changes. `crdecl` of a legal range adds it to the context with a
zeroed shadow, and drops the copies of its lines, where nothing holds the zeroing back; in an audit's replay it declares
nothing (R355, the model's choice, log entry 142). A length of 0 or above 2^24 raises cause 0x107, sub-code 3, areas that are
misaligned, beyond 2^57 or not in the device memory of one die sub-code 2, an overlap with a declared range sub-code 0, and a
65th range sub-code 1; they are taken in this order (R176, R198, R200). -/
def Obligations.FenceAndDeclareComplete : Prop :=
  (∀ a, CompletesWhen (.fence a) (headOf a (.fence a) false true)
    (fun x s => (isRel a.mod.ord && wideScope a.mod.sc && (s.giveBack x.bid).owing x.bid) = false)
    fun x s => s.fenced x.bid a.mod.ord a.mod.sc)
  ∧ (∀ a (s : State) (x : Ins), s.prepare (headOf a (.fence a) false true) = .run x →
    isRel a.mod.ord = true → wideScope a.mod.sc = true → ((s.begin x).giveBack x.bid).owing x.bid = true →
    exec (.fence a) s = .next ((s.begin x).giveBack x.bid).notReady)
  ∧ (∀ a (s : State) (x : Ins) (hm sm : List Nat), s.prepare (headOf a (.crdecl a)) = .run x →
    let tag := s.tagOfBlock x.bid
    let die := dieOfBlock x.bid
    let r := s.declared x a hm sm
    let c := s.context tag
    let w := (s.begin x).pagesWalked die tag (areaRegions r.home r.sizes.1 ++ areaRegions r.shadow r.sizes.2)
    1 ≤ r.len → r.len ≤ 2 ^ 24 → r.placed →
    (s.begin x).areaPages die tag false (areaRegions r.home r.sizes.1) = .pages hm →
    (s.begin x).areaPages die tag true (areaRegions r.shadow r.sizes.2) = .pages sm →
    (r.oneDie = false → exec (.crdecl a) s = .next (s.trapAt x 0x107 2))
    ∧ (r.oneDie = true → s.silent (s.block x.bid).flask = true → exec (.crdecl a) s = .next ((s.begin x).finish x a.hint))
    ∧ (r.oneDie = true → s.silent (s.block x.bid).flask = false →
      (c.ranges.any r.clashes = true → exec (.crdecl a) s = .next (s.trapAt x 0x107 0))
      ∧ (c.ranges.any r.clashes = false → 64 ≤ c.ranges.length → exec (.crdecl a) s = .next (s.trapAt x 0x107 1))
      ∧ (c.ranges.any r.clashes = false → c.ranges.length < 64 → sm.any ((s.begin x).zeroWaits die) = false →
        exec (.crdecl a) s = .next ((((w.zeroShadow die r).setContext tag
          { c with ranges := c.ranges ++ [{ r with id := w.ctrl.nextId }] }).dropCopies.bump).finish x a.hint))))
  ∧ (∀ (s : State) (die : Nat) (r : Range) (e k pa j : Nat), s.homes.owners = [] → s.homes.backs = [] →
      s.homes.migration = none → e < r.len → k < r.slots →
      r.slotAddr e k = some pa → j < r.fmt.bytes → Memory.read (s.zeroShadow die r).mem.dev (pa + j) = 0)
  ∧ (∀ a, TrapsWhen (.crdecl a) (headOf a (.crdecl a))
      (fun x s => (s.get1 x a.d x.lane).toNat = 0 ∨ 2 ^ 24 < (s.get1 x a.d x.lane).toNat) 0x107 fun _ _ => 3)
  ∧ (∀ a, TrapsWhen (.crdecl a) (headOf a (.crdecl a))
      (fun x s => let r := s.declared x a [] []
        1 ≤ r.len ∧ r.len ≤ 2 ^ 24 ∧ ¬r.placed) 0x107 fun _ _ => 2)
  ∧ ∀ a, TrapsWhen (.crdecl a) (headOf a (.crdecl a))
      (fun x s => let r := s.declared x a [] []
        let home := s.areaPages (dieOfBlock x.bid) r.tag false (areaRegions r.home r.sizes.1)
        let shadow := s.areaPages (dieOfBlock x.bid) r.tag true (areaRegions r.shadow r.sizes.2)
        1 ≤ r.len ∧ r.len ≤ 2 ^ 24 ∧ r.placed ∧ (home = .elsewhere ∨ ∃ hm, home = .pages hm ∧ shadow = .elsewhere))
      0x107 fun _ _ => 2

/-! ## Frames of register instructions -/

/-- An instruction whose only effects are on its destination register and its sub-group's place changes nothing else:
no memory, no home, no block with its tags, barriers and control registers, no flask but for the note of a `push` in
which the squad waited, no pour, core, context or tenant, no other squad, no register but its destination in the
passing lanes, no full/empty bit, and nothing of its squad but its place and the note of the write that the checkpoint
keeps. -/
def Obligations.RegisterOnlyFrame : Prop :=
  ∀ (i : Instr) (h : Head) (s t : State) (x : Ins), i.regHead = some h → s.prepare h = .run x → exec i s = .next t →
    (s.endWait x.bid x.sq).sameOutside t ∧ s.sameSquadsBut t x
    ∧ RegFile.agreeBut (s.squad x.bid x.sq).rf (t.squad x.bid x.sq).rf h.ops.d h.shape.d.width x.pass
    ∧ (s.squad x.bid x.sq).sameRest (t.squad x.bid x.sq)

/-! ## The matrix engine -/

/-- Every matrix instruction enters the matrix queue of its core where there is room and its checks of R119 and R125
pass, with the registers, shapes and scales as they are at its issue (R118); `accrd` marks its destination empty
(R128). `rstlbl` sets RSTPC to its target where that lies in the code segment, and changes nothing else; otherwise it
traps with cause 0x011, sub-code 1 (R137). -/
def Obligations.MatrixInstructionsEnterTheQueue : Prop :=
  (∀ a, MatrixEnters (.tld a) (headOf a (.tld a) true) fun s x => s.tileCheck x.bid (s.reader x) a .tld)
  ∧ (∀ a, MatrixEnters (.tst a) (headOf a (.tst a)) fun s x => s.tileCheck x.bid (s.reader x) a .tst)
  ∧ (∀ a, MatrixEnters (.tzero a) (headOf a (.tzero a)) fun s x => s.oneCheck x.bid a.d (.tzero (matIndex a.d)))
  ∧ (∀ a, MatrixEnters (.mma a) (headOf a (.mma a)) fun s x => s.mmaCheck x.bid a none)
  ∧ (∀ a, MatrixEnters (.mmas a) (headOf a (.mmas a)) fun s x =>
      s.mmaCheck x.bid a (some ((List.range 32).map (s.cross x a.c), (scaleSlots a.mod).1, (scaleSlots a.mod).2)))
  ∧ (∀ a, MatrixEnters (.accz a) (headOf a (.accz a)) fun s x => s.oneCheck x.bid a.d (.accz (matIndex a.d)))
  ∧ (∀ a, MatrixEnters (.accmul a) (headOf a (.accmul a)) fun s x =>
      s.oneCheck x.bid a.d (.accmul (matIndex a.d) (s.reader x a.a)))
  ∧ (∀ a, MatrixEnters (.accwr a) (headOf a (.accwr a)) fun s x =>
      s.oneCheck x.bid a.d (.accwr (matIndex a.d) (accRow a.imm) x.pass ((List.range 32).map (s.get1 x a.a))))
  ∧ (∀ a, MatrixEnters (.accst a) (headOf a (.accst a)) fun s x => s.accstCheck x.bid (s.reader x) a)
  ∧ (∀ a, MatrixEnters (.accdeclRetain a) (headOf a (.accdeclRetain a)) fun s x =>
      s.oneCheck x.bid a.d (.accdecl (matIndex a.d) false))
  ∧ (∀ a, MatrixEnters (.accdeclRecompute a) (headOf a (.accdeclRecompute a)) fun s x =>
      s.oneCheck x.bid a.d (.accdecl (matIndex a.d) true))
  ∧ (∀ a (s : State) (x : Ins) (op : MatOp), s.prepare (headOf a (.accrd a)) = .run x → s.matFull (coreOf x.bid) = false →
      (s.kernel x.bid).matOperands a.d a.a a.b
        (.ok (.accrd (matIndex a.a) (accRow a.imm) x.sq (vecNum a.d) x.pass)) = .ok op →
      ∃ t, exec (.accrd a) s = .next t
        ∧ ((s.matPush x.bid op none (some (x.sq, (s.squad x.bid x.sq).seq + 1))).endWait x.bid x.sq).sameButSquads t
        ∧ s.sameSquadsBut t x
        ∧ (t.squad x.bid x.sq).rf = (s.squad x.bid x.sq).rf.markEmpty a.d 1 x.pass)
  ∧ (∀ a (s : State) (x : Ins), s.prepare (headOf a (.rstlbl a)) = .run x →
    s.inCode x (x.pc + 12 + 12 * a.imm.signExtend 64) = true →
    ∃ t, exec (.rstlbl a) s = .next t
      ∧ s.advanced (s.setBlock x.bid { s.block x.bid with rstpc := x.pc + 12 + 12 * a.imm.signExtend 64 }) t x)
  ∧ ∀ a, TrapsWhen (.rstlbl a) (headOf a (.rstlbl a))
      (fun x s => s.inCode x (x.pc + 12 + 12 * a.imm.signExtend 64) = false) 0x011 fun _ _ => 1

/-- The matrix engine runs the oldest command of a core's queue, and a command that meets no damaged unit leaves what
R126 to R128 and R136 say: `tzero` zeros, `tld` the bytes of its rows, the products their sums in the order of R120,
`accz` zeros, `accmul` products by the factor, `accwr` the lanes' values and `accrd` the row in the lanes still empty.
`tst` stores the rows of its tile and `accst` those of its accumulator, converted, at their places in pooled space, and
neither changes anything else. -/
def Obligations.MatrixEngineResults : Prop :=
  (∀ (core : Nat) (s : State) (m : MatCmd) (r : List MatCmd), (s.core core).mq = m :: r →
    exec (.matrixCommandExecute core) s
      = .next (((s.setCore core { s.core core with mq := r }).noteTile m).runMat m.bid m.op))
  ∧ (∀ (s : State) (bid n k : Nat), k < 8192 → (s.runMat bid (.tzero n)).tileByte bid n k = 0)
  ∧ (∀ (s : State) (bid n addr pitch r k : Nat) (skew : Bool) (w : Word), s.dev.damage = [] →
      r < shapeRows w → k < shapeCols w →
      (s.runMat bid (.tld n addr pitch skew w)).tileByte bid n (r * shapeCols w + k)
        = (let p := s.rowPlace bid addr pitch r (shapeCols w)
           (Memory.read s.mem.pooled (s.poolKey p.1 (p.2 + k) skew)).toNat))
  ∧ (∀ (s : State) (bid acc ta tb i j : Nat) (f : Fmt) (trb : Bool) (sa sb : Word) (sc : Option (List Word × Nat × Nat)),
      s.dev.damage = [] →
      let d := matDims f trb sa sb
      d.m ≤ 32 → d.n ≤ 32 → i < 32 → j < 32 →
      (s.runMat bid (.mma acc ta tb f trb sa sb sc)).accElem bid acc i j
        = (if i < d.m ∧ j < d.n then
            BitVec.ofNat 32 (addProducts (s.accElem bid acc i j).toNat d.k
              (matProduct f trb sa sb sc (s.tileByte bid ta) (s.tileByte bid tb) i j))
          else s.accElem bid acc i j))
  ∧ (∀ (s : State) (bid acc i j : Nat), i < 32 → j < 32 → (s.runMat bid (.accz acc)).accElem bid acc i j = 0)
  ∧ (∀ (s : State) (bid acc i j : Nat) (e : Word), s.dev.damage = [] → i < 32 → j < 32 →
      (s.runMat bid (.accmul acc e)).accElem bid acc i j = accScaled (s.accElem bid acc i j) e)
  ∧ (∀ (s : State) (bid acc row i j : Nat) (lanes : Lanes) (vs : List Word), row < 32 → i < 32 → j < 32 →
      (s.runMat bid (.accwr acc row lanes vs)).accElem bid acc i j
        = (if i = row ∧ lanes.getLsbD j = true then (vs[j]?).getD 0 else s.accElem bid acc i j))
  ∧ (∀ (s : State) (bid acc row sq reg j : Nat) (lanes : Lanes), s.dev.damage = [] → j < 32 →
      ((s.runMat bid (.accrd acc row sq reg lanes)).squad bid sq).rf.vec reg j
        = (if (lanes &&& (s.squad bid sq).rf.vE.get reg 0).getLsbD j then s.accElem bid acc row j
          else (s.squad bid sq).rf.vec reg j))
  ∧ (∀ (s : State) (bid n addr pitch : Nat) (skew : Bool) (w : Word), s.dev.damage = [] →
      s.rowsStored (s.runMat bid (.tst n addr pitch skew w)) bid addr pitch (shapeRows w) (shapeCols w) skew
        fun r k => BitVec.ofNat 8 (s.tileByte bid n (r * shapeCols w + k)))
  ∧ (∀ (s : State) (bid acc addr pitch : Nat) (skew : Bool) (f : Fmt), s.dev.damage = [] →
      let w := f.width / 8
      s.rowsStored (s.runMat bid (.accst acc addr pitch skew f)) bid addr pitch 32 (32 * w) skew
        fun r k => BitVec.ofNat 8 (accstCode f (s.accElem bid acc r (k / w)) / 256 ^ (k % w)))
  ∧ ∀ (s : State) (bid acc : Nat) (rc : Bool), acc < 8 →
      ((s.runMat bid (.accdecl acc rc)).block bid).accRc.getLsbD acc = rc

/-! ## Copies and tags -/

/-- Every copy enters its queue where there is room and its checks of R209 to R212 pass: it stands there under a
number of its own, its tag is BUSY, and no memory, register or other squad has changed (R203, R204). -/
def Obligations.CopiesEnterTheirQueues : Prop :=
  (∀ a, CopyEnters .cpy (.cpy a) a) ∧ (∀ a, CopyEnters .cpyo (.cpyo a) a) ∧ (∀ a, CopyEnters .cpyw (.cpyw a) a)
  ∧ (∀ a, CopyEnters .cpyp (.cpyp a) a) ∧ (∀ a, CopyEnters .put (.cpyxPut a) a) ∧ (∀ a, CopyEnters .get (.cpyxGet a) a)
  ∧ (∀ a (s : State) (x : Ins), s.prepare (headOf a (.cpyl a)) = .run x →
      s.copyFull (coreOf x.bid) a.mod.que.toNat = false → s.cpylCause x a = none →
      ∃ t, exec (.cpyl a) s = .next t
        ∧ s.advanced (s.copyEnter { s.copyBase x.bid x.sq a.mod .cpyl none with
            lanes := (lanesOf x.pass).map fun i =>
              { src := s.laneSource x a i, n := s.laneBytes x a.b i, dst := s.laneDest x a.d i } }) t x)
  ∧ (∀ a (s : State) (x : Ins) (c : Nat × Nat), s.prepare (headOf a (.cpyl a)) = .run x →
      s.copyFull (coreOf x.bid) a.mod.que.toNat = false → s.cpylCause x a = some c →
      exec (.cpyl a) s = .next (s.trapAt x c.1 c.2))
  ∧ ∀ (s : State) (c : CopyCmd), c.crc = none →
      ((s.copyEnter c).core (coreOf c.bid)).copies.get? s.ctrl.nextId
        = some { c with order := s.ctrl.nextId, count := c.granules.length }
      ∧ ((s.copyEnter c).tag c.bid c.tag).st = .busy ∧ (s.copyEnter c).mem = s.mem
      ∧ (c.kind = .put → ((s.copyEnter c).flask c.flask).side = true)

/-- The life of a copy: `copy start` starts the first command of the queue whose turn it is, while fewer than eight are
started, and nothing of another queue; `copy landing` moves a granule of a started command of an enabled context once; `copy complete` removes
a command whose granules have all moved or that has ended, gives its status to its tag, and sends its follow-on to the
matrix queue where that status is 0, and drops it where it is not (R203, R204, R211 to R218, R132).

What the granules of copies read and write, where nothing is damaged. A granule of a landing copy lands what its
parts give at their places in every receiver, in tiles or in pooled space: a byte to which only one of them, or this one
last, is landed holds it, every other byte is as before, and no other memory changes; a plain copy lands the bytes at its
row's address (R207, R209, R211, R212). A granule of a `cpyo` or put writes what it makes of the pooled bytes that it
needs, and a plain one those bytes themselves (R214). At a home without owned words, a read gives the bytes that a load
returns there and changes no memory, and a write puts its bytes there and changes no other (R172, R216). -/
def Obligations.CopyEvents : Prop :=
  (∀ (core que : Nat) (s : State) (e : Nat × CopyCmd), (s.core core).copies.countP (fun e => e.2.started) < 8 →
    (s.nextQueue core = some que → s.nextStart core que = some e →
      exec (.copyStart core que) s = .next (s.setCore core
        { s.core core with served := que, copies := (s.core core).copies.put e.1 { e.2 with started := true } }))
    ∧ (s.nextQueue core ≠ some que → exec (.copyStart core que) s = .next s))
  ∧ (∀ (core cmd n : Nat) (s : State) (c : CopyCmd), (s.core core).copies.get? cmd = some c →
    (c.moved.contains n = true → exec (.copyLanding core cmd n) s = .next s)
    ∧ (c.started = true → s.enabled c.ctx = true → c.status = 0 → c.moved.contains n = false → c.granules.contains n = true → c.held = none →
        s.putBehind core cmd c n = false → s.copyBehind cmd c = false →
        exec (.copyLanding core cmd n) s
          = .next (if c.kind.lands then s.landGranule core cmd c n else s.writeGranule core cmd c n)))
  ∧ (∀ (core cmd : Nat) (s : State) (c : CopyCmd), (s.core core).copies.get? cmd = some c → c.started = true →
    (c.status ≠ 0 ∨ c.next = none) → s.chainReady cmd c = true → (c.follow = none ∨ s.matFull (coreOf c.bid) = false) →
    let u := if c.status ≠ 0 then s.countLanded c c.unlanded else s
    let st := ((u.chainDone cmd c).closeChain cmd c).2
    ∃ t, exec (.copyComplete core cmd) s = .next t ∧ (t.core core).copies.get? cmd = none
      ∧ t.tag c.bid c.tag = (s.tag c.bid c.tag).finish st ∧ (c.crc = none → st = c.status)
      ∧ (∀ op, c.follow = some op → st = 0 →
          (t.core (coreOf c.bid)).mq = (s.core (coreOf c.bid)).mq ++ [{ bid := c.bid, op, by' := none, prog := none }])
      ∧ ((c.follow = none ∨ st ≠ 0) → (t.core (coreOf c.bid)).mq = (s.core (coreOf c.bid)).mq))
  ∧ (∀ t : Tag, (t.st ≠ TagState.busy → t.begin = { st := .busy, status := 0, count := 1 })
      ∧ (t.st = .busy → t.begin = { t with count := t.count + 1 })
      ∧ ∀ k, (t.finish k).count = t.count - 1 ∧ (t.finish k).status = (if t.status = 0 then k else t.status)
        ∧ (t.count ≤ 1 → (t.finish k).st = TagState.done) ∧ (1 < t.count → (t.finish k).st = t.st))
  ∧ (∀ (core id u : Nat) (s s1 : State) (c : CopyCmd) (bs : List Byte) (t : Table Byte), s1.dev.damage = [] →
    s.copyReads core c (((c.parts u).flatMap c.reads).flatMap fun e => cutLines e.1 e.2) [] = (s1, .bytes bs, t) →
    s.landGranule core id c u
      = ((s1.landParts c (c.parts u) fun a => t.get a 0).setCopy core id
          (c.movedOn u ((c.parts u).flatMap fun p => c.keeps p fun a => t.get a 0))).countLanded c (partBytes (c.parts u)))
  ∧ (∀ (s : State) (c : CopyCmd) (ps : List RowPart) (rd : Nat → Byte), s.dev.damage = [] →
    let t := s.landParts c ps rd
    t = { s with mem := c.setLandMem s.mem (c.landMem t.mem) }
    ∧ (∀ m, (∀ p ∈ ps, ∀ q ∈ s.landPlaces c p.1 p.2.1, ∀ k, k < (c.output p rd).length → s.landKey c q k ≠ m) →
        Memory.read (c.landMem t.mem) m = Memory.read (c.landMem s.mem) m)
    ∧ ∀ (before after : List RowPart) (p : RowPart) (q : Nat × Nat) (k : Nat) (v : Byte), ps = before ++ p :: after →
        q ∈ s.landPlaces c p.1 p.2.1 → (c.output p rd)[k]? = some v →
        (∀ p' ∈ after, ∀ q' ∈ s.landPlaces c p'.1 p'.2.1, ∀ k', k' < (c.output p' rd).length → s.landKey c q' k' ≠ s.landKey c q k) →
        (∀ q' ∈ s.landPlaces c p.1 p.2.1, ∀ k', k' < (c.output p rd).length → s.landKey c q' k' = s.landKey c q k → k' = k) →
        Memory.read (c.landMem t.mem) (s.landKey c q k) = v)
  ∧ (∀ (c : CopyCmd) (r lo hi k : Nat) (rd : Nat → Byte), (c.kind = .cpy ∨ c.kind = .get) → c.fmc = .plain → k < hi - lo →
    c.reads (r, lo, hi) = [((c.rowAddress r).toNat + lo, hi - lo)]
    ∧ (c.output (r, lo, hi) rd)[k]? = some (rd ((c.rowAddress r).toNat + lo + k)))
  ∧ (∀ (core id u : Nat) (s t : State) (c : CopyCmd) (bs : List Byte), s.dev.damage = [] →
    let out := (c.parts u).map (s.writtenAt c)
    s.copyPiece core c true (out.map (·.1)) = (t, .bytes bs) →
    s.writeGranule core id c u = (t.sign c.bid (copyEvents (out.map (·.1)))).setCopy core id (c.movedOn u (out.flatMap (·.2))))
  ∧ (∀ (s : State) (c : CopyCmd) (r lo hi b o : Nat), c.fmc = .plain → s.poolAt c.flask (c.dst r) c.len = .at' b o →
    (s.writtenAt c (r, lo, hi)).1 = { va := c.side r + lo, n := hi - lo, data := s.poolRead b (o + lo) (hi - lo) c.skw })
  ∧ (∀ (s : State) (core va pa n : Nat) (c : CopyCmd) (uco : Bool), c.kind ≠ .put → c.kind ≠ .get →
    s.resolve c.ctx c.uclass .load va (s.translateLease core c.ctx va).2 = .ok .device pa uco →
    s.homes.migration = none → s.homes.owners = [] → s.homes.backs = [] → s.dev.damage = [] →
    s.frameRefused (s.tagOfBlock c.bid) (pa / 64) = none →
    let r := s.copyReq c false uco .device va pa [⟨va, n, []⟩]
    s.loadWaits (dieOfBlock c.bid) r.line = false → s.copyEntry c r = none → s.copyWaits c r = false →
    ∃ t, s.copyPiece core c false [⟨va, n, []⟩] = (t, .bytes (s.valueBytes pa n)) ∧ t.mem = s.mem)
  ∧ ∀ (s : State) (core pa : Nat) (c : CopyCmd) (run : CopyRun) (uco : Bool), c.kind = .cpyo →
    s.resolve c.ctx c.uclass .store run.va (s.translateLease core c.ctx run.va).2 = .ok .device pa uco →
    s.homes.migration = none → s.homes.owners = [] → s.homes.backs = [] → s.dev.damage = [] → s.silent c.flask = false →
    s.frameRefused (s.tagOfBlock c.bid) (pa / 64) = none →
    s.copyWaits c (s.copyReq c true uco .device run.va pa [run]) = false →
    ∃ t, s.copyPiece core c true [run] = (t, .bytes [])
      ∧ t.mem = { s.mem with dev := Memory.writeBytes s.mem.dev pa run.data }

/-- `twait` completes where all, or any, of its tags are DONE and writes their failure map; an IDLE tag, all tags IDLE for
`twait.any`, or no tag for it, traps, and so does, for each of these instructions, a tag beyond the declared count;
`tfind` gives the lowest DONE tag with its status; `tclr` clears DONE tags (R219 to R221). -/
def Obligations.TagInstructions : Prop :=
  (∀ a (s : State) (x : Ins), s.prepare (headOf a (.twaitAll a)) = .run x →
    let m := s.get x a.a 2 x.lane
    s.tagBeyond x m = none → (∀ n ∈ maskTags m, (s.tag x.bid n).st = TagState.done) →
    ∃ t, exec (.twaitAll a) s = .next t ∧ (t.holdsIn x a.d 2 fun _ => s.failureMap x m) ∧ t.blocks = s.blocks ∧ t.mem = s.mem)
  ∧ (∀ a (s : State) (x : Ins), s.prepare (headOf a (.twaitAny a)) = .run x →
    let m := s.get x a.a 2 x.lane
    s.tagBeyond x m = none → (∃ n ∈ maskTags m, (s.tag x.bid n).st = TagState.done) →
    ∃ t, exec (.twaitAny a) s = .next t ∧ (t.holdsIn x a.d 2 fun _ => s.failureMap x m) ∧ t.blocks = s.blocks ∧ t.mem = s.mem)
  ∧ (∀ a, TrapsWhen (.twaitAny a) (headOf a (.twaitAny a)) (fun x s => s.get x a.a 2 x.lane = 0) 0x210 fun _ _ => 0)
  ∧ (∀ a n, TrapsWhen (.twaitAny a) (headOf a (.twaitAny a))
      (fun x s => s.tagBeyond x (s.get x a.a 2 x.lane) = some n) 0x201 fun _ _ => n)
  ∧ (∀ a n, TrapsWhen (.twaitAny a) (headOf a (.twaitAny a))
      (fun x s => s.tagBeyond x (s.get x a.a 2 x.lane) = none
        ∧ (∀ k ∈ maskTags (s.get x a.a 2 x.lane), (s.tag x.bid k).st = TagState.idle)
        ∧ (maskTags (s.get x a.a 2 x.lane)).head? = some n) 0x211 fun _ _ => n)
  ∧ (∀ a n, TrapsWhen (.twaitAll a) (headOf a (.twaitAll a))
      (fun x s => s.tagBeyond x (s.get x a.a 2 x.lane) = some n) 0x201 fun _ _ => n)
  ∧ (∀ a n, TrapsWhen (.twaitAll a) (headOf a (.twaitAll a))
      (fun x s => s.tagBeyond x (s.get x a.a 2 x.lane) = none
        ∧ (maskTags (s.get x a.a 2 x.lane)).find? (fun n => (s.tag x.bid n).st == TagState.idle) = some n) 0x211 fun _ _ => n)
  ∧ (∀ a (s : State) (x : Ins), s.prepare (headOf a (.tfind a)) = .run x →
    let m := s.get x a.a 2 x.lane
    s.tagBeyond x m = none →
    ∃ t, exec (.tfind a) s = .next t ∧ t.blocks = s.blocks
      ∧ t.holdsIn x a.d 1 fun _ => (match (maskTags m).find? fun n => (s.tag x.bid n).st == TagState.done with
        | some n => BitVec.ofNat 32 (n + (s.tag x.bid n).status * 256)
        | none => 0xFFFFFFFF).setWidth 64)
  ∧ (∀ a n, TrapsWhen (.tfind a) (headOf a (.tfind a))
      (fun x s => s.tagBeyond x (s.get x a.a 2 x.lane) = some n) 0x201 fun _ _ => n)
  ∧ (∀ a n, TrapsWhen (.tclr a) (headOf a (.tclr a))
      (fun x s => s.tagBeyond x (s.get x a.a 2 x.lane) = some n) 0x201 fun _ _ => n)
  ∧ (∀ a, CompletesWhen (.tclr a) (headOf a (.tclr a)) (fun x s => s.tagBeyond x (s.get x a.a 2 x.lane) = none)
      fun x s => (maskTags (s.get x a.a 2 x.lane)).foldl (fun s n => s.clearTag x.bid n) s)
  ∧ ∀ (s : State) (bid n : Nat), (s.tag bid n).st = .done → ((s.clearTag bid n).tag bid n).st = .idle

/-! ## Barriers, runners, programs and drains -/

/-- The barrier instructions, under both maps, complete: `bini` sets an instance that nothing has reached; `barv`
records the arrivals of its passing lanes one after another, each with its check, where no lane has arrived in both
phases; `bexp` raises the expected count, and raises cause 0x243 where it would pass 2^32 - 1; `bwait` goes on once
the phases that its lanes await are complete; `btest` tells which are. An index beyond the declared count raises cause
0x240, and a thread that is not enrolled 0x241 (R246, R248 to R252). -/
def Obligations.BarriersComplete : Prop :=
  (∀ a, ∀ i ∈ [Instr.bini a, .biniMap2 a], CompletesWhen i (headOf a i)
    (fun x s =>
      let mask := s.get1 x a.a x.lane
      let b := s.bar x.bid a.mod.idx.toNat
      s.barCause x a.mod.idx.toNat = none ∧ mask.toNat < 2 ^ (s.kernel x.bid).nsq ∧ b.arr0 = 0 ∧ b.arr1 = 0 ∧ b.cb = 0
      ∧ ¬(mask = 0 ∧ s.get1 x a.b x.lane = 0))
    fun x s =>
      let c := (s.get1 x a.b x.lane).toNat
      s.setBar x.bid a.mod.idx.toNat
        { enr := s.enrolled x.bid (s.get1 x a.a x.lane), eb0 := c, eb := c, ph := (s.bar x.bid a.mod.idx.toNat).ph })
  ∧ (∀ a, ∀ i ∈ [Instr.barv a, .barvMap2 a], CompletesWhen i (headOf a i false true)
    (fun x s =>
      let b := s.bar x.bid a.mod.idx.toNat
      s.barCause x a.mod.idx.toNat = none ∧ (∀ k ∈ lanesOf x.pass, s.mayArrive x a.mod.idx.toNat k = true)
      ∧ (b.arr0 &&& b.arr1 &&& threadSet x.sq x.pass = 0 ∨ (s.arriveLanes x a.mod.idx.toNat (lanesOf x.pass)).2 = 0))
    fun x s => (s.arriveLanes x a.mod.idx.toNat (lanesOf x.pass)).1)
  ∧ (∀ (s : State) (x : Ins) (n k : Nat), k < 32 → s.flaskScope x.bid n = false →
    let b := s.bar x.bid n
    let t := s.arriveLane x n k
    let first := b.arr0 &&& threadBit x.sq k = 0
    (first → t.bar x.bid n = ({ b with arr0 := b.arr0 ||| threadBit x.sq k } : Bar).checkBlock ∧ t.aphOf x n k = some b.ph)
    ∧ (¬first → t.bar x.bid n = ({ b with arr1 := b.arr1 ||| threadBit x.sq k } : Bar).checkBlock
        ∧ t.aphOf x n k = some (b.ph + 1)))
  ∧ (∀ a, ∀ i ∈ [Instr.bexp a, .bexpMap2 a], CompletesWhen i (headOf a i)
    (fun x s =>
      let b := s.bar x.bid a.mod.idx.toNat
      s.barCause x a.mod.idx.toNat = none ∧ b.eb + (s.get1 x a.a x.lane).toNat < 2 ^ 32)
    fun x s =>
      let b := s.bar x.bid a.mod.idx.toNat
      (s.setBar x.bid a.mod.idx.toNat { b with eb := b.eb + (s.get1 x a.a x.lane).toNat }).checkBar x.bid a.mod.idx.toNat)
  ∧ (∀ a, ∀ i ∈ [Instr.bexp a, .bexpMap2 a], TrapsWhen i (headOf a i)
    (fun x s => s.barCause x a.mod.idx.toNat = none
      ∧ 2 ^ 32 ≤ (s.bar x.bid a.mod.idx.toNat).eb + (s.get1 x a.a x.lane).toNat) 0x243 fun _ _ => 0)
  ∧ (∀ a, ∀ i ∈ [Instr.bwait a, .bwaitMap2 a], CompletesWhen i (headOf a i)
    (fun x s =>
      let n := a.mod.idx.toNat
      s.barCause x n = none
      ∧ ∀ k ∈ lanesOf x.pass, (s.noteAwait x n).phaseDone x n a.mod.loc ((s.noteAwait x n).awaited x k) = true)
    fun x s => (s.noteAwait x a.mod.idx.toNat).consumeAph x a.mod.idx.toNat a.mod.loc (lanesOf x.pass))
  ∧ (∀ a, ∀ i ∈ [Instr.btest a, .btestMap2 a], CompletesWhen i (headOf a i)
    (fun x s => s.barCause x a.mod.idx.toNat = none)
    fun x s =>
      let n := a.mod.idx.toNat
      let done := fun (k : Nat) => s.phaseDone x n a.mod.loc ((s.aphOf x n k).getD (s.bar x.bid n).ph)
      (s.consumeAph x n a.mod.loc ((lanesOf x.pass).filter done)).putBits x a.d done)
  ∧ (∀ a, ∀ i ∈ [Instr.bini a, .biniMap2 a, .bexp a, .bexpMap2 a, .bwait a, .bwaitMap2 a, .btest a, .btestMap2 a],
    TrapsWhen i (headOf a i) (fun x s => (s.kernel x.bid).bars ≤ a.mod.idx.toNat) 0x240 fun _ _ => a.mod.idx.toNat)
  ∧ (∀ a, ∀ i ∈ [Instr.barv a, .barvMap2 a],
    TrapsWhen i (headOf a i false true) (fun x s => (s.kernel x.bid).bars ≤ a.mod.idx.toNat) 0x240 fun _ _ => a.mod.idx.toNat)
  ∧ (∀ a k, ∀ i ∈ [Instr.barv a, .barvMap2 a], TrapsWhen i (headOf a i false true)
      (fun x s => a.mod.idx.toNat < (s.kernel x.bid).bars
        ∧ x.firstLane (fun k => !s.mayArrive x a.mod.idx.toNat k) = some k) 0x241 fun _ _ => k)
  ∧ (∀ f b, EventIs (.seamPhaseComplete f b)
      (fun s => (s.flask f).blocks ≠ [] ∧ ((s.flask f).status = .resident ∨ (s.flask f).status = .saving)
        ∧ ∀ k ∈ (s.flask f).blocks, (s.block k).bars.has b = true ∧ (s.bar k b).localMet = true)
      fun s => s.seamPhase (s.flask f) b)
  ∧ ∀ b : Bar, b.complete.ph = b.ph + 1 ∧ b.complete.arr0 = b.arr1 ∧ b.complete.arr1 = 0 ∧ b.complete.cb = b.cb - b.eb
      ∧ (b.met = false → b.checkBlock = b)
      ∧ (b.met = true → b.checkBlock.ph = b.ph + 1 ∨ b.checkBlock.ph = b.ph + 2)

/-- The runner instructions complete where R256 and R257 let them: `rinit` sets up a ring, `push` puts its handle at the
tail of a runner with room, `pop` joins the waiting pops with its register empty. Pops are served in their order: each
takes the handle at the head into its register, which becomes full. That `rinit` takes its address modulo 2^24 is the
model's choice (log entry 117). -/
def Obligations.RunnersComplete : Prop :=
  (∀ a (s : State) (x : Ins) (b o : Nat), s.prepare (headOf a (.rinit a)) = .run x →
    let n := a.mod.idx.toNat
    let f := (s.block x.bid).flask
    let addr := (s.get1 x a.a x.lane).toNat % 2 ^ 24
    let c := (s.get1 x a.b x.lane).toNat
    n < (s.kernel x.bid).runners → addr % 4 = 0 → s.poolAt f addr (4 * (s.kernel x.bid).depth n) = .at' b o →
    1 ≤ c → c ≤ (s.kernel x.bid).depth n → (s.runner f n).n = 0 → (s.runner f n).waiting = [] → (s.runner f n).pushers = [] →
    ∃ t, exec (.rinit a) s = .next t
      ∧ s.advanced (s.setRunner f n { ring := some ((s.block b).idx * 2 ^ 19 + o), allow := c }) t x)
  ∧ (∀ a, CompletesWhen (.push a) (headOf a (.push a))
      (fun x s => s.runnerCause x a.mod.idx.toNat = none
        ∧ (s.runner (s.block x.bid).flask a.mod.idx.toNat).n < (s.runner (s.block x.bid).flask a.mod.idx.toNat).allow)
      fun x s => s.pushHandle x a.mod.idx.toNat (s.get1 x a.a x.lane))
  ∧ (∀ a, CompletesWhen (.pop a) (headOf a (.pop a)) (fun x s => s.runnerCause x a.mod.idx.toNat = none)
      fun x s => s.askPop x a.mod.idx.toNat a.d)
  ∧ (∀ (s : State) (x : Ins) (n : Nat) (h : Word),
      let f := (s.block x.bid).flask
      let r := s.runner f n
      r.waiting = [] →
      let t := s.pushHandle x n h
      (t.runner f n).n = r.n + 1 ∧ (t.runner f n).tail = (r.tail + 1) % (s.kernel x.bid).depth n
      ∧ (t.runner f n).waiting = []
      ∧ leNat (t.poolRead (s.ringWord f r r.tail).1 (s.ringWord f r r.tail).2 4 false) = h.toNat)
  ∧ (∀ (s : State) (f n k : Nat), (s.runner f n).waiting = [] ∨ (s.runner f n).n = 0 → State.servePops f n k s = s)
  ∧ ∀ (s : State) (f n k : Nat) (p : PopReq) (rest : List PopReq), (s.runner f n).waiting = p :: rest →
      (s.runner f n).n = 1 → p.reg < 64 → s.dev.damage = [] →
      let w := s.ringWord f (s.runner f n) (s.runner f n).head
      let t := State.servePops f n (k + 1) s
      (t.runner f n).waiting = rest ∧ (t.runner f n).n = 0
      ∧ (t.squad p.bid p.sq).rf.scalar p.reg = BitVec.ofNat 32 (leNat (s.poolRead w.1 w.2 4 false))
      ∧ (t.squad p.bid p.sq).rf.sE.getLsbD p.reg = false

/-- `fork` gives a sequencer its program with the squad's scalar registers as they are, where its words can be read, the
scalar registers that they name are full and the sequencer has room; `rdv` waits for it and raises its fault after
itself; a program outside the code segment raises 0x011, and a second `fork` of an engine, and a `rdv` with no program,
raise 0x248 and 0x249 with the engine's number; a sequencer begins the next program when none runs, and ends it after its last instruction; and these
leave memory and every register alone (R258 to R260, R134). -/
def Obligations.ProgramsComplete : Prop :=
  (∀ a, ∀ p ∈ [(Instr.forkCopy a, Engine.copy), (.forkMatrix a, .matrix), (.forkMap2 a, engineOf a.mod.idx)],
    ∀ (s t : State) (x : Ins) (is : List Instr), s.prepare (headOf a p.1) = .run x → s.forkInside x a.imm = true →
      (s.begin x).forkReads x a.imm = (t, .words is) → (t.squad x.bid x.sq).rf.forkWaits is = false →
      (t.squad x.bid x.sq).rf.forkTraps is = none → (∀ f ∈ (t.squad x.bid x.sq).forks, f.eng ≠ p.2) →
      (t.heldProgs (coreOf x.bid) p.2).length < 4 →
      exec p.1 s = .next ((t.forked x p.2 a.imm).finish x a.hint))
  ∧ (∀ (s : State) (x : Ins) (e : Engine) (imm : Word),
      let t := s.forked x e imm
      t.mem = s.mem ∧ (t.squad x.bid x.sq).rf = (s.squad x.bid x.sq).rf
      ∧ (t.squad x.bid x.sq).forks = (s.squad x.bid x.sq).forks ++ [{ eng := e, prog := s.ctrl.nextId }]
      ∧ ∃ p, t.progs.get? s.ctrl.nextId = some p ∧ p.eng = e ∧ p.left = imm.toNat / 2 ^ 26 + 1
        ∧ p.pc = (x.forkTarget imm).toNat ∧ p.s = (s.squad x.bid x.sq).rf.s ∧ p.begun = false)
  ∧ (∀ a, ∀ p ∈ [(Instr.rdvCopy a, Engine.copy), (.rdvMatrix a, .matrix), (.rdvMap2 a, engineOf a.mod.idx)],
    ∀ (s : State) (x : Ins) (f : ForkRef) (g : Prog), s.prepare (headOf a p.1) = .run x →
      ((s.squad x.bid x.sq).forks.find? fun f => f.eng == p.2) = some f → s.progs.get? f.prog = some g →
      s.progDone f.prog g = true →
      (g.fault = none → ∃ t, exec p.1 s = .next t ∧ t.mem = s.mem ∧ (t.squad x.bid x.sq).rf = (s.squad x.bid x.sq).rf
        ∧ (t.squad x.bid x.sq).forks = (s.squad x.bid x.sq).forks.filter (fun e => e != f) ∧ t.progs.get? f.prog = none)
      ∧ ∀ k, g.fault = some k →
          let q := (s.begin x).squad x.bid x.sq
          let u := { (s.begin x).setSquad x.bid x.sq { q with forks := q.forks.filter fun e => e != f } with
            progs := s.progs.erase f.prog }
          u.mem = s.mem ∧ (u.squad x.bid x.sq).rf = (s.squad x.bid x.sq).rf
          ∧ exec p.1 s = .next ((u.finish x a.hint).takeTrap x.bid x.sq (if p.2 = .matrix then 0x230 else 0x231) k (x.pc + 12) x.lanes))
  ∧ (∀ a, ∀ p ∈ [(Instr.rdvCopy a, Engine.copy), (.rdvMatrix a, .matrix), (.rdvMap2 a, engineOf a.mod.idx)],
    TrapsWhen p.1 (headOf a p.1) (fun x s => ((s.squad x.bid x.sq).forks.find? fun f => f.eng == p.2) = none) 0x249
      fun _ _ => engineCode p.2)
  ∧ (∀ a, ∀ p ∈ [(Instr.forkCopy a, Engine.copy), (.forkMatrix a, .matrix), (.forkMap2 a, engineOf a.mod.idx)],
    TrapsWhen p.1 (headOf a p.1)
      (fun x s => s.forkInside x a.imm = true ∧ ∃ t is, s.forkReads x a.imm = (t, .words is)
        ∧ (t.squad x.bid x.sq).rf.forkWaits is = false ∧ (t.squad x.bid x.sq).rf.forkTraps is = none
        ∧ ∃ f ∈ (t.squad x.bid x.sq).forks, f.eng = p.2) 0x248 fun _ _ => engineCode p.2)
  ∧ (∀ a, ∀ p ∈ [(Instr.forkCopy a, Engine.copy), (.forkMatrix a, .matrix), (.forkMap2 a, engineOf a.mod.idx)],
    TrapsWhen p.1 (headOf a p.1) (fun x s => s.forkInside x a.imm = false) 0x011 fun _ _ => 3)
  ∧ (∀ (core : Nat) (e : Engine) (s : State) (p : Nat × Prog) (rest : Table Prog), s.running core e = none →
      s.heldProgs core e = p :: rest →
      exec (.engineProgramStart core e) s = .next (s.setProg p.1 { p.2 with begun := true }))
  ∧ ∀ (core : Nat) (e : Engine) (s : State) (p : Nat × Prog), s.running core e = some p → p.2.left = 0 →
      exec (.engineProgramEnd core e) s = .next (s.setProg p.1 { p.2 with ended := true })

/-- A drain begins by noting since when its condition holds, and completes once the event has found it held for 600
cycles on a die or 1400 in a package; the package form then raises the view of its flask (R261). -/
def Obligations.DrainsComplete : Prop :=
  (∀ a, ∀ p ∈ [(Instr.drainDie a, false), (.drainPkg a, true), (.drainMap2 a, a.mod.sc == some .pkg)],
    ∀ (s : State) (x : Ins), s.prepare (headOf a p.1 false true) = .run x →
      (∀ w, (s.squad x.bid x.sq).drain = some w → w.done = true →
        ∃ t, exec p.1 s = .next t ∧ (t.squad x.bid x.sq).drain = none ∧ t.mem = s.mem
          ∧ (t.squad x.bid x.sq).rf = (s.squad x.bid x.sq).rf
          ∧ (p.2 = true → (t.flask (s.block x.bid).flask).viewGen = t.homes.dgen))
      ∧ ((s.squad x.bid x.sq).drain = none →
        ∃ t, exec p.1 s = .next t ∧ t.ctrl.waited = true ∧ (t.squad x.bid x.sq).ctl = (s.squad x.bid x.sq).ctl
          ∧ ∃ w, (t.squad x.bid x.sq).drain = some w ∧ w.pkg = p.2 ∧ w.done = false
            ∧ (w.since = some s.ctrl.now ↔ s.idleFor x.bid p.2 = true)))
  ∧ ∀ (k : Nat) (s : State) (w : DrainWait) (since : Nat), (s.squad (k / 32) (k % 32)).drain = some w → w.since = some since →
      since + (if w.pkg then 1400 else 600) ≤ s.ctrl.now → s.idleFor (k / 32) w.pkg = true →
      exec (.drainComplete k) s
        = .next (s.setSquad (k / 32) (k % 32) { s.squad (k / 32) (k % 32) with drain := some { w with done := true } })

/-! ## Launches and work -/

/-- A launch answers with the code of the first reason that R273 gives to refuse it and changes nothing, or takes the
next pour number of its context, enters the pour at the end of its queue, or of the queue's overflow ring where the
queue is full, and answers with the number. -/
def Obligations.LaunchResults : Prop :=
  ∀ (s : State) (tag que : Nat) (bs : List Byte) (i : Image) (prm : Option Nat),
    let n := s.tenantOf tag
    let q := (s.tenant n).queues.get que {}
    let r := s.launch tag que bs i prm
    ((q.en = false ∨ (s.tenant n).nq ≤ que) → r = (s, 0x80000004))
    ∧ (q.en = true → que < (s.tenant n).nq →
      (s.refusedLaunch tag q bs i = true → r = (s, 0x80000002))
      ∧ (s.refusedLaunch tag q bs i = false →
        (65536 ≤ s.pours.length → r = (s, 0x80000003))
        ∧ (s.pours.length < 65536 → (q.depthM1 < q.entries.length ∨ q.overflow ≠ []) →
            (q.ovfQuota ≤ q.overflow.length → r = (s, 0x80000001))
            ∧ (q.overflow.length < q.ovfQuota → r.2 = BitVec.ofNat 32 (s.context tag).nextNum
                ∧ ((r.1.tenant n).queues.get que {}).overflow = q.overflow ++ [pourKey tag (s.context tag).nextNum]
                ∧ ((r.1.tenant n).queues.get que {}).entries = q.entries
                ∧ r.1.pours.has (pourKey tag (s.context tag).nextNum) = true))
        ∧ (s.pours.length < 65536 → q.entries.length ≤ q.depthM1 → q.overflow = [] →
            r.2 = BitVec.ofNat 32 (s.context tag).nextNum
            ∧ ((r.1.tenant n).queues.get que {}).entries = q.entries ++ [pourKey tag (s.context tag).nextNum]
            ∧ ∃ p, r.1.pours.get? (pourKey tag (s.context tag).nextNum) = some p ∧ p.tag = tag
                ∧ p.num = (s.context tag).nextNum ∧ p.que = que ∧ p.kern = i.kernel ∧ p.placed = 0 ∧ p.status = 0
                ∧ p.counters = [0, 0, 0, 0])))

/-- The work instructions complete. `pour` and `sparm` leave their result in D and in the replay record; `cwait` leaves
the final status once the pour has been released; `tknxt` puts a request on its way with its register empty or its tag
BUSY; a record of another kind raises 0x30E before any check of the instruction (R289, R324); the distributor answers with
the next tile of the work set, each tile once; `prog` keeps bits 15:0; a sprue whose trigger is met fires (R273 to R282).
That the pooled `tknxt` takes its address modulo 2^24 (log entry 117), and that the index in the sub-code of 0x30E counts
from 0 (log entry 146), are the model's choice. -/
def Obligations.WorkInstructionsComplete : Prop :=
  (∀ a (s : State) (x : Ins) (d bs : List Byte) (i : Image), s.prepare (headOf a (.pour a)) = .run x →
    s.replayed x (.pour a.mod.que.toNat) = .fresh → (s.get x a.a 2 x.lane).toNat % 128 = 0 →
    s.noteEnds (s.block x.bid).flask = false → (s.begin x).noneDeclined x →
    (s.begin x).readLaunch (some (coreOf x.bid)) (s.tagOfBlock x.bid) (s.get x a.a 2 x.lane).toNat = (.bytes d, bs, i) →
    let reads := readsWith (s.get x a.a 2 x.lane).toNat 128 i
    let r := ((s.begin x).readsMade (some (coreOf x.bid)) (s.tagOfBlock x.bid) reads).launch (s.tagOfBlock x.bid)
      a.mod.que.toNat bs i none
    exec (.pour a) s = .next (((r.1.noteHere x (.pour a.mod.que.toNat) r.2).pourResult x a r.2).finish x a.hint))
  ∧ (∀ a (s : State) (x : Ins) (w : Word), s.prepare (headOf a (.cwait a) false true) = .run x →
    s.replayed x .cwait = .fresh → s.noteEnds (s.block x.bid).flask = false →
    (s.begin x).cwaitOn x (s.get1 x a.a x.lane) = .status w →
    ∃ t, exec (.cwait a) s = .next t ∧ (t.holdsIn x a.d 1 fun _ => w.setWidth 64) ∧ t.mem = s.mem
      ∧ (t.flask (s.block x.bid).flask).viewGen = t.homes.dgen ∧ (t.squad x.bid x.sq).cwaits = none)
  ∧ (∀ a (s : State) (x : Ins) (p : Nat), s.prepare (headOf a (.cwait a) false true) = .run x →
    s.replayed x .cwait = .fresh → (s.begin x).cwaitOn x (s.get1 x a.a x.lane) = .running p →
    ∃ t, exec (.cwait a) s = .next t ∧ t.mem = s.mem ∧ (t.squad x.bid x.sq).cwaits = some p
      ∧ (t.squad x.bid x.sq).rf = (s.squad x.bid x.sq).rf ∧ (t.squad x.bid x.sq).ctl = (s.squad x.bid x.sq).ctl)
  ∧ (∀ a (s : State) (x : Ins), s.prepare (headOf a (.tknxt a)) = .run x → s.hasWs x.bid (a.imm.toNat % 4) = true →
    s.replayed x (.tknxt (a.imm.toNat % 4)) = .fresh → s.asked x.bid x.sq < 8 →
    ∃ t, exec (.tknxt a) s = .next t ∧ t.mem = s.mem
      ∧ (t.squad x.bid x.sq).rf = (s.squad x.bid x.sq).rf.markEmpty a.d 1 x.pass
      ∧ ∃ r, t.tks.get? s.ctrl.nextId = some r ∧ r.bid = x.bid ∧ r.sq = x.sq ∧ r.ws = a.imm.toNat % 4
        ∧ r.flask = (s.block x.bid).flask ∧ r.reg = some (match a.d with | .s n => n.toNat | _ => 0))
  ∧ (∀ a (s : State) (x : Ins) (b o : Nat), s.prepare (headOf a (.tknxtPooled a)) = .run x →
    s.hasWs x.bid (a.imm.toNat % 4) = true → a.imm.toNat / 8 % 64 < (s.kernel x.bid).tags →
    (s.get1 x a.a x.lane).toNat % 2 ^ 24 % 4 = 0 →
    s.poolAt (s.block x.bid).flask ((s.get1 x a.a x.lane).toNat % 2 ^ 24) 4 = .at' b o →
    s.replayed x (.tknxt (a.imm.toNat % 4)) = .fresh → s.asked x.bid x.sq < 8 →
    ∃ t, exec (.tknxtPooled a) s = .next t ∧ t.mem = s.mem ∧ (t.squad x.bid x.sq).rf = (s.squad x.bid x.sq).rf
      ∧ t.tag x.bid (a.imm.toNat / 8 % 64) = (s.tag x.bid (a.imm.toNat / 8 % 64)).begin
      ∧ ∃ r, t.tks.get? s.ctrl.nextId = some r ∧ r.bid = x.bid ∧ r.sq = x.sq ∧ r.ws = a.imm.toNat % 4 ∧ r.reg = none
        ∧ r.addr = (s.get1 x a.a x.lane).toNat % 2 ^ 24 ∧ r.tag = a.imm.toNat / 8 % 64)
  ∧ (∀ a, TrapsWhen (.tknxt a) (headOf a (.tknxt a)) (fun x s => s.replayed x (.tknxt (a.imm.toNat % 4)) = .fresh
      ∧ s.hasWs x.bid (a.imm.toNat % 4) = false) 0x262 fun _ _ => a.imm.toNat % 4)
  ∧ (∀ a n, TrapsWhen (.tknxt a) (headOf a (.tknxt a)) (fun x s => s.recordBad x = false
      ∧ s.replayed x (.tknxt (a.imm.toNat % 4)) = .diverge n) 0x30E fun _ _ => n)
  ∧ (∀ a n, TrapsWhen (.pour a) (headOf a (.pour a)) (fun x s => s.recordBad x = false
      ∧ s.replayed x (.pour a.mod.que.toNat) = .diverge n) 0x30E fun _ _ => n)
  ∧ (∀ a n, TrapsWhen (.sparm a) (headOf a (.sparm a)) (fun x s => s.recordBad x = false
      ∧ s.replayed x .sparm = .diverge n) 0x30E fun _ _ => n)
  ∧ (∀ (req : Nat) (s : State) (r : TkReq), s.tks.get? req = some r →
    (∀ e ∈ s.tks, e.1 < req → e.2.bid = r.bid → e.2.sq ≠ r.sq) → s.noteEnds r.flask = false →
    let key := (s.flask r.flask).pour
    let k := ((s.pour key).counters[r.ws]?).getD 0
    let w := tileAnswer (((s.pour key).desc.ws[r.ws]?).getD (0, 0)) k
    ∃ t, exec (.tknxtAnswer req) s = .next t ∧ (t.pour key).counters = (s.pour key).counters.set r.ws (k + 1)
      ∧ t.tks.get? req = none
      ∧ ∀ n, r.reg = some n → n < 64 →
          (t.squad r.bid r.sq).rf.scalar n = w ∧ (t.squad r.bid r.sq).rf.sE.getLsbD n = false)
  ∧ (∀ nx ny j k : Nat, nx < 2 ^ 16 → ny < 2 ^ 16 → j < k → j < nx * ny → tileAnswer (nx, ny) j ≠ tileAnswer (nx, ny) k)
  ∧ (∀ a (s : State) (x : Ins) (p bs d : List Byte) (i : Image), s.prepare (headOf a (.sparm a)) = .run x →
    s.replayed x .sparm = .fresh → (s.get x a.a 2 x.lane).toNat % 64 = 0 →
    s.noteEnds (s.block x.bid).flask = false → (s.begin x).noneDeclined x →
    (s.begin x).readSprue (some (coreOf x.bid)) (s.tagOfBlock x.bid) (s.get x a.a 2 x.lane).toNat = (.bytes p, bs, d, i) →
    let reads := sprueReads (s.get x a.a 2 x.lane).toNat bs i
    let r := ((s.begin x).readsMade (some (coreOf x.bid)) (s.tagOfBlock x.bid) reads).armSprue (s.tagOfBlock x.bid) bs d i
    exec (.sparm a) s = .next (((r.1.noteHere x .sparm r.2).put1 x a.d fun _ => r.2).finish x a.hint))
  ∧ (∀ a (s : State) (x : Ins), s.prepare (headOf a (.prog a)) = .run x →
    ∃ t, exec (.prog a) s = .next t
      ∧ s.advanced (s.setBlock x.bid { s.block x.bid with progress := (s.get1 x a.a x.lane).toNat % 65536 }) t x)
  ∧ (∀ (n h : Nat) (s t : State) (p : Sprue) (b : Nat) (w : Word), (s.tenant n).sprues.get? h = some p →
      p.st = .armed b → s.enabled p.tag = true → p.met = true → (∀ e ∈ p.fired, e.1 ≠ b) →
      s.launchAt p.tag p.que p.ldesc (some (if b = 0 then p.buf0 else p.buf1)) = some (t, w) →
      (w.msb = true → exec (.sprueFire n h) s = .next ((t.setSprue n h { p with st := .fault }).irq (some n) 2))
      ∧ (w.msb = false → exec (.sprueFire n h) s = .next (t.setSprue n h (p.after b (pourKey p.tag w.toNat)))))
  ∧ ∀ (n h : Nat) (s : State) (p : Sprue), (s.tenant n).sprues.get? h = some p →
      (s.sprueDue p = none ∨ ∃ b, s.sprueDue p = some b
        ∧ s.launchAt p.tag p.que p.ldesc (some (if b = 0 then p.buf0 else p.buf1)) = none) →
      exec (.sprueFire n h) s = .next s

/-! ## Control registers, services and privileged instructions -/

/-- `movcr` and `movrc` complete where R62 lets them: a register written reads back with its reserved bits 0, a read
gives the register's value and changes nothing but its destination; otherwise cause 0x017, or 0x018 for a value that
is not legal, with the register's number (R62 to R68). -/
def Obligations.ControlRegisterMoves : Prop :=
  (∀ a (s u : State) (x : Ins), s.prepare (headOf a (.movcr a)) = .run x → (s.begin x).mayWrite x a.mod = true →
    (s.begin x).crWrite x a.mod (s.get x a.a a.mod.regs x.lane) = some u → exec (.movcr a) s = .next (u.finish x a.hint))
  ∧ (∀ a, TrapsWhen (.movcr a) (headOf a (.movcr a)) (fun x s => s.mayWrite x a.mod = false) 0x017 fun _ _ => a.mod.enc.toNat)
  ∧ (∀ a, TrapsWhen (.movcr a) (headOf a (.movcr a))
      (fun x s => s.mayWrite x a.mod = true ∧ s.crWrite x a.mod (s.get x a.a a.mod.regs x.lane) = none) 0x018
      fun _ _ => a.mod.enc.toNat)
  ∧ (∀ a (s : State) (x : Ins), s.prepare (headOf a (.movrc a) true) = .run x → s.mayRead x a.mod = true →
    ∃ t, exec (.movrc a) s = .next t ∧ (t.holdsIn x a.d a.mod.regs fun _ => s.crRead x a.mod)
      ∧ (s.endWait x.bid x.sq).sameOutside t ∧ s.sameSquadsBut t x
      ∧ RegFile.agreeBut (s.squad x.bid x.sq).rf (t.squad x.bid x.sq).rf a.d a.mod.regs x.pass)
  ∧ (∀ a, TrapsWhen (.movrc a) (headOf a (.movrc a) true) (fun x s => s.mayRead x a.mod = false) 0x017
      fun _ _ => a.mod.enc.toNat)
  ∧ ∀ (s u : State) (x : Ins) (r : Cr) (v : DWord), s.crWrite x r v = some u →
      u.mem = s.mem ∧ (u.squad x.bid x.sq).rf = (s.squad x.bid x.sq).rf
      ∧ (∀ n, r = .tshape n → u.crRead x r = (v.lo &&& 0x00073F7F).setWidth 64)
      ∧ (∀ n, r = .skew n → u.crRead x r = v.lo.setWidth 64)
      ∧ (r = .stklim → u.crRead x r = (v.lo &&& 0xFFFFFFF0).setWidth 64)
      ∧ (r = .cause → u.crRead x r = (v.lo &&& 0xFFFF03FF).setWidth 64)
      ∧ (r = .trappc → u.crRead x r = v &&& 0x01FFFFFFFFFFFFFF)

/-- The services of `sys` complete: the version with the native map, the recovery state, the side-effect bit set and its
old value, and the pour number; a service that the table does not list raises cause 0x016 with its number (R333). -/
def Obligations.ServicesComplete : Prop :=
  (∀ a, a.imm = 0 → Yields (.sysVersion a) (headOf a (.sysVersion a)) fun s x _ =>
    (BitVec.ofNat 32 (0x00030000 + tableMap (s.pourOfBlock x.bid).table)).setWidth 64)
  ∧ (∀ a, a.imm ≠ 0 → TrapsWhen (.sysVersion a) (headOf a (.sysVersion a)) (fun _ _ => True) 0x016 fun _ _ => a.imm.toNat % 65536)
  ∧ (∀ a, Yields (.sysRecoveryState a) (headOf a (.sysRecoveryState a)) fun s x _ =>
    if (s.kernel x.bid).audit then 0
    else (BitVec.ofNat 32 ((s.flask (s.block x.bid).flask).relaunches * 2 + (s.flask (s.block x.bid).flask).side.toNat)).setWidth 64)
  ∧ (∀ a (s : State) (x : Ins), s.prepare (headOf a (.sysSetSideEffect a)) = .run x →
    (s.flask (s.block x.bid).flask).run = .first →
    ∃ t, exec (.sysSetSideEffect a) s = .next t ∧ (t.flask (s.block x.bid).flask).side = true ∧ t.mem = s.mem
      ∧ t.holdsIn x a.d 1 fun _ => (BitVec.ofNat 32 (s.flask (s.block x.bid).flask).side.toNat).setWidth 64)
  ∧ (∀ a, Yields (.sysPourNumber a) (headOf a (.sysPourNumber a)) fun s x _ =>
    (BitVec.ofNat 32 (s.pourOfBlock x.bid).num).setWidth 64)

/-- The privileged instructions on a context of the caller's tenant complete, and raise cause 0x302, sub-code 0, on
any other target: `asgen` raises its generation and returns it; `splint` begins a splinter on its tag, whose
compare-and-swap succeeds where the entry still holds what the splinter read; `tagkill` ends the context; `dtload`
returns a table's status and loads an accepted one (R46, R330, R334 to R337). A splinter completes on its tag once the
longest lease has passed (R312). -/
def Obligations.PrivilegedComplete : Prop :=
  (∀ a (s : State) (x : Ins), s.prepare (headOf a (.asgen a) false true) = .run x →
    let tag := (s.get1 x a.a x.lane).toNat
    s.badTarget x tag false = false → ((s.begin x).giveBack x.bid).owing x.bid = false →
    ∃ t, exec (.asgen a) s = .next t ∧ (t.context tag).asgen = (s.context tag).asgen + 1
      ∧ t.holdsIn x a.d 1 fun _ => ((s.context tag).asgen + 1).setWidth 64)
  ∧ (∀ a, CompletesWhen (.splint a) (headOf a (.splint a))
      (fun x s =>
        let ctag := (s.get1 x a.d x.lane).toNat
        let va := (s.get x a.a 2 x.lane).toNat
        let node := (s.get x a.b 2 x.lane).toNat
        s.badTarget x ctag false = false ∧ va % 2 ^ 21 = 0 ∧ va < 2 ^ 57 ∧ node % 256 = 0
        ∧ s.tblOf node (s.tenantOf ctag) = true ∧ a.imm.toNat % 64 < (s.kernel x.bid).tags
        ∧ s.dev.splinters.countP (fun e => e.2.bid == some x.bid) < 16
        ∧ s.splintWaits (dieOfBlock x.bid) node (s.walk (some (dieOfBlock x.bid)) ctag va) = false)
      fun x s =>
        let ctag := (s.get1 x a.d x.lane).toNat
        let va := (s.get x a.a 2 x.lane).toNat
        s.splinted x.bid ctag va (s.get x a.b 2 x.lane).toNat (a.imm.toNat % 64) (s.walk (some (dieOfBlock x.bid)) ctag va))
  ∧ (∀ a (s : State) (x : Ins), s.prepare (headOf a (.tagkill a)) = .run x →
    let tag := (s.get1 x a.a x.lane).toNat
    s.badTarget x tag true = false →
    ∃ t, exec (.tagkill a) s = .next t ∧ (t.context tag).en = false ∧ (t.context tag).ranges = []
      ∧ t.holdsIn x a.d 1 fun _ => 0)
  ∧ (∀ a (s : State) (x : Ins) (bs : List Byte), s.prepare (headOf a (.dtload a)) = .run x →
    let b := (s.get1 x a.b x.lane).toNat
    let addr := (s.get x a.a 2 x.lane).toNat
    s.badTarget x (b % 256) false = false → b < 2 ^ 11 → addr % 64 = 0 → (s.begin x).noneDeclined x →
    (s.begin x).ctxRead (some (coreOf x.bid)) (s.tagOfBlock x.bid) addr 2048 = .bytes bs →
    ∃ t, exec (.dtload a) s = .next t
      ∧ (s.homes.owners = [] → s.homes.backs = [] → t.mem = s.mem)
      ∧ (t.holdsIn x a.d 1 fun _ => (tableStatus (tableEntries bs)).setWidth 64)
      ∧ (tableStatus (tableEntries bs) = 0 →
          (t.context (b % 256)).tables.get? (b / 2 ^ 8 % 4) = some (.loaded (b.testBit 10) (tableEntries bs)))
      ∧ (tableStatus (tableEntries bs) ≠ 0 → t.contexts = s.contexts))
  ∧ (∀ a, TrapsWhen (.asgen a) (headOf a (.asgen a) false true)
      (fun x s => s.badTarget x (s.get1 x a.a x.lane).toNat false = true) 0x302 fun _ _ => 0)
  ∧ (∀ a, TrapsWhen (.splint a) (headOf a (.splint a))
      (fun x s => s.badTarget x (s.get1 x a.d x.lane).toNat false = true) 0x302 fun _ _ => 0)
  ∧ (∀ a, TrapsWhen (.tagkill a) (headOf a (.tagkill a))
      (fun x s => s.badTarget x (s.get1 x a.a x.lane).toNat true = true) 0x302 fun _ _ => 0)
  ∧ (∀ a, TrapsWhen (.dtload a) (headOf a (.dtload a))
      (fun x s => s.badTarget x ((s.get1 x a.b x.lane).toNat % 256) false = true) 0x302 fun _ _ => 0)
  ∧ (∀ (s : State) (x : Ins) (tag : Nat) (self : Bool), (tag = 0 ∨ 255 < tag ∨ (s.context tag).en = false
      ∨ (s.context tag).tenant ≠ (s.context (s.tagOfBlock x.bid)).tenant) → s.badTarget x tag self = true)
  ∧ (∀ (id : Nat) (s : State) (z : Splinter) (at' leaf : Nat), s.dev.splinters.get? id = some z → z.swap = some (at', leaf) →
      s.homeWaits (some (dieOfCore z.core)) (s.forward at') 8 = false → s.dev.damage = [] → s.walkOk z.ctag at' = true →
      ∃ t y, exec (.splinterComplete id) s = .next t ∧ t.dev.splinters.get? id = some y ∧ y.swap = none
        ∧ (s.homeNat at' 8 = leaf → y.status = 0 ∧ y.until' = s.ctrl.time + s.longestLease
            ∧ (t.context z.ctag).asgen = (s.context z.ctag).asgen + 1)
        ∧ (s.homeNat at' 8 ≠ leaf → y.status = 2 ∧ t.mem = s.mem ∧ t.contexts = s.contexts))
  ∧ ∀ (id : Nat) (s : State) (z : Splinter), s.dev.splinters.get? id = some z → z.swap = none → z.until' ≤ s.ctrl.time →
      ∃ t, exec (.splinterComplete id) s = .next t ∧ t.dev.splinters.get? id = none
        ∧ ∀ b, z.bid = some b → s.blocks.has b = true → t.tag b z.tag = (s.tag b z.tag).finish z.status

/-! ## Events of the memory system -/

/-- A request to the home of device memory that nothing holds back is performed, whatever its type and its number of
pieces. Where no block owns its words, and it takes none, a load returns the bytes there, a store writes its bytes, and an
atomic writes its new values and returns the old ones, one piece after another; no other byte changes (R146, R174, R190). A
`.wt` or `.si` load that a copy of its die may serve returns the bytes of the copy (R171, R178). An `.ow` access with a record
for it, or of words that its block owns, is granted the words: a load returns them as the owner buffer holds them, and a store
writes them there alone (R173, R174). A request that meets words of another block, or words that are recalled, is held, and in
the first case they are recalled (R174, R175). A retried atomic is answered from its memo, and one without whose outcome is
unknown takes cause 0x30C (R183). A byte of a range element reads as that byte of its combined value, whose slots are
added in ascending order; `cred` adds its operand to slot pblk modulo C of the element, and `crfold` writes the combined
value and clears the slots; neither changes another byte (R149, R150). -/
def Obligations.HomeServesRequests : Prop :=
  -- unowned words
  (∀ (id : Nat) (s : State) (r : Req), s.atHome id r → s.homeDecides id r → s.ownerState r = .free →
    ((s.effective r).owned = true → s.recordFree r = false) →
    (∀ o, r.op = .load o → s.serves id
      (r.results ++ r.pieces.map fun p => (p.lane, p.ofs, (s.missed id r).valueBytes p.addr p.n)) r.bad s.mem)
    ∧ (∀ o, r.op = .store o → s.silent r.flask = false → s.serves id (r.results ++ r.pieces.map fun p => (p.lane, p.ofs, [])) r.bad
      { s.mem with dev := r.pieces.foldl (fun m p => Memory.writeBytes m p.addr p.data) s.mem.dev })
    ∧ ∀ op ret, r.op = .atom op ret → s.silent r.flask = false →
      s.serves id (r.atomRun op s.mem.dev).2 r.bad { s.mem with dev := (r.atomRun op s.mem.dev).1 })
  ∧ (∀ (s : State) (pa n : Nat), s.homes.migration = none → (∀ k, k < n → s.rangeAt (pa + k) = none) →
    (∀ k, k < n → ∀ o ∈ s.homes.owners, o.1 / 512 ≠ (pa + k) / 64) →
    (∀ k, k < n → ∀ b ∈ s.homes.backs, b.2.line ≠ (pa + k) / 64) →
    s.valueBytes pa n = Memory.readBytes s.mem.dev pa n)
  -- a copy in the die's cache
  ∧ (∀ (id : Nat) (s : State) (r : Req) (e : RdcEntry), s.homes.reqs.get? id = some r → (r.status = .sent ∨ r.status = .held) →
    s.homes.migration = none → s.behind id r = false → s.combinedAhead r = false → s.cacheable r = true → r.left = none →
    s.rdcEntry r = some e →
    s.serves id (r.pieces.map fun p => (p.lane, p.ofs, (List.range p.n).map fun k => (e.bytes[p.addr % 64 + k]?).getD 0)) r.bad s.mem)
  -- owned words
  ∧ (∀ (id : Nat) (s : State) (r : Req), s.atHome id r → s.heldBefore id r = false → r.owned = true → s.effective r = r →
    (s.ownerState r = .self ∨ s.ownerState r = .free ∧ s.recordFree r = true) →
    ((s.core (coreOf r.bid)).owner.length < 128 ∨ (s.core (coreOf r.bid)).owner.any r.ownLine = true) →
    (∀ p ∈ r.pieces, p.addr % 64 + p.n ≤ 64) →
    ∃ t q o, exec (.homeRequest id) s = .next t ∧ t.homes.reqs.get? id = some q ∧ q.status = .performed ∧ q.bad = r.bad
      ∧ t.mem = s.mem ∧ t.homes.owners.get? (ownerKey r.line r.bid) = some o ∧ o.words &&& r.words = r.words
      ∧ (r.op = .load true →
          q.results = r.results ++ (r.pieces.map fun p => (p.lane, p.ofs, (List.range p.n).map fun k => s.grantedByte r (p.addr % 64 + k)))
          ∧ ∀ k, k < 64 → t.ownedByte r.bid r.line k = s.grantedByte r k)
      ∧ (r.op = .store true → s.silent r.flask = false →
          ∀ k, k < 64 → t.ownedByte r.bid r.line k = r.overlay (s.grantedByte r) k))
  -- words of another block
  ∧ (∀ (id : Nat) (s : State) (r : Req), s.atHome id r → s.homeDecides id r →
    (s.ownerState r = .pending → exec (.homeRequest id) s = .next ((s.missed id r).holdReq id (s.fillAsked r)))
    ∧ ((s.ownerState r = .other ∨ s.ownerState r = .self ∧ (s.effective r).owned = false) →
      exec (.homeRequest id) s = .next (((s.missed id r).askRecall r).holdReq id (s.fillAsked r))))
  ∧ (∀ (s : State) (r : Req), ∀ o ∈ (s.askRecall r).homes.owners, o.1 / 512 = r.line →
      o.2.words &&& r.words &&& ~~~o.2.pending = 0)
  -- retries
  ∧ (∀ (id : Nat) (s : State) (r : Req), s.atHome id r →
    (∀ m, s.memoOf r = some m → s.serves id m.result m.bad s.mem)
    ∧ (s.memoOf r = none → s.memoGone r = true →
      s.serves id r.results (r.pieces.map fun p => (p.lane, 0x30C, p.lane)) s.mem))
  -- ranges
  ∧ (∀ (s : State) (pa o : Nat) (g : Range), s.rangeAt (s.forward pa) = some (g, o) →
    s.valueByte pa = BitVec.ofNat 8 (s.combined g (o / g.fmt.bytes) / 2 ^ (8 * (o % g.fmt.bytes))))
  ∧ (∀ (s : State) (g : Range) (e : Nat), s.homes.owners = [] → s.homes.backs = [] → s.homes.migration = none →
    let at' := fun (a : Nat) => leNat (Memory.readBytes s.mem.dev a g.fmt.bytes)
    s.combined g e = (s.slotsOf g e).foldl (fun v a => g.fmt.plus v (at' a)) ((s.elemAt g e).elim 0 at'))
  ∧ ∀ (id : Nat) (s : State) (r : Req) (p : Piece) (g : Range) (o : Nat), s.atHome id r → s.heldBefore id r = false →
    s.homes.owners = [] → s.homes.backs = [] → s.silent r.flask = false → r.pieces = [p] → s.rangeAt p.addr = some (g, o) →
    g.fmt.bytes = p.n → o % p.n = 0 →
    let value := fun (a : Nat) => leNat (Memory.readBytes s.mem.dev a p.n)
    let writes := fun (m : Memory) (a v : Nat) => Memory.writeBytes m a (leBytes p.n v)
    let done := fun (m : Memory) => s.serves id (r.results ++ [(p.lane, p.ofs, [])]) r.bad { s.mem with dev := m }
    (∀ a, r.op = .cred → s.slotAt g (o / p.n) (s.pblk r.bid % g.slots) = some a →
      done (writes s.mem.dev a (g.fmt.plus (value a) (leNat p.data))))
    ∧ (r.op = .crfold → done ((s.slotsOf g (o / p.n)).foldl (fun m a => writes m a 0)
        ((s.elemAt g (o / p.n)).elim s.mem.dev fun a => writes s.mem.dev a (s.combined g (o / p.n)))))

/-- The other events of accesses. A recall makes the owners of the recalled words send them back, and takes the line
from their buffers; a write-back puts the owned words over their bytes at the home and clears the record; a combined
store is sent at the end of its window and not before; the last answer to a returning access puts its bytes into its
lanes, makes them full and closes it, and the last one to a posted access retires it (R36, R171, R175, R176, R193,
R321, R322). -/
def Obligations.AccessEvents : Prop :=
  (∀ (line : Nat) (s : State), exec (.recallOwner line) s
    = .next ((s.homes.owners.filter fun o => o.1 / 512 == line && s.recalled line o.2).foldl
        (fun s o => s.sendBack line o.2.bid) s))
  ∧ (∀ (line : Nat) (s : State), ∃ t, exec (.recallOwner line) s = .next t ∧ t.mem = s.mem
      ∧ ∀ o ∈ s.homes.owners, o.1 / 512 = line →
          (∃ l ∈ (s.core (coreOf o.2.bid)).owner, l.line = line ∧ l.bid = o.2.bid ∧ l.words &&& o.2.pending ≠ 0) →
          ∀ l ∈ (t.core (coreOf o.2.bid)).owner, ¬(l.line = line ∧ l.bid = o.2.bid))
  ∧ (∀ (s : State) (line bid : Nat) (l : OwnerLine),
      ((s.core (coreOf bid)).owner.find? fun l => l.line == line && l.bid == bid) = some l →
      let t := s.sendBack line bid
      let bad := s.damaged [(0x09, ownerKey line bid)]
      t.mem = s.mem ∧ (∀ e ∈ (t.core (coreOf bid)).owner, ¬(e.line = line ∧ e.bid = bid))
      ∧ (bad = none → t.homes.backs.get? s.ctrl.nextId = some ⟨line, bid, l.words, l.bytes⟩
          ∧ ∃ o, t.homes.owners.get? (ownerKey line bid) = some o ∧ o.pending &&& l.words = l.words)
      ∧ (bad ≠ none → t.homes.backs = s.homes.backs ∧ (bid, 0x09, ownerKey line bid) ∈ t.homes.ruined))
  ∧ (∀ (id : Nat) (s : State) (b : WriteBack), s.homes.backs.get? id = some b → s.backHeld b = true →
      exec (.ownerWriteback id) s = .next s)
  ∧ (∀ (id : Nat) (s : State) (b : WriteBack), s.homes.backs.get? id = some b → s.backHeld b = false → s.dev.damage = [] →
      ∃ t, exec (.ownerWriteback id) s = .next t ∧ t.homes.backs.get? id = none
        ∧ (∀ o, t.homes.owners.get? (ownerKey b.line b.bid) = some o → o.words &&& b.words = 0)
        ∧ t.homes.dirty.has b.line = true
        ∧ ∀ a, Memory.read t.mem.dev a
            = (if a / 64 = b.line ∧ b.words.getLsbD (a % 64 / 4) = true then (b.bytes[a % 64]?).getD 0
              else Memory.read s.mem.dev a))
  ∧ (∀ (squad id : Nat) (s : State) (c : Combine),
      ((s.squad (squad / 32) (squad % 32)).combine.find? fun c => c.id == id) = some c →
      (s.ctrl.now < c.deadline → exec (.siCombineTimeout squad id) s = .next s)
      ∧ (c.deadline ≤ s.ctrl.now → ∃ t r, exec (.siCombineTimeout squad id) s = .next t ∧ t.mem = s.mem
          ∧ (∀ e ∈ (t.squad (squad / 32) (squad % 32)).combine, ¬(e.lane = c.lane ∧ e.line = c.line))
          ∧ t.homes.reqs.get? s.ctrl.nextId = some r ∧ r.bid = squad / 32 ∧ r.sq = squad % 32 ∧ r.status = .sent
          ∧ r.rq = .si ∧ r.comb = true ∧ r.op = .store false ∧ r.target = .device ∧ r.line = c.line
          ∧ r.pieces.map (fun p => (p.lane, p.addr, p.data)) = c.bytes.map fun e => (c.lane, c.line * 64 + e.1, [e.2])))
  ∧ (∀ (id : Nat) (s : State) (r : Req) (o : OpenAcc), s.homes.reqs.get? id = some r → r.status = .performed →
      (s.cores.findSome? fun c => c.2.atoms.find? fun a => a.id == id) = none →
      ((s.squad r.bid r.sq).opens.find? fun o => o.id == r.inst) = some o →
      exec (.accessResponse id) s = .next (s.answerOpen id r o))
  ∧ (∀ (id : Nat) (s : State) (r : Req) (o : OpenAcc), s.homes.reqs.get? id = some r → r.status = .performed → r.bad = [] →
      (s.cores.findSome? fun c => c.2.atoms.find? fun a => a.id == id) = none →
      (s.squad r.bid r.sq).opens = [o] → o.id = r.inst → o.bad = 0 → o.cause = none → r.lanes = o.left →
      (∀ e ∈ s.homes.reqs, e.1 ≠ id → ¬(e.2.bid = r.bid ∧ e.2.sq = r.sq ∧ r.inst ∈ e.2.insts)) →
      (∀ c ∈ (s.squad r.bid r.sq).combine, r.inst ∉ c.insts) →
      ∃ t, exec (.accessResponse id) s = .next t ∧ t.mem = s.mem ∧ t.homes.reqs.get? id = none
        ∧ (t.squad r.bid r.sq).opens = []
        ∧ ∀ n, o.d = .v n → (t.squad r.bid r.sq).rf.full o.d ((o.size + 3) / 4) o.left = true
            ∧ ∀ k i, k < (o.size + 3) / 4 → i < 32 → o.left.getLsbD i = true →
                t.regWord r.bid r.sq o.d k i = BitVec.ofNat 32 ((o.take r).value i / 2 ^ (32 * k)))
  ∧ (∀ (id : Nat) (s : State) (r : Req), s.homes.reqs.get? id = some r → r.status = .performed →
      (∃ p ∈ (s.squad r.bid r.sq).posted, p.id ∈ r.insts) → exec (.postedAccessAnswer id) s = .next (s.answerPosted id r))
  ∧ ∀ (id : Nat) (s : State) (r : Req), s.homes.reqs.get? id = some r → r.status = .performed → r.bad = [] → r.also = [] →
      (∀ p ∈ (s.squad r.bid r.sq).posted, p.id = r.inst → p.cause = none) →
      (∃ p ∈ (s.squad r.bid r.sq).posted, p.id = r.inst) →
      (∀ e ∈ s.homes.reqs, e.1 ≠ id → ¬(e.2.bid = r.bid ∧ e.2.sq = r.sq ∧ r.inst ∈ e.2.insts)) →
      (∀ c ∈ (s.squad r.bid r.sq).combine, r.inst ∉ c.insts) →
      ∃ t, exec (.postedAccessAnswer id) s = .next t ∧ t.mem = s.mem ∧ t.homes.reqs.get? id = none
        ∧ (t.squad r.bid r.sq).posted = (s.squad r.bid r.sq).posted.filter fun p => p.id != r.inst

/-! ## Events of the scheduler, of recovery, of the fabric and of the host -/

/-- The events of the scheduler. Placement puts what comes first in the order of R266 into its slots; an H flask that
has waited 33,000 cycles pre-empts; a save completes once its work is done, the write-back of its stack caches
included; a block retires once its work is complete, and a pour with its last flask; a mailbox pre-emption drains,
flushes or saves the flasks that it names, as its action says, waits for the handler of one, holds them where it says
so, and leaves every other flask alone (R222, R266, R269, R285, R286, R375). The model's choices in it: that a tag whose
context is not enabled gives result 1 (log entry 73), that a mailbox pre-emption acts on each named flask once and only holds
one that is being saved (log entry 72), that the wait of a saved flask is counted from the end of its save (log entry 120),
and that a flask's view at its start is the generation of the device (log entry 126). -/
def Obligations.SchedulerEvents : Prop :=
  (∀ (s : State) (w : Waiting) (x : Slots) (q : Option (Nat × Nat)),
    s.urgentTrigger.cwaitTriggers.nextPlaced = some (w, x, q) →
    exec .flaskPlace s = .next (s.urgentTrigger.cwaitTriggers.place w x q))
  ∧ (∀ (s : State) (f : Nat) (fl : Flask) (x : Slots),
    let t := s.startFlask f fl x
    (t.flask f).status = .resident ∧ (t.flask f).blocks = x.bids ∧ (t.flask f).viewGen = t.homes.dgen
    ∧ ∀ b ∈ x.bids, (t.block b).flask = f ∧ (t.block b).halted = false ∧ (t.block b).retired = false)
  ∧ (∀ (f : Nat) (s : State) (w : Waiting), s.waitingAt f = some w → (s.pourWaiting w).cls = 1 →
    s.waitsSince w + 33000 ≤ s.ctrl.now → s.slotsFor (s.pourWaiting w) = none →
    exec (.hWaitTimeout f) s = .next (s.preemptClasses (s.pourWaiting w) (fun c => decide (2 ≤ c)) 33000))
  ∧ (∀ (f : Nat) (s : State), (s.flask f).status = .saving → s.handling (s.flask f) = false →
    (∀ b ∈ (s.flask f).blocks, s.quiet b = true) →
    let u := (s.flask f).blocks.foldl State.giveBack (s.flushStacks (s.flask f).blocks)
    (∀ b ∈ (s.flask f).blocks, u.quiet b = true ∧ u.givesBack b = false) →
    u.handlerCause (u.flask f).blocks = none → u.heldCause (u.flask f).blocks = none → u.saveDamage (u.flask f).blocks = none →
    ∃ t, exec (.saveComplete f) s = .next t ∧ (t.flask f).status = .saved ∧ (t.flask f).waitFrom = s.ctrl.now)
  ∧ (∀ (blk : Nat) (draw : BitVec 16) (s : State), s.blockDone blk = true → s.handlerCause [blk] = none →
    (s.giveBack blk).givesBack blk = false →
    let t := (s.giveBack blk).setBlock blk { (s.giveBack blk).block blk with retired := true }
    exec (.blockRetire blk draw) s
      = .next (if (t.flask (t.block blk).flask).blocks.all fun b => (t.block b).retired then t.retireFlask (t.block blk).flask draw else t))
  ∧ (∀ p, EventIs (.pourRetire p) (fun s => s.pourDone p = true) fun s => s.retirePour p)
  ∧ (∀ (s : State) (p : Nat), (s.retirePour p).pours.get? p = none
      ∧ ∃ kept, ((s.retirePour p).context (s.pour p).tag).retired = kept ++ [((s.pour p).num, (s.pour p).status)])
  ∧ (∀ (tag pour flask action deadline : Nat) (hold : Bool) (s : State), s.dev.mailbox.busy = none →
      ((2 < action ∨ (s.context tag).en = false) → ∃ t, exec (.preEmpt tag pour flask action deadline hold) s = .next t
          ∧ t.dev.mailbox.busy = some { result := 1 } ∧ t.flasks = s.flasks)
      ∧ (action ≤ 2 → (s.context tag).en = true → ∃ t c, exec (.preEmpt tag pour flask action deadline hold) s = .next t
          ∧ t.dev.mailbox.busy = some c ∧ c.result = 0 ∧ c.action = action ∧ c.hold = hold
          ∧ (∀ k fl, s.flasks.get? k = some fl → s.namedBy tag pour flask fl →
              (fl.status = .saving → hold = true → (t.flask k).hold = true)
              ∧ (fl.status = .resident → s.handling fl = true → k ∈ c.todo ∧ k ∈ c.flasks ∧ (t.flask k).status = .resident)
              ∧ (fl.status = .resident → s.handling fl = false →
                  (hold = true → (t.flask k).hold = true)
                  ∧ ((t.flask k).status = .saving ∨ (t.flask k).drainOnly = true ∨ (action ≠ 1 ∧ (t.flask k).status = .again))))
          ∧ ∀ k, (∀ fl, (k, fl) ∈ s.flasks → ¬s.namedBy tag pour flask fl) → t.flask k = s.flask k))
  ∧ (∀ (c : MailCmd) (f : Nat) (s : State),
      let fl := s.flask f
      let t := s.mailPreempt c f
      let n := s.tenantOf (s.pour fl.pour).tag
      let drained := { fl with drainOnly := true, hold := fl.hold || c.hold }
      (c.hold = true → (t.flask f).hold = true)
      ∧ (c.action = 1 → (s.areaFree n = true → (t.flask f).status = .saving ∧ (t.tenant n).saves = (s.tenant n).saves + 1)
          ∧ (s.areaFree n = false → t.flask f = drained))
      ∧ (c.action = 0 → s.endsWithin fl c.deadline = true → t.flask f = drained)
      ∧ (c.action = 0 → s.endsWithin fl c.deadline = false → s.flushable f = true → (t.flask f).status = .again ∧ (t.flask f).blocks = [])
      ∧ (c.action = 2 → s.flushable f = true → (t.flask f).status = .again ∧ (t.flask f).blocks = [])
      ∧ (c.action ≠ 1 → (c.action = 0 → s.endsWithin fl c.deadline = false) → s.flushable f = false → s.areaFree n = true →
          (t.flask f).status = .saving))
  ∧ ∀ (tag pour flask action deadline : Nat) (hold : Bool) (s : State), s.dev.mailbox.busy.isSome = true →
      exec (.preEmpt tag pour flask action deadline hold) s = .next s

/-- The events of recovery. A quiescing die is fenced once its homes hold no request and no dirty line, or by force at
its deadline, where the requests across the seam and the dirty lines are lost; it is then reset, rejoins, and runs
when the clear of the caches has ended; the scrubber reads line after line and writes corrected sectors back; leases
end; and an audited flask is replayed, skipped after 2^24 cycles, and judged (R180, R310, R347 to R351, R354 to R357).
The model's choices in it: that the bytes of HBM stand for a lost dirty line and that the copies in flight across the
seam end with status 6 (log entry 52), the three phases of `DIE_REJOIN` (log entry 53), and the mark 0x111 of a sector
that the scrubber will write back (log entry 55). -/
def Obligations.RecoveryEvents : Prop :=
  (∀ d, EventIs (.seamFence d)
    (fun s => (s.die d).phase = .quiescing
      ∧ (∀ e ∈ s.homes.reqs, ¬((e.2.status = .held ∨ e.2.status = .performed) ∧ e.2.target = .device
          ∧ homeDie (e.2.line * 64) = d))
      ∧ (∀ b ∈ s.homes.backs, ¬(homeDie (b.2.line * 64) = d ∧ dieOfBlock b.2.bid = d)) ∧ ∀ e ∈ s.homes.dirty, homeDie (e.1 * 64) ≠ d)
    fun s => s.setDie d { s.die d with phase := .fenced })
  ∧ (∀ d, EventIs (.quiesceDeadline d) (fun s => (s.die d).phase = .quiescing ∧ (s.die d).deadline ≤ s.ctrl.time) fun s =>
    let s := (s.setDie d { s.die d with phase := .fenced, epoch := (s.die d).epoch + 1 }).loseCopies d
    let s := { s with homes := { s.homes with reqs := s.homes.reqs.map (loseCrossing d) } }
    (s.homes.dirty.filter fun e => homeDie (e.1 * 64) == d).foldl State.loseLine s)
  ∧ (∀ (s : State) (l : Nat) (bs : List Byte), bs.length = 64 → (s.context (s.ownerTag (l * 64))).en = false →
      (∀ k, k < 64 → Memory.read (s.loseLine (l, bs)).mem.dev (l * 64 + k) = (bs[k]?).getD 0)
      ∧ ∀ a, a / 64 ≠ l → Memory.read (s.loseLine (l, bs)).mem.dev a = Memory.read s.mem.dev a)
  ∧ (∀ (s : State) (l : Nat) (bs : List Byte), (s.context (s.ownerTag (l * 64))).en = true →
      let tag := s.ownerTag (l * 64)
      let t := s.loseLine (l, bs)
      (t.context tag).en = false ∧ (t.context tag).ranges = [])
  ∧ (∀ (s : State) (c k : Nat) (x : CopyCmd) (d : Nat), (s.core c).copies.get? k = some x → s.copyCrosses d x = true →
      ∃ y, ((s.loseCopies d).core c).copies.get? k = some y ∧ y = { x with status := 6 })
  ∧ (∀ (s : State) (c k : Nat) (x : CopyCmd) (d : Nat), (s.core c).copies.get? k = some x → s.copyCrosses d x = false →
      ((s.loseCopies d).core c).copies.get? k = some x)
  ∧ (∀ (d : Nat) (s : State),
    ((s.die d).phase = .fenced → exec (.dieRejoin d) s = .next (s.resetDie d))
    ∧ ((s.die d).phase = .reset → s.dev.altered.contains d = true → exec (.dieRejoin d) s = .next (s.deviceReset d))
    ∧ ((s.die d).phase = .reset → s.dev.altered.contains d = false → ∃ t, exec (.dieRejoin d) s = .next t ∧ (t.die d).phase = .rejoining
        ∧ (t.die d).clkBase = s.ctrl.now)
    ∧ ((s.die d).phase = .rejoining → (s.die d).clearing = false → ∃ t, exec (.dieRejoin d) s = .next t ∧ (t.die d).phase = .running)
    ∧ ((s.die d).phase = .running ∨ (s.die d).phase = .held → exec (.dieRejoin d) s = .next s))
  ∧ (∀ (s : State) (d : Nat), ((s.resetDie d).die d).phase = .reset ∧ ((s.resetDie d).die d).epoch = (s.die d).epoch + 1
      ∧ ((s.resetDie d).die d).rdc = [] ∧ (s.resetDie d).mem = s.mem
      ∧ ∀ c, dieOfCore c = d → ((s.resetDie d).core c).tlb = [] ∧ ((s.resetDie d).core c).owner = []
          ∧ ((s.resetDie d).core c).mq = [] ∧ ((s.resetDie d).core c).copies = [])
  ∧ (∀ (s : State) (d : Nat), d < 2 → (s.die d).clearing = true → (s.die d).clearEnd ≤ s.ctrl.now →
      ∃ t, exec .remoteDataCacheClearEnd s = .next t ∧ (t.die d).clearing = false ∧ t.mem = s.mem)
  ∧ (∀ (d : Nat) (s : State), (s.die d).phase = .running → s.dev.damage = [] →
      exec (.scrubRead d) s = .next (s.setDie d { s.die d with scrub := ((s.die d).scrub + 1) % (288 * 10 ^ 9 / 64) }))
  ∧ (∀ (d : Nat) (s : State) (q : Nat) (r : List Nat), (s.die d).scrubQ = q :: r →
      ∃ t, exec (.scrubWriteback d) s = .next t ∧ (t.die d).scrubQ = r ∧ (0x111, q) ∉ t.dev.damage ∧ t.mem = s.mem)
  ∧ (∀ (c i : Nat) (s : State) (e : TlbEntry), c < 240 → (s.core c).leases[i]? = some e → e.expires ≤ s.ctrl.time →
      exec (.leaseExpiry c i) s = .next (s.setCore c { s.core c with leases := (s.core c).leases.eraseIdx i }))
  ∧ (∀ (c i : Nat) (s : State) (e : TlbEntry), 240 ≤ c → s.dev.ingress[i]? = some e → e.expires ≤ s.ctrl.time →
      exec (.leaseExpiry c i) s = .next { s with dev := { s.dev with ingress := s.dev.ingress.eraseIdx i } })
  ∧ (∀ (f : Nat) (s : State) (r : AuditRun) (x : Slots), s.auditRun f = some r → s.auditSlots (s.flask f) r.avoid = some x →
      r.made = false → s.enabled (s.pour (s.flask f).pour).tag = true → s.dev.damage = [] →
      exec (.fettlerReplayStart f) s
        = .next (s.startFlask r.key { (s.flask f).audit r.run s.ctrl.now with status := .resident } x))
  ∧ (∀ (f : Nat) (s : State), s.enabled (s.pour (s.flask f).pour).tag = false → exec (.fettlerReplayStart f) s = .next s)
  ∧ (∀ (f : Nat) (s : State) (r : AuditRun), s.auditRun f = some r → s.auditSlots (s.flask f) r.avoid = none → r.made = false →
      (s.flask f).waitFrom + 2 ^ 24 ≤ s.ctrl.now →
      ∃ t, exec (.fettlerSkip f) s = .next t ∧ t.dev.skipped = s.dev.skipped + 1)
  ∧ ∀ (f : Nat) (s : State), (s.flask f).chosen = true → (s.flask (s.runKey f .replay)).status = .retired →
      s.flasks.has (s.runKey f .third) = false →
      (s.differing (s.flask f) (s.flask (s.runKey f .replay)) = [] → exec (.replayEnd f) s = .next (s.endAudit f))
      ∧ (s.differing (s.flask f) (s.flask (s.runKey f .replay)) ≠ [] →
          ∃ t, exec (.replayEnd f) s = .next t ∧ (t.flask (s.runKey f .third)).run = .third
            ∧ (t.flask (s.runKey f .third)).status = .again)

/-- The events of the fabric: the ingress answers, refuses or holds a peer's request; a sender rolls its key over from
STEADY through WAIT and DRAIN, and the receiver erases the old key only after that; a link that loses its integrity or a
lane retrains, and comes up again within 100 µs or fails (R183, R185, R307, R315, R369). The model's choices in it: the
held requests of all sources are one list in order of arrival (log entry 66), and a port's messages of class U leave its
log 10 µs after they were sent (log entry 49). -/
def Obligations.FabricEvents : Prop :=
  (∀ (r : PeerReq) (s : State), (∀ e ∈ s.dev.ingressHeld, holdsBack e.req r = false) →
    (s.admitted r = false ∨ peerFits r = false) →
    exec (.fabricIngressRequest r) s = .next (s.answered r.src .abort))
  ∧ (∀ (r : PeerReq) (s : State), (∃ e ∈ s.dev.ingressHeld, holdsBack e.req r = true) →
    exec (.fabricIngressRequest r) s = .next { s with dev := { s.dev with ingressHeld := s.dev.ingressHeld ++ [⟨r, []⟩] } })
  ∧ (∀ (r : PeerReq) (s t : State) (fs : List Nat), (∀ e ∈ s.dev.ingressHeld, holdsBack e.req r = false) →
    s.ingressOne r = (t, .held fs) →
    exec (.fabricIngressRequest r) s = .next { t with dev := { t.dev with ingressHeld := t.dev.ingressHeld ++ [⟨r, fs⟩] } })
  ∧ (∀ (r : PeerReq) (s t : State) (a : PeerAnswer), (∀ e ∈ s.dev.ingressHeld, holdsBack e.req r = false) →
    s.ingressOne r = (t, .answer a) → exec (.fabricIngressRequest r) s = .next (t.answered r.src a))
  ∧ (∀ p i, EventIs (.memoEntryAged p i)
    (fun s => ∃ m, (s.homes.peerMemos.find? fun m => m.peer == p && m.ident == i) = some m
      ∧ m.since + microseconds (10 * s.dev.regs.retryW) ≤ s.ctrl.time)
    fun s => { s with homes := { s.homes with
      peerMemos := s.homes.peerMemos.filter fun e => !(e.peer == p && e.ident == i), aged := s.homes.aged ++ [(p, i)] } })
  ∧ (∀ (l : Nat) (s : State), exec (.uCapRelease l) s = .next (s.setLink l { s.link l with
      uLog := (s.link l).uLog.filter fun e => decide (s.ctrl.time < e.1 + microseconds 10) }))
  ∧ (∀ (l : Nat) (s : State) (i : Bool), (s.link l).key = .steady i →
    ((s.link l).holds (!i) = false →
      (2 ^ (s.link l).limLog ≤ (s.link l).flits ∨ (s.link l).keySince + microseconds ((s.link l).limSec * 1000000) ≤ s.ctrl.time) →
      exec (.keyRolloverDue l) s = .next (s.setLink l { (s.link l).setKey (!i) true with key := .wait i }))
    ∧ exec (.retireKey l) s = .next (s.setLink l ((s.link l).setKey (!i) false))
    ∧ exec (.keyReady l) s = .next s ∧ exec (.replayDrained l) s = .next s)
  ∧ (∀ (l : Nat) (s : State) (i : Bool), (s.link l).key = .wait i →
    (∃ t, exec (.keyReady l) s = .next t ∧ (t.link l).key = .drain i ∧ (t.link l).flits = 0
      ∧ (t.link l).recv = (s.link l).recv ∧ (t.link l).key.current = !i)
    ∧ exec (.keyRolloverDue l) s = .next s ∧ exec (.retireKey l) s = .next s)
  ∧ (∀ (l : Nat) (s : State) (i : Bool), (s.link l).key = .drain i →
    ((s.link l).replay.contains i = false → exec (.replayDrained l) s = .next (s.setLink l { s.link l with key := .steady (!i) }))
    ∧ ((s.link l).replay.contains i = true → exec (.replayDrained l) s = .next s) ∧ exec (.retireKey l) s = .next s)
  ∧ (∀ l, ∀ ev ∈ [Instr.linkIntegrityFailure l, .laneLoss l], EventIs ev (fun s => (s.link l).phase = .up)
      fun s => s.setLink l { s.link l with phase := .retraining, since := s.ctrl.time })
  ∧ (∀ l, EventIs (.flitCheckFailure l)
      (fun s => (s.link l).phase = .up ∧ ∃ i ∈ (s.link l).replay, (s.link l).holds i = false)
      fun s => s.setLink l { s.link l with phase := .retraining, since := s.ctrl.time })
  ∧ (∀ l, EventIs (.linkRetrained l) (fun s => (s.link l).phase = .retraining ∧ s.ctrl.time ≤ (s.link l).since + microseconds 100)
      fun s => s.setLink l { s.link l with phase := .up })
  ∧ ∀ l, EventIs (.retrainTimeout l)
      (fun s => (s.link l).phase = .retraining ∧ (s.link l).since + microseconds 100 < s.ctrl.time) fun s => s.failLink l .failed

/-- The events of the host and of the firmware: each write, those of the VFs once the boot has completed and the tenant
is enabled, takes effect where R265, R296, R297, R352 and R364 let it, and otherwise changes nothing; the mailbox takes
one command at a time; a doorbell leaves its result, once the reads that it makes need not wait; page faults are queued,
served and declined; pages migrate; the boot goes through its steps; the measurements and the clock (R181, R265, R296 to
R300, R306, R325, R352, R358, R361 to R378). The model's choices in it: the value of a measurement (log entry 5), what
each step of the boot does (log entry 54), the result of a misaligned descriptor (log entry 68), the bits of OVFBASE above
56, which are dropped (log entry 69), that PTAG 0 is refused whatever EN is (log entry 71), the drain that ends a migration
(log entry 74), the power and temperature that throttle the clock (log entry 87), that EN = 1 is ignored while frames are
stale (log entry 99), the order in which waiting requests of the host are taken up (log entry 108), that the counter of die 1
is that of die 0 (log entry 113), the 64 KiB pages of the host (log entry 124), the end of a context whose entry is disabled
(log entry 131), that offsets which no register has are ignored and a function that is not enabled reads all ones (log entry
133), the size of BAR2 until the host resizes it (log entry 153), and when the PF has its BAR2 (log entry 154). -/
def Obligations.HostEvents : Prop :=
  -- doorbells
  (∀ (n q : Nat) (d w : DWord) (s : State),
    ((s.vf n = false ∨ 16 ≤ q) → exec (.doorbell n q d w) s = .next s)
    ∧ (s.vf n = true → q < 16 → (∀ e ∈ s.dev.hostHeld, e.tenant ≠ n) →
        (∀ t r, s.ring n q d w = some (t, r) → exec (.doorbell n q d w) s
          = .next (t.setTenant n { t.tenant n with results := (t.tenant n).results.put q r }))
        ∧ (s.ring n q d w = none → exec (.doorbell n q d w) s
          = .next { s with dev := { s.dev with hostHeld := s.dev.hostHeld ++ [.doorbell n q d w] } }))
    ∧ (s.vf n = true → q < 16 → (∃ e ∈ s.dev.hostHeld, e.tenant = n) → exec (.doorbell n q d w) s
        = .next { s with dev := { s.dev with hostHeld := s.dev.hostHeld ++ [.doorbell n q d w] } })
    ∧ (s.namesContext n w = false → s.ring n q d w = some (s, 0x80000006))
    ∧ (s.namesContext n w = true → d.toNat % 128 ≠ 0 → s.ring n q d w = some (s, 0x80000002)))
  -- BAR2
  ∧ (∀ (n ofs len : Nat) (ws : List Byte) (s : State), n ≠ 64 → s.vf n = false →
    exec (.bar2Access n ofs none len) s = .next { s with dev := { s.dev with hostRead := List.replicate len 0xFF } }
    ∧ exec (.bar2Access n ofs (some ws) len) s = .next s)
  ∧ (∀ (n ofs len : Nat) (ws : List Byte) (s : State),
    (s.bar2Size n < ofs + len →
      exec (.bar2Access n ofs none len) s = .next { s with dev := { s.dev with hostRead := List.replicate len 0xFF } })
    ∧ (s.bar2Size n < ofs + ws.length → exec (.bar2Access n ofs (some ws) len) s = .next s))
  ∧ (∀ (ofs len : Nat) (ws : List Byte) (s : State),
    (s.vfs = true → ofs + len ≤ s.bar2Size 64 →
      exec (.bar2Access 64 ofs none len) s = .next { s with dev := { s.dev with hostRead := List.replicate len 0 } })
    ∧ (s.vfs = false →
      exec (.bar2Access 64 ofs none len) s = .next { s with dev := { s.dev with hostRead := List.replicate len 0xFF } })
    ∧ exec (.bar2Access 64 ofs (some ws) len) s = .next s)
  ∧ (∀ (n ofs len : Nat) (ws : List Byte) (s : State), s.vf n = true → (∀ e ∈ s.dev.hostHeld, e.tenant ≠ n) →
    let ap := (s.tenant n).aperture
    let va := fieldBits ap 56 30 * 2 ^ 30 + ofs
    (s.namesContext n (BitVec.ofNat 64 (ap % 256)) = false →
      exec (.bar2Access n ofs none len) s = .next { s with dev := { s.dev with hostRead := List.replicate len 0xFF } }
      ∧ exec (.bar2Access n ofs (some ws) len) s = .next s)
    ∧ (s.namesContext n (BitVec.ofNat 64 (ap % 256)) = true →
      (ofs + len ≤ s.bar2Size n →
        (∀ t bs, s.hostAccess (ap % 256) va (.read len) = (t, .answer (.bytes bs)) →
          exec (.bar2Access n ofs none len) s = .next { t with dev := { t.dev with hostRead := bs } })
        ∧ (∀ t, s.hostAccess (ap % 256) va (.read len) = (t, .answer .abort) →
          exec (.bar2Access n ofs none len) s = .next { t with dev := { t.dev with hostRead := List.replicate len 0xFF } })
        ∧ (∀ t fs, s.hostAccess (ap % 256) va (.read len) = (t, .held fs) → exec (.bar2Access n ofs none len) s
            = .next { s with dev := { s.dev with hostHeld := s.dev.hostHeld ++ [.bar2 n ap ofs none len] } }))
      ∧ (ofs + ws.length ≤ s.bar2Size n →
        (∀ t a, s.hostAccess (ap % 256) va (.write ws false false) = (t, .answer a) →
          exec (.bar2Access n ofs (some ws) len) s = .next t)
        ∧ (∀ t fs, s.hostAccess (ap % 256) va (.write ws false false) = (t, .held fs) → exec (.bar2Access n ofs (some ws) len) s
            = .next { s with dev := { s.dev with hostHeld := s.dev.hostHeld ++ [.bar2 n ap ofs (some ws) len] } }))))
  -- configuration
  ∧ (∀ (n q : Nat) (v : BitVec 512) (s : State),
    let old := (s.tenant n).queues.get q {}
    let same := fieldBits v.toNat 249 248 = old.cls ∧ fieldBits v.toNat 247 240 = old.depthM1
      ∧ fieldBits v.toNat 312 256 = old.ovfBase ∧ fieldBits v.toNat 351 336 = old.ovfQuota
    let legal := s.vf n = true ∧ q < (s.tenant n).nq ∧ (fieldBits v.toNat 249 248 ≠ 0 ∨ (s.tenant n).urt = true)
      ∧ fieldBits v.toNat 312 256 % 4096 = 0 ∧ (old.locked = false ∨ same)
    (legal → ∃ t c, exec (.launchQueueConfigWrite n q v) s = .next t ∧ (t.tenant n).queues.get? q = some c
      ∧ c.en = v.toNat.testBit 255 ∧ c.cls = fieldBits v.toNat 249 248 ∧ c.depthM1 = fieldBits v.toNat 247 240
      ∧ c.ovfBase = fieldBits v.toNat 312 256 ∧ c.ovfQuota = fieldBits v.toNat 351 336
      ∧ c.mask = v.setWidth 240 &&& coreMask (fun k => !(s.core k).retired) ∧ c.entries = old.entries
      ∧ c.overflow = old.overflow ∧ t.mem = s.mem ∧ t.squads = s.squads)
    ∧ (¬legal → exec (.launchQueueConfigWrite n q v) s = .next s))
  ∧ (∀ n v, EventIs (.tenantWordWrite n v)
    (fun s => n < 64 ∧ fieldBits v.toNat 52 44 ≤ 256 ∧ fieldBits v.toNat 43 37 ≤ 64
      ∧ (fieldBits v.toNat 36 30 = 0 ∨ 4 ≤ fieldBits v.toNat 36 30) ∧ fieldBits v.toNat 36 30 ≤ 64
      ∧ fieldBits v.toNat 29 25 ≤ 16
      ∧ ((s.tenant n).en = false ∨ (v.toNat.testBit 62 = (s.tenant n).urt ∧ fieldBits v.toNat 52 44 = (s.tenant n).nwin
          ∧ fieldBits v.toNat 43 37 = (s.tenant n).ninb ∧ fieldBits v.toNat 36 30 = (s.tenant n).nvec
          ∧ fieldBits v.toNat 29 25 = (s.tenant n).nq ∧ fieldBits v.toNat 24 9 = (s.tenant n).nsave)))
    fun s => s.setTenant n { s.tenant n with
      en := v.toNat.testBit 63, urt := v.toNat.testBit 62, nwin := fieldBits v.toNat 52 44, ninb := fieldBits v.toNat 43 37
      nvec := fieldBits v.toNat 36 30, nq := fieldBits v.toNat 29 25, nsave := fieldBits v.toNat 24 9 })
  ∧ (∀ (tag : Nat) (v : BitVec 128) (s : State),
    let c := s.context tag
    let used := c.en = true ∨ c.loading = true
    let legal := 0 < tag ∧ tag < 256 ∧ (s.tenant (fieldBits v.toNat 125 120)).en = true ∧ fieldBits v.toNat 115 64 % 4096 = 0
      ∧ (used → v.toNat.testBit 126 = c.priv ∧ fieldBits v.toNat 125 120 = c.tenant)
      ∧ (v.toNat.testBit 127 = true → c.stale = [])
    (¬legal → exec (.contextEntryWrite tag v) s = .next s)
    ∧ (legal → v.toNat.testBit 127 = true → ¬used → ∃ t, exec (.contextEntryWrite tag v) s = .next t
      ∧ (t.context tag).loading = true ∧ (t.context tag).en = false ∧ (t.context tag).priv = v.toNat.testBit 126
      ∧ (t.context tag).tenant = fieldBits v.toNat 125 120 ∧ (t.context tag).root = fieldBits v.toNat 115 64
      ∧ (t.context tag).asgen = 0)
    ∧ (legal → v.toNat.testBit 127 = true → used →
      exec (.contextEntryWrite tag v) s = .next (s.setContext tag { c with root := fieldBits v.toNat 115 64 }))
    ∧ (legal → v.toNat.testBit 127 = false → ∃ t, exec (.contextEntryWrite tag v) s = .next t
      ∧ (t.context tag).en = false ∧ (t.context tag).loading = false ∧ (c.en = true → (t.context tag).ranges = [])))
  ∧ (∀ k, EventIs (.contextKeyLoaded k) (fun s => (s.context k).loading = true)
      fun s => s.setContext k { s.context k with en := true, loading := false, tables := [(0, .map3)], dtsel := 0 })
  ∧ (∀ v, EventIs (.fabcfgWrite v)
      (fun s => (fieldBits v.toNat 57 40 < fieldBits v.toNat 39 22 ∨ fieldBits v.toNat 57 40 - fieldBits v.toNat 39 22 < 1024)
        ∧ (fieldBits v.toNat 17 0 = s.dev.regs.epid ∨ s.portsDown = true))
      fun s => s.setRegs { s.dev.regs with
        podHi := fieldBits v.toNat 57 40, podLo := fieldBits v.toNat 39 22, epid := fieldBits v.toNat 17 0 })
  ∧ (∀ (v : DWord) (s : State),
      let legal := (1 ≤ fieldBits v.toNat 49 40 ∧ fieldBits v.toNat 49 40 ≤ 1000)
        ∧ (1 ≤ fieldBits v.toNat 39 30 ∧ fieldBits v.toNat 39 30 ≤ 100) ∧ s.sizeOk 0 (fieldBits v.toNat 6 0) = true
        ∧ s.sizeOk 1 (fieldBits v.toNat 13 7) = true
      (legal → ∃ t, exec (.memcfgWrite v) s = .next t ∧ t.mem = s.mem ∧ t.dev.regs = { s.dev.regs with
          lease := fieldBits v.toNat 49 40, retryW := fieldBits v.toNat 39 30
          rdcSz0 := fieldBits v.toNat 6 0, rdcSz1 := fieldBits v.toNat 13 7 })
      ∧ (¬legal → exec (.memcfgWrite v) s = .next s))
  ∧ (∀ v, EventIs (.linkcfgWrite v)
      (fun _ => 24 ≤ fieldBits v.toNat 55 50 ∧ fieldBits v.toNat 55 50 ≤ 48 ∧ 1 ≤ fieldBits v.toNat 17 0)
      fun s => s.setRegs { s.dev.regs with rkLog2 := fieldBits v.toNat 55 50, rkSec := fieldBits v.toNat 17 0 })
  ∧ (∀ v, EventIs (.contcfgWrite v)
      (fun _ => 1 ≤ fieldBits v.toNat 35 28 ∧ 10 ≤ fieldBits v.toNat 9 0 ∧ fieldBits v.toNat 9 0 ≤ 1000)
      fun s => s.setRegs { s.dev.regs with
        fetEn := v.toNat.testBit 63, ceThr := fieldBits v.toNat 51 36, scrubH := fieldBits v.toNat 35 28
        qdl := fieldBits v.toNat 9 0 })
  -- the other registers
  ∧ (∀ (v : BitVec 512) (s : State),
      (∀ k, 0 < k → k < 256 → ∃ t, exec (.registerWrite (.hentry k) v) s = .next t
        ∧ (t.context k).hentry = fieldBits v.toNat 56 6 * 2 ^ 6 ∧ t.mem = s.mem)
      ∧ exec (.registerWrite (.hentry 0) v) s = .next s
      ∧ (∀ n, s.vf n = true → ∃ t, exec (.registerWrite (.aperture n) v) s = .next t
        ∧ (t.tenant n).aperture = fieldBits v.toNat 56 30 * 2 ^ 30 + v.toNat % 256 ∧ t.mem = s.mem)
      ∧ (∀ n, s.vf n = false → exec (.registerWrite (.aperture n) v) s = .next s)
      ∧ (∀ n i, n < 64 → i < 256 → (outWindowOf v.toNat).ptag ≠ 0 → ∃ t, exec (.registerWrite (.outWindow n i) v) s = .next t
        ∧ (t.tenant n).windows.get? i = some (outWindowOf v.toNat) ∧ t.mem = s.mem)
      ∧ (∀ n i, (outWindowOf v.toNat).ptag = 0 → exec (.registerWrite (.outWindow n i) v) s = .next s)
      ∧ (∀ tag i, let w := inWindowOf v.toNat
          let n := (s.context tag).tenant
          let legal := s.enabled tag = true ∧ (s.context tag).priv = true ∧ i < 64 ∧ w.dtag ≠ 0
            ∧ ((s.context w.dtag).en = true ∨ (s.context w.dtag).loading = true) ∧ (s.context w.dtag).tenant = n
          (legal → ∃ t, exec (.registerWrite (.inWindow tag i) v) s = .next t ∧ (t.tenant n).inbound.get? i = some w ∧ t.mem = s.mem)
          ∧ (¬legal → exec (.registerWrite (.inWindow tag i) v) s = .next s))
      ∧ (∃ t, exec (.registerWrite .mailboxCmd v) s = .next t ∧ t.dev.mailbox.cmd = v ∧ t.mem = s.mem)
      ∧ ∀ ofs, regAt 64 ofs = none → exec (.registerWrite (.other ofs) v) s = .next s)
  ∧ (∀ (s : State) (fn ofs len : Nat) (r : BarReg),
      (s.function fn = false → s.bar0Read fn ofs len = { s with dev := { s.dev with hostRead := List.replicate len 0xFF } })
      ∧ (s.function fn = true → regAt fn ofs = some r → r.base = ofs →
          s.bar0Read fn ofs r.width = { s with dev := { s.dev with hostRead := leBytes r.width (s.regReads fn r) } }))
  -- the mailbox
  ∧ (∀ (s : State), s.dev.mailbox.busy = none →
      (∀ f e, installed (f * 2 ^ 16) = true → s.contextMemory (f * 2 ^ 16) = true →
        ∃ t, exec (.frameOwner f e) s = .next t ∧ t.dev.mailbox.busy = some {}
          ∧ t.homes.frames.get f 0 = e &&& 0xC0FF
          ∧ ((s.homes.frames.get f 0).setWidth 8 ≠ (e.setWidth 8 : BitVec 8) →
              ∀ a, a / 2 ^ 16 = f → Memory.read t.mem.dev a = 0))
      ∧ (∀ m, ∃ t, exec (.reservedSlots m) s = .next t ∧ t.dev.mailbox.busy = some {}
          ∧ ∀ c, c < 240 → (t.core c).reserved = m.getLsbD c)
      ∧ (∀ i, i < 10 → (s.link i).phase ≠ .retired → ∃ t, exec (.retireUnit 1 0 i) s = .next t
          ∧ t.dev.mailbox.busy = some {} ∧ (t.link i).phase = .retired ∧ t.dev.regs.repReq = true)
      ∧ (∀ k va fr, ∃ t, exec (.migratePage k va fr) s = .next t ∧ t.dev.mailbox.busy.isSome = true ∧ t.mem = s.mem
          ∧ ((s.startMigration k va.toNat fr.toNat).2 = 0 → t.homes.migration.isSome = true))
      ∧ (∀ ep ip, ep < 2 ^ 18 → ∃ t, exec (.endpointMap ep ip true) s = .next t ∧ t.dev.endpoints.get? ep = some ip)
      ∧ (∀ k p, (s.context k).en = true → ∃ t, exec (.releaseHeld k p) s = .next t ∧ t.dev.mailbox.busy = some {}
          ∧ ∀ e ∈ t.flasks, (s.pour e.2.pour).tag = k → (p = 0 ∨ (s.pour e.2.pour).num = p) → e.2.hold = false)
      ∧ (∀ w, 800 ≤ w → w ≤ 2200 → ∃ t, exec (.powerLimit w) s = .next t ∧ t.dev.regs = { s.dev.regs with power := w })
      ∧ ∀ f e w, (installed (f * 2 ^ 16) = false → exec (.frameOwner f e) s = .next (s.setBusy (some { result := 1 })))
          ∧ ((w < 800 ∨ 2200 < w) → exec (.powerLimit w) s = .next (s.setBusy (some { result := 1 }))))
  ∧ (∀ (s : State), s.dev.mailbox.busy.isSome = true →
      ∀ f e m a b c tag va fr ip on w, ∀ ev ∈ [Instr.frameOwner f e, .reservedSlots m, .retireUnit a b c, .migratePage tag va fr,
        .endpointMap a ip on, .releaseHeld tag b, .powerLimit w], exec ev s = .next s)
  ∧ (∀ (s : State) (c : MailCmd), s.dev.mailbox.busy = some c → c.flasks = [] → c.migrating = false →
      ∃ t, exec .mailboxDone s = .next t ∧ t.dev.mailbox.busy = none ∧ t.dev.mailbox.result = c.result)
  -- migration
  ∧ (∀ (s : State) (m : Migration), s.homes.migration = some m →
      (m.step = .marked → m.until' ≤ s.ctrl.time → ∃ t, exec .migrationLeaseWaitEnd s = .next t
        ∧ t.homes.migration = some { m with step := .recalled } ∧ t.mem = s.mem)
      ∧ (s.ctrl.time < m.until' → exec .migrationLeaseWaitEnd s = .next s)
      ∧ (m.step = .recalled → s.handoverWaits m = false → exec .migrationHandover s = .next (s.handOver m))
      ∧ (m.step ≠ .recalled ∨ s.handoverWaits m = true → exec .migrationHandover s = .next s)
      ∧ (m.step = .switched → m.until' ≤ s.ctrl.time →
          exec .migrationLeaseWaitEnd s = .next (s.setMigration (some { m with step := .forwarding })))
      ∧ (∀ since, s.migrationIdle m = true → m.since = some since →
          (s.ctrl.now < since + 1400 → exec .migrationForwardingEnd s = .next s)
          ∧ (since + 1400 ≤ s.ctrl.now → ∃ t, exec .migrationForwardingEnd s = .next t ∧ t.homes.migration = none
              ∧ t.homes.retired = s.homes.retired ++ [m.old / 2 ^ 16] ∧ t.mem = s.mem)))
  -- page faults
  ∧ (∀ n f, EventIs (.pfrespServe n f) (fun s => s.vf n = true ∧ (s.slot n f).isSome = true) fun s => s.answerFault n f false)
  ∧ (∀ (n f : Nat) (s : State),
      (s.vf n = true → (s.slot n f).isSome = true →
        ∃ t, exec (.pfrespDecline n f) s = .next t ∧ (t.tenant n).faults.get? f = none ∧ t.mem = s.mem)
      ∧ ((s.vf n = false ∨ s.slot n f = none) → exec (.pfrespDecline n f) s = .next s))
  ∧ (∀ (n : Nat) (s : State) (f : Nat × PageFault) (k : Nat), (s.tenant n).faults.find? (fun f => f.2.slot.isNone) = some f →
      (s.tenant n).freeSlot = some k →
      ∃ t, exec (.pageFaultEnqueue n) s = .next t ∧ (t.tenant n).faults.get? f.1 = some { f.2 with slot := some k })
  ∧ (∀ (n : Nat) (s : State), ((∀ f ∈ (s.tenant n).faults, f.2.slot ≠ none) ∨ (s.tenant n).freeSlot = none) →
      exec (.pageFaultEnqueue n) s = .next s)
  ∧ (∀ (s : State), (∃ t, exec (.lostClear none) s = .next t ∧ t.dev.deviceLog.lost = 0)
      ∧ ∀ n, (s.vf n = true → ∃ t, exec (.lostClear (some n)) s = .next t ∧ (t.dev.tenantLogs.get n {}).lost = 0)
        ∧ (s.vf n = false → exec (.lostClear (some n)) s = .next s))
  -- sprues
  ∧ (∀ (n : Nat) (d w : DWord) (s : State),
      (s.vf n = false → exec (.sparmreq n d w) s = .next s)
      ∧ (s.vf n = true → (∀ e ∈ s.dev.hostHeld, e.tenant ≠ n) →
          (∀ t r, s.armRequest n d w = some (t, r) → exec (.sparmreq n d w) s
            = .next (t.setTenant n { t.tenant n with spRes := r }))
          ∧ (s.armRequest n d w = none → exec (.sparmreq n d w) s
            = .next { s with dev := { s.dev with hostHeld := s.dev.hostHeld ++ [.sparmreq n d w] } }))
      ∧ (s.namesContext n w = false → s.armRequest n d w = some (s, 0x80000006))
      ∧ (s.namesContext n w = true → d.toNat % 64 ≠ 0 → s.armRequest n d w = some (s, 0x80000002))
      ∧ ∀ p bs ld i, s.namesContext n w = true → d.toNat % 64 = 0 →
          s.readSprue none (w.toNat % 256) d.toNat = (.bytes p, bs, ld, i) →
          s.armRequest n d w = some ((s.readsMade none (w.toNat % 256) (sprueReads d.toNat bs i)).armSprue (w.toNat % 256) bs ld i))
  ∧ (∀ (n : Nat) (v : DWord) (s : State) (x : Sprue), s.vf n = true →
      s.namesContext n (BitVec.ofNat 64 (fieldBits v.toNat 39 32)) = true →
      fieldBits v.toNat 63 40 = 0 → v.toNat.testBit 31 = false → (s.tenant n).sprues.get? (v.toNat % 2 ^ 31) = some x →
      x.tag = fieldBits v.toNat 39 32 →
      ∃ t, exec (.spdis n v) s = .next t ∧ (t.tenant n).spdisRes = 0 ∧ (t.tenant n).sprues.get? (v.toNat % 2 ^ 31) = none)
  ∧ (∀ (n : Nat) (v : DWord) (s : State), s.vf n = false → exec (.spdis n v) s = .next s)
  -- translations of the host
  ∧ (∀ (va len : Nat) (s : State), ∃ t, exec (.invalidateRequest va len) s = .next t
      ∧ t.dev.invalidating = s.dev.invalidating ++ [s.hostFlight]
      ∧ (∀ e ∈ t.dev.ingress, ∀ p ∈ e.ats, ¬(p * 2 ^ 16 < va + len ∧ va < (p + 1) * 2 ^ 16))
      ∧ ∀ c, (∀ e ∈ (t.core c).tlb, ∀ p ∈ e.ats, ¬(p * 2 ^ 16 < va + len ∧ va < (p + 1) * 2 ^ 16))
        ∧ ∀ e ∈ (t.core c).leases, ∀ p ∈ e.ats, ¬(p * 2 ^ 16 < va + len ∧ va < (p + 1) * 2 ^ 16))
  ∧ (∀ (s : State) (ids : List Nat), s.dev.invalidating = [ids] →
      ((∀ i ∈ ids, i ∉ s.hostFlight) → exec .invalidateCompletion s = .next { s with dev := { s.dev with invalidating := [] } })
      ∧ ((∃ i ∈ ids, i ∈ s.hostFlight) → exec .invalidateCompletion s = .next s))
  -- measurements, the boot and the clock
  ∧ (∀ f k, EventIs (.getMeasurements f k) (fun s => s.dev.regs.bootStep = 7 ∧ 1 ≤ k ∧ k ≤ 6 ∧ f ≤ 64)
      fun s => { s with dev := { s.dev with measured := s.dev.measured ++
        [Config.measurement k (if k = 6 then coreMask fun c => (s.core c).retired else 0)] } })
  ∧ (∀ s : State, (7 ≤ s.dev.regs.bootStep ∨ s.dev.regs.bootFail ≠ 0 → exec .boot s = .next s)
      ∧ (s.dev.regs.bootStep < 7 → s.dev.regs.bootFail = 0 → ∃ t, exec .boot s = .next t
          ∧ t.dev.regs = { s.dev.regs with bootStep := s.dev.regs.bootStep + 1 } ∧ t.mem = s.mem
          ∧ (s.dev.regs.bootStep = 2 → (t.die 0).phase = .running ∧ (t.die 0).clkBase = s.ctrl.now ∧ t.die 1 = s.die 1)
          ∧ (s.dev.regs.bootStep = 3 → (t.die 1).phase = .running ∧ (t.die 1).clkBase = (s.die 0).clkBase ∧ t.die 0 = s.die 0)
          ∧ (s.dev.regs.bootStep = 5 → t.homes.dgen = 1 ∧ t.dev.dies = s.dev.dies)
          ∧ (s.dev.regs.bootStep ∉ [2, 3, 5] → t = s.setRegs { s.dev.regs with bootStep := s.dev.regs.bootStep + 1 })))
  ∧ EventIs .clockThrottle (fun s => s.hot = true ∧ 1600 < s.dev.regs.mhz)
      (fun s => s.setRegs { s.dev.regs with mhz := s.dev.regs.mhz - 100 })
  ∧ EventIs .clockRestore (fun s => s.hot = false ∧ s.dev.regs.mhz < 3300)
      (fun s => s.setRegs { s.dev.regs with mhz := s.dev.regs.mhz + 100 })
end

