-- ==== Sys2Proof/Laws/State.lean ====
section
/-! SUPPORT. What each update of the state leaves in each field. -/

namespace Sys2Proof.Machine

open Sys2Proof

/-! ## `State.setSquad` -/

@[simp] theorem State.setSquad_ctrl (s : State) (bid sq : Nat) (x : Squad) : (s.setSquad bid sq x).ctrl = s.ctrl := rfl
@[simp] theorem State.setSquad_squads (s : State) (bid sq : Nat) (x : Squad) : (s.setSquad bid sq x).squads = s.squads.put (squadKey bid sq) x := rfl
@[simp] theorem State.setSquad_blocks (s : State) (bid sq : Nat) (x : Squad) : (s.setSquad bid sq x).blocks = s.blocks := rfl
@[simp] theorem State.setSquad_flasks (s : State) (bid sq : Nat) (x : Squad) : (s.setSquad bid sq x).flasks = s.flasks := rfl
@[simp] theorem State.setSquad_pours (s : State) (bid sq : Nat) (x : Squad) : (s.setSquad bid sq x).pours = s.pours := rfl
@[simp] theorem State.setSquad_cores (s : State) (bid sq : Nat) (x : Squad) : (s.setSquad bid sq x).cores = s.cores := rfl
@[simp] theorem State.setSquad_progs (s : State) (bid sq : Nat) (x : Squad) : (s.setSquad bid sq x).progs = s.progs := rfl
@[simp] theorem State.setSquad_chains (s : State) (bid sq : Nat) (x : Squad) : (s.setSquad bid sq x).chains = s.chains := rfl
@[simp] theorem State.setSquad_tks (s : State) (bid sq : Nat) (x : Squad) : (s.setSquad bid sq x).tks = s.tks := rfl
@[simp] theorem State.setSquad_mem (s : State) (bid sq : Nat) (x : Squad) : (s.setSquad bid sq x).mem = s.mem := rfl
@[simp] theorem State.setSquad_homes (s : State) (bid sq : Nat) (x : Squad) : (s.setSquad bid sq x).homes = s.homes := rfl
@[simp] theorem State.setSquad_contexts (s : State) (bid sq : Nat) (x : Squad) : (s.setSquad bid sq x).contexts = s.contexts := rfl
@[simp] theorem State.setSquad_tenants (s : State) (bid sq : Nat) (x : Squad) : (s.setSquad bid sq x).tenants = s.tenants := rfl
@[simp] theorem State.setSquad_dev (s : State) (bid sq : Nat) (x : Squad) : (s.setSquad bid sq x).dev = s.dev := rfl

/-! ## `State.setBlock` -/

@[simp] theorem State.setBlock_ctrl (s : State) (bid : Nat) (x : Block) : (s.setBlock bid x).ctrl = s.ctrl := rfl
@[simp] theorem State.setBlock_squads (s : State) (bid : Nat) (x : Block) : (s.setBlock bid x).squads = s.squads := rfl
@[simp] theorem State.setBlock_blocks (s : State) (bid : Nat) (x : Block) : (s.setBlock bid x).blocks = s.blocks.put bid x := rfl
@[simp] theorem State.setBlock_flasks (s : State) (bid : Nat) (x : Block) : (s.setBlock bid x).flasks = s.flasks := rfl
@[simp] theorem State.setBlock_pours (s : State) (bid : Nat) (x : Block) : (s.setBlock bid x).pours = s.pours := rfl
@[simp] theorem State.setBlock_cores (s : State) (bid : Nat) (x : Block) : (s.setBlock bid x).cores = s.cores := rfl
@[simp] theorem State.setBlock_progs (s : State) (bid : Nat) (x : Block) : (s.setBlock bid x).progs = s.progs := rfl
@[simp] theorem State.setBlock_chains (s : State) (bid : Nat) (x : Block) : (s.setBlock bid x).chains = s.chains := rfl
@[simp] theorem State.setBlock_tks (s : State) (bid : Nat) (x : Block) : (s.setBlock bid x).tks = s.tks := rfl
@[simp] theorem State.setBlock_mem (s : State) (bid : Nat) (x : Block) : (s.setBlock bid x).mem = s.mem := rfl
@[simp] theorem State.setBlock_homes (s : State) (bid : Nat) (x : Block) : (s.setBlock bid x).homes = s.homes := rfl
@[simp] theorem State.setBlock_contexts (s : State) (bid : Nat) (x : Block) : (s.setBlock bid x).contexts = s.contexts := rfl
@[simp] theorem State.setBlock_tenants (s : State) (bid : Nat) (x : Block) : (s.setBlock bid x).tenants = s.tenants := rfl
@[simp] theorem State.setBlock_dev (s : State) (bid : Nat) (x : Block) : (s.setBlock bid x).dev = s.dev := rfl

/-! ## `State.setFlask` -/

@[simp] theorem State.setFlask_ctrl (s : State) (f : Nat) (x : Flask) : (s.setFlask f x).ctrl = s.ctrl := rfl
@[simp] theorem State.setFlask_squads (s : State) (f : Nat) (x : Flask) : (s.setFlask f x).squads = s.squads := rfl
@[simp] theorem State.setFlask_blocks (s : State) (f : Nat) (x : Flask) : (s.setFlask f x).blocks = s.blocks := rfl
@[simp] theorem State.setFlask_flasks (s : State) (f : Nat) (x : Flask) : (s.setFlask f x).flasks = s.flasks.put f x := rfl
@[simp] theorem State.setFlask_pours (s : State) (f : Nat) (x : Flask) : (s.setFlask f x).pours = s.pours := rfl
@[simp] theorem State.setFlask_cores (s : State) (f : Nat) (x : Flask) : (s.setFlask f x).cores = s.cores := rfl
@[simp] theorem State.setFlask_progs (s : State) (f : Nat) (x : Flask) : (s.setFlask f x).progs = s.progs := rfl
@[simp] theorem State.setFlask_chains (s : State) (f : Nat) (x : Flask) : (s.setFlask f x).chains = s.chains := rfl
@[simp] theorem State.setFlask_tks (s : State) (f : Nat) (x : Flask) : (s.setFlask f x).tks = s.tks := rfl
@[simp] theorem State.setFlask_mem (s : State) (f : Nat) (x : Flask) : (s.setFlask f x).mem = s.mem := rfl
@[simp] theorem State.setFlask_homes (s : State) (f : Nat) (x : Flask) : (s.setFlask f x).homes = s.homes := rfl
@[simp] theorem State.setFlask_contexts (s : State) (f : Nat) (x : Flask) : (s.setFlask f x).contexts = s.contexts := rfl
@[simp] theorem State.setFlask_tenants (s : State) (f : Nat) (x : Flask) : (s.setFlask f x).tenants = s.tenants := rfl
@[simp] theorem State.setFlask_dev (s : State) (f : Nat) (x : Flask) : (s.setFlask f x).dev = s.dev := rfl

/-! ## `State.setPour` -/

@[simp] theorem State.setPour_ctrl (s : State) (p : Nat) (x : Pour) : (s.setPour p x).ctrl = s.ctrl := rfl
@[simp] theorem State.setPour_squads (s : State) (p : Nat) (x : Pour) : (s.setPour p x).squads = s.squads := rfl
@[simp] theorem State.setPour_blocks (s : State) (p : Nat) (x : Pour) : (s.setPour p x).blocks = s.blocks := rfl
@[simp] theorem State.setPour_flasks (s : State) (p : Nat) (x : Pour) : (s.setPour p x).flasks = s.flasks := rfl
@[simp] theorem State.setPour_pours (s : State) (p : Nat) (x : Pour) : (s.setPour p x).pours = s.pours.put p x := rfl
@[simp] theorem State.setPour_cores (s : State) (p : Nat) (x : Pour) : (s.setPour p x).cores = s.cores := rfl
@[simp] theorem State.setPour_progs (s : State) (p : Nat) (x : Pour) : (s.setPour p x).progs = s.progs := rfl
@[simp] theorem State.setPour_chains (s : State) (p : Nat) (x : Pour) : (s.setPour p x).chains = s.chains := rfl
@[simp] theorem State.setPour_tks (s : State) (p : Nat) (x : Pour) : (s.setPour p x).tks = s.tks := rfl
@[simp] theorem State.setPour_mem (s : State) (p : Nat) (x : Pour) : (s.setPour p x).mem = s.mem := rfl
@[simp] theorem State.setPour_homes (s : State) (p : Nat) (x : Pour) : (s.setPour p x).homes = s.homes := rfl
@[simp] theorem State.setPour_contexts (s : State) (p : Nat) (x : Pour) : (s.setPour p x).contexts = s.contexts := rfl
@[simp] theorem State.setPour_tenants (s : State) (p : Nat) (x : Pour) : (s.setPour p x).tenants = s.tenants := rfl
@[simp] theorem State.setPour_dev (s : State) (p : Nat) (x : Pour) : (s.setPour p x).dev = s.dev := rfl

/-! ## `State.setCore` -/

@[simp] theorem State.setCore_ctrl (s : State) (c : Nat) (x : Core) : (s.setCore c x).ctrl = s.ctrl := rfl
@[simp] theorem State.setCore_squads (s : State) (c : Nat) (x : Core) : (s.setCore c x).squads = s.squads := rfl
@[simp] theorem State.setCore_blocks (s : State) (c : Nat) (x : Core) : (s.setCore c x).blocks = s.blocks := rfl
@[simp] theorem State.setCore_flasks (s : State) (c : Nat) (x : Core) : (s.setCore c x).flasks = s.flasks := rfl
@[simp] theorem State.setCore_pours (s : State) (c : Nat) (x : Core) : (s.setCore c x).pours = s.pours := rfl
@[simp] theorem State.setCore_cores (s : State) (c : Nat) (x : Core) : (s.setCore c x).cores = s.cores.put c x := rfl
@[simp] theorem State.setCore_progs (s : State) (c : Nat) (x : Core) : (s.setCore c x).progs = s.progs := rfl
@[simp] theorem State.setCore_chains (s : State) (c : Nat) (x : Core) : (s.setCore c x).chains = s.chains := rfl
@[simp] theorem State.setCore_tks (s : State) (c : Nat) (x : Core) : (s.setCore c x).tks = s.tks := rfl
@[simp] theorem State.setCore_mem (s : State) (c : Nat) (x : Core) : (s.setCore c x).mem = s.mem := rfl
@[simp] theorem State.setCore_homes (s : State) (c : Nat) (x : Core) : (s.setCore c x).homes = s.homes := rfl
@[simp] theorem State.setCore_contexts (s : State) (c : Nat) (x : Core) : (s.setCore c x).contexts = s.contexts := rfl
@[simp] theorem State.setCore_tenants (s : State) (c : Nat) (x : Core) : (s.setCore c x).tenants = s.tenants := rfl
@[simp] theorem State.setCore_dev (s : State) (c : Nat) (x : Core) : (s.setCore c x).dev = s.dev := rfl

/-! ## `State.setContext` -/

@[simp] theorem State.setContext_ctrl (s : State) (t : Nat) (x : Context) : (s.setContext t x).ctrl = s.ctrl := rfl
@[simp] theorem State.setContext_squads (s : State) (t : Nat) (x : Context) : (s.setContext t x).squads = s.squads := rfl
@[simp] theorem State.setContext_blocks (s : State) (t : Nat) (x : Context) : (s.setContext t x).blocks = s.blocks := rfl
@[simp] theorem State.setContext_flasks (s : State) (t : Nat) (x : Context) : (s.setContext t x).flasks = s.flasks := rfl
@[simp] theorem State.setContext_pours (s : State) (t : Nat) (x : Context) : (s.setContext t x).pours = s.pours := rfl
@[simp] theorem State.setContext_cores (s : State) (t : Nat) (x : Context) : (s.setContext t x).cores = s.cores := rfl
@[simp] theorem State.setContext_progs (s : State) (t : Nat) (x : Context) : (s.setContext t x).progs = s.progs := rfl
@[simp] theorem State.setContext_chains (s : State) (t : Nat) (x : Context) : (s.setContext t x).chains = s.chains := rfl
@[simp] theorem State.setContext_tks (s : State) (t : Nat) (x : Context) : (s.setContext t x).tks = s.tks := rfl
@[simp] theorem State.setContext_mem (s : State) (t : Nat) (x : Context) : (s.setContext t x).mem = s.mem := rfl
@[simp] theorem State.setContext_homes (s : State) (t : Nat) (x : Context) : (s.setContext t x).homes = s.homes := rfl
@[simp] theorem State.setContext_contexts (s : State) (t : Nat) (x : Context) : (s.setContext t x).contexts = s.contexts.put t x := rfl
@[simp] theorem State.setContext_tenants (s : State) (t : Nat) (x : Context) : (s.setContext t x).tenants = s.tenants := rfl
@[simp] theorem State.setContext_dev (s : State) (t : Nat) (x : Context) : (s.setContext t x).dev = s.dev := rfl

/-! ## `State.setTenant` -/

@[simp] theorem State.setTenant_ctrl (s : State) (n : Nat) (x : Tenant) : (s.setTenant n x).ctrl = s.ctrl := rfl
@[simp] theorem State.setTenant_squads (s : State) (n : Nat) (x : Tenant) : (s.setTenant n x).squads = s.squads := rfl
@[simp] theorem State.setTenant_blocks (s : State) (n : Nat) (x : Tenant) : (s.setTenant n x).blocks = s.blocks := rfl
@[simp] theorem State.setTenant_flasks (s : State) (n : Nat) (x : Tenant) : (s.setTenant n x).flasks = s.flasks := rfl
@[simp] theorem State.setTenant_pours (s : State) (n : Nat) (x : Tenant) : (s.setTenant n x).pours = s.pours := rfl
@[simp] theorem State.setTenant_cores (s : State) (n : Nat) (x : Tenant) : (s.setTenant n x).cores = s.cores := rfl
@[simp] theorem State.setTenant_progs (s : State) (n : Nat) (x : Tenant) : (s.setTenant n x).progs = s.progs := rfl
@[simp] theorem State.setTenant_chains (s : State) (n : Nat) (x : Tenant) : (s.setTenant n x).chains = s.chains := rfl
@[simp] theorem State.setTenant_tks (s : State) (n : Nat) (x : Tenant) : (s.setTenant n x).tks = s.tks := rfl
@[simp] theorem State.setTenant_mem (s : State) (n : Nat) (x : Tenant) : (s.setTenant n x).mem = s.mem := rfl
@[simp] theorem State.setTenant_homes (s : State) (n : Nat) (x : Tenant) : (s.setTenant n x).homes = s.homes := rfl
@[simp] theorem State.setTenant_contexts (s : State) (n : Nat) (x : Tenant) : (s.setTenant n x).contexts = s.contexts := rfl
@[simp] theorem State.setTenant_tenants (s : State) (n : Nat) (x : Tenant) : (s.setTenant n x).tenants = s.tenants.put n x := rfl
@[simp] theorem State.setTenant_dev (s : State) (n : Nat) (x : Tenant) : (s.setTenant n x).dev = s.dev := rfl

/-! ## `State.setDie` -/

@[simp] theorem State.setDie_ctrl (s : State) (d : Nat) (x : Die) : (s.setDie d x).ctrl = s.ctrl := rfl
@[simp] theorem State.setDie_squads (s : State) (d : Nat) (x : Die) : (s.setDie d x).squads = s.squads := rfl
@[simp] theorem State.setDie_blocks (s : State) (d : Nat) (x : Die) : (s.setDie d x).blocks = s.blocks := rfl
@[simp] theorem State.setDie_flasks (s : State) (d : Nat) (x : Die) : (s.setDie d x).flasks = s.flasks := rfl
@[simp] theorem State.setDie_pours (s : State) (d : Nat) (x : Die) : (s.setDie d x).pours = s.pours := rfl
@[simp] theorem State.setDie_cores (s : State) (d : Nat) (x : Die) : (s.setDie d x).cores = s.cores := rfl
@[simp] theorem State.setDie_progs (s : State) (d : Nat) (x : Die) : (s.setDie d x).progs = s.progs := rfl
@[simp] theorem State.setDie_chains (s : State) (d : Nat) (x : Die) : (s.setDie d x).chains = s.chains := rfl
@[simp] theorem State.setDie_tks (s : State) (d : Nat) (x : Die) : (s.setDie d x).tks = s.tks := rfl
@[simp] theorem State.setDie_mem (s : State) (d : Nat) (x : Die) : (s.setDie d x).mem = s.mem := rfl
@[simp] theorem State.setDie_homes (s : State) (d : Nat) (x : Die) : (s.setDie d x).homes = s.homes := rfl
@[simp] theorem State.setDie_contexts (s : State) (d : Nat) (x : Die) : (s.setDie d x).contexts = s.contexts := rfl
@[simp] theorem State.setDie_tenants (s : State) (d : Nat) (x : Die) : (s.setDie d x).tenants = s.tenants := rfl
@[simp] theorem State.setDie_dev (s : State) (d : Nat) (x : Die) : (s.setDie d x).dev = { s.dev with dies := s.dev.dies.put d x } := rfl

/-! ## `State.setLink` -/

@[simp] theorem State.setLink_ctrl (s : State) (l : Nat) (x : Link) : (s.setLink l x).ctrl = s.ctrl := rfl
@[simp] theorem State.setLink_squads (s : State) (l : Nat) (x : Link) : (s.setLink l x).squads = s.squads := rfl
@[simp] theorem State.setLink_blocks (s : State) (l : Nat) (x : Link) : (s.setLink l x).blocks = s.blocks := rfl
@[simp] theorem State.setLink_flasks (s : State) (l : Nat) (x : Link) : (s.setLink l x).flasks = s.flasks := rfl
@[simp] theorem State.setLink_pours (s : State) (l : Nat) (x : Link) : (s.setLink l x).pours = s.pours := rfl
@[simp] theorem State.setLink_cores (s : State) (l : Nat) (x : Link) : (s.setLink l x).cores = s.cores := rfl
@[simp] theorem State.setLink_progs (s : State) (l : Nat) (x : Link) : (s.setLink l x).progs = s.progs := rfl
@[simp] theorem State.setLink_chains (s : State) (l : Nat) (x : Link) : (s.setLink l x).chains = s.chains := rfl
@[simp] theorem State.setLink_tks (s : State) (l : Nat) (x : Link) : (s.setLink l x).tks = s.tks := rfl
@[simp] theorem State.setLink_mem (s : State) (l : Nat) (x : Link) : (s.setLink l x).mem = s.mem := rfl
@[simp] theorem State.setLink_homes (s : State) (l : Nat) (x : Link) : (s.setLink l x).homes = s.homes := rfl
@[simp] theorem State.setLink_contexts (s : State) (l : Nat) (x : Link) : (s.setLink l x).contexts = s.contexts := rfl
@[simp] theorem State.setLink_tenants (s : State) (l : Nat) (x : Link) : (s.setLink l x).tenants = s.tenants := rfl
@[simp] theorem State.setLink_dev (s : State) (l : Nat) (x : Link) : (s.setLink l x).dev = { s.dev with links := s.dev.links.put l x } := rfl

/-! ## `State.setRegs` -/

@[simp] theorem State.setRegs_ctrl (s : State) (g : Regs) : (s.setRegs g).ctrl = s.ctrl := rfl
@[simp] theorem State.setRegs_squads (s : State) (g : Regs) : (s.setRegs g).squads = s.squads := rfl
@[simp] theorem State.setRegs_blocks (s : State) (g : Regs) : (s.setRegs g).blocks = s.blocks := rfl
@[simp] theorem State.setRegs_flasks (s : State) (g : Regs) : (s.setRegs g).flasks = s.flasks := rfl
@[simp] theorem State.setRegs_pours (s : State) (g : Regs) : (s.setRegs g).pours = s.pours := rfl
@[simp] theorem State.setRegs_cores (s : State) (g : Regs) : (s.setRegs g).cores = s.cores := rfl
@[simp] theorem State.setRegs_progs (s : State) (g : Regs) : (s.setRegs g).progs = s.progs := rfl
@[simp] theorem State.setRegs_chains (s : State) (g : Regs) : (s.setRegs g).chains = s.chains := rfl
@[simp] theorem State.setRegs_tks (s : State) (g : Regs) : (s.setRegs g).tks = s.tks := rfl
@[simp] theorem State.setRegs_mem (s : State) (g : Regs) : (s.setRegs g).mem = s.mem := rfl
@[simp] theorem State.setRegs_homes (s : State) (g : Regs) : (s.setRegs g).homes = s.homes := rfl
@[simp] theorem State.setRegs_contexts (s : State) (g : Regs) : (s.setRegs g).contexts = s.contexts := rfl
@[simp] theorem State.setRegs_tenants (s : State) (g : Regs) : (s.setRegs g).tenants = s.tenants := rfl
@[simp] theorem State.setRegs_dev (s : State) (g : Regs) : (s.setRegs g).dev = { s.dev with regs := g } := rfl

/-! ## `State.bump` -/

@[simp] theorem State.bump_ctrl (s : State) : (s.bump).ctrl = { s.ctrl with nextId := s.ctrl.nextId + 1 } := rfl
@[simp] theorem State.bump_squads (s : State) : (s.bump).squads = s.squads := rfl
@[simp] theorem State.bump_blocks (s : State) : (s.bump).blocks = s.blocks := rfl
@[simp] theorem State.bump_flasks (s : State) : (s.bump).flasks = s.flasks := rfl
@[simp] theorem State.bump_pours (s : State) : (s.bump).pours = s.pours := rfl
@[simp] theorem State.bump_cores (s : State) : (s.bump).cores = s.cores := rfl
@[simp] theorem State.bump_progs (s : State) : (s.bump).progs = s.progs := rfl
@[simp] theorem State.bump_chains (s : State) : (s.bump).chains = s.chains := rfl
@[simp] theorem State.bump_tks (s : State) : (s.bump).tks = s.tks := rfl
@[simp] theorem State.bump_mem (s : State) : (s.bump).mem = s.mem := rfl
@[simp] theorem State.bump_homes (s : State) : (s.bump).homes = s.homes := rfl
@[simp] theorem State.bump_contexts (s : State) : (s.bump).contexts = s.contexts := rfl
@[simp] theorem State.bump_tenants (s : State) : (s.bump).tenants = s.tenants := rfl
@[simp] theorem State.bump_dev (s : State) : (s.bump).dev = s.dev := rfl

/-! ## `State.tickStamp` -/

@[simp] theorem State.tickStamp_ctrl (s : State) : (s.tickStamp).ctrl = { s.ctrl with stamp := s.ctrl.stamp + 1 } := rfl
@[simp] theorem State.tickStamp_squads (s : State) : (s.tickStamp).squads = s.squads := rfl
@[simp] theorem State.tickStamp_blocks (s : State) : (s.tickStamp).blocks = s.blocks := rfl
@[simp] theorem State.tickStamp_flasks (s : State) : (s.tickStamp).flasks = s.flasks := rfl
@[simp] theorem State.tickStamp_pours (s : State) : (s.tickStamp).pours = s.pours := rfl
@[simp] theorem State.tickStamp_cores (s : State) : (s.tickStamp).cores = s.cores := rfl
@[simp] theorem State.tickStamp_progs (s : State) : (s.tickStamp).progs = s.progs := rfl
@[simp] theorem State.tickStamp_chains (s : State) : (s.tickStamp).chains = s.chains := rfl
@[simp] theorem State.tickStamp_tks (s : State) : (s.tickStamp).tks = s.tks := rfl
@[simp] theorem State.tickStamp_mem (s : State) : (s.tickStamp).mem = s.mem := rfl
@[simp] theorem State.tickStamp_homes (s : State) : (s.tickStamp).homes = s.homes := rfl
@[simp] theorem State.tickStamp_contexts (s : State) : (s.tickStamp).contexts = s.contexts := rfl
@[simp] theorem State.tickStamp_tenants (s : State) : (s.tickStamp).tenants = s.tenants := rfl
@[simp] theorem State.tickStamp_dev (s : State) : (s.tickStamp).dev = s.dev := rfl

/-! ## `State.elapse` -/

@[simp] theorem State.elapse_ctrl (s : State) (cc : Nat) : (s.elapse cc).ctrl = { s.ctrl with now := s.ctrl.now + cc, time := s.ctrl.time + cc * (usUnit / s.dev.regs.mhz), stamp := max s.ctrl.stamp ((s.ctrl.now + cc) * 2 ^ 20) } := rfl
@[simp] theorem State.elapse_squads (s : State) (cc : Nat) : (s.elapse cc).squads = s.squads := rfl
@[simp] theorem State.elapse_blocks (s : State) (cc : Nat) : (s.elapse cc).blocks = s.blocks := rfl
@[simp] theorem State.elapse_flasks (s : State) (cc : Nat) : (s.elapse cc).flasks = s.flasks := rfl
@[simp] theorem State.elapse_pours (s : State) (cc : Nat) : (s.elapse cc).pours = s.pours := rfl
@[simp] theorem State.elapse_cores (s : State) (cc : Nat) : (s.elapse cc).cores = s.cores := rfl
@[simp] theorem State.elapse_progs (s : State) (cc : Nat) : (s.elapse cc).progs = s.progs := rfl
@[simp] theorem State.elapse_chains (s : State) (cc : Nat) : (s.elapse cc).chains = s.chains := rfl
@[simp] theorem State.elapse_tks (s : State) (cc : Nat) : (s.elapse cc).tks = s.tks := rfl
@[simp] theorem State.elapse_mem (s : State) (cc : Nat) : (s.elapse cc).mem = s.mem := rfl
@[simp] theorem State.elapse_homes (s : State) (cc : Nat) : (s.elapse cc).homes = s.homes := rfl
@[simp] theorem State.elapse_contexts (s : State) (cc : Nat) : (s.elapse cc).contexts = s.contexts := rfl
@[simp] theorem State.elapse_tenants (s : State) (cc : Nat) : (s.elapse cc).tenants = s.tenants := rfl
@[simp] theorem State.elapse_dev (s : State) (cc : Nat) : (s.elapse cc).dev = s.dev := rfl

/-! ## `State.picks` -/

@[simp] theorem State.picks_squads (s : State) (p : Site) : (s.picks p).squads = s.squads := rfl
@[simp] theorem State.picks_blocks (s : State) (p : Site) : (s.picks p).blocks = s.blocks := rfl
@[simp] theorem State.picks_flasks (s : State) (p : Site) : (s.picks p).flasks = s.flasks := rfl
@[simp] theorem State.picks_pours (s : State) (p : Site) : (s.picks p).pours = s.pours := rfl
@[simp] theorem State.picks_cores (s : State) (p : Site) : (s.picks p).cores = s.cores := rfl
@[simp] theorem State.picks_progs (s : State) (p : Site) : (s.picks p).progs = s.progs := rfl
@[simp] theorem State.picks_chains (s : State) (p : Site) : (s.picks p).chains = s.chains := rfl
@[simp] theorem State.picks_tks (s : State) (p : Site) : (s.picks p).tks = s.tks := rfl
@[simp] theorem State.picks_mem (s : State) (p : Site) : (s.picks p).mem = s.mem := rfl
@[simp] theorem State.picks_homes (s : State) (p : Site) : (s.picks p).homes = s.homes := rfl
@[simp] theorem State.picks_contexts (s : State) (p : Site) : (s.picks p).contexts = s.contexts := rfl
@[simp] theorem State.picks_tenants (s : State) (p : Site) : (s.picks p).tenants = s.tenants := rfl
@[simp] theorem State.picks_dev (s : State) (p : Site) : (s.picks p).dev = s.dev := rfl

/-! ## `State.atSite` -/

@[simp] theorem State.atSite_ctrl (s : State) (p : Site) : (s.atSite p).ctrl = { s.ctrl with site := p, waited := false } := rfl
@[simp] theorem State.atSite_squads (s : State) (p : Site) : (s.atSite p).squads = s.squads := rfl
@[simp] theorem State.atSite_blocks (s : State) (p : Site) : (s.atSite p).blocks = s.blocks := rfl
@[simp] theorem State.atSite_flasks (s : State) (p : Site) : (s.atSite p).flasks = s.flasks := rfl
@[simp] theorem State.atSite_pours (s : State) (p : Site) : (s.atSite p).pours = s.pours := rfl
@[simp] theorem State.atSite_cores (s : State) (p : Site) : (s.atSite p).cores = s.cores := rfl
@[simp] theorem State.atSite_progs (s : State) (p : Site) : (s.atSite p).progs = s.progs := rfl
@[simp] theorem State.atSite_chains (s : State) (p : Site) : (s.atSite p).chains = s.chains := rfl
@[simp] theorem State.atSite_tks (s : State) (p : Site) : (s.atSite p).tks = s.tks := rfl
@[simp] theorem State.atSite_mem (s : State) (p : Site) : (s.atSite p).mem = s.mem := rfl
@[simp] theorem State.atSite_homes (s : State) (p : Site) : (s.atSite p).homes = s.homes := rfl
@[simp] theorem State.atSite_contexts (s : State) (p : Site) : (s.atSite p).contexts = s.contexts := rfl
@[simp] theorem State.atSite_tenants (s : State) (p : Site) : (s.atSite p).tenants = s.tenants := rfl
@[simp] theorem State.atSite_dev (s : State) (p : Site) : (s.atSite p).dev = s.dev := rfl

/-! ## `State.setMigration` -/

@[simp] theorem State.setMigration_ctrl (s : State) (m : Option Migration) : (s.setMigration m).ctrl = s.ctrl := rfl
@[simp] theorem State.setMigration_squads (s : State) (m : Option Migration) : (s.setMigration m).squads = s.squads := rfl
@[simp] theorem State.setMigration_blocks (s : State) (m : Option Migration) : (s.setMigration m).blocks = s.blocks := rfl
@[simp] theorem State.setMigration_flasks (s : State) (m : Option Migration) : (s.setMigration m).flasks = s.flasks := rfl
@[simp] theorem State.setMigration_pours (s : State) (m : Option Migration) : (s.setMigration m).pours = s.pours := rfl
@[simp] theorem State.setMigration_cores (s : State) (m : Option Migration) : (s.setMigration m).cores = s.cores := rfl
@[simp] theorem State.setMigration_progs (s : State) (m : Option Migration) : (s.setMigration m).progs = s.progs := rfl
@[simp] theorem State.setMigration_chains (s : State) (m : Option Migration) : (s.setMigration m).chains = s.chains := rfl
@[simp] theorem State.setMigration_tks (s : State) (m : Option Migration) : (s.setMigration m).tks = s.tks := rfl
@[simp] theorem State.setMigration_mem (s : State) (m : Option Migration) : (s.setMigration m).mem = s.mem := rfl
@[simp] theorem State.setMigration_homes (s : State) (m : Option Migration) : (s.setMigration m).homes = { s.homes with migration := m } := rfl
@[simp] theorem State.setMigration_contexts (s : State) (m : Option Migration) : (s.setMigration m).contexts = s.contexts := rfl
@[simp] theorem State.setMigration_tenants (s : State) (m : Option Migration) : (s.setMigration m).tenants = s.tenants := rfl
@[simp] theorem State.setMigration_dev (s : State) (m : Option Migration) : (s.setMigration m).dev = s.dev := rfl

/-! ## `State.setReq` -/

@[simp] theorem State.setReq_ctrl (s : State) (id : Nat) (r : Req) : (s.setReq id r).ctrl = s.ctrl := rfl
@[simp] theorem State.setReq_squads (s : State) (id : Nat) (r : Req) : (s.setReq id r).squads = s.squads := rfl
@[simp] theorem State.setReq_blocks (s : State) (id : Nat) (r : Req) : (s.setReq id r).blocks = s.blocks := rfl
@[simp] theorem State.setReq_flasks (s : State) (id : Nat) (r : Req) : (s.setReq id r).flasks = s.flasks := rfl
@[simp] theorem State.setReq_pours (s : State) (id : Nat) (r : Req) : (s.setReq id r).pours = s.pours := rfl
@[simp] theorem State.setReq_cores (s : State) (id : Nat) (r : Req) : (s.setReq id r).cores = s.cores := rfl
@[simp] theorem State.setReq_progs (s : State) (id : Nat) (r : Req) : (s.setReq id r).progs = s.progs := rfl
@[simp] theorem State.setReq_chains (s : State) (id : Nat) (r : Req) : (s.setReq id r).chains = s.chains := rfl
@[simp] theorem State.setReq_tks (s : State) (id : Nat) (r : Req) : (s.setReq id r).tks = s.tks := rfl
@[simp] theorem State.setReq_mem (s : State) (id : Nat) (r : Req) : (s.setReq id r).mem = s.mem := rfl
@[simp] theorem State.setReq_homes (s : State) (id : Nat) (r : Req) : (s.setReq id r).homes = { s.homes with reqs := s.homes.reqs.put id r } := rfl
@[simp] theorem State.setReq_contexts (s : State) (id : Nat) (r : Req) : (s.setReq id r).contexts = s.contexts := rfl
@[simp] theorem State.setReq_tenants (s : State) (id : Nat) (r : Req) : (s.setReq id r).tenants = s.tenants := rfl
@[simp] theorem State.setReq_dev (s : State) (id : Nat) (r : Req) : (s.setReq id r).dev = s.dev := rfl

/-! ## `State.notReady` -/

@[simp] theorem State.notReady_ctrl (s : State) : (s.notReady).ctrl = { s.ctrl with waited := true } := rfl
@[simp] theorem State.notReady_squads (s : State) : (s.notReady).squads = s.squads := rfl
@[simp] theorem State.notReady_blocks (s : State) : (s.notReady).blocks = s.blocks := rfl
@[simp] theorem State.notReady_flasks (s : State) : (s.notReady).flasks = s.flasks := rfl
@[simp] theorem State.notReady_pours (s : State) : (s.notReady).pours = s.pours := rfl
@[simp] theorem State.notReady_cores (s : State) : (s.notReady).cores = s.cores := rfl
@[simp] theorem State.notReady_progs (s : State) : (s.notReady).progs = s.progs := rfl
@[simp] theorem State.notReady_chains (s : State) : (s.notReady).chains = s.chains := rfl
@[simp] theorem State.notReady_tks (s : State) : (s.notReady).tks = s.tks := rfl
@[simp] theorem State.notReady_mem (s : State) : (s.notReady).mem = s.mem := rfl
@[simp] theorem State.notReady_homes (s : State) : (s.notReady).homes = s.homes := rfl
@[simp] theorem State.notReady_contexts (s : State) : (s.notReady).contexts = s.contexts := rfl
@[simp] theorem State.notReady_tenants (s : State) : (s.notReady).tenants = s.tenants := rfl
@[simp] theorem State.notReady_dev (s : State) : (s.notReady).dev = s.dev := rfl

end Sys2Proof.Machine
end

