-- ==== Sys2Proof/Laws/Table.lean ====
section
/-! SUPPORT. Reading after writing in a table, and the canonical form of memory under every operation on it. -/

namespace Sys2Proof

variable {α : Type}

/-! ## Reading after writing -/

theorem Table.get?_put_self (t : Table α) (n : Nat) (x : α) : (t.put n x).get? n = some x := by
  induction t with
  | nil => simp [Table.put, Table.get?]
  | cons e r ih =>
    obtain ⟨k, v⟩ := e
    simp only [Table.put]
    split
    · rename_i h; simp [Table.get?, ih, Nat.ne_of_lt h]
    · split <;> simp [Table.get?]

theorem Table.get?_put_ne (t : Table α) {n m : Nat} (h : m ≠ n) (x : α) : (t.put n x).get? m = t.get? m := by
  induction t with
  | nil => simp [Table.put, Table.get?, Ne.symm h]
  | cons e r ih =>
    obtain ⟨k, v⟩ := e
    simp only [Table.put]
    split
    · simp [Table.get?, ih]
    · split
      · rename_i h1 h2; subst h2; simp [Table.get?, Ne.symm h]
      · simp [Table.get?, Ne.symm h]

theorem Table.get?_erase_self (t : Table α) (n : Nat) : (t.erase n).get? n = none := by
  induction t with
  | nil => simp [Table.erase, Table.get?]
  | cons e r ih =>
    obtain ⟨k, v⟩ := e
    simp only [Table.erase]
    split
    · exact ih
    · rename_i h; simp [Table.get?, h, ih]

theorem Table.get?_erase_ne (t : Table α) {n m : Nat} (h : m ≠ n) : (t.erase n).get? m = t.get? m := by
  induction t with
  | nil => simp [Table.erase]
  | cons e r ih =>
    obtain ⟨k, v⟩ := e
    simp only [Table.erase]
    split
    · rename_i h1; subst h1; simp [Table.get?, Ne.symm h, ih]
    · simp [Table.get?, ih]

@[simp] theorem Table.get_put_self (t : Table α) (n : Nat) (x d : α) : (t.put n x).get n d = x := by
  simp [Table.get, Table.get?_put_self]

theorem Table.get_put_ne (t : Table α) {n m : Nat} (h : m ≠ n) (x d : α) : (t.put n x).get m d = t.get m d := by
  simp [Table.get, Table.get?_put_ne t h]

@[simp] theorem Table.has_put_self (t : Table α) (n : Nat) (x : α) : (t.put n x).has n = true := by
  simp [Table.has, Table.get?_put_self]

/-! ## Rising keys -/

theorem Table.sortedFrom_mono {t : Table α} {lo hi : Nat} (h : lo ≤ hi) (ht : Table.sortedFrom hi t = true) :
    Table.sortedFrom lo t = true := by
  cases t with
  | nil => rfl
  | cons e r => obtain ⟨k, v⟩ := e; simp [Table.sortedFrom] at ht ⊢; exact ⟨by omega, ht.2⟩

theorem Table.sortedFrom_put {t : Table α} {lo n : Nat} (x : α) (hn : lo ≤ n) (ht : Table.sortedFrom lo t = true) :
    Table.sortedFrom lo (t.put n x) = true := by
  induction t generalizing lo with
  | nil => simp [Table.put, Table.sortedFrom, hn]
  | cons e r ih =>
    obtain ⟨k, v⟩ := e
    simp only [Table.sortedFrom, Bool.and_eq_true, decide_eq_true_eq] at ht
    simp only [Table.put]
    split
    · simp [Table.sortedFrom, ht.1]; exact ih (by omega) ht.2
    · split
      · rename_i h2; subst h2; simp [Table.sortedFrom, hn, ht.2]
      · simp [Table.sortedFrom, hn, ht.2]; omega

theorem Table.sortedFrom_filter {t : Table α} {lo : Nat} (p : Nat × α → Bool) (ht : Table.sortedFrom lo t = true) :
    Table.sortedFrom lo (t.filter p) = true := by
  induction t generalizing lo with
  | nil => rfl
  | cons e r ih =>
    obtain ⟨k, v⟩ := e
    simp only [Table.sortedFrom, Bool.and_eq_true, decide_eq_true_eq] at ht
    rw [List.filter_cons]
    split
    · simp [Table.sortedFrom, ht.1]; exact ih ht.2
    · exact ih (Table.sortedFrom_mono (by omega) ht.2)

theorem Table.erase_eq_filter (t : Table α) (n : Nat) : t.erase n = t.filter fun e => e.1 != n := by
  induction t with
  | nil => rfl
  | cons e r ih =>
    obtain ⟨k, v⟩ := e
    simp only [Table.erase, List.filter_cons]
    split <;> simp_all

theorem Table.all_put {t : Table α} (p : Nat × α → Bool) {n : Nat} {x : α} (hx : p (n, x) = true) (ht : t.all p = true) :
    (t.put n x).all p = true := by
  induction t with
  | nil => simp [Table.put, hx]
  | cons e r ih =>
    obtain ⟨k, v⟩ := e
    simp only [List.all_cons, Bool.and_eq_true] at ht
    simp only [Table.put]
    split
    · simp [ht.1, ih ht.2]
    · split <;> simp [hx, ht.1, ht.2]

/-! ## Memory -/

theorem Memory.wf_nil : Memory.wf [] = true := rfl

theorem Memory.wf_filter {m : Memory} (p : Nat × Byte → Bool) (h : Memory.wf m = true) :
    Memory.wf (List.filter p m) = true := by
  simp only [Memory.wf, Bool.and_eq_true] at h ⊢
  exact ⟨Table.sortedFrom_filter p h.1, by simp [List.all_eq_true] at h ⊢; intro a b hab; exact Or.inr (h.2 a b hab)⟩

theorem Memory.wf_put {m : Memory} (n : Nat) {b : Byte} (hb : b ≠ 0) (h : Memory.wf m = true) :
    Memory.wf (Table.put m n b) = true := by
  simp only [Memory.wf, Bool.and_eq_true] at h ⊢
  exact ⟨Table.sortedFrom_put b (Nat.zero_le n) h.1, Table.all_put _ (by simpa using hb) h.2⟩

theorem Memory.wf_write {m : Memory} (a : Nat) (b : Byte) (h : Memory.wf m = true) :
    Memory.wf (Memory.write m a b) = true := by
  unfold Memory.write
  split
  · rw [Table.erase_eq_filter]; exact Memory.wf_filter _ h
  · exact Memory.wf_put a (by assumption) h

theorem Memory.wf_writeBytes {m : Memory} (a : Nat) (bs : List Byte) (h : Memory.wf m = true) :
    Memory.wf (Memory.writeBytes m a bs) = true := by
  induction bs generalizing m a with
  | nil => exact h
  | cons b r ih => exact ih (a + 1) (Memory.wf_write a b h)

@[simp] theorem Memory.read_write_self (m : Memory) (a : Nat) (b : Byte) : Memory.read (Memory.write m a b) a = b := by
  unfold Memory.write Memory.read
  split
  · rename_i h; simp [Table.get, Table.get?_erase_self, h]
  · simp

theorem Memory.read_write_ne (m : Memory) {a c : Nat} (h : c ≠ a) (b : Byte) :
    Memory.read (Memory.write m a b) c = Memory.read m c := by
  unfold Memory.write Memory.read
  split
  · simp [Table.get, Table.get?_erase_ne m h]
  · exact Table.get_put_ne m h b 0

theorem Memory.read_writeBytes_lt (m : Memory) {a c : Nat} (bs : List Byte) (h : c < a) :
    Memory.read (Memory.writeBytes m a bs) c = Memory.read m c := by
  induction bs generalizing m a with
  | nil => rfl
  | cons b r ih => rw [Memory.writeBytes, ih _ (by omega), Memory.read_write_ne _ (by omega)]

theorem Memory.read_writeBytes_ge (m : Memory) {a c : Nat} (bs : List Byte) (h : a + bs.length ≤ c) :
    Memory.read (Memory.writeBytes m a bs) c = Memory.read m c := by
  induction bs generalizing m a with
  | nil => rfl
  | cons b r ih =>
    simp only [List.length_cons] at h
    rw [Memory.writeBytes, ih _ (by omega), Memory.read_write_ne _ (by omega)]

end Sys2Proof
end

