-- ==== Sys2Proof/Laws/Issue.lean ====
section
/-! SUPPORT. What the issue stage does once it lets an instruction run, and what the shared operations of an issue
leave unchanged. -/

namespace Sys2Proof.Machine

open Sys2Proof

/-! ## Reading back -/

@[simp] theorem State.squad_setSquad (s : State) (bid sq : Nat) (q : Squad) : (s.setSquad bid sq q).squad bid sq = q := by
  simp [State.squad]

theorem State.squad_setSquad_ne (s : State) {bid sq b k : Nat} (q : Squad) (h : squadKey b k ≠ squadKey bid sq) :
    (s.setSquad bid sq q).squad b k = s.squad b k := by
  simp [State.squad, Table.get_put_ne _ h]

@[simp] theorem State.block_setBlock (s : State) (bid : Nat) (b : Block) : (s.setBlock bid b).block bid = b := by
  simp [State.block]

@[simp] theorem State.flask_setFlask (s : State) (f : Nat) (x : Flask) : (s.setFlask f x).flask f = x := by
  simp [State.flask]

@[simp] theorem State.core_setCore (s : State) (c : Nat) (x : Core) : (s.setCore c x).core c = x := by
  simp [State.core]

@[simp] theorem State.context_setContext (s : State) (t : Nat) (x : Context) : (s.setContext t x).context t = x := by
  simp [State.context]

@[simp] theorem State.tenant_setTenant (s : State) (n : Nat) (x : Tenant) : (s.setTenant n x).tenant n = x := by
  simp [State.tenant]

@[simp] theorem State.die_setDie (s : State) (d : Nat) (x : Die) : (s.setDie d x).die d = x := by
  simp [State.die]

@[simp] theorem State.link_setLink (s : State) (l : Nat) (x : Link) : (s.setLink l x).link l = x := by
  simp [State.link]

/-! ## The issue stage -/

/-- An issue always answers a next state. -/
theorem issue_next (h : Head) (body : Ins → State → Result) (s : State) : ∃ t, issue h body s = .next t := ⟨_, rfl⟩

/-- An instruction that is let run has its effect. -/
theorem issue_run {h : Head} {body : Ins → State → Result} {s : State} {x : Ins} (hp : s.prepare h = .run x) :
    issue h body s = .next ((body x (s.begin x)).apply x h.hint s) := by
  simp [issue, hp]

/-- An instruction that is not ready leaves everything but the model's own note of it. -/
theorem issue_wait {h : Head} {body : Ins → State → Result} {s : State} (hp : s.prepare h = .wait) :
    issue h body s = .next s.notReady := by
  simp [issue, hp]

/-- An instruction in which no lane passes completes. -/
theorem issue_skip {h : Head} {body : Ins → State → Result} {s : State} {x : Ins} (hp : s.prepare h = .skip x) :
    issue h body s = .next (s.finish x h.hint) := by
  simp [issue, hp]

/-- An empty trapping source traps. -/
theorem issue_trap {h : Head} {body : Ins → State → Result} {s : State} {x : Ins} {c k : Nat} (hp : s.prepare h = .trap x c k) :
    issue h body s = .next (s.trapAt x c k) := by
  simp [issue, hp]

/-- A cause held for a wait point leaves the list and traps there. -/
theorem issue_deferred {h : Head} {body : Ins → State → Result} {s : State} {x : Ins} {c k : Nat}
    (hp : s.prepare h = .deferred x c k) :
    issue h body s = .next ((s.dropDeferred x c).takeTrap x.bid x.sq c k x.pc x.lanes true) := by
  simp [issue, hp]

/-- A wait point, or an instruction that orders the accesses before it, first sends the squad's combined stores. -/
theorem issue_flush {h : Head} {body : Ins → State → Result} {s : State} {x : Ins} (hp : s.prepare h = .flush x) :
    issue h body s = .next (s.sendCombines x.bid x.sq).notReady := by
  simp [issue, hp]

/-- Everything that an issue can lead to, with what the issue stage found. -/
theorem issue_cases {h : Head} {body : Ins → State → Result} {s t : State} (ht : issue h body s = .next t) :
    (s.prepare h = .absent ∧ t = s)
    ∨ (s.prepare h = .wait ∧ t = s.notReady)
    ∨ (∃ x, s.prepare h = .flush x ∧ t = (s.sendCombines x.bid x.sq).notReady)
    ∨ (∃ x, s.prepare h = .skip x ∧ t = s.finish x h.hint)
    ∨ (∃ x c k, s.prepare h = .trap x c k ∧ t = s.trapAt x c k)
    ∨ (∃ x c k, s.prepare h = .deferred x c k ∧ t = (s.dropDeferred x c).takeTrap x.bid x.sq c k x.pc x.lanes true)
    ∨ (∃ x, s.prepare h = .lost x ∧ t = (s.dropLost x.bid x.sq).trapAt x 0x30F 0)
    ∨ (∃ x st a, s.prepare h = .damaged x st a ∧ t = s.consume x.bid st a)
    ∨ (∃ x, s.prepare h = .run x ∧ t = (body x (s.begin x)).apply x h.hint s) := by
  unfold issue at ht
  cases hp : s.prepare h <;> simp_all

/-- What the issue stage has found of an instruction that it lets run: its sub-group stands at it with a lane that
passes, its sources and destinations are full, no older open access holds it, and no wait of its ordering is left. -/
theorem State.prepare_run {s : State} {h : Head} {x : Ins} (hp : s.prepare h = .run x) :
    s.insAt h.guard = some x ∧ x.pass ≠ 0 ∧ h.interlocked (s.squad x.bid x.sq).rf x.pass = true
    ∧ (s.squad x.bid x.sq).held h = false
    ∧ (h.access = true ∨ h.orders = true → s.acquiring x.bid x.sq = false)
    ∧ (h.waits = true ∨ h.orders = true ∨ h.forks = true → (s.squad x.bid x.sq).combine = [])
    ∧ (h.waits = true → s.unanswered x.bid x.sq = false) ∧ (h.orders = true → s.accessing x.bid x.sq = false)
    ∧ (h.forks = true → s.sending x.bid x.sq = false)
    ∧ h.emptySource (s.squad x.bid x.sq).rf x.pass = none ∧ h.writable (s.squad x.bid x.sq).rf x.pass = true
    ∧ s.damaged (h.readUnits x) = none := by
  unfold State.prepare at hp
  split at hp
  · cases hp
  · rename_i y hy
    split at hp
    · cases hp
    · rename_i hpass
      dsimp only at hp
      split at hp <;> try cases hp
      rename_i hilk
      split at hp <;> try cases hp
      rename_i hacq
      split at hp <;> try cases hp
      rename_i hcomb
      split at hp <;> try cases hp
      rename_i hunans
      split at hp <;> try cases hp
      rename_i hacc
      split at hp <;> try cases hp
      rename_i hsend
      split at hp
      · split at hp <;> cases hp
      · split at hp
        · split at hp <;> cases hp
        · split at hp <;> try cases hp
          rename_i hempty
          split at hp <;> try cases hp
          rename_i hwrite
          split at hp <;> cases hp
          rename_i hdam
          simp only [Bool.or_eq_true, Bool.and_eq_true, Bool.not_eq_true', not_or, not_and, Bool.not_eq_false,
            Bool.not_eq_true, List.isEmpty_eq_false_iff, ne_eq, not_not, or_assoc] at hilk hacq hcomb hunans hacc hsend hwrite
          exact ⟨hy, hpass, hilk.1, hilk.2, hacq, hcomb, hunans, hacc, hsend, hempty, hwrite, hdam⟩

/-! ## The end of a wait in place -/

/-- The end of a wait in place changes no table but that of the flasks. -/
theorem State.endWait_other (s : State) (bid sq : Nat) :
    (s.endWait bid sq).ctrl = s.ctrl ∧ (s.endWait bid sq).squads = s.squads ∧ (s.endWait bid sq).mem = s.mem
    ∧ (s.endWait bid sq).homes = s.homes ∧ (s.endWait bid sq).blocks = s.blocks ∧ (s.endWait bid sq).pours = s.pours
    ∧ (s.endWait bid sq).cores = s.cores ∧ (s.endWait bid sq).contexts = s.contexts
    ∧ (s.endWait bid sq).tenants = s.tenants ∧ (s.endWait bid sq).dev = s.dev := by
  unfold State.endWait State.dropPusher
  split <;> simp

@[simp] theorem State.endWait_ctrl (s : State) (bid sq : Nat) : (s.endWait bid sq).ctrl = s.ctrl := (s.endWait_other bid sq).1

@[simp] theorem State.endWait_squads (s : State) (bid sq : Nat) : (s.endWait bid sq).squads = s.squads :=
  (s.endWait_other bid sq).2.1

/-- A squad that waits nowhere leaves the state as it is. -/
theorem State.endWait_none {s : State} {bid sq : Nat} (h : (s.squad bid sq).waitsAt = none) : s.endWait bid sq = s := by
  simp [State.endWait, h]

/-! ## The fields that the advance of a sub-group leaves alone -/

/-- The state outside the squads, the flasks and the model's counters is that before the advance. -/
theorem State.finish_other (s : State) (x : Ins) (h : Hint) :
    (s.finish x h).mem = s.mem ∧ (s.finish x h).homes = s.homes ∧ (s.finish x h).blocks = s.blocks
    ∧ (s.finish x h).pours = s.pours ∧ (s.finish x h).cores = s.cores
    ∧ (s.finish x h).contexts = s.contexts ∧ (s.finish x h).tenants = s.tenants ∧ (s.finish x h).dev = s.dev := by
  simp [State.finish, State.issued, State.moveTo, State.setCtl, State.endWait_other]

/-- The flasks are those before the advance, where the squad waited nowhere. -/
theorem State.finish_flasks {s : State} {x : Ins} (h : Hint) (hw : (s.squad x.bid x.sq).waitsAt = none) :
    (s.finish x h).flasks = s.flasks := by
  have hn : ((s.setCtl x false (((s.squad x.bid x.sq).ctl.removeGroup x.grp).scatter s.ctrl.stamp x.lanes fun _ => x.next)).squad
      x.bid x.sq).waitsAt = none := by simpa [State.setCtl] using hw
  simp [State.finish, State.issued, State.moveTo, State.endWait_none hn]
  simp [State.setCtl]

/-- The registers of the squad are those before the advance. -/
theorem State.finish_rf (s : State) (x : Ins) (h : Hint) :
    ((s.finish x h).squad x.bid x.sq).rf = (s.squad x.bid x.sq).rf := by
  simp [State.finish, State.issued, State.moveTo, State.setCtl, State.squad]

/-- Every other squad is that before the advance. -/
theorem State.finish_squad_ne (s : State) (x : Ins) (h : Hint) {b k : Nat} (hk : squadKey b k ≠ squadKey x.bid x.sq) :
    (s.finish x h).squad b k = s.squad b k := by
  simp [State.finish, State.issued, State.moveTo, State.setCtl, State.squad, Table.get_put_ne _ hk]

/-- The beginning of an issue leaves the registers of the squad. -/
theorem State.begin_rf (s : State) (x : Ins) : ((s.begin x).squad x.bid x.sq).rf = (s.squad x.bid x.sq).rf := by
  simp [State.begin]

/-- It changes nothing but the squad's instruction number. -/
theorem State.begin_other (s : State) (x : Ins) :
    (s.begin x).mem = s.mem ∧ (s.begin x).homes = s.homes ∧ (s.begin x).blocks = s.blocks ∧ (s.begin x).flasks = s.flasks
    ∧ (s.begin x).pours = s.pours ∧ (s.begin x).cores = s.cores ∧ (s.begin x).contexts = s.contexts
    ∧ (s.begin x).tenants = s.tenants ∧ (s.begin x).dev = s.dev ∧ (s.begin x).ctrl = s.ctrl := by
  simp [State.begin]

end Sys2Proof.Machine
end

