-- ==== Sys2Proof/Laws/Memory.lean ====
section
/-! SUPPORT. Every operation that changes a memory keeps its canonical form. -/

namespace Sys2Proof.Machine

open Sys2Proof

/-- A fold of writes keeps the canonical form. -/
theorem wf_foldl {β : Type} (f : Memory → β → Memory) (hf : ∀ m b, Memory.wf m = true → Memory.wf (f m b) = true)
    (l : List β) {m : Memory} (h : Memory.wf m = true) : Memory.wf (l.foldl f m) = true := by
  induction l generalizing m with
  | nil => exact h
  | cons b r ih => exact ih (hf m b h)

/-- The words of a write-back. -/
theorem wf_mergeWords {m : Memory} (line : Nat) (words : BitVec 16) (bytes : List Byte) (h : Memory.wf m = true) :
    Memory.wf (mergeWords m line words bytes) = true := by
  refine wf_foldl _ (fun m k hm => ?_) _ h
  split
  · exact Memory.wf_write _ _ hm
  · exact hm

/-- A slot's bytes dropped. -/
theorem wf_dropRange {m : Memory} (n holder : Nat) (h : Memory.wf m = true) : Memory.wf (dropRange m n holder) = true :=
  Memory.wf_filter _ h

/-- Entries without a zero byte put one after another. -/
theorem wf_putAll {m : Memory} (g : Nat × Byte → Nat) (l : List (Nat × Byte)) (hl : ∀ e ∈ l, e.2 ≠ 0)
    (h : Memory.wf m = true) : Memory.wf (l.foldl (fun t e => Table.put t (g e) e.2) m) = true := by
  induction l generalizing m with
  | nil => exact h
  | cons e r ih =>
    exact ih (fun a ha => hl a (List.mem_cons_of_mem e ha)) (Memory.wf_put _ (hl e List.mem_cons_self) h)

/-- No byte that a canonical memory lists is 0. -/
theorem mem_ne_zero {m : Memory} (h : Memory.wf m = true) : ∀ e ∈ m, e.2 ≠ 0 := by
  simp only [Memory.wf, Bool.and_eq_true, List.all_eq_true] at h
  intro e he; simpa using h.2 e he

/-- A slot's bytes moved to another. -/
theorem wf_moveRange {m : Memory} (n old new : Nat) (h : Memory.wf m = true) : Memory.wf (moveRange m n old new) = true :=
  wf_putAll _ _ (fun e he => mem_ne_zero h e (List.mem_filter.mp he).1) (wf_dropRange n old h)

/-! ## The operations of the machine -/

/-- The parts of a canonical set of memories. -/
theorem Memories.wf_iff (m : Memories) : m.wf = true ↔ Memory.wf m.dev = true ∧ Memory.wf m.pooled = true
    ∧ Memory.wf m.tiles = true ∧ Memory.wf m.host = true ∧ Memory.wf m.peer = true := by
  simp [Memories.wf, and_assoc]

/-- The memories are those before a repair of damaged units. -/
@[simp] theorem State.repair_mem (s : State) (us : List (Nat × Nat)) : (s.repair us).mem = s.mem := by
  unfold State.repair; split <;> rfl

/-- A line that becomes dirty changes no memory: the L2 and HBM together hold what they held. -/
@[simp] theorem State.l2Room_mem (s : State) (l : Nat) : (s.l2Room l).mem = s.mem := by
  unfold State.l2Room; cases s.l2Victim l <;> rfl
@[simp] theorem State.dirtyLine_mem (s : State) (l : Nat) : (s.dirtyLine l).mem = s.mem := by
  unfold State.dirtyLine; split <;> simp

@[simp] theorem State.dirty_mem (s : State) (ls : List Nat) : (s.dirty ls).mem = s.mem := by
  unfold State.dirty
  induction ls generalizing s with
  | nil => rfl
  | cons l r ih => simp [ih]

/-- The end of an ownership changes no memory. -/
@[simp] theorem State.disown_mem (s : State) (line bid : Nat) (words : BitVec 16) : (s.disown line bid words).mem = s.mem := by
  unfold State.disown; dsimp only; split <;> rfl

/-- Nor does an error that a flask is to consume. -/
@[simp] theorem State.ruinBlock_mem (s : State) (bid st key : Nat) : (s.ruinBlock bid st key).mem = s.mem := by
  unfold State.ruinBlock; split <;> rfl

/-- A write to device memory writes its bytes and nothing else. -/
@[simp] theorem State.devWrite_mem (s : State) (pa : Nat) (bs : List Byte) :
    (s.devWrite pa bs).mem = { s.mem with dev := Memory.writeBytes s.mem.dev pa bs } := by
  unfold State.devWrite; dsimp only; split <;> simp

/-- Words written at their home write their bytes and nothing else. -/
@[simp] theorem State.writeWords_mem (s : State) (line : Nat) (words : BitVec 16) (bs : List Byte) :
    (s.writeWords line words bs).mem = { s.mem with dev := mergeWords s.mem.dev line words bs } := by
  unfold State.writeWords; dsimp only; split <;> simp

/-- A copy in a remote-data cache brought up to date changes no memory. -/
@[simp] theorem State.patchCache_mem (s : State) (die pa n : Nat) : (s.patchCache die pa n).mem = s.mem := by
  unfold State.patchCache
  dsimp only
  split
  · rfl
  · split <;> rfl

/-- Nor do several of them. -/
theorem State.patchCaches_mem (die : Nat) (runs : List (Nat × Nat)) (s : State) :
    (runs.foldl (fun s e => s.patchCache die e.1 e.2) s).mem = s.mem := by
  induction runs generalizing s with
  | nil => rfl
  | cons e r ih => simp [ih]

/-! ## Sound memory, and memory without owners -/

/-- Where no unit is damaged, none of some units is. -/
theorem State.damaged_of_sound {s : State} (h : s.dev.damage = []) (us : List (Nat × Nat)) : s.damaged us = none := by
  simp [State.damaged, h]

/-- Where no unit is damaged, a write of whole units repairs nothing. -/
theorem State.repair_of_sound {s : State} (h : s.dev.damage = []) (us : List (Nat × Nat)) : s.repair us = s := by
  simp [State.repair, h]

/-- Where no sector needs correction, a read corrects none. -/
theorem State.correctRead_of_sound {s : State} (h : s.dev.damage = []) (pa n : Nat) : s.correctRead pa n = s := by
  simp [State.correctRead, h]

/-- Nor does a load, in whatever it reads. -/
theorem State.correctValue_of_sound {s : State} (h : s.dev.damage = []) (pa n : Nat) : s.correctValue pa n = s := by
  simp [State.correctValue, h]

/-- Nor does a combined value. -/
theorem State.correctElem_of_sound {s : State} (h : s.dev.damage = []) (r : Range) (e : Nat) : s.correctElem r e = s := by
  simp [State.correctElem, h]

/-- A load of sound memory meets no damaged unit. -/
theorem State.readDamage_of_sound {s : State} (h : s.dev.damage = []) (pa n : Nat) : s.readDamage pa n = none := by
  simp [State.readDamage, h]

/-- Nor does a store. -/
theorem State.storeDamage_of_sound {s : State} (h : s.dev.damage = []) (runs : List (Nat × Nat)) (pa n : Nat) :
    s.storeDamage runs pa n = none := by
  simp [State.storeDamage, h]

/-- Without a migration an address stands for itself. -/
theorem State.forward_of_none {s : State} (h : s.homes.migration = none) (pa : Nat) : s.forward pa = pa := by
  simp [State.forward, h]

/-- The recall of a line of which no block owns a word, and none is on its way back, changes nothing. -/
theorem State.recallNow_of_unowned {s : State} (line : Nat) (ho : ∀ o ∈ s.homes.owners, o.1 / 512 ≠ line)
    (hb : ∀ b ∈ s.homes.backs, b.2.line ≠ line) : s.recallNow line = s := by
  have e1 : s.ownersOf line = [] := by
    simp only [State.ownersOf, List.map_eq_nil_iff, List.filter_eq_nil_iff]
    intro o h; simpa using ho o h
  have e2 : (s.homes.backs.filter fun b => b.2.line == line) = [] := by
    simp only [List.filter_eq_nil_iff]
    intro b h; simpa using hb b h
  simp [State.recallNow, e1, e2]

/-! ## Operations keep the canonical form -/

theorem State.wf_devWrite {s : State} (pa : Nat) (bs : List Byte) (h : s.mem.wf = true) : (s.devWrite pa bs).mem.wf = true := by
  rw [Memories.wf_iff] at h
  rw [State.devWrite_mem, Memories.wf_iff]
  exact ⟨Memory.wf_writeBytes _ _ h.1, h.2⟩

theorem State.wf_poolWrite {s : State} (bid o : Nat) (skew : Bool) (bs : List Byte) (h : s.mem.wf = true) :
    (s.poolWrite bid o skew bs).mem.wf = true := by
  rw [Memories.wf_iff] at h ⊢
  exact ⟨h.1, wf_foldl _ (fun m e hm => Memory.wf_write _ _ hm) _ h.2.1, h.2.2⟩

theorem State.wf_tileWrite {s : State} (bid t o : Nat) (bs : List Byte) (h : s.mem.wf = true) :
    (s.tileWrite bid t o bs).mem.wf = true := by
  rw [Memories.wf_iff] at h ⊢
  exact ⟨h.1, h.2.1, Memory.wf_writeBytes _ _ h.2.2.1, h.2.2.2⟩

theorem State.wf_accPut {s : State} (bid a : Nat) (cells : List (Nat × Nat)) (f : Nat → Nat → Word) (h : s.mem.wf = true) :
    (s.accPut bid a cells f).mem.wf = true := h

theorem State.wf_zeroBlock {s : State} (bid : Nat) (h : s.mem.wf = true) : (s.zeroBlock bid).mem.wf = true := by
  rw [Memories.wf_iff] at h ⊢
  exact ⟨h.1, wf_dropRange _ _ h.2.1, wf_dropRange _ _ h.2.2.1, h.2.2.2⟩

theorem State.wf_landBack {s : State} (id : Nat) (h : s.mem.wf = true) : (s.landBack id).mem.wf = true := by
  unfold State.landBack
  split
  · exact h
  · dsimp only
    split
    · simpa using h
    · rw [Memories.wf_iff] at h
      rw [State.patchCaches_mem, State.writeWords_mem, Memories.wf_iff]
      simp only [State.disown_mem]
      exact ⟨wf_mergeWords _ _ _ h.1, h.2⟩

/-- The memories are those before a change that touches none. -/
theorem State.sendBack_mem (s : State) (line bid : Nat) : (s.sendBack line bid).mem = s.mem := by
  unfold State.sendBack
  dsimp only
  split
  · rfl
  · split <;> simp [State.bump]

end Sys2Proof.Machine
end

