-- ==== Sys2Proof/Laws/PerInstr.lean ====
section
/-! SUPPORT. Facts about each constructor as syntax, one lemma per constructor. -/

namespace Sys2Proof.Laws

/-- An instruction of the table has an encoding, and an event has none and passes the decode checks of R48 by having
no operand fields (R30, R48). -/
def HasWord.Statement (i : Instr) : Prop := (encode i).isSome = i.isWord ∧ ∀ opc regs, i.isWord = false → i.check opc regs = none

/-- The statement of an instruction with a word. -/
theorem HasWord.of_word {i : Instr} (he : (encode i).isSome = true) (hw : i.isWord = true) : HasWord.Statement i :=
  ⟨he.trans hw.symm, fun _ _ h => by simp [hw] at h⟩

/-- The statement of an event. -/
theorem HasWord.of_event {i : Instr} (he : (encode i).isSome = false) (hw : i.heads = none) : HasWord.Statement i := by
  have h : i.isWord = false := by simp [Instr.isWord, hw]
  exact ⟨he.trans h.symm, fun _ _ _ => by simp [Instr.check, hw]⟩

theorem HasWord.nop a : HasWord.Statement (.nop a) := HasWord.of_word rfl rfl
theorem HasWord.bra a : HasWord.Statement (.bra a) := HasWord.of_word rfl rfl
theorem HasWord.brx a : HasWord.Statement (.brx a) := HasWord.of_word rfl rfl
theorem HasWord.call a : HasWord.Statement (.call a) := HasWord.of_word rfl rfl
theorem HasWord.callInd a : HasWord.Statement (.callInd a) := HasWord.of_word rfl rfl
theorem HasWord.ret a : HasWord.Statement (.ret a) := HasWord.of_word rfl rfl
theorem HasWord.meet a : HasWord.Statement (.meet a) := HasWord.of_word rfl rfl
theorem HasWord.meetSave a : HasWord.Statement (.meetSave a) := HasWord.of_word rfl rfl
theorem HasWord.rejoin a : HasWord.Statement (.rejoin a) := HasWord.of_word rfl rfl
theorem HasWord.rejoinRest a : HasWord.Statement (.rejoinRest a) := HasWord.of_word rfl rfl
theorem HasWord.exit a : HasWord.Statement (.exit a) := HasWord.of_word rfl rfl
theorem HasWord.yield a : HasWord.Statement (.yield a) := HasWord.of_word rfl rfl
theorem HasWord.voteAny a : HasWord.Statement (.voteAny a) := HasWord.of_word rfl rfl
theorem HasWord.voteAll a : HasWord.Statement (.voteAll a) := HasWord.of_word rfl rfl
theorem HasWord.voteMask a : HasWord.Statement (.voteMask a) := HasWord.of_word rfl rfl
theorem HasWord.shflPick a : HasWord.Statement (.shflPick a) := HasWord.of_word rfl rfl
theorem HasWord.shflRot a : HasWord.Statement (.shflRot a) := HasWord.of_word rfl rfl
theorem HasWord.shflSlide a : HasWord.Statement (.shflSlide a) := HasWord.of_word rfl rfl
theorem HasWord.shflMir a : HasWord.Statement (.shflMir a) := HasWord.of_word rfl rfl
theorem HasWord.add a : HasWord.Statement (.add a) := HasWord.of_word rfl rfl
theorem HasWord.sub a : HasWord.Statement (.sub a) := HasWord.of_word rfl rfl
theorem HasWord.mulLo a : HasWord.Statement (.mulLo a) := HasWord.of_word rfl rfl
theorem HasWord.mulHi a : HasWord.Statement (.mulHi a) := HasWord.of_word rfl rfl
theorem HasWord.mad a : HasWord.Statement (.mad a) := HasWord.of_word rfl rfl
theorem HasWord.madWide a : HasWord.Statement (.madWide a) := HasWord.of_word rfl rfl
theorem HasWord.div a : HasWord.Statement (.div a) := HasWord.of_word rfl rfl
theorem HasWord.rem a : HasWord.Statement (.rem a) := HasWord.of_word rfl rfl
theorem HasWord.min a : HasWord.Statement (.min a) := HasWord.of_word rfl rfl
theorem HasWord.max a : HasWord.Statement (.max a) := HasWord.of_word rfl rfl
theorem HasWord.abs a : HasWord.Statement (.abs a) := HasWord.of_word rfl rfl
theorem HasWord.neg a : HasWord.Statement (.neg a) := HasWord.of_word rfl rfl
theorem HasWord.and a : HasWord.Statement (.and a) := HasWord.of_word rfl rfl
theorem HasWord.or a : HasWord.Statement (.or a) := HasWord.of_word rfl rfl
theorem HasWord.xor a : HasWord.Statement (.xor a) := HasWord.of_word rfl rfl
theorem HasWord.not a : HasWord.Statement (.not a) := HasWord.of_word rfl rfl
theorem HasWord.shl a : HasWord.Statement (.shl a) := HasWord.of_word rfl rfl
theorem HasWord.shr a : HasWord.Statement (.shr a) := HasWord.of_word rfl rfl
theorem HasWord.sar a : HasWord.Statement (.sar a) := HasWord.of_word rfl rfl
theorem HasWord.rot a : HasWord.Statement (.rot a) := HasWord.of_word rfl rfl
theorem HasWord.clz a : HasWord.Statement (.clz a) := HasWord.of_word rfl rfl
theorem HasWord.popc a : HasWord.Statement (.popc a) := HasWord.of_word rfl rfl
theorem HasWord.brev a : HasWord.Statement (.brev a) := HasWord.of_word rfl rfl
theorem HasWord.bfx a : HasWord.Statement (.bfx a) := HasWord.of_word rfl rfl
theorem HasWord.bfi a : HasWord.Statement (.bfi a) := HasWord.of_word rfl rfl
theorem HasWord.lea a : HasWord.Statement (.lea a) := HasWord.of_word rfl rfl
theorem HasWord.setp a : HasWord.Statement (.setp a) := HasWord.of_word rfl rfl
theorem HasWord.sel a : HasWord.Statement (.sel a) := HasWord.of_word rfl rfl
theorem HasWord.plop a : HasWord.Statement (.plop a) := HasWord.of_word rfl rfl
theorem HasWord.mov a : HasWord.Statement (.mov a) := HasWord.of_word rfl rfl
theorem HasWord.movi a : HasWord.Statement (.movi a) := HasWord.of_word rfl rfl
theorem HasWord.dp4 a : HasWord.Statement (.dp4 a) := HasWord.of_word rfl rfl
theorem HasWord.addImm a : HasWord.Statement (.addImm a) := HasWord.of_word rfl rfl
theorem HasWord.subImm a : HasWord.Statement (.subImm a) := HasWord.of_word rfl rfl
theorem HasWord.mulLoImm a : HasWord.Statement (.mulLoImm a) := HasWord.of_word rfl rfl
theorem HasWord.mulHiImm a : HasWord.Statement (.mulHiImm a) := HasWord.of_word rfl rfl
theorem HasWord.divImm a : HasWord.Statement (.divImm a) := HasWord.of_word rfl rfl
theorem HasWord.remImm a : HasWord.Statement (.remImm a) := HasWord.of_word rfl rfl
theorem HasWord.minImm a : HasWord.Statement (.minImm a) := HasWord.of_word rfl rfl
theorem HasWord.maxImm a : HasWord.Statement (.maxImm a) := HasWord.of_word rfl rfl
theorem HasWord.andImm a : HasWord.Statement (.andImm a) := HasWord.of_word rfl rfl
theorem HasWord.orImm a : HasWord.Statement (.orImm a) := HasWord.of_word rfl rfl
theorem HasWord.xorImm a : HasWord.Statement (.xorImm a) := HasWord.of_word rfl rfl
theorem HasWord.shlImm a : HasWord.Statement (.shlImm a) := HasWord.of_word rfl rfl
theorem HasWord.shrImm a : HasWord.Statement (.shrImm a) := HasWord.of_word rfl rfl
theorem HasWord.sarImm a : HasWord.Statement (.sarImm a) := HasWord.of_word rfl rfl
theorem HasWord.rotImm a : HasWord.Statement (.rotImm a) := HasWord.of_word rfl rfl
theorem HasWord.leaImm a : HasWord.Statement (.leaImm a) := HasWord.of_word rfl rfl
theorem HasWord.setpImm a : HasWord.Statement (.setpImm a) := HasWord.of_word rfl rfl
theorem HasWord.mulLoMap2 a : HasWord.Statement (.mulLoMap2 a) := HasWord.of_word rfl rfl
theorem HasWord.mulHiMap2 a : HasWord.Statement (.mulHiMap2 a) := HasWord.of_word rfl rfl
theorem HasWord.fadd a : HasWord.Statement (.fadd a) := HasWord.of_word rfl rfl
theorem HasWord.fsub a : HasWord.Statement (.fsub a) := HasWord.of_word rfl rfl
theorem HasWord.fmul a : HasWord.Statement (.fmul a) := HasWord.of_word rfl rfl
theorem HasWord.fma a : HasWord.Statement (.fma a) := HasWord.of_word rfl rfl
theorem HasWord.fmin a : HasWord.Statement (.fmin a) := HasWord.of_word rfl rfl
theorem HasWord.fmax a : HasWord.Statement (.fmax a) := HasWord.of_word rfl rfl
theorem HasWord.fsetp a : HasWord.Statement (.fsetp a) := HasWord.of_word rfl rfl
theorem HasWord.fclass a : HasWord.Statement (.fclass a) := HasWord.of_word rfl rfl
theorem HasWord.frcp a : HasWord.Statement (.frcp a) := HasWord.of_word rfl rfl
theorem HasWord.frsq a : HasWord.Statement (.frsq a) := HasWord.of_word rfl rfl
theorem HasWord.fsqrt a : HasWord.Statement (.fsqrt a) := HasWord.of_word rfl rfl
theorem HasWord.fdiv a : HasWord.Statement (.fdiv a) := HasWord.of_word rfl rfl
theorem HasWord.fexp2 a : HasWord.Statement (.fexp2 a) := HasWord.of_word rfl rfl
theorem HasWord.flog2 a : HasWord.Statement (.flog2 a) := HasWord.of_word rfl rfl
theorem HasWord.fsin a : HasWord.Statement (.fsin a) := HasWord.of_word rfl rfl
theorem HasWord.fcos a : HasWord.Statement (.fcos a) := HasWord.of_word rfl rfl
theorem HasWord.ftanh a : HasWord.Statement (.ftanh a) := HasWord.of_word rfl rfl
theorem HasWord.hadd2 a : HasWord.Statement (.hadd2 a) := HasWord.of_word rfl rfl
theorem HasWord.hmul2 a : HasWord.Statement (.hmul2 a) := HasWord.of_word rfl rfl
theorem HasWord.hfma2 a : HasWord.Statement (.hfma2 a) := HasWord.of_word rfl rfl
theorem HasWord.cvt a : HasWord.Statement (.cvt a) := HasWord.of_word rfl rfl
theorem HasWord.faddImm a : HasWord.Statement (.faddImm a) := HasWord.of_word rfl rfl
theorem HasWord.fsubImm a : HasWord.Statement (.fsubImm a) := HasWord.of_word rfl rfl
theorem HasWord.fmulImm a : HasWord.Statement (.fmulImm a) := HasWord.of_word rfl rfl
theorem HasWord.fminImm a : HasWord.Statement (.fminImm a) := HasWord.of_word rfl rfl
theorem HasWord.fmaxImm a : HasWord.Statement (.fmaxImm a) := HasWord.of_word rfl rfl
theorem HasWord.fsetpImm a : HasWord.Statement (.fsetpImm a) := HasWord.of_word rfl rfl
theorem HasWord.qblk a : HasWord.Statement (.qblk a) := HasWord.of_word rfl rfl
theorem HasWord.dqblk a : HasWord.Statement (.dqblk a) := HasWord.of_word rfl rfl
theorem HasWord.pk4 a : HasWord.Statement (.pk4 a) := HasWord.of_word rfl rfl
theorem HasWord.upk4 a : HasWord.Statement (.upk4 a) := HasWord.of_word rfl rfl
theorem HasWord.amax a : HasWord.Statement (.amax a) := HasWord.of_word rfl rfl
theorem HasWord.tld a : HasWord.Statement (.tld a) := HasWord.of_word rfl rfl
theorem HasWord.tst a : HasWord.Statement (.tst a) := HasWord.of_word rfl rfl
theorem HasWord.tzero a : HasWord.Statement (.tzero a) := HasWord.of_word rfl rfl
theorem HasWord.mma a : HasWord.Statement (.mma a) := HasWord.of_word rfl rfl
theorem HasWord.mmas a : HasWord.Statement (.mmas a) := HasWord.of_word rfl rfl
theorem HasWord.accz a : HasWord.Statement (.accz a) := HasWord.of_word rfl rfl
theorem HasWord.accmul a : HasWord.Statement (.accmul a) := HasWord.of_word rfl rfl
theorem HasWord.accrd a : HasWord.Statement (.accrd a) := HasWord.of_word rfl rfl
theorem HasWord.accwr a : HasWord.Statement (.accwr a) := HasWord.of_word rfl rfl
theorem HasWord.accst a : HasWord.Statement (.accst a) := HasWord.of_word rfl rfl
theorem HasWord.accdeclRetain a : HasWord.Statement (.accdeclRetain a) := HasWord.of_word rfl rfl
theorem HasWord.accdeclRecompute a : HasWord.Statement (.accdeclRecompute a) := HasWord.of_word rfl rfl
theorem HasWord.rstlbl a : HasWord.Statement (.rstlbl a) := HasWord.of_word rfl rfl
theorem HasWord.matrixCommandExecute a : HasWord.Statement (.matrixCommandExecute a) := HasWord.of_event rfl rfl
theorem HasWord.lds a : HasWord.Statement (.lds a) := HasWord.of_word rfl rfl
theorem HasWord.sts a : HasWord.Statement (.sts a) := HasWord.of_word rfl rfl
theorem HasWord.ldg a : HasWord.Statement (.ldg a) := HasWord.of_word rfl rfl
theorem HasWord.stg a : HasWord.Statement (.stg a) := HasWord.of_word rfl rfl
theorem HasWord.ldk a : HasWord.Statement (.ldk a) := HasWord.of_word rfl rfl
theorem HasWord.stk a : HasWord.Statement (.stk a) := HasWord.of_word rfl rfl
theorem HasWord.fence a : HasWord.Statement (.fence a) := HasWord.of_word rfl rfl
theorem HasWord.crdecl a : HasWord.Statement (.crdecl a) := HasWord.of_word rfl rfl
theorem HasWord.crfold a : HasWord.Statement (.crfold a) := HasWord.of_word rfl rfl
theorem HasWord.cred a : HasWord.Statement (.cred a) := HasWord.of_word rfl rfl
theorem HasWord.atomsAdd a : HasWord.Statement (.atomsAdd a) := HasWord.of_word rfl rfl
theorem HasWord.atomsMin a : HasWord.Statement (.atomsMin a) := HasWord.of_word rfl rfl
theorem HasWord.atomsMax a : HasWord.Statement (.atomsMax a) := HasWord.of_word rfl rfl
theorem HasWord.atomsAnd a : HasWord.Statement (.atomsAnd a) := HasWord.of_word rfl rfl
theorem HasWord.atomsOr a : HasWord.Statement (.atomsOr a) := HasWord.of_word rfl rfl
theorem HasWord.atomsXor a : HasWord.Statement (.atomsXor a) := HasWord.of_word rfl rfl
theorem HasWord.atomsExch a : HasWord.Statement (.atomsExch a) := HasWord.of_word rfl rfl
theorem HasWord.atomsCas a : HasWord.Statement (.atomsCas a) := HasWord.of_word rfl rfl
theorem HasWord.atomsInc a : HasWord.Statement (.atomsInc a) := HasWord.of_word rfl rfl
theorem HasWord.atomsDec a : HasWord.Statement (.atomsDec a) := HasWord.of_word rfl rfl
theorem HasWord.atomsFadd a : HasWord.Statement (.atomsFadd a) := HasWord.of_word rfl rfl
theorem HasWord.atomsFmin a : HasWord.Statement (.atomsFmin a) := HasWord.of_word rfl rfl
theorem HasWord.atomsFmax a : HasWord.Statement (.atomsFmax a) := HasWord.of_word rfl rfl
theorem HasWord.atomgAdd a : HasWord.Statement (.atomgAdd a) := HasWord.of_word rfl rfl
theorem HasWord.atomgMin a : HasWord.Statement (.atomgMin a) := HasWord.of_word rfl rfl
theorem HasWord.atomgMax a : HasWord.Statement (.atomgMax a) := HasWord.of_word rfl rfl
theorem HasWord.atomgAnd a : HasWord.Statement (.atomgAnd a) := HasWord.of_word rfl rfl
theorem HasWord.atomgOr a : HasWord.Statement (.atomgOr a) := HasWord.of_word rfl rfl
theorem HasWord.atomgXor a : HasWord.Statement (.atomgXor a) := HasWord.of_word rfl rfl
theorem HasWord.atomgExch a : HasWord.Statement (.atomgExch a) := HasWord.of_word rfl rfl
theorem HasWord.atomgCas a : HasWord.Statement (.atomgCas a) := HasWord.of_word rfl rfl
theorem HasWord.atomgInc a : HasWord.Statement (.atomgInc a) := HasWord.of_word rfl rfl
theorem HasWord.atomgDec a : HasWord.Statement (.atomgDec a) := HasWord.of_word rfl rfl
theorem HasWord.atomgFadd a : HasWord.Statement (.atomgFadd a) := HasWord.of_word rfl rfl
theorem HasWord.atomgFmin a : HasWord.Statement (.atomgFmin a) := HasWord.of_word rfl rfl
theorem HasWord.atomgFmax a : HasWord.Statement (.atomgFmax a) := HasWord.of_word rfl rfl
theorem HasWord.redgAdd a : HasWord.Statement (.redgAdd a) := HasWord.of_word rfl rfl
theorem HasWord.redgMin a : HasWord.Statement (.redgMin a) := HasWord.of_word rfl rfl
theorem HasWord.redgMax a : HasWord.Statement (.redgMax a) := HasWord.of_word rfl rfl
theorem HasWord.redgAnd a : HasWord.Statement (.redgAnd a) := HasWord.of_word rfl rfl
theorem HasWord.redgOr a : HasWord.Statement (.redgOr a) := HasWord.of_word rfl rfl
theorem HasWord.redgXor a : HasWord.Statement (.redgXor a) := HasWord.of_word rfl rfl
theorem HasWord.redgInc a : HasWord.Statement (.redgInc a) := HasWord.of_word rfl rfl
theorem HasWord.redgDec a : HasWord.Statement (.redgDec a) := HasWord.of_word rfl rfl
theorem HasWord.redgFadd a : HasWord.Statement (.redgFadd a) := HasWord.of_word rfl rfl
theorem HasWord.redgFmin a : HasWord.Statement (.redgFmin a) := HasWord.of_word rfl rfl
theorem HasWord.redgFmax a : HasWord.Statement (.redgFmax a) := HasWord.of_word rfl rfl
theorem HasWord.cpy a : HasWord.Statement (.cpy a) := HasWord.of_word rfl rfl
theorem HasWord.cpyl a : HasWord.Statement (.cpyl a) := HasWord.of_word rfl rfl
theorem HasWord.cpyw a : HasWord.Statement (.cpyw a) := HasWord.of_word rfl rfl
theorem HasWord.cpyp a : HasWord.Statement (.cpyp a) := HasWord.of_word rfl rfl
theorem HasWord.cpyo a : HasWord.Statement (.cpyo a) := HasWord.of_word rfl rfl
theorem HasWord.cpyxPut a : HasWord.Statement (.cpyxPut a) := HasWord.of_word rfl rfl
theorem HasWord.cpyxGet a : HasWord.Statement (.cpyxGet a) := HasWord.of_word rfl rfl
theorem HasWord.twaitAny a : HasWord.Statement (.twaitAny a) := HasWord.of_word rfl rfl
theorem HasWord.twaitAll a : HasWord.Statement (.twaitAll a) := HasWord.of_word rfl rfl
theorem HasWord.tfind a : HasWord.Statement (.tfind a) := HasWord.of_word rfl rfl
theorem HasWord.tclr a : HasWord.Statement (.tclr a) := HasWord.of_word rfl rfl
theorem HasWord.copyStart a b : HasWord.Statement (.copyStart a b) := HasWord.of_event rfl rfl
theorem HasWord.copyLanding a b c : HasWord.Statement (.copyLanding a b c) := HasWord.of_event rfl rfl
theorem HasWord.copyComplete a b : HasWord.Statement (.copyComplete a b) := HasWord.of_event rfl rfl
theorem HasWord.bini a : HasWord.Statement (.bini a) := HasWord.of_word rfl rfl
theorem HasWord.barv a : HasWord.Statement (.barv a) := HasWord.of_word rfl rfl
theorem HasWord.bexp a : HasWord.Statement (.bexp a) := HasWord.of_word rfl rfl
theorem HasWord.bwait a : HasWord.Statement (.bwait a) := HasWord.of_word rfl rfl
theorem HasWord.btest a : HasWord.Statement (.btest a) := HasWord.of_word rfl rfl
theorem HasWord.biniMap2 a : HasWord.Statement (.biniMap2 a) := HasWord.of_word rfl rfl
theorem HasWord.barvMap2 a : HasWord.Statement (.barvMap2 a) := HasWord.of_word rfl rfl
theorem HasWord.bexpMap2 a : HasWord.Statement (.bexpMap2 a) := HasWord.of_word rfl rfl
theorem HasWord.bwaitMap2 a : HasWord.Statement (.bwaitMap2 a) := HasWord.of_word rfl rfl
theorem HasWord.btestMap2 a : HasWord.Statement (.btestMap2 a) := HasWord.of_word rfl rfl
theorem HasWord.seamPhaseComplete a b : HasWord.Statement (.seamPhaseComplete a b) := HasWord.of_event rfl rfl
theorem HasWord.rinit a : HasWord.Statement (.rinit a) := HasWord.of_word rfl rfl
theorem HasWord.push a : HasWord.Statement (.push a) := HasWord.of_word rfl rfl
theorem HasWord.pop a : HasWord.Statement (.pop a) := HasWord.of_word rfl rfl
theorem HasWord.forkCopy a : HasWord.Statement (.forkCopy a) := HasWord.of_word rfl rfl
theorem HasWord.forkMatrix a : HasWord.Statement (.forkMatrix a) := HasWord.of_word rfl rfl
theorem HasWord.forkMap2 a : HasWord.Statement (.forkMap2 a) := HasWord.of_word rfl rfl
theorem HasWord.rdvCopy a : HasWord.Statement (.rdvCopy a) := HasWord.of_word rfl rfl
theorem HasWord.rdvMatrix a : HasWord.Statement (.rdvMatrix a) := HasWord.of_word rfl rfl
theorem HasWord.rdvMap2 a : HasWord.Statement (.rdvMap2 a) := HasWord.of_word rfl rfl
theorem HasWord.engineProgramStart a b : HasWord.Statement (.engineProgramStart a b) := HasWord.of_event rfl rfl
theorem HasWord.engineProgramEnd a b : HasWord.Statement (.engineProgramEnd a b) := HasWord.of_event rfl rfl
theorem HasWord.drainDie a : HasWord.Statement (.drainDie a) := HasWord.of_word rfl rfl
theorem HasWord.drainPkg a : HasWord.Statement (.drainPkg a) := HasWord.of_word rfl rfl
theorem HasWord.drainMap2 a : HasWord.Statement (.drainMap2 a) := HasWord.of_word rfl rfl
theorem HasWord.drainComplete a : HasWord.Statement (.drainComplete a) := HasWord.of_event rfl rfl
theorem HasWord.pour a : HasWord.Statement (.pour a) := HasWord.of_word rfl rfl
theorem HasWord.cwait a : HasWord.Statement (.cwait a) := HasWord.of_word rfl rfl
theorem HasWord.tknxt a : HasWord.Statement (.tknxt a) := HasWord.of_word rfl rfl
theorem HasWord.tknxtPooled a : HasWord.Statement (.tknxtPooled a) := HasWord.of_word rfl rfl
theorem HasWord.tknxtAnswer a : HasWord.Statement (.tknxtAnswer a) := HasWord.of_event rfl rfl
theorem HasWord.sparm a : HasWord.Statement (.sparm a) := HasWord.of_word rfl rfl
theorem HasWord.prog a : HasWord.Statement (.prog a) := HasWord.of_word rfl rfl
theorem HasWord.movcr a : HasWord.Statement (.movcr a) := HasWord.of_word rfl rfl
theorem HasWord.movrc a : HasWord.Statement (.movrc a) := HasWord.of_word rfl rfl
theorem HasWord.rdclk a : HasWord.Statement (.rdclk a) := HasWord.of_word rfl rfl
theorem HasWord.sysVersion a : HasWord.Statement (.sysVersion a) := HasWord.of_word rfl rfl
theorem HasWord.sysRecoveryState a : HasWord.Statement (.sysRecoveryState a) := HasWord.of_word rfl rfl
theorem HasWord.sysSetSideEffect a : HasWord.Statement (.sysSetSideEffect a) := HasWord.of_word rfl rfl
theorem HasWord.sysPourNumber a : HasWord.Statement (.sysPourNumber a) := HasWord.of_word rfl rfl
theorem HasWord.trap a : HasWord.Statement (.trap a) := HasWord.of_word rfl rfl
theorem HasWord.rft a : HasWord.Statement (.rft a) := HasWord.of_word rfl rfl
theorem HasWord.rftAbort a : HasWord.Statement (.rftAbort a) := HasWord.of_word rfl rfl
theorem HasWord.asgen a : HasWord.Statement (.asgen a) := HasWord.of_word rfl rfl
theorem HasWord.splint a : HasWord.Statement (.splint a) := HasWord.of_word rfl rfl
theorem HasWord.tagkill a : HasWord.Statement (.tagkill a) := HasWord.of_word rfl rfl
theorem HasWord.dtload a : HasWord.Statement (.dtload a) := HasWord.of_word rfl rfl
theorem HasWord.splinterComplete a : HasWord.Statement (.splinterComplete a) := HasWord.of_event rfl rfl
theorem HasWord.handlerStart a : HasWord.Statement (.handlerStart a) := HasWord.of_event rfl rfl
theorem HasWord.accessResponse a : HasWord.Statement (.accessResponse a) := HasWord.of_event rfl rfl
theorem HasWord.siCombineTimeout a b : HasWord.Statement (.siCombineTimeout a b) := HasWord.of_event rfl rfl
theorem HasWord.homeRequest a : HasWord.Statement (.homeRequest a) := HasWord.of_event rfl rfl
theorem HasWord.recallOwner a : HasWord.Statement (.recallOwner a) := HasWord.of_event rfl rfl
theorem HasWord.ownerWriteback a : HasWord.Statement (.ownerWriteback a) := HasWord.of_event rfl rfl
theorem HasWord.seamFence a : HasWord.Statement (.seamFence a) := HasWord.of_event rfl rfl
theorem HasWord.quiesceDeadline a : HasWord.Statement (.quiesceDeadline a) := HasWord.of_event rfl rfl
theorem HasWord.dieRejoin a : HasWord.Statement (.dieRejoin a) := HasWord.of_event rfl rfl
theorem HasWord.scrubRead a : HasWord.Statement (.scrubRead a) := HasWord.of_event rfl rfl
theorem HasWord.scrubWriteback a : HasWord.Statement (.scrubWriteback a) := HasWord.of_event rfl rfl
theorem HasWord.leaseExpiry a b : HasWord.Statement (.leaseExpiry a b) := HasWord.of_event rfl rfl
theorem HasWord.migrationHandover : HasWord.Statement (.migrationHandover) := HasWord.of_event rfl rfl
theorem HasWord.migrationForwardingEnd : HasWord.Statement (.migrationForwardingEnd) := HasWord.of_event rfl rfl
theorem HasWord.flaskPlace : HasWord.Statement (.flaskPlace) := HasWord.of_event rfl rfl
theorem HasWord.hWaitTimeout a : HasWord.Statement (.hWaitTimeout a) := HasWord.of_event rfl rfl
theorem HasWord.saveComplete a : HasWord.Statement (.saveComplete a) := HasWord.of_event rfl rfl
theorem HasWord.blockRetire a b : HasWord.Statement (.blockRetire a b) := HasWord.of_event rfl rfl
theorem HasWord.fettlerReplayStart a : HasWord.Statement (.fettlerReplayStart a) := HasWord.of_event rfl rfl
theorem HasWord.fettlerSkip a : HasWord.Statement (.fettlerSkip a) := HasWord.of_event rfl rfl
theorem HasWord.replayEnd a : HasWord.Statement (.replayEnd a) := HasWord.of_event rfl rfl
theorem HasWord.pourRetire a : HasWord.Statement (.pourRetire a) := HasWord.of_event rfl rfl
theorem HasWord.sprueFire a b : HasWord.Statement (.sprueFire a b) := HasWord.of_event rfl rfl
theorem HasWord.fabricIngressRequest a : HasWord.Statement (.fabricIngressRequest a) := HasWord.of_event rfl rfl
theorem HasWord.uCapRelease a : HasWord.Statement (.uCapRelease a) := HasWord.of_event rfl rfl
theorem HasWord.keyRolloverDue a : HasWord.Statement (.keyRolloverDue a) := HasWord.of_event rfl rfl
theorem HasWord.keyReady a : HasWord.Statement (.keyReady a) := HasWord.of_event rfl rfl
theorem HasWord.replayDrained a : HasWord.Statement (.replayDrained a) := HasWord.of_event rfl rfl
theorem HasWord.retireKey a : HasWord.Statement (.retireKey a) := HasWord.of_event rfl rfl
theorem HasWord.linkIntegrityFailure a : HasWord.Statement (.linkIntegrityFailure a) := HasWord.of_event rfl rfl
theorem HasWord.laneLoss a : HasWord.Statement (.laneLoss a) := HasWord.of_event rfl rfl
theorem HasWord.retrainTimeout a : HasWord.Statement (.retrainTimeout a) := HasWord.of_event rfl rfl
theorem HasWord.doorbell a b c d : HasWord.Statement (.doorbell a b c d) := HasWord.of_event rfl rfl
theorem HasWord.bar2Access a b c d : HasWord.Statement (.bar2Access a b c d) := HasWord.of_event rfl rfl
theorem HasWord.launchQueueConfigWrite a b c : HasWord.Statement (.launchQueueConfigWrite a b c) := HasWord.of_event rfl rfl
theorem HasWord.tenantWordWrite a b : HasWord.Statement (.tenantWordWrite a b) := HasWord.of_event rfl rfl
theorem HasWord.contextEntryWrite a b : HasWord.Statement (.contextEntryWrite a b) := HasWord.of_event rfl rfl
theorem HasWord.contextKeyLoaded a : HasWord.Statement (.contextKeyLoaded a) := HasWord.of_event rfl rfl
theorem HasWord.fabcfgWrite a : HasWord.Statement (.fabcfgWrite a) := HasWord.of_event rfl rfl
theorem HasWord.memcfgWrite a : HasWord.Statement (.memcfgWrite a) := HasWord.of_event rfl rfl
theorem HasWord.linkcfgWrite a : HasWord.Statement (.linkcfgWrite a) := HasWord.of_event rfl rfl
theorem HasWord.contcfgWrite a : HasWord.Statement (.contcfgWrite a) := HasWord.of_event rfl rfl
theorem HasWord.registerWrite a b : HasWord.Statement (.registerWrite a b) := HasWord.of_event rfl rfl
theorem HasWord.frameOwner a b : HasWord.Statement (.frameOwner a b) := HasWord.of_event rfl rfl
theorem HasWord.reservedSlots a : HasWord.Statement (.reservedSlots a) := HasWord.of_event rfl rfl
theorem HasWord.retireUnit a b c : HasWord.Statement (.retireUnit a b c) := HasWord.of_event rfl rfl
theorem HasWord.preEmpt a b c d e f : HasWord.Statement (.preEmpt a b c d e f) := HasWord.of_event rfl rfl
theorem HasWord.migratePage a b c : HasWord.Statement (.migratePage a b c) := HasWord.of_event rfl rfl
theorem HasWord.endpointMap a b c : HasWord.Statement (.endpointMap a b c) := HasWord.of_event rfl rfl
theorem HasWord.releaseHeld a b : HasWord.Statement (.releaseHeld a b) := HasWord.of_event rfl rfl
theorem HasWord.powerLimit a : HasWord.Statement (.powerLimit a) := HasWord.of_event rfl rfl
theorem HasWord.mailboxDone : HasWord.Statement (.mailboxDone) := HasWord.of_event rfl rfl
theorem HasWord.pfrespServe a b : HasWord.Statement (.pfrespServe a b) := HasWord.of_event rfl rfl
theorem HasWord.pfrespDecline a b : HasWord.Statement (.pfrespDecline a b) := HasWord.of_event rfl rfl
theorem HasWord.pageFaultEnqueue a : HasWord.Statement (.pageFaultEnqueue a) := HasWord.of_event rfl rfl
theorem HasWord.lostClear a : HasWord.Statement (.lostClear a) := HasWord.of_event rfl rfl
theorem HasWord.sparmreq a b c : HasWord.Statement (.sparmreq a b c) := HasWord.of_event rfl rfl
theorem HasWord.spdis a b : HasWord.Statement (.spdis a b) := HasWord.of_event rfl rfl
theorem HasWord.invalidateRequest a b : HasWord.Statement (.invalidateRequest a b) := HasWord.of_event rfl rfl
theorem HasWord.invalidateCompletion : HasWord.Statement (.invalidateCompletion) := HasWord.of_event rfl rfl
theorem HasWord.getMeasurements a b : HasWord.Statement (.getMeasurements a b) := HasWord.of_event rfl rfl
theorem HasWord.boot : HasWord.Statement (.boot) := HasWord.of_event rfl rfl
theorem HasWord.clockThrottle : HasWord.Statement (.clockThrottle) := HasWord.of_event rfl rfl
theorem HasWord.clockRestore : HasWord.Statement (.clockRestore) := HasWord.of_event rfl rfl
theorem HasWord.postedAccessAnswer a : HasWord.Statement (.postedAccessAnswer a) := HasWord.of_event rfl rfl
theorem HasWord.linkRetrained a : HasWord.Statement (.linkRetrained a) := HasWord.of_event rfl rfl
theorem HasWord.flitCheckFailure a : HasWord.Statement (.flitCheckFailure a) := HasWord.of_event rfl rfl
theorem HasWord.memoEntryAged a b : HasWord.Statement (.memoEntryAged a b) := HasWord.of_event rfl rfl
theorem HasWord.migrationLeaseWaitEnd : HasWord.Statement (.migrationLeaseWaitEnd) := HasWord.of_event rfl rfl
theorem HasWord.remoteDataCacheClearEnd : HasWord.Statement (.remoteDataCacheClearEnd) := HasWord.of_event rfl rfl

end Sys2Proof.Laws
end

