-- ==== Sys2Proof/Tests/Slice0.lean ====
section
/-! SUPPORT. Tests: words written out from the encodings of the spec and the instructions they stand for, worked
examples of the spec, ill-formed terms, and for each statement with hypotheses a state that meets them. -/

section

set_option Elab.async false

open Sys2Proof Sys2Proof.Machine
def Tests.w (opc d a b imm mod : Nat) : Nat :=
  opc + 7 * 2 ^ 10 + d * 2 ^ 14 + a * 2 ^ 23 + b * 2 ^ 32 + imm * 2 ^ 44 + mod * 2 ^ 76

/-! ## Decoding -/

def Tests.words_control : List (Nat × Instr) :=
  [(w 0x000 0 0 0 0 0x000, .nop { mod := () }),
   (w 0x001 0 0 0 4294967295 0x000, .bra { imm := 4294967295, mod := () }),
   (w 0x002 0 3 0 4 0x000, .brx { a := .v 3, imm := 4, mod := () }),
   (w 0x003 2 0 0 9 0x000, .call { d := .v 2, imm := 9, mod := () }),
   (w 0x003 2 4 0 0 0x001, .callInd { d := .v 2, a := .v 4, mod := () }),
   (w 0x004 0 2 0 0 0x000, .ret { a := .v 2, mod := () }),
   (w 0x005 0 0 0 6 0x000, .meet { imm := 6, mod := () }),
   (w 0x005 8 0 0 6 0x001, .meetSave { d := .v 8, imm := 6, mod := () }),
   (w 0x006 0 0 0 0 0x000, .rejoin { mod := () }),
   (w 0x006 0 8 0 0 0x001, .rejoinRest { a := .v 8, mod := () }),
   (w 0x007 0 0 0 0 0x000, .exit { mod := () }),
   (w 0x008 0 0 0 0 0x000, .yield { mod := () }),
   (w 0x009 345 346 0 0 0x000, .voteAny { d := .p 1, a := .p 2, mod := () }),
   (w 0x009 345 346 0 0 0x001, .voteAll { d := .p 1, a := .p 2, mod := () }),
   (w 0x009 259 346 0 0 0x002, .voteMask { d := .s 3, a := .p 2, mod := () }),
   (w 0x00A 1 2 481 0 0x000, .shflPick { d := .v 1, a := .v 2, b := .sp .one, mod := () }),
   (w 0x00A 1 2 481 0 0x001, .shflRot { d := .v 1, a := .v 2, b := .sp .one, mod := () }),
   (w 0x00A 1 2 481 0 0x002, .shflSlide { d := .v 1, a := .v 2, b := .sp .one, mod := () }),
   (w 0x00A 1 2 481 0 0x003, .shflMir { d := .v 1, a := .v 2, b := .sp .one, mod := () })]

theorem test_decode_control : (Tests.words_control.all fun r => decodeTableWord 96 r.1 == some r.2) = true := by decide

def Tests.words_integer : List (Nat × Instr) :=
  [(w 0x040 1 2 3 0 0x280, .add { d := .v 1, a := .v 2, b := .v 3, mod := { ty := .i32, sat := true } }),
   (w 0x041 257 258 480 0 0x500, .sub { d := .s 1, a := .s 2, b := .sp .zero, mod := { ty := .n16 } }),
   (w 0x042 1 2 3 0 0x400, .mulLo { d := .v 1, a := .v 2, b := .v 3, mod := { ty := .n8 } }),
   (w 0x043 2 4 6 0 0x300, .mulHi { d := .v 2, a := .v 4, b := .v 6, mod := { ty := .i64 } }),
   (w 0x044 1 2 3 4 0x600, .mad { d := .v 1, a := .v 2, b := .v 3, c := .v 4, mod := { ty := .n32 } }),
   (w 0x045 2 4 5 6 0x200, .madWide { d := .v 2, a := .v 4, b := .v 5, c := .v 6, mod := { ty := .i32 } }),
   (w 0x046 1 2 3 0 0x280, .div { d := .v 1, a := .v 2, b := .v 3, mod := { ty := .i32, sat := true } }),
   (w 0x047 1 2 3 0 0x600, .rem { d := .v 1, a := .v 2, b := .v 3, mod := { ty := .n32 } }),
   (w 0x048 1 2 3 0 0x000, .min { d := .v 1, a := .v 2, b := .v 3, mod := { ty := .i8 } }),
   (w 0x049 1 2 3 0 0x100, .max { d := .v 1, a := .v 2, b := .v 3, mod := { ty := .i16 } }),
   (w 0x04A 1 2 0 0 0x200, .abs { d := .v 1, a := .v 2, mod := { ty := .i32 } }),
   (w 0x04B 1 2 0 0 0x080, .neg { d := .v 1, a := .v 2, mod := { ty := .i8, sat := true } }),
   (w 0x04C 1 2 3 0 0x800, .and { d := .v 1, a := .v 2, b := .v 3, mod := { ty := .b32 } }),
   (w 0x04D 2 4 6 0 0x700, .or { d := .v 2, a := .v 4, b := .v 6, mod := { ty := .n64 } }),
   (w 0x04E 1 2 3 0 0x800, .xor { d := .v 1, a := .v 2, b := .v 3, mod := { ty := .b32 } }),
   (w 0x04F 1 2 0 0 0x800, .not { d := .v 1, a := .v 2, mod := { ty := .b32 } }),
   (w 0x050 1 2 3 0 0x800, .shl { d := .v 1, a := .v 2, b := .v 3, mod := { ty := .b32 } }),
   (w 0x051 2 4 3 0 0x700, .shr { d := .v 2, a := .v 4, b := .v 3, mod := { ty := .n64 } }),
   (w 0x052 1 2 3 0 0x200, .sar { d := .v 1, a := .v 2, b := .v 3, mod := { ty := .i32 } }),
   (w 0x053 1 2 3 0 0x800, .rot { d := .v 1, a := .v 2, b := .v 3, mod := { ty := .b32 } })]
  ++ [(w 0x054 1 2 0 0 0x700, .clz { d := .v 1, a := .v 2, mod := { ty := .n64 } }),
   (w 0x055 1 2 0 0 0x800, .popc { d := .v 1, a := .v 2, mod := { ty := .b32 } }),
   (w 0x056 1 2 0 0 0x800, .brev { d := .v 1, a := .v 2, mod := { ty := .b32 } }),
   (w 0x057 1 2 3 0 0x200, .bfx { d := .v 1, a := .v 2, b := .v 3, mod := { ty := .i32 } }),
   (w 0x058 1 2 3 4 0x800, .bfi { d := .v 1, a := .v 2, b := .v 3, c := .v 4, mod := { ty := .b32 } }),
   (w 0x059 2 4 5 0 0x604, .lea { d := .v 2, a := .v 4, b := .v 5, mod := { ty := .n32, var := 4 } }),
   (w 0x05A 345 2 3 0 0x650, .setp { d := .p 1, a := .v 2, b := .v 3, mod := { ty := .n32, cmp := .ge } }),
   (w 0x05B 1 2 3 348 0x800, .sel { d := .v 1, a := .v 2, b := .v 3, c := .p 4, mod := { ty := .b32 } }),
   (w 0x05C 344 345 346 347 0x006, .plop { d := .p 0, a := .p 1, b := .p 2, c := .p 3, mod := { ty := .i8, var := 6 } }),
   (w 0x05D 345 258 0 0 0x800, .mov { d := .p 1, a := .s 2, mod := { ty := .b32 } }),
   (w 0x05E 261 0 0 3735928559 0x800, .movi { d := .s 5, imm := 3735928559, mod := { ty := .b32 } }),
   (w 0x05F 1 2 3 4 0x480, .dp4 { d := .v 1, a := .v 2, b := .v 3, c := .v 4, mod := { ty := .n8, sat := true } })]

theorem test_decode_integer : (Tests.words_integer.all fun r => decodeTableWord 96 r.1 == some r.2) = true := by decide

def Tests.words_integer_immediate : List (Nat × Instr) :=
  [(w 0x080 2 4 0 2147483649 0x200, .addImm { d := .v 2, a := .v 4, imm := 2147483649, mod := { ty := .i32 } }),
   (w 0x081 2 4 0 2147483649 0x300, .subImm { d := .v 2, a := .v 4, imm := 2147483649, mod := { ty := .i64 } }),
   (w 0x082 2 4 0 2147483649 0x600, .mulLoImm { d := .v 2, a := .v 4, imm := 2147483649, mod := { ty := .n32 } }),
   (w 0x083 2 4 0 2147483649 0x600, .mulHiImm { d := .v 2, a := .v 4, imm := 2147483649, mod := { ty := .n32 } }),
   (w 0x086 2 4 0 2147483649 0x200, .divImm { d := .v 2, a := .v 4, imm := 2147483649, mod := { ty := .i32 } }),
   (w 0x087 2 4 0 2147483649 0x600, .remImm { d := .v 2, a := .v 4, imm := 2147483649, mod := { ty := .n32 } }),
   (w 0x088 2 4 0 2147483649 0x200, .minImm { d := .v 2, a := .v 4, imm := 2147483649, mod := { ty := .i32 } }),
   (w 0x089 2 4 0 2147483649 0x200, .maxImm { d := .v 2, a := .v 4, imm := 2147483649, mod := { ty := .i32 } }),
   (w 0x08C 2 4 0 2147483649 0x800, .andImm { d := .v 2, a := .v 4, imm := 2147483649, mod := { ty := .b32 } }),
   (w 0x08D 2 4 0 2147483649 0x800, .orImm { d := .v 2, a := .v 4, imm := 2147483649, mod := { ty := .b32 } }),
   (w 0x08E 2 4 0 2147483649 0x800, .xorImm { d := .v 2, a := .v 4, imm := 2147483649, mod := { ty := .b32 } }),
   (w 0x090 2 4 0 2147483649 0x800, .shlImm { d := .v 2, a := .v 4, imm := 2147483649, mod := { ty := .b32 } }),
   (w 0x091 2 4 0 2147483649 0x800, .shrImm { d := .v 2, a := .v 4, imm := 2147483649, mod := { ty := .b32 } }),
   (w 0x092 2 4 0 2147483649 0x200, .sarImm { d := .v 2, a := .v 4, imm := 2147483649, mod := { ty := .i32 } }),
   (w 0x093 2 4 0 2147483649 0x800, .rotImm { d := .v 2, a := .v 4, imm := 2147483649, mod := { ty := .b32 } }),
   (w 0x099 2 4 0 5 0x202, .leaImm { d := .v 2, a := .v 4, imm := 5, mod := { ty := .i32, var := 2 } }),
   (w 0x09A 350 258 0 7 0x220, .setpImm { d := .p 6, a := .s 2, imm := 7, mod := { ty := .i32, cmp := .lt } })]

theorem test_decode_integer_immediate : (Tests.words_integer_immediate.all fun r => decodeTableWord 96 r.1 == some r.2) = true := by decide

def Tests.words_float : List (Nat × Instr) :=
  [(w 0x0C0 1 2 3 0 0x080, .fadd { d := .v 1, a := .v 2, b := .v 3, mod := { sat := true } }),
   (w 0x0C1 1 2 3 0 0x080, .fsub { d := .v 1, a := .v 2, b := .v 3, mod := { sat := true } }),
   (w 0x0C2 1 2 3 0 0x080, .fmul { d := .v 1, a := .v 2, b := .v 3, mod := { sat := true } }),
   (w 0x0CB 1 2 3 0 0x080, .fdiv { d := .v 1, a := .v 2, b := .v 3, mod := { sat := true } }),
   (w 0x0C4 1 2 3 0 0x000, .fmin { d := .v 1, a := .v 2, b := .v 3, mod := {} }),
   (w 0x0C5 1 2 3 0 0x000, .fmax { d := .v 1, a := .v 2, b := .v 3, mod := {} }),
   (w 0x0C3 1 2 3 4 0x000, .fma { d := .v 1, a := .v 2, b := .v 3, c := .v 4, mod := {} }),
   (w 0x0C6 345 2 3 0 0x060, .fsetp { d := .p 1, a := .v 2, b := .v 3, mod := { cmp := .un } }),
   (w 0x0C7 1 2 0 0 0x100, .fclass { d := .v 1, a := .v 2, mod := { fmt := .bf16 } }),
   (w 0x0C8 1 2 0 0 0x000, .frcp { d := .v 1, a := .v 2, mod := {} }),
   (w 0x0C9 1 2 0 0 0x000, .frsq { d := .v 1, a := .v 2, mod := {} }),
   (w 0x0CA 1 2 0 0 0x000, .fsqrt { d := .v 1, a := .v 2, mod := {} }),
   (w 0x0CC 1 2 0 0 0x000, .fexp2 { d := .v 1, a := .v 2, mod := {} }),
   (w 0x0CD 1 2 0 0 0x000, .flog2 { d := .v 1, a := .v 2, mod := {} }),
   (w 0x0CE 1 2 0 0 0x000, .fsin { d := .v 1, a := .v 2, mod := {} }),
   (w 0x0CF 1 2 0 0 0x000, .fcos { d := .v 1, a := .v 2, mod := {} }),
   (w 0x0D0 1 2 0 0 0x000, .ftanh { d := .v 1, a := .v 2, mod := {} }),
   (w 0x0D1 1 2 3 0 0x280, .hadd2 { d := .v 1, a := .v 2, b := .v 3, mod := { fmt := .f16, sat := true } }),
   (w 0x0D2 1 2 3 0 0x100, .hmul2 { d := .v 1, a := .v 2, b := .v 3, mod := { fmt := .bf16 } }),
   (w 0x0D3 1 2 3 4 0x200, .hfma2 { d := .v 1, a := .v 2, b := .v 3, c := .v 4, mod := { fmt := .f16 } })]
  ++ [(w 0x0D4 1 2 0 0 0x380, .cvt { d := .v 1, a := .v 2, mod := { fmt := .e4m3, sat := true } }),
   (w 0x100 1 2 0 1065353216 0x000, .faddImm { d := .v 1, a := .v 2, imm := 1065353216, mod := {} }),
   (w 0x101 1 2 0 1065353216 0x000, .fsubImm { d := .v 1, a := .v 2, imm := 1065353216, mod := {} }),
   (w 0x102 1 2 0 1065353216 0x000, .fmulImm { d := .v 1, a := .v 2, imm := 1065353216, mod := {} }),
   (w 0x104 1 2 0 1065353216 0x000, .fminImm { d := .v 1, a := .v 2, imm := 1065353216, mod := {} }),
   (w 0x105 1 2 0 1065353216 0x000, .fmaxImm { d := .v 1, a := .v 2, imm := 1065353216, mod := {} }),
   (w 0x106 345 2 0 1065353216 0x030, .fsetpImm { d := .p 1, a := .v 2, imm := 1065353216, mod := { cmp := .le } })]

theorem test_decode_float : (Tests.words_float.all fun r => decodeTableWord 96 r.1 == some r.2) = true := by decide

def Tests.words_quantise : List (Nat × Instr) :=
  [(w 0x140 1 2 3 127 0x500, .qblk { d := .v 1, a := .v 2, b := .v 3, imm := 127, mod := { fmt := .e2m1 } }),
   (w 0x141 1 2 3 64 0x680, .dqblk { d := .v 1, a := .v 2, b := .v 3, imm := 64, mod := { fmt := .i4e, sat := true } }),
   (w 0x142 1 2 0 0 0x800, .pk4 { d := .v 1, a := .v 2, mod := { fmt := .i8 } }),
   (w 0x143 1 2 0 0 0x000, .upk4 { d := .v 1, a := .v 2, mod := { fmt := .f32 } }),
   (w 0x144 1 2 3 0 0x000, .amax { d := .v 1, a := .v 2, b := .v 3, mod := { fmt := .f32 } })]

theorem test_decode_quantise : (Tests.words_quantise.all fun r => decodeTableWord 96 r.1 == some r.2) = true := by decide

def Tests.words_matrix : List (Nat × Instr) :=
  [(w 0x180 321 258 259 16 0x040, .tld { d := .t 1, a := .s 2, b := .s 3, imm := 16, mod := { skew := true } }),
   (w 0x181 335 258 480 0 0x000, .tst { d := .t 15, a := .s 2, b := .sp .zero, mod := {} }),
   (w 0x182 322 0 0 0 0x000, .tzero { d := .t 2, mod := () }),
   (w 0x183 343 321 322 0 0x180, .mma { d := .acc 7, a := .t 1, b := .t 2, mod := { fmt := .bf16, trb := true } }),
   (w 0x184 337 321 322 9 0x305, .mmas { d := .acc 1, a := .t 1, b := .t 2, c := .v 9, mod := { fmt := .e4m3, var := 5 } }),
   (w 0x185 336 0 0 0 0x000, .accz { d := .acc 0, mod := () }),
   (w 0x186 337 260 0 0 0x000, .accmul { d := .acc 1, a := .s 4, mod := () }),
   (w 0x187 3 337 0 31 0x000, .accrd { d := .v 3, a := .acc 1, imm := 31, mod := () }),
   (w 0x188 337 3 0 31 0x000, .accwr { d := .acc 1, a := .v 3, imm := 31, mod := () }),
   (w 0x189 337 258 259 0 0x200, .accst { d := .acc 1, a := .s 2, b := .s 3, mod := { fmt := .f16 } }),
   (w 0x18A 337 0 0 0 0x000, .accdeclRetain { d := .acc 1, mod := () }),
   (w 0x18A 337 0 0 0 0x001, .accdeclRecompute { d := .acc 1, mod := () }),
   (w 0x18B 0 0 0 3 0x000, .rstlbl { imm := 3, mod := () })]

theorem test_decode_matrix : (Tests.words_matrix.all fun r => decodeTableWord 96 r.1 == some r.2) = true := by decide

def Tests.words_memory : List (Nat × Instr) :=
  [(w 0x200 4 2 0 4294967292 0x880, .lds { d := .v 4, a := .v 2, imm := 4294967292, mod := { sz := .b128, skew := true } }),
   (w 0x201 4 2 0 0 0x612, .sts { d := .v 4, a := .v 2, mod := { sz := .b64, sc := some .blk, ord := .rel } }),
   (w 0x202 1 2 0 0 0x361, .ldg { d := .v 1, a := .v 2, mod := { sz := .b16, sx := true, rq := .wt, sc := some .die, ord := .acq } }),
   (w 0x203 1 2 0 0 0x4F2, .stg { d := .v 1, a := .v 2, mod := { sz := .b32, rq := .ow, sc := some .sys, ord := .rel } }),
   (w 0x204 1 2 0 0 0x100, .ldk { d := .v 1, a := .v 2, mod := { sx := true } }),
   (w 0x205 1 2 0 0 0x400, .stk { d := .v 1, a := .v 2, mod := { sz := .b32 } }),
   (w 0x206 0 0 0 0 0x02B, .fence { mod := { sc := some .pkg, ord := .ar } }),
   (w 0x207 257 258 260 511 0x000, .crdecl { d := .s 1, a := .s 2, b := .s 4, imm := 511, mod := {} }),
   (w 0x208 0 2 0 0 0x400, .crfold { a := .v 2, mod := { sz := .b32 } }),
   (w 0x209 0 2 4 0 0x200, .cred { a := .v 2, b := .v 4, mod := { sz := .b16 } })]

theorem test_decode_memory : (Tests.words_memory.all fun r => decodeTableWord 96 r.1 == some r.2) = true := by decide

def Tests.words_atomics : List (Nat × Instr) :=
  [(w 0x210 1 2 4 0 0x480, .atomsAdd { d := .v 1, a := .v 2, b := .v 4, mod := { sz := .b32, skew := true } }),
   (w 0x220 1 2 4 0 0x434, .atomgAdd { d := .v 1, a := .v 2, b := .v 4, mod := { sz := .b32, sc := some .sys, ord := .sc } }),
   (w 0x230 0 2 4 0 0x422, .redgAdd { a := .v 2, b := .v 4, mod := { sz := .b32, sc := some .die, ord := .rel } }),
   (w 0x211 1 2 4 0 0x480, .atomsMin { d := .v 1, a := .v 2, b := .v 4, mod := { sz := .b32, skew := true } }),
   (w 0x221 1 2 4 0 0x434, .atomgMin { d := .v 1, a := .v 2, b := .v 4, mod := { sz := .b32, sc := some .sys, ord := .sc } }),
   (w 0x231 0 2 4 0 0x422, .redgMin { a := .v 2, b := .v 4, mod := { sz := .b32, sc := some .die, ord := .rel } }),
   (w 0x212 1 2 4 0 0x480, .atomsMax { d := .v 1, a := .v 2, b := .v 4, mod := { sz := .b32, skew := true } }),
   (w 0x222 1 2 4 0 0x434, .atomgMax { d := .v 1, a := .v 2, b := .v 4, mod := { sz := .b32, sc := some .sys, ord := .sc } }),
   (w 0x232 0 2 4 0 0x422, .redgMax { a := .v 2, b := .v 4, mod := { sz := .b32, sc := some .die, ord := .rel } }),
   (w 0x213 1 2 4 0 0x480, .atomsAnd { d := .v 1, a := .v 2, b := .v 4, mod := { sz := .b32, skew := true } }),
   (w 0x223 1 2 4 0 0x434, .atomgAnd { d := .v 1, a := .v 2, b := .v 4, mod := { sz := .b32, sc := some .sys, ord := .sc } }),
   (w 0x233 0 2 4 0 0x422, .redgAnd { a := .v 2, b := .v 4, mod := { sz := .b32, sc := some .die, ord := .rel } }),
   (w 0x214 1 2 4 0 0x480, .atomsOr { d := .v 1, a := .v 2, b := .v 4, mod := { sz := .b32, skew := true } }),
   (w 0x224 1 2 4 0 0x434, .atomgOr { d := .v 1, a := .v 2, b := .v 4, mod := { sz := .b32, sc := some .sys, ord := .sc } }),
   (w 0x234 0 2 4 0 0x422, .redgOr { a := .v 2, b := .v 4, mod := { sz := .b32, sc := some .die, ord := .rel } }),
   (w 0x215 1 2 4 0 0x480, .atomsXor { d := .v 1, a := .v 2, b := .v 4, mod := { sz := .b32, skew := true } }),
   (w 0x225 1 2 4 0 0x434, .atomgXor { d := .v 1, a := .v 2, b := .v 4, mod := { sz := .b32, sc := some .sys, ord := .sc } }),
   (w 0x235 0 2 4 0 0x422, .redgXor { a := .v 2, b := .v 4, mod := { sz := .b32, sc := some .die, ord := .rel } }),
   (w 0x216 1 2 4 0 0x480, .atomsExch { d := .v 1, a := .v 2, b := .v 4, mod := { sz := .b32, skew := true } }),
   (w 0x226 1 2 4 0 0x434, .atomgExch { d := .v 1, a := .v 2, b := .v 4, mod := { sz := .b32, sc := some .sys, ord := .sc } })]
  ++ [(w 0x217 1 2 4 0 0x480, .atomsCas { d := .v 1, a := .v 2, b := .v 4, mod := { sz := .b32, skew := true } }),
   (w 0x227 1 2 4 0 0x434, .atomgCas { d := .v 1, a := .v 2, b := .v 4, mod := { sz := .b32, sc := some .sys, ord := .sc } }),
   (w 0x218 1 2 4 0 0x480, .atomsInc { d := .v 1, a := .v 2, b := .v 4, mod := { sz := .b32, skew := true } }),
   (w 0x228 1 2 4 0 0x434, .atomgInc { d := .v 1, a := .v 2, b := .v 4, mod := { sz := .b32, sc := some .sys, ord := .sc } }),
   (w 0x238 0 2 4 0 0x422, .redgInc { a := .v 2, b := .v 4, mod := { sz := .b32, sc := some .die, ord := .rel } }),
   (w 0x219 1 2 4 0 0x480, .atomsDec { d := .v 1, a := .v 2, b := .v 4, mod := { sz := .b32, skew := true } }),
   (w 0x229 1 2 4 0 0x434, .atomgDec { d := .v 1, a := .v 2, b := .v 4, mod := { sz := .b32, sc := some .sys, ord := .sc } }),
   (w 0x239 0 2 4 0 0x422, .redgDec { a := .v 2, b := .v 4, mod := { sz := .b32, sc := some .die, ord := .rel } }),
   (w 0x21A 1 2 4 0 0x480, .atomsFadd { d := .v 1, a := .v 2, b := .v 4, mod := { sz := .b32, skew := true } }),
   (w 0x22A 1 2 4 0 0x434, .atomgFadd { d := .v 1, a := .v 2, b := .v 4, mod := { sz := .b32, sc := some .sys, ord := .sc } }),
   (w 0x23A 0 2 4 0 0x422, .redgFadd { a := .v 2, b := .v 4, mod := { sz := .b32, sc := some .die, ord := .rel } }),
   (w 0x21B 1 2 4 0 0x480, .atomsFmin { d := .v 1, a := .v 2, b := .v 4, mod := { sz := .b32, skew := true } }),
   (w 0x22B 1 2 4 0 0x434, .atomgFmin { d := .v 1, a := .v 2, b := .v 4, mod := { sz := .b32, sc := some .sys, ord := .sc } }),
   (w 0x23B 0 2 4 0 0x422, .redgFmin { a := .v 2, b := .v 4, mod := { sz := .b32, sc := some .die, ord := .rel } }),
   (w 0x21C 1 2 4 0 0x480, .atomsFmax { d := .v 1, a := .v 2, b := .v 4, mod := { sz := .b32, skew := true } }),
   (w 0x22C 1 2 4 0 0x434, .atomgFmax { d := .v 1, a := .v 2, b := .v 4, mod := { sz := .b32, sc := some .sys, ord := .sc } }),
   (w 0x23C 0 2 4 0 0x422, .redgFmax { a := .v 2, b := .v 4, mod := { sz := .b32, sc := some .die, ord := .rel } })]

theorem test_decode_atomics : (Tests.words_atomics.all fun r => decodeTableWord 96 r.1 == some r.2) = true := by decide

def Tests.words_copy : List (Nat × Instr) :=
  [(w 0x280 257 258 259 0 0xFEF, .cpy { d := .s 1, a := .s 2, b := .s 3, mod := { tag := 63, fmc := .fmc4, crc := true, fol := true, que := 3 } }),
   (w 0x281 1 2 4 0 0x040, .cpyl { d := .v 1, a := .v 2, b := .v 4, mod := { tag := 1 } }),
   (w 0x282 0 258 0 0 0x084, .cpyw { a := .s 2, mod := { tag := 2, fol := true } }),
   (w 0x283 0 258 0 0 0x080, .cpyp { a := .s 2, mod := { tag := 2 } }),
   (w 0x284 0 258 0 0 0x0D0, .cpyo { a := .s 2, mod := { tag := 3, fmc := .fmc2 } }),
   (w 0x285 0 258 0 0 0x100, .cpyxPut { a := .s 2, mod := { tag := 4 } }),
   (w 0x286 258 260 0 0 0x000, .twaitAny { d := .s 2, a := .s 4, mod := () }),
   (w 0x287 258 260 0 0 0x000, .twaitAll { d := .s 2, a := .s 4, mod := () }),
   (w 0x288 259 260 0 0 0x000, .tfind { d := .s 3, a := .s 4, mod := () }),
   (w 0x289 0 260 0 0 0x000, .tclr { a := .s 4, mod := () })]

theorem test_decode_copy : (Tests.words_copy.all fun r => decodeTableWord 96 r.1 == some r.2) = true := by decide

def Tests.words_synchronisation : List (Nat × Instr) :=
  [(w 0x300 0 257 258 0 0xBE0, .bini { a := .s 1, b := .s 2, mod := { idx := 95 } }),
   (w 0x301 0 0 0 0 0x060, .barv { mod := { idx := 3 } }),
   (w 0x302 0 257 0 0 0x060, .bexp { a := .s 1, mod := { idx := 3 } }),
   (w 0x303 0 0 0 0 0x062, .bwait { mod := { idx := 3, loc := true } }),
   (w 0x304 346 0 0 0 0x060, .btest { d := .p 2, mod := { idx := 3 } }),
   (w 0x305 0 257 258 0 0x1E0, .rinit { a := .s 1, b := .s 2, mod := { idx := 15 } }),
   (w 0x306 0 257 0 0 0x020, .push { a := .s 1, mod := { idx := 1 } }),
   (w 0x307 257 0 0 0 0x020, .pop { d := .s 1, mod := { idx := 1 } }),
   (w 0x308 0 0 0 201326597 0x000, .forkCopy { imm := 201326597, mod := {} }),
   (w 0x308 0 0 0 5 0x020, .forkMatrix { imm := 5, mod := { idx := 1 } }),
   (w 0x309 0 0 0 0 0x000, .rdvCopy { mod := {} }),
   (w 0x309 0 0 0 0 0x020, .rdvMatrix { mod := { idx := 1 } }),
   (w 0x30A 0 0 0 0 0x010, .drainDie { mod := { sc := some .die } }),
   (w 0x30A 0 0 0 0 0x014, .drainPkg { mod := { sc := some .pkg } })]

theorem test_decode_synchronisation : (Tests.words_synchronisation.all fun r => decodeTableWord 96 r.1 == some r.2) = true := by decide

def Tests.words_system : List (Nat × Instr) :=
  [(w 0x340 257 258 347 0 0xF00, .pour { d := .s 1, a := .s 2, b := .p 3, mod := { que := 15 } }),
   (w 0x341 257 258 0 0 0x000, .cwait { d := .s 1, a := .s 2, mod := () }),
   (w 0x342 257 0 0 3 0x000, .tknxt { d := .s 1, imm := 3, mod := () }),
   (w 0x342 0 257 0 511 0x000, .tknxtPooled { a := .s 1, imm := 511, mod := () }),
   (w 0x343 257 258 0 0 0x000, .sparm { d := .s 1, a := .s 2, mod := () }),
   (w 0x344 0 257 0 0 0x000, .prog { a := .s 1, mod := () }),
   (w 0x380 0 257 0 0 0x013, .movcr { a := .s 1, mod := (.skew 3) }),
   (w 0x381 258 0 0 0 0x021, .movrc { d := .s 2, mod := .tagmap }),
   (w 0x382 2 0 0 0 0x000, .rdclk { d := .v 2, mod := () }),
   (w 0x383 257 0 0 0 0x000, .sysVersion { d := .s 1, mod := () }),
   (w 0x383 257 0 0 1 0x000, .sysRecoveryState { d := .s 1, imm := 1, mod := () }),
   (w 0x383 257 0 0 2 0x000, .sysSetSideEffect { d := .s 1, imm := 2, mod := () }),
   (w 0x383 257 0 0 3 0x000, .sysPourNumber { d := .s 1, imm := 3, mod := () }),
   (w 0x384 0 257 0 896 0x000, .trap { a := .s 1, imm := 896, mod := () }),
   (w 0x385 0 480 0 0 0x000, .rft { a := .sp .zero, mod := () }),
   (w 0x385 0 480 0 1 0x000, .rftAbort { a := .sp .zero, imm := 1, mod := () }),
   (w 0x386 257 258 0 0 0x000, .asgen { d := .s 1, a := .s 2, mod := () }),
   (w 0x387 257 258 260 63 0x000, .splint { d := .s 1, a := .s 2, b := .s 4, imm := 63, mod := () }),
   (w 0x388 257 258 0 0 0x000, .tagkill { d := .s 1, a := .s 2, mod := () }),
   (w 0x389 257 258 260 0 0x000, .dtload { d := .s 1, a := .s 2, b := .s 4, mod := () })]

theorem test_decode_system : (Tests.words_system.all fun r => decodeTableWord 96 r.1 == some r.2) = true := by decide

/-- Words of the codes that map 2 moves (R51). -/
def Tests.words_map2 : List (Nat × Instr) :=
  [(w 0x043 1 2 3 0 0x400, .mulLoMap2 { d := .v 1, a := .v 2, b := .v 3, mod := { ty := .n8 } }),
   (w 0x042 2 4 6 0 0x300, .mulHiMap2 { d := .v 2, a := .v 4, b := .v 6, mod := { ty := .i64 } }),
   (w 0x3C0 0 257 258 0 0xBE0, .biniMap2 { a := .s 1, b := .s 2, mod := { idx := 95 } }),
   (w 0x3C1 0 0 0 0 0x060, .barvMap2 { mod := { idx := 3 } }),
   (w 0x3C2 0 257 0 0 0x060, .bexpMap2 { a := .s 1, mod := { idx := 3 } }),
   (w 0x3C3 0 0 0 0 0x062, .bwaitMap2 { mod := { idx := 3, loc := true } }),
   (w 0x3C4 346 0 0 0 0x060, .btestMap2 { d := .p 2, mod := { idx := 3 } }),
   (w 0x3C5 0 0 0 5 0x020, .forkMap2 { imm := 5, mod := { idx := 1 } }),
   (w 0x3C6 0 0 0 0 0x020, .rdvMap2 { mod := { idx := 1 } }),
   (w 0x3C7 0 0 0 0 0x014, .drainMap2 { mod := { sc := some .pkg } })]

theorem test_decode_map2 : (Tests.words_map2.all fun r => decode ⟨.map2, true, 255⟩ (BitVec.ofNat 96 r.1) == .ok r.2) = true := by decide

/-! ## A small machine

One booted context (tag 1) whose 1 GiB page maps device memory onto itself, one pour of one flask with one block in slot
0, and one squad of 32 lanes in one sub-group at PC 0. An image lies at 0x800, with its handler record at 0x1000 and
a kernel record at 0x1080; a launch descriptor that names it lies at 0x2080. -/

/-- The kernel: 256 instructions from address 0. -/
def Tests.kernel : Kernel :=
  { codeHi := 0xC00, regs := 254, tiles := 16, accs := 8, tags := 64, bars := 4, runners := 2, shared := 4096, depths := [4, 4] }

/-- Image, descriptor, page table and nothing else, as the nonzero bytes of device memory. -/
def Tests.mem : Memory :=
  [(0x802, 3), (0x804, 3), (0x809, 1), (0x80C, 12), (0x810, 2), (0x815, 8), (0x1001, 8), (0x100C, 1),
   (0x1081, 8), (0x108D, 1), (0x108E, 1), (0x108F, 32), (0x1098, 1), (0x2080, 0x80), (0x2081, 0x10), (0x20A4, 1), (0x20A8, 1), (0x20AC, 1),
   (0x10000, 1), (0x10001, 0x10), (0x10002, 1), (0x11000, 1), (0x11001, 0x20), (0x11002, 1), (0x12000, 0x1F)]

/-- The machine, with a squad. -/
def Tests.mach (q : Squad) : State :=
  { squads := [(0, q)]
    blocks := [(0, { flask := 5, idx := 0, bars := [(0, {}), (1, {}), (2, {}), (3, {})] })]
    flasks := [(5, { pour := 7, idx := 0, blocks := [0] })]
    pours := [(7, { tag := 1, num := 1, kern := Tests.kernel, desc := { stksz := 64, stkb := 0x4000, ws := [(3, 2)] } })]
    contexts := [(1, { en := true, priv := true, tenant := 0, root := 0x10000, hentry := 0x1000, tables := [(0, .map3)] })]
    tenants := [(0, { en := true, urt := true, nvec := 4, nq := 2
                      queues := [(0, { en := true, depthM1 := 3, mask := BitVec.allOnes 240 })] })]
    mem := { dev := Tests.mem }
    dev := { regs := { bootStep := 7 }, dies := [(0, { phase := .running }), (1, { phase := .running })] }
    homes := { frames := [(0, 1), (1, 0x80FF)] } }

/-- The squad: every lane in one sub-group at PC 0. -/
def Tests.squad0 : Squad := { ctl := { groups := [{ lanes := 0xFFFFFFFF, pc := 0 }] } }
/-- The machine with that squad. -/
def Tests.base : State := Tests.mach Tests.squad0
/-- The issue that it leads to. -/
def Tests.x0 : Ins := { bid := 0, sq := 0, grp := 0, lanes := 0xFFFFFFFF, pass := 0xFFFFFFFF, pc := 0 }
/-- The squad with scalar registers and, in every lane, vector registers. -/
def Tests.withRegs (s v : Table Word) : State :=
  Tests.mach { Tests.squad0 with
    rf := { s, v := v.flatMap fun e => (List.range 32).map fun i => (e.1 * 32 + i, e.2) } }
/-- The next state of an outcome, or a state. -/
def Tests.nextOr (o : Host.Outcome State Fault Refusal) (s : State) : State :=
  match o with
  | .next t => t
  | _ => s
open Tests

/-! ## Worked examples of the spec -/

/-- A machine whose one active lane holds a, b and c in v4, v5 and v6. -/
def Tests.one (a b c : Word) : State :=
  mach { ctl := { groups := [{ lanes := 1, pc := 0 }] }, rf := { v := [(128, a), (160, b), (192, c)] } }
/-- v7 of lane 0 after the instruction `f` on v4, v5 and v6. -/
def Tests.d7 {μ : Type} (f : Args μ → Instr) (m : μ) (a b c : Word) : Word :=
  ((nextOr (exec (f { d := .v 7, a := .v 4, b := .v 5, c := .v 6, mod := m }) (one a b c)) (one a b c)).squad 0 0).rf.v.get 224 0
/-- The same of an instruction that reads v4 alone. -/
def Tests.d7u {μ : Type} (f : Args μ → Instr) (m : μ) (a : Word) : Word :=
  ((nextOr (exec (f { d := .v 7, a := .v 4, mod := m }) (one a 0 0)) (one a 0 0)).squad 0 0).rf.v.get 224 0

/-- The table of R97: add and subtract. -/
theorem test_add_sub :
    d7 .add { ty := .i32 } 0x7FFFFFFF 1 0 = 0x80000000 ∧ d7 .add { ty := .i32, sat := true } 0x7FFFFFFF 1 0 = 0x7FFFFFFF
    ∧ d7 .add { ty := .i8 } 100 100 0 = 0xFFFFFFC8 ∧ d7 .add { ty := .i8, sat := true } 100 100 0 = 0x7F
    ∧ d7 .sub { ty := .n32, sat := true } 3 5 0 = 0 := by decide
/-- The table of R97: divide and multiply. -/
theorem test_div_mul :
    d7 .div { ty := .i32 } 0xFFFFFFF9 2 0 = 0xFFFFFFFD ∧ d7 .rem { ty := .i32 } 0xFFFFFFF9 2 0 = 0xFFFFFFFF
    ∧ d7 .div { ty := .i32 } 0x80000000 0xFFFFFFFF 0 = 0x80000000
    ∧ d7 .div { ty := .i32, sat := true } 0x80000000 0xFFFFFFFF 0 = 0x7FFFFFFF
    ∧ d7 .rem { ty := .i32 } 0x80000000 0xFFFFFFFF 0 = 0
    ∧ d7 .div { ty := .n32 } 9 0 0 = 0xFFFFFFFF ∧ d7 .rem { ty := .n32 } 9 0 0 = 9
    ∧ d7 .mulHi { ty := .i32 } 0x80000000 2 0 = 0xFFFFFFFF := by decide
/-- The table of R97: shifts, counts, fields and the dot product. -/
theorem test_bits :
    d7 .shl { ty := .b32 } 1 32 0 = 0 ∧ d7 .rot { ty := .b32 } 0x80000001 33 0 = 3 ∧ d7u .clz { ty := .b32 } 0 = 32
    ∧ d7 .bfx { ty := .i32 } 0xF30 0x804 0 = 0xFFFFFFF3 ∧ d7 .bfx { ty := .n32 } 0xF30 0x804 0 = 0xF3
    ∧ d7 .dp4 { ty := .i8 } 0x80FF0102 0x7F030405 100 = 0xFFFFC0EF := by decide

/-- The table of R105: sums, products, least and largest. -/
theorem test_float_arith :
    d7 .fadd {} 0x7F7FFFFF 0x7F7FFFFF 0 = 0x7F800000 ∧ d7 .fadd { sat := true } 0x7F7FFFFF 0x7F7FFFFF 0 = 0x7F7FFFFF
    ∧ d7 .fadd {} 0x7F800000 0xFF800000 0 = 0x7FC00000 ∧ d7 .fadd {} 0x80000000 0x80000000 0 = 0x80000000
    ∧ d7 .fsub {} 0x3F800000 0x3F800000 0 = 0 ∧ d7 .fmul {} 0x3F800800 0x3F800800 0 = 0x3F801000
    ∧ d7 .fsub {} 0x3F801000 0x3F800000 0 = 0x3A000000 ∧ d7 .fma {} 0x3F800800 0x3F800800 0xBF800000 = 0x3A000400
    ∧ d7 .fmin {} 0xFFC00001 0x40000000 0 = 0x40000000 ∧ d7 .fmax {} 0x80000000 0 0 = 0
    ∧ d7u .fclass {} 0x80000001 = 4 ∧ d7 .hadd2 { fmt := .bf16 } 0x3F803F80 0x3B804000 0 = 0x3F804040 := by decide +kernel
/-- The table of R105: the functions. -/
theorem test_float_functions :
    d7u .frcp {} 0x40400000 = 0x3EAAAAAB ∧ d7u .frcp { sat := true } 0 = 0x7F7FFFFF ∧ d7u .fsqrt {} 0x40000000 = 0x3FB504F3
    ∧ d7u .fexp2 {} 0xC3158000 = 1 ∧ d7u .flog2 {} 0 = 0xFF800000 ∧ d7u .fsin {} 0x7F800000 = 0x7FC00000 := by decide +kernel
/-- The example of R107. -/
theorem test_cvt_rounds_to_even :
    decodeTableWord 96 0x00800000000020000380DCD4 = some (.cvt { d := .v 3, a := .v 7, imm := 2, mod := { fmt := .i8 } })
    ∧ d7u (fun a => .cvt { a with imm := 2 }) { fmt := .i8 } 0xC0200000 = 0xFFFFFFFE
    ∧ d7u (fun a => .cvt { a with imm := 2 }) { fmt := .i8 } 0x7FC00000 = 0 := by decide +kernel

/-- The squad of the example of R113: the sources in v8 and one word of scales in v30. -/
def Tests.blockIn : State :=
  mach { squad0 with rf := { v := [(256, 0x447A0000), (257, 0x40533333), (258, 0xC1A00000), (259, 0xBA83126F), (961, 0x11111111)] } }
def Tests.blockOut : State :=
  nextOr (exec (.qblk { d := .v 20, a := .v 8, b := .v 30, imm := 33, mod := { fmt := .e4m3 } }) blockIn) blockIn
theorem test_qblk :
    (blockOut.squad 0 0).rf.v.get 640 0 = 0x80D23D7E ∧ (blockOut.squad 0 0).rf.v.get 641 0 = 0
    ∧ (blockOut.squad 0 0).rf.v.get 961 0 = 0x11118011 := by decide +kernel
/-- The block of that example. -/
def Tests.codesIn : State := mach { squad0 with rf := { v := [(640, 0x80D23D7E), (961, 0x11118011)] } }
def Tests.codesOut : State :=
  nextOr (exec (.dqblk { d := .v 24, a := .v 20, b := .v 30, imm := 33, mod := { fmt := .e4m3 } }) codesIn) codesIn
theorem test_dqblk :
    ((List.range 5).map fun i => (codesOut.squad 0 0).rf.v.get (768 + i) 0)
      = [0x44600000, 0x40500000, 0xC1A00000, 0x80000000, 0] := by decide +kernel

/-- The packing table of R80, as integers: pairs (7, 0), (40, −40), (200, 1) and zeros. -/
def Tests.pairsIn : State :=
  mach { squad0 with rf := { v := [(256, 0x40D33333), (257, 0xBECCCCCD), (258, 0x4059999A), (259, 0xC1400000),
    (260, 0x42200000), (261, 0xC2200000), (262, 0xC0F00000), (263, 0x40000000)] } }
def Tests.pairsOut : State := nextOr (exec (.pk4 { d := .v 20, a := .v 8, mod := { fmt := .f32 } }) pairsIn) pairsIn
theorem test_pk4 : (pairsOut.squad 0 0).rf.v.get 640 0 = 0x98488A07 := by decide +kernel

/-! ## Witnesses of the hypotheses of the statements -/

/-- One argument record per family. -/
def Tests.ai : Args IntMod := { d := .v 4, a := .v 5, b := .v 6, mod := { ty := .i32 } }
def Tests.af : Args FpMod := { d := .v 4, a := .v 5, b := .v 6, mod := {} }
def Tests.aq : Args QMod := { d := .v 4, a := .v 5, b := .v 6, mod := { fmt := .e4m3 } }
def Tests.au : Args Unit := { mod := () }
def Tests.am : Args MatMod := { d := .t 1, a := .s 2, b := .s 3, mod := {} }
def Tests.ap : Args PMod := { d := .v 4, a := .v 5, b := .v 6, mod := { sz := .b32 } }
def Tests.ag : Args GMod := { d := .v 4, a := .v 6, b := .v 8, mod := { sz := .b32 } }
def Tests.ac : Args CMod := { a := .s 2, mod := {} }
def Tests.as : Args SMod := { a := .s 2, b := .s 4, mod := {} }

theorem base_wf : Tests.base.mem.wf = true := by decide

theorem test_handler_usable : (base.handlerOf 0).isSome = true := by decide

theorem witness_DecodeEncodeAgree :
    (Instr.add { ai with d := .v 31, guard := { neg := true, sel := 7 }, hint := { space := 7, res := true }, feb := true }).wf 32 = true
    ∧ (Instr.add ai).isGet = false := by decide

theorem witness_EntryChecksInOrder :
    ((unpack 0).opc.toNat = 0)
    ∧ ((DTable.entry (.loaded true [0xFFF0]) 0).extractLsb' 4 12).toNat = 0xFFF
    ∧ ((DTable.entry (.loaded true [0x0008]) 0).extractLsb' 4 12).toNat ≠ 0xFFF ∧ (DTable.entry (.loaded true [0x0008]) 0).getLsbD 3 = true
    ∧ ((DTable.entry (.loaded true [0x000C]) 0).extractLsb' 4 12).toNat ≠ 0xFFF ∧ (DTable.entry (.loaded true [0x0004]) 0).getLsbD 3 = false
    ∧ (DTable.entry (.loaded true [0x000C]) 0).getLsbD 2 = true := by decide

theorem witness_DecodedIsWellFormed :
    decode ⟨.map3, false, 7⟩ (BitVec.ofNat 96 (w 0x040 4 5 6 0 0x200)) = .ok (.add ai) := by decide

/-- The nop of R240 placed as the first instruction. -/
def Tests.placed : State := State.reset.withFetchWord 96 0x1C00
/-- It as its turn begins, and after the pick of the turn. -/
def Tests.began : State := ({ placed with ctrl := { placed.ctrl with agenda := [] } }).elapse 1
def Tests.chosen : State := (began.picks {}).atSite {}
/-- The same turn in a cycle in which the slot has already issued. -/
def Tests.slotTaken : State :=
  { placed with ctrl := { placed.ctrl with agenda := [{ dt := 0, act := .issue {} }], slots := [(issueSlot 0, (placed.ctrl.now, false))] } }
def Tests.group0 : Group := { lanes := 0xFFFFFFFF, pc := 0 }

theorem witness_StepRunsTheDecodedInstruction :
    placed.ctrl.agenda = [{ dt := 1, act := .issue {} }] ∧ began.admits {} [] = true
    ∧ (({ slotTaken with ctrl := { slotTaken.ctrl with agenda := [] } }).elapse 0).admits {} [] = false
    ∧ chosen.squadMay 0 0 = true ∧ chosen.groupAt {} = some group0
    ∧ group0.kind = .running ∧ (chosen.squad 0 0).waitsFor group0 = false
    ∧ inSegment ((chosen.setGroup {} group0).segment 0 0) group0.pc.toNat = true
    ∧ ((chosen.setGroup {} group0).fetchWord (coreOf 0) ((chosen.setGroup {} group0).tagOfBlock 0) group0.pc.toNat).2 = .word 0x1C00
    ∧ (let t := ((chosen.setGroup {} group0).fetchWord (coreOf 0) ((chosen.setGroup {} group0).tagOfBlock 0) group0.pc.toNat).1
       decode (t.decEnv 0) ((t.pourOfBlock 0).word group0.pc.toNat 0x1C00) = .ok (.nop { mod := () })) := by decide

/-- A page that the core's TLB holds. -/
def Tests.page : TlbEntry := { tag := 1, base := 0, size := 2 ^ 16, leaf := { x := true, r := true, w := true } }

theorem witness_FetchReadsTheWordAtItsAddress :
    (65524 % 2 ^ 16 + 12 ≤ 2 ^ 16) ∧ tlbHit [page] 1 0 65524 = some page ∧ page.leaf.kind = 0
    ∧ page.leaf.permits .fetch true = true
    ∧ base.homes.retired.contains ((page.leaf.addr + (65524 - page.base)) / 2 ^ 16) = false
    ∧ base.frameOk 1 (page.leaf.addr + (65524 - page.base)) = true ∧ base.dev.damage = [] := by decide

theorem witness_StepKeepsMemoryCanonical :
    placed.mem.wf = true ∧ (match step placed with | .next _ => true | _ => false) = true := by decide

theorem witness_NoPassingLaneNoEffect :
    base.insAt { sel := 0 } = some { x0 with pass := 0 } ∧ ({ x0 with pass := 0 } : Ins).pass = 0 := by decide

/-- The machine with v5 empty in lane 31. -/
def Tests.emptyV5 : State := mach { squad0 with rf := { vE := [(5, 0x80000000)] } }

theorem witness_EmptyTrappingSource :
    let h := headOf { ai with fea := true } (.add { ai with fea := true }) true
    emptyV5.insAt h.guard = some x0 ∧ x0.pass ≠ 0 ∧ h.waits = false
    ∧ h.interlocked (emptyV5.squad 0 0).rf x0.pass = true ∧ (emptyV5.squad 0 0).held h = false
    ∧ (h.access && emptyV5.acquiring 0 0) = false ∧ ((h.waits || h.orders) && !(emptyV5.squad 0 0).combine.isEmpty) = false
    ∧ (h.waits && emptyV5.unanswered 0 0) = false ∧ (h.orders && emptyV5.accessing 0 0) = false
    ∧ h.emptySource (emptyV5.squad 0 0).rf x0.pass = some 1 := by decide

theorem witness_IntegerResults :
    ([headOf ai (.add ai) true, headOf ai (.sub ai) true, headOf ai (.mulLo ai) true, headOf ai (.mulHi ai) true,
      headOf ai (.mulLoMap2 ai) true, headOf ai (.mulHiMap2 ai) true, headOf ai (.mad ai) true, headOf ai (.madWide ai) true,
      headOf ai (.div ai) true, headOf ai (.rem ai) true, headOf ai (.min ai) true, headOf ai (.max ai) true,
      headOf ai (.abs ai) true, headOf ai (.neg ai) true, headOf ai (.and ai) true, headOf ai (.or ai) true,
      headOf ai (.xor ai) true, headOf ai (.not ai) true, headOf ai (.shl ai) true, headOf ai (.shr ai) true].all
      fun h => base.prepare h == .run x0) = true
    ∧ ([headOf ai (.sar ai) true, headOf ai (.rot ai) true, headOf ai (.clz ai) true, headOf ai (.popc ai) true,
      headOf ai (.brev ai) true, headOf ai (.bfx ai) true, headOf ai (.bfi ai) true, headOf ai (.lea ai) true,
      headOf ai (.dp4 ai) true, headOf ai (.mov ai) true, headOf ai (.movi ai) true].all
      fun h => base.prepare h == .run x0) = true := by decide

theorem witness_IntegerImmediateResults :
    ([headOf ai (.addImm ai) true, headOf ai (.subImm ai) true, headOf ai (.mulLoImm ai) true, headOf ai (.mulHiImm ai) true,
      headOf ai (.divImm ai) true, headOf ai (.remImm ai) true, headOf ai (.minImm ai) true, headOf ai (.maxImm ai) true,
      headOf ai (.andImm ai) true, headOf ai (.orImm ai) true, headOf ai (.xorImm ai) true, headOf ai (.shlImm ai) true,
      headOf ai (.shrImm ai) true, headOf ai (.sarImm ai) true, headOf ai (.rotImm ai) true, headOf ai (.leaImm ai) true].all
      fun h => base.prepare h == .run x0) = true := by decide

theorem witness_WrappedAndSaturatedArithmetic :
    ({ ty := .n32 } : IntMod).sat = false ∧ ({ ty := .i32, sat := true } : IntMod).ty = .i32
    ∧ (opAdd { ty := .i32, sat := true } 0x7FFFFFFF 1).lo = 0x7FFFFFFF
    ∧ (opSub { ty := .i32, sat := true } 0x80000000 1).lo = 0x80000000 ∧ (opAdd { ty := .n32 } 0xFFFFFFFF 2).lo = 1 := by decide

/-- Each case of R89 at its boundary: a divisor of 0, the signed overflow with and without `.sat`, and the others. -/
theorem witness_DivisionRule :
    (opDiv { ty := .i32 } 5 0).lo = 0xFFFFFFFF ∧ (opRem { ty := .n64 } 5 0) = 5
    ∧ (opDiv { ty := .i32 } 0x80000000 0xFFFFFFFF).lo = 0x80000000
    ∧ (opDiv { ty := .i32, sat := true } 0x80000000 0xFFFFFFFF).lo = 0x7FFFFFFF
    ∧ (opRem { ty := .i32 } 0x80000000 0xFFFFFFFF).lo = 0
    ∧ (opDiv { ty := .i32 } 0xFFFFFFF9 2).lo = 0xFFFFFFFD ∧ (opRem { ty := .i32 } 0xFFFFFFF9 2).lo = 0xFFFFFFFF := by decide

/-- The table of R90 at the amounts 31, 32 and 33 and beyond 255. -/
theorem witness_ShiftRule :
    (opShl { ty := .b32 } 1 31).lo = 0x80000000 ∧ (opShl { ty := .b32 } 1 32).lo = 0 ∧ (opShr { ty := .b32 } 0x80000000 31).lo = 1
    ∧ (opShr { ty := .b32 } 0x80000000 256).lo = 0 ∧ (opSar { ty := .i32 } 0x80000000 32).lo = 0xFFFFFFFF
    ∧ (opRot { ty := .b32 } 0x80000001 33).lo = 3 ∧ (opShl { ty := .n64 } 1 63) = 0x8000000000000000 := by decide

theorem witness_PredicateResults :
    ([headOf ai (.setp ai) true, headOf ai (.setpImm ai) true, headOf ai (.plop ai) true, headOf af (.fsetp af) true,
      headOf af (.fsetpImm af) true, headOf au (.voteAny au) true, headOf au (.voteAll au) true, headOf au (.voteMask au) true,
      headOf ai (.sel ai) true].all fun h => base.prepare h == .run x0) = true := by decide

theorem witness_ShuffleAndClockResults :
    ([headOf au (.shflPick au) true, headOf au (.shflRot au) true, headOf au (.shflSlide au) true, headOf au (.shflMir au) true,
      headOf au (.rdclk au) true].all fun h => base.prepare h == .run x0) = true := by decide

theorem witness_FloatResults :
    ([headOf af (.fadd af) true, headOf af (.fsub af) true, headOf af (.fmul af) true, headOf af (.fma af) true,
      headOf af (.fmin af) true, headOf af (.fmax af) true, headOf af (.fclass af) true, headOf af (.frcp af) true,
      headOf af (.frsq af) true, headOf af (.fsqrt af) true, headOf af (.fdiv af) true, headOf af (.fexp2 af) true,
      headOf af (.flog2 af) true, headOf af (.fsin af) true].all fun h => base.prepare h == .run x0) = true
    ∧ ([headOf af (.fcos af) true, headOf af (.ftanh af) true, headOf af (.hadd2 af) true, headOf af (.hmul2 af) true,
      headOf af (.hfma2 af) true, headOf af (.cvt af) true, headOf af (.faddImm af) true, headOf af (.fsubImm af) true,
      headOf af (.fmulImm af) true, headOf af (.fminImm af) true, headOf af (.fmaxImm af) true].all
      fun h => base.prepare h == .run x0) = true := by decide

theorem witness_QuantiseResults :
    ([headOf aq (.dqblk aq) true, headOf aq (.pk4 aq) true, headOf aq (.upk4 aq) true, headOf aq (.amax aq) true,
      headOf aq (.qblk aq) true].all fun h => base.prepare h == .run x0) = true := by decide

theorem witness_ControlTargets :
    ([headOf au (.nop au) true, headOf au (.yield au) true, headOf au (.bra au) true, headOf au (.brx au) true,
      headOf au (.call au) true, headOf au (.callInd au) true, headOf au (.ret au) true].all
      fun h => base.prepare h == .run x0) = true
    ∧ (base.squad 0 0).ctl.mr = [] := by decide

/-- The first and last instruction of the code segment, and the addresses beside them. -/
theorem witness_MeetSetsOrTraps :
    base.prepare (headOf au (.meet au) true) = .run x0 ∧ base.prepare (headOf au (.meetSave au) true) = .run x0
    ∧ base.inCode x0 (x0.pc + 12 + 12 * (0xFFFFFFFF : Word).signExtend 64) = true
    ∧ base.inCode x0 (x0.pc + 12 + 12 * (254 : Word).signExtend 64) = true
    ∧ base.inCode x0 (x0.pc + 12 + 12 * (255 : Word).signExtend 64) = false
    ∧ base.inCode x0 (x0.pc + 12 + 12 * (0xFFFFFFFE : Word).signExtend 64) = false := by decide

theorem witness_RejoinCompletes :
    base.prepare (headOf au (.rejoin au) true) = .run x0 ∧ base.prepare (headOf au (.rejoinRest au) true) = .run x0
    ∧ ((lanesOf x0.pass).all fun i => let v := base.get x0 au.a 2 i
      v == 0xFFFFFFFFFFFFFFFF || (decide (v.toNat < 2 ^ 57) && base.inCode x0 v)) = true
    ∧ (base.squad 0 0).ctl.mr = [] ∧ (base.squad 0 0).ctl.aw = [] ∧ (∀ g ∈ (base.squad 0 0).ctl.groups, g.kind ≠ .rejoin)
    ∧ x0.pass &&& ~~~x0.lanes = 0 ∧ x0.lanes.getLsbD 31 = true := by decide

/-- Lanes 0 to 15 issue a `rejoin` at which lanes 16 to 30 are held; lane 0 awaits lane 16, lane 16 lane 0, and lane 1 the
running lane 31. -/
def Tests.companions : Ctl :=
  { groups := [{ lanes := 0x7FFF0000, pc := 0, kind := .rejoin }, { lanes := 0x80000000, pc := 24 }]
    aw := [(0, 0x10000), (1, 0x80000000), (16, 1)] }
/-- Lanes 0 and 31 meet at an address, where lane 0 is held; lane 31 is, too, or still runs. -/
def Tests.meeting (kind : GKind) : Ctl :=
  { groups := [{ lanes := 1, pc := 24, kind := .meet }, { lanes := 0x80000000, pc := 24, kind }], mr := [(0, 24), (31, 24)] }

theorem witness_RejoinCompletes_held :
    companions.rejoinAt 0 = 0x7FFF0000
    ∧ companions.aw.get 0 0 &&& ~~~(~~~companions.alive ||| 0x7FFF0000 ||| 0xFFFF) = 0
    ∧ companions.aw.get 16 0 &&& ~~~(~~~companions.alive ||| 0x7FFF0000 ||| 0xFFFF) = 0
    ∧ companions.aw.get 1 0 &&& ~~~(~~~companions.alive ||| 0x7FFF0000 ||| 0xFFFF) ≠ 0
    ∧ (meeting .running).mr.get? 31 = some 24 ∧ (meeting .running).mr.get? 31 ≠ some 36
    ∧ (meeting .meet).meetAt 24 ≠ 0 ∧ (meeting .meet).meeting (meeting .meet).alive 24 = (meeting .meet).meetAt 24
    ∧ (meeting .running).meeting (meeting .running).alive 24 ≠ (meeting .running).meetAt 24 := by decide

/-- R231: the issue releases the held lane that awaits it, and holds the lane whose companion runs elsewhere. -/
theorem test_rejoin_companions :
    let t := companions.rejoin 1 0 0xFFFF 0 []
    t.groups.map (fun g => (g.lanes, g.pc, g.kind)) = [(0x80000000, 24, .running), (2, 0, .rejoin), (0x7FFFFFFD, 12, .running)]
    ∧ t.aw = [(1, 0x80000000)] := by decide

/-- R230: the last thread of a meeting releases all of them as one sub-group. -/
theorem test_meeting_release :
    let t := (meeting .meet).releaseMeet 1 24
    t.groups.map (fun g => (g.lanes, g.pc, g.kind)) = [(0x80000001, 24, .running)] ∧ t.mr = [] := by decide

theorem witness_ExitEndsThreads :
    base.prepare (headOf au (.exit au) false true) = .run x0 ∧ (base.block 0).bars.has 3 = true := by decide

/-! ## Traps -/

theorem witness_TrapSaves :
    (base.block 0).serves 0 = false ∧ (base.handlerOf 0).isSome = true ∧ priority2 0x30B = false ∧ squadKey 0 1 ≠ squadKey 0 0 := by
  decide

/-- The machine while the handler serves squad 0, at the handler's entry. -/
def Tests.handled : State :=
  { mach { ctl := { groups := [{ lanes := 0xFFFFFFFF, pc := 0x900 }] }, cause := 0x380 } with
    blocks := [(0, { flask := 5, idx := 0, halted := true
                     handler := some { sq := 0, kept := squad0.ctl, entry := 0x900, codeLo := 0x900, codeHi := 0x90C } })] }
def Tests.xh : Ins := { x0 with pc := 0x900 }
/-- The machine whose context has no handler. -/
def Tests.noHandler : State := base.setContext 1 { base.context 1 with hentry := 0 }

/-- The machine whose handler record lies in a damaged sector. -/
def Tests.hurtRecord : State := { base with dev := { base.dev with damage := [(0x11, 0x1000 / 32)] } }

theorem witness_TrapWithoutHandlerKills :
    (priority2 0x302 && (base.flask (base.block 0).flask).run != .first) = false
    ∧ (handled.block 0).serves 0 = true ∧ (noHandler.block 0).serves 0 = false ∧ noHandler.noHandler 0 = some .unusable
    ∧ hurtRecord.noHandler 0 = some (.damaged 0x11 (0x1000 / 32)) := by decide +kernel

theorem witness_SoftwareTrap :
    base.prepare (headOf { au with a := .s 1, imm := 0x380 } (.trap { au with a := .s 1, imm := 0x380 })) = .run x0
    ∧ base.prepare (headOf { au with a := .s 1, imm := 0x3FF } (.trap { au with a := .s 1, imm := 0x3FF })) = .run x0
    ∧ (base.block 0).serves 0 = false ∧ (((base.begin x0).finish x0 {}).handlerOf 0).isSome = true
    ∧ handled.prepare (headOf { au with a := .s 1, imm := 0x3FF } (.trap { au with a := .s 1, imm := 0x3FF })) = .run xh
    ∧ (handled.block 0).serves 0 = true := by decide

/-- The machine after the cause of squad 0 and before its handler. -/
def Tests.halted : State := base.takeTrap 0 0 0x380 5 12 0xFFFFFFFF

theorem witness_HandlerStarts :
    halted.blocks.has 0 = true ∧ (halted.block 0).handler = none ∧ (halted.block 0).halted = true ∧ halted.trapOpen 0 = false
    ∧ halted.trapped 0 = some 0 ∧ (halted.handlerOf 0).isSome = true := by decide

theorem witness_ReturnFromTrap :
    handled.prepare (headOf au (.rft au)) = .run xh ∧ (handled.block 0).serves 0 = true ∧ (handled.block 0).handler.isSome = true
    ∧ handled.prepare (headOf au (.rftAbort au)) = .run xh
    ∧ base.prepare (headOf au (.rft au)) = .run x0 ∧ base.prepare (headOf au (.rftAbort au)) = .run x0
    ∧ (base.block 0).serves 0 = false
    ∧ xh.sq < 32 ∧ ∀ q, q < 32 → q ≠ xh.sq → (handled.squad 0 q).cause = 0 := by decide

/-! ## Words written out in the spec -/

/-- The worked encodings that follow R51, R92, R107, R113, R124, R226, R246, R272, R292 and R201, each read from the
lowest address. -/
def Tests.words_spec : List (Nat × Instr) :=
  [(0x50280000000004040182A840, .add { hint := { space := 2, cede := 2 }, guard := { neg := true, sel := 2 }, feb := true, d := .v 10, a := .v 3, b := .v 4, mod := { ty := .i32, sat := true } }),
   (0x203FFFFFFFD00002051C99, .leaImm { d := .v 20, a := .v 4, imm := 0xFFFFFFFD, mod := { ty := .i32, var := 3 } }),
   (0x800000000020000380DCD4, .cvt { d := .v 3, a := .v 7, imm := 2, mod := { fmt := .i8 } }),
   (0x3000000002101E04051D40, .qblk { d := .v 20, a := .v 8, b := .v 30, imm := 33, mod := { fmt := .e4m3 } }),
   (0x30900000028145A254DD84, .mmas { d := .acc 3, a := .t 4, b := .t 5, c := .v 40, mod := { fmt := .e4m3, var := 9 } }),
   (0x1490000004010381451E85, .cpyxPut { d := .s 20, a := .s 2, b := .s 3, imm := 0x40, mod := { tag := 5, crc := true, que := 1 } }),
   (0xA00000000010682001F00, .bini { a := .s 4, b := .s 6, mod := { idx := 5 } }),
   (0x2000000000015B82429F40, .pour { d := .s 10, a := .s 4, b := .p 3, mod := { que := 2 } }),
   (0x400000040000F0001E82, .cpyw { a := .sp .zero, imm := 0x40, mod := { fol := true } }),
   (0x6690000004000002029e02, .ldg { d := .v 10, a := .v 4, imm := 0x40, mod := { sz := .b64, rq := .wt, sc := some .pkg, ord := .acq } })]

theorem test_decode_spec_words : (Tests.words_spec.all fun r => decodeTableWord 96 r.1 == some r.2) = true := by decide
theorem test_encode_spec_words : (Tests.words_spec.all fun r => (encode r.2).map BitVec.toNat == some r.1) = true := by decide

/-! ## Well-formedness -/

/-- An ill-formed term for each of checks 5, 6 and 7 of R48, with the cause and sub-code that the check gives. -/
def Tests.illFormed : List (Instr × Nat × Nat) :=
  [(.add { ai with mod := { ty := .b32 } }, 0x010, 0x040),
   (.add { ai with imm := 1 }, 0x010, 0x040),
   (.add { ai with c := .v 1 }, 0x010, 0x040),
   (.and { ai with mod := { ty := .b32, sat := true } }, 0x010, 0x040),
   (.nop { au with d := .v 1 }, 0x010, 0x040),
   (.add { ai with a := .bad 505 }, 0x012, 1),
   (.add { ai with d := .bad 505 }, 0x012, 0),
   (.add { ai with a := .t 1 }, 0x013, 0),
   (.add { ai with d := .v 40 }, 0x013, 1),
   (.add { ai with d := .v 5, mod := { ty := .i64 } }, 0x013, 2),
   (.add { ai with d := .sp .zero }, 0x013, 3)]

theorem test_well_formed_refuses :
    (Tests.illFormed.all fun r => !r.1.wf 40 && r.1.check 0x040 40 == some r.2) = true := by decide
theorem test_well_formed_accepts : (Instr.add ai).wf 40 = true ∧ (Instr.nop au).wf 40 = true := by decide

/-! ## Reset and the first step -/

/-- Right after power-on nothing is resident, no context is enabled, and memory lists nothing. -/
theorem test_reset : State.reset.squads = [] ∧ State.reset.contexts = [] ∧ State.reset.mem.dev = [] := by decide
/-- R240: the nop placed as the first instruction moves its sub-group on by one word. -/
theorem test_first_step :
    (((nextOr (step placed) placed).squad 0 0).ctl.groups.map fun g => g.pc.toNat) = [12] := by decide

/-! ## Memory -/

/-- Pooled addresses in v5: lane 0 the last byte place of the allocation for 4 bytes, the others 0. -/
def Tests.pool : State := withRegs [(2, 0), (3, 0)] []
/-- The same place in every lane. -/
def Tests.poolAtTop : State := withRegs [] [(5, 4092)]

theorem witness_PooledLoadCompletes :
    poolAtTop.prepare (headOf ap (.lds ap) true (ap.mod.ord != .relaxed)) = .run x0 ∧ poolAtTop.poolGoes x0 ap false
    ∧ poolAtTop.dev.damage = [] := by
  unfold State.poolGoes; decide

theorem witness_PooledStoreWritesItsBytes :
    poolAtTop.prepare (headOf ap (.sts ap) false (ap.mod.ord != .relaxed)) = .run x0 ∧ poolAtTop.poolGoes x0 ap false
    ∧ poolAtTop.dev.damage = []
    ∧ (let key := fun (i k : Nat) =>
         let p := poolAtTop.lanePlace x0 (poolAtTop.poolAddr x0 ap i) ap.mod.sz.bytes
         poolAtTop.poolKey p.1 (p.2 + k) ap.mod.skew
       ∀ i, i < 32 → ∀ k, k < 4 → key i k ≠ 4096 ∧ ¬(31 < i ∨ (31 = i ∧ 3 < k))) := by
  unfold State.poolGoes; dsimp only; decide

theorem witness_PooledAtomicsComplete :
    ([Instr.atomsAdd ap, .atomsMin ap, .atomsMax ap, .atomsAnd ap, .atomsOr ap, .atomsXor ap, .atomsExch ap, .atomsCas ap,
      .atomsInc ap, .atomsDec ap, .atomsFadd ap, .atomsFmin ap, .atomsFmax ap].all fun i =>
        poolAtTop.prepare (orderedHead ap i (ap.mod.ord != .relaxed)) == .run x0) = true
    ∧ poolAtTop.poolGoes x0 ap true ∧ (poolAtTop.begin x0).atomsOut 0 < 16
    ∧ (withRegs [] [(5, 4096)]).prepare (orderedHead ap (.atomsAdd ap) false) = .run x0
    ∧ (withRegs [] [(5, 4096)]).poolCause x0 ((withRegs [] [(5, 4096)]).poolAddr x0 ap) ap.mod.sz.bytes true ap.mod.skew
        = some (0x121, 0) := by
  unfold State.poolGoes; decide

/-- A pooled atomic of one lane on its way, and the machine that holds it. -/
def Tests.onePiece : PoolAtom :=
  { id := 9, bid := 0, sq := 0, op := .add, n := 4, skew := false, d := .v 4, pieces := [⟨31, 0, 4092, 7, 0⟩] }
def Tests.withAtom : State :=
  let s := mach { squad0 with rf := { vE := [(4, 0x80000000)] } }
  s.setCore 0 { atoms := [onePiece] }

theorem witness_PooledAtomicsComplete_response :
    (withAtom.cores.findSome? fun c => c.2.atoms.find? fun e => e.id == onePiece.id) = some onePiece ∧ withAtom.dev.damage = []
    ∧ onePiece.raises = false ∧ onePiece.sc = false ∧ onePiece.d = .v 4 ∧ 0 < (onePiece.n + 3) / 4
    ∧ (∃ p ∈ onePiece.pieces, p.lane = 31) ∧ ((withAtom.squad 0 0).rf.vE.get 4 0).getLsbD 31 = true
    ∧ 4095 < 0 * 2 ^ 19 + 4096 ∧ 0 * 2 ^ 19 + 4092 + 4 ≤ 4096 := by decide

/-- One beyond each bound of R188 and R189: misaligned, in a block that the flask does not hold, beyond the
allocation. -/
theorem witness_PooledChecksTrap :
    (withRegs [] [(5, 4086)]).poolCause x0 ((withRegs [] [(5, 4086)]).poolAddr x0 ap) 8 false false = some (0x122, 0)
    ∧ (withRegs [] [(5, 0x80000)]).poolCause x0 ((withRegs [] [(5, 0x80000)]).poolAddr x0 ap) 4 false false = some (0x120, 0)
    ∧ (withRegs [] [(5, 4096)]).poolCause x0 ((withRegs [] [(5, 4096)]).poolAddr x0 ap) 4 false false = some (0x121, 0)
    ∧ (withRegs [] [(5, 4096)]).prepare (headOf ap (.lds ap) true (ap.mod.ord != .relaxed)) = .run x0
    ∧ (withRegs [] [(5, 4096)]).prepare (headOf ap (.sts ap) false (ap.mod.ord != .relaxed)) = .run x0
    ∧ (withRegs [] [(5, 4086)]).poolMisaligned 5 4086 8 false false = true
    ∧ (withRegs [] [(5, 4096)]).poolMisaligned 5 4096 4 false false = false
    ∧ (withRegs [] [(5, 4096)]).poolAt 5 0x80000 4 = .cause 0x120 ∧ (withRegs [] [(5, 4096)]).poolAt 5 4096 4 = .cause 0x121 := by decide

/-- The machine with the last word of the stack, offset 60, in the stack cache. -/
def Tests.stacked : State :=
  mach { squad0 with
    rf := { v := (List.range 32).map fun i => (5 * 32 + i, 60) }
    stack := [{ key := 15, bytes := List.replicate 128 0, dirty := false }] }

set_option maxRecDepth 4000 in
theorem witness_StackAccessesComplete :
    stacked.prepare (headOf ap (.ldk ap) true) = .run x0 ∧ stacked.stackRoom x0 ap
    ∧ stacked.stackCause x0 (stacked.stackOfs x0 ap) ap.mod.sz.bytes = none ∧ stacked.dev.damage = []
    ∧ (∀ i, i < 32 → x0.pass.getLsbD i = true → stacked.stackFills x0 (stacked.stackOfs x0 ap) ap.mod.sz.bytes i = [])
    ∧ stacked.prepare (headOf ap (.stk ap)) = .run x0 ∧ (∀ l ∈ (stacked.squad 0 0).stack, l.bytes.length = 128) := by
  unfold State.stackRoom; decide

/-- The machine with a translation in its TLB and the address 0x2000 in pair v6 of every lane. -/
def Tests.mapped : State := (withRegs [] [(6, 0x2000)]).setCore 0 { tlb := [page] }

theorem witness_ReturningAccessesOpen :
    mapped.prepare (headOf ag (.ldg ag) true true) = .run x0
    ∧ globalCause x0 (mapped.globalAddr x0 ag.a ag.imm) ag.mod.sz.bytes false = none
    ∧ (let c := (mapped.begin x0).coalesce x0 x0.pass (mapped.globalAddr x0 ag.a ag.imm) ag.mod.sz.bytes .load
       c.waits = false ∧ c.trap = none ∧ c.parked = 0 ∧ c.absent = [] ∧ c.made x0.pass (mapped.globalAddr x0 ag.a ag.imm) ag.mod.sz.bytes = x0.pass)
    ∧ ([Instr.atomgAdd ag, .atomgMin ag, .atomgMax ag, .atomgAnd ag, .atomgOr ag, .atomgXor ag, .atomgExch ag, .atomgCas ag,
      .atomgInc ag, .atomgDec ag, .atomgFadd ag, .atomgFmin ag, .atomgFmax ag].all fun i =>
        mapped.prepare (orderedHead ag i true) == .run x0) = true
    ∧ mapped.silent (mapped.block 0).flask = false ∧ mapped.atomsOut 0 < 16
    ∧ globalCause x0 (mapped.globalAddr x0 ag.a ag.imm) ag.mod.sz.bytes true = none
    ∧ (let c := (mapped.begin x0).coalesce x0 x0.pass (mapped.globalAddr x0 ag.a ag.imm) ag.mod.sz.bytes .rmw
       c.waits = false ∧ c.trap = none ∧ c.parked = 0 ∧ c.absent = [] ∧ c.made x0.pass (mapped.globalAddr x0 ag.a ag.imm) ag.mod.sz.bytes = x0.pass) := by
  decide

theorem witness_PostedOperationsSend :
    ([Instr.redgAdd ag, .redgMin ag, .redgMax ag, .redgAnd ag, .redgOr ag, .redgXor ag, .redgInc ag, .redgDec ag, .redgFadd ag,
      .redgFmin ag, .redgFmax ag, .cred ag, .crfold ag].all fun i =>
        mapped.prepare (orderedHead ag i (ag.mod.ord != .relaxed)) == .run x0) = true
    ∧ globalCause x0 (mapped.globalAddr x0 ag.a ag.imm) ag.mod.sz.bytes true = none
    ∧ (let c := (mapped.begin x0).coalesce x0 x0.pass (mapped.globalAddr x0 ag.a ag.imm) ag.mod.sz.bytes .rmw
       c.waits = false ∧ c.trap = none ∧ c.parked = 0 ∧ c.absent = []
       ∧ c.made x0.pass (mapped.globalAddr x0 ag.a ag.imm) ag.mod.sz.bytes = x0.pass) := by
  decide

/-- A store that may combine. -/
def Tests.agsi : Args GMod := { ag with mod := { sz := .b32, rq := .si } }

theorem witness_GlobalStoreSends :
    ([ag, agsi].all fun a =>
      mapped.prepare (headOf a (.stg a) false (a.mod.ord != .relaxed)) == .run x0
      && !(a.mod.rq == .ow && mapped.silent (mapped.block 0).flask)
      && (globalCause x0 (mapped.globalAddr x0 a.a a.imm) a.mod.sz.bytes false).isNone
      && (let c := (mapped.begin x0).coalesce x0 x0.pass (mapped.globalAddr x0 a.a a.imm) a.mod.sz.bytes .store
          !c.waits && c.trap.isNone && c.parked == 0 && c.absent.isEmpty
          && c.made x0.pass (mapped.globalAddr x0 a.a a.imm) a.mod.sz.bytes == x0.pass)) = true
    ∧ (agsi.mod.rq == .si && agsi.mod.ord == .relaxed) = true ∧ 31 < 32 ∧ x0.pass.getLsbD 31 = true ∧ 3 < ag.mod.sz.bytes := by
  decide

/-- `crdecl` of a range of 16 elements with home 0x2000 in pair s2 and shadow 0x3000 in pair s4. -/
def Tests.acr : Args GMod := { d := .s 6, a := .s 2, b := .s 4, mod := {} }
def Tests.rangedBy (len : Word) : State := (withRegs [(2, 0x2000), (4, 0x3000), (6, len)] []).setCore 0 { tlb := [page] }
def Tests.ranged : State := rangedBy 16
def Tests.range0 : Range :=
  { tag := 1, home := 0x2000, shadow := 0x3000, homeMap := [0], shadowMap := [0], len := 16, slots := 1, fmt := rangeFmt 0, pour := 7 }
/-- Whether an area lies in these pages. -/
def Tests.liesIn (a : Area) (l : List Nat) : Bool :=
  match a with
  | .pages k => k == l
  | _ => false

theorem witness_FenceAndDeclareComplete :
    base.prepare (headOf ag (.fence ag) false true) = .run x0 ∧ ((base.begin x0).giveBack 0).owing 0 = false ∧ ranged.prepare (headOf acr (.crdecl acr)) = .run x0
    ∧ ranged.declared x0 acr [0] [0] = range0
    ∧ 1 ≤ range0.len ∧ range0.placed
    ∧ liesIn ((ranged.begin x0).areaPages 0 1 false (areaRegions range0.home range0.sizes.1)) [0] = true
    ∧ liesIn ((ranged.begin x0).areaPages 0 1 true (areaRegions range0.shadow range0.sizes.2)) [0] = true
    ∧ range0.oneDie = true ∧ ranged.silent 5 = false
    ∧ ((ranged.context 1).ranges.any range0.clashes) = false ∧ (ranged.context 1).ranges.length < 64
    ∧ ([0] : List Nat).any ((ranged.begin x0).zeroWaits 0) = false := by unfold Range.placed; decide

/-- The machine with ranges already declared, and with its pages in host memory. -/
def Tests.rangedOver (rs : List Range) : State := ranged.setContext 1 { ranged.context 1 with ranges := rs }
def Tests.rangedFar : State := { ranged with mem := { ranged.mem with dev := Memory.write ranged.mem.dev 0x12006 0x20 } }
def Tests.elsewhereIs (a : Area) : Bool :=
  match a with
  | .elsewhere => true
  | _ => false

theorem witness_FenceAndDeclareComplete_refused :
    (rangedOver [range0]).prepare (headOf acr (.crdecl acr)) = .run x0 ∧ ((rangedOver [range0]).context 1).ranges.any range0.clashes = true
    ∧ 64 ≤ ((rangedOver (List.replicate 64 { range0 with home := 0x8000, shadow := 0x9000 })).context 1).ranges.length
    ∧ ((rangedOver (List.replicate 64 { range0 with home := 0x8000, shadow := 0x9000 })).context 1).ranges.any range0.clashes = false
    ∧ ({ range0 with shadowMap := [2 ^ 39] } : Range).oneDie = false
    ∧ (ranged.setFlask 5 { ranged.flask 5 with run := .replay }).silent 5 = true
    ∧ rangedFar.prepare (headOf acr (.crdecl acr)) = .run x0
    ∧ elsewhereIs ((rangedFar.begin x0).areaPages 0 1 false (areaRegions range0.home range0.sizes.1)) = true
    ∧ ¬({ range0 with home := 0x2020 } : Range).placed := by unfold Range.placed; decide

/-- The last slot of the last element, and the lengths just outside the bounds of R198. -/
theorem witness_FenceAndDeclareComplete_bounds :
    ranged.homes.owners = [] ∧ ranged.homes.backs = [] ∧ ranged.homes.migration = none ∧ 15 < range0.len ∧ 0 < range0.slots
    ∧ range0.slotAddr 15 0 = some (0x3000 + 15 * range0.fmt.bytes) ∧ range0.fmt.bytes - 1 < range0.fmt.bytes
    ∧ (rangedBy 0).prepare (headOf acr (.crdecl acr)) = .run x0 ∧ ((rangedBy 0).get1 x0 acr.d x0.lane).toNat = 0
    ∧ (rangedBy 0x1000001).prepare (headOf acr (.crdecl acr)) = .run x0
    ∧ 2 ^ 24 < ((rangedBy 0x1000001).get1 x0 acr.d x0.lane).toNat := by decide

/-- A release at package scope whose block owes words to a home on the other die, which is fenced. -/
def Tests.afence : Args GMod := { mod := { sc := some .pkg, ord := .rel } }
def Tests.owes : State :=
  let s := base.setDie 1 { phase := .fenced }
  { s with homes := { s.homes with backs := [(6, ⟨2 ^ 39 / 64, 0, 0x8001, List.replicate 64 1⟩)] } }

theorem witness_FenceAndDeclareComplete_owing :
    owes.prepare (headOf afence (.fence afence) false true) = .run x0 ∧ isRel afence.mod.ord = true
    ∧ wideScope afence.mod.sc = true ∧ ((owes.begin x0).giveBack 0).owing 0 = true := by decide

theorem witness_RegisterOnlyFrame :
    (Instr.add ai).regHead = some (headOf ai (.add ai) true) ∧ base.prepare (headOf ai (.add ai) true) = .run x0
    ∧ (match exec (.add ai) base with | .next _ => true | _ => false) = true :=
  ⟨rfl, by decide, by decide⟩

/-! ## The matrix engine -/

/-- Whether a matrix instruction's checks pass. -/
def Tests.passes : MatChk → Bool
  | .ok _ => true
  | .bad _ _ => false

/-- The machine with tiles of 32 rows of 32 one-byte elements. -/
def Tests.shaped : State :=
  pool.setBlock 0 { pool.block 0 with tshape := (List.range 4).map fun k => (k, 0x11F1F) }
def Tests.amm : Args MatMod := { d := .acc 1, a := .t 1, b := .t 2, c := .v 9, mod := { fmt := .e4m3 } }
def Tests.aacc : Args Unit := { d := .acc 7, a := .s 4, mod := () }
def Tests.aard : Args Unit := { d := .v 63, a := .acc 7, b := .sp .zero, imm := 31, mod := () }

theorem witness_MatrixInstructionsEnterTheQueue :
    ([headOf am (.tld am) true, headOf am (.tst am), headOf au (.tzero au), headOf amm (.mma amm), headOf amm (.mmas amm),
      headOf aacc (.accz aacc), headOf aacc (.accmul aacc), headOf aacc (.accwr aacc), headOf am (.accst am),
      headOf aacc (.accdeclRetain aacc), headOf aacc (.accdeclRecompute aacc), headOf au (.accrd au), headOf au (.rstlbl au)].all
      fun h => shaped.prepare h == .run x0) = true
    ∧ shaped.matFull 0 = false ∧ shaped.rowsWait x0 (.tst 15 0 32 false 0x11F1F) = false
    ∧ passes (shaped.tileCheck 0 (shaped.reader x0) am .tld) = true ∧ passes (shaped.tileCheck 0 (shaped.reader x0) am .tst) = true
    ∧ passes (shaped.oneCheck 0 (.t 15) (.tzero 15)) = true ∧ passes (shaped.mmaCheck 0 amm none) = true
    ∧ passes (shaped.mmaCheck 0 amm (some ((List.range 32).map (shaped.cross x0 amm.c), (scaleSlots amm.mod).1, (scaleSlots amm.mod).2))) = true
    ∧ passes (shaped.oneCheck 0 aacc.d (.accz 7)) = true ∧ passes (shaped.accstCheck 0 (shaped.reader x0) { am with d := .acc 1 }) = true
    ∧ passes (base.mmaCheck 0 amm none) = false ∧ passes (shaped.tileCheck 0 (shaped.reader x0) { am with imm := 2 } .tld) = false
    ∧ shaped.inCode x0 (x0.pc + 12 + 12 * (254 : Word).signExtend 64) = true
    ∧ shaped.inCode x0 (x0.pc + 12 + 12 * (255 : Word).signExtend 64) = false
    ∧ shaped.prepare (headOf aard (.accrd aard)) = .run x0
    ∧ passes ((shaped.kernel 0).matOperands aard.d aard.a aard.b (.ok (.accrd 7 31 0 63 x0.pass))) = true := by decide

/-- The machine with a queued command. -/
def Tests.queued : State := shaped.matPush 0 (.tzero 1) none

theorem witness_MatrixEngineResults :
    (queued.core 0).mq = [{ bid := 0, op := .tzero 1 }] ∧ shaped.dev.damage = []
    ∧ 31 < shapeRows 0x11F1F ∧ 31 < shapeCols 0x11F1F
    ∧ (matDims .e4m3 false 0x11F1F 0x11F1F).m ≤ 32 ∧ (matDims .e4m3 false 0x11F1F 0x11F1F).n ≤ 32 := by decide

/-- The rows of a transfer with a pitch of 16: the last byte of the last row is stored last at its place, and a byte of
the first row lies under one of the second. -/
theorem witness_MatrixEngineResults_rows :
    (let key := fun (r k : Nat) => shaped.poolKey (shaped.rowPlace 0 0 16 r 32).1 ((shaped.rowPlace 0 0 16 r 32).2 + k) false
     (∀ r', r' < 32 → ∀ k', k' < 32 → (31 < r' ∨ (31 = r' ∧ 31 < k')) → key r' k' ≠ key 31 31) ∧ key 0 16 = key 1 0
     ∧ ∀ r, r < 32 → ∀ k, k < 32 → key r k ≠ 4095)
    ∧ (Fmt.f32.width / 8, Fmt.bf16.width / 8) = (4, 2) := by decide +kernel

/-! ## Copies and tags -/

/-- Whether a copy's checks pass. -/
def Tests.enters : CopyChk → Bool
  | .ok _ => true
  | _ => false

/-- Descriptors of one 64-byte row in pooled space: `cpy` at 0, `cpyo` and a put at 64, a get at 128; a window of one
element at 192 for `cpyw` and at 240 for `cpyp` (R207, R208, R140). -/
def Tests.descs : Memory :=
  [(8, 64), (12, 1), (14, 1), (16, 1), (18, 1), (24, 1), (72, 64), (76, 1), (78, 1), (80, 1), (82, 1),
   (136, 64), (140, 1), (142, 1), (144, 1), (146, 1), (152, 1), (155, 2), (204, 1), (230, 1), (252, 1), (278, 1), (281, 1)]
def Tests.described : State := { pool with mem := { pool.mem with pooled := descs } }
/-- A copy with its descriptor at an offset. -/
def Tests.acAt (o : Word) : Args CMod := { ac with imm := o }
/-- A `cpyl` of 32 bytes a lane. -/
def Tests.acl : Args CMod := { d := .v 4, a := .v 6, b := .v 8, mod := {} }

theorem witness_CopiesEnterTheirQueues :
    ([Instr.cpy ac, .cpyo ac, .cpyw ac, .cpyp ac, .cpyxPut ac, .cpyxGet ac].all fun i => described.prepare (headOf ac i) == .run x0) = true
    ∧ described.copyFull 0 0 = false
    ∧ enters (copyFinds .cpy (acAt 0) described x0) = true ∧ enters (copyFinds .cpyo (acAt 64) described x0) = true
    ∧ enters (copyFinds .cpyw (acAt 192) described x0) = true ∧ enters (copyFinds .cpyp (acAt 240) described x0) = true
    ∧ enters (copyFinds .put (acAt 64) described x0) = true ∧ enters (copyFinds .get (acAt 128) described x0) = true
    ∧ enters (copyFinds .cpy (acAt 8) described x0) = false := by decide +kernel

theorem witness_CopiesEnterTheirQueues_cpyl :
    described.prepare (headOf acl (.cpyl acl)) = .run x0 ∧ described.cpylCause x0 acl = none
    ∧ (withRegs [] [(4, 8)]).cpylCause x0 acl = some (0x122, 0) := by decide

/-- The machine with one copy entered, not started. -/
def Tests.copying : State := nextOr (execCpy ac described) described
/-- Its command. -/
def Tests.command : CopyCmd := (((copying.core 0).copies.get? 1).getD { bid := 0, sq := 0, flask := 0, ctx := 0, tag := 0, que := 0, kind := .cpy })
def Tests.started : State := copying.setCopy 0 1 { command with started := true }

theorem witness_CopyEvents :
    (copying.core 0).copies = [(1, command)] ∧ (copying.core 0).copies.countP (fun e => e.2.started) < 8
    ∧ copying.nextQueue 0 = some 0 ∧ copying.nextStart 0 0 = some (1, command) ∧ copying.nextQueue 0 ≠ some 1
    ∧ command.granules.contains 3 = true ∧ command.moved.contains 3 = false ∧ command.status = 0 ∧ command.held = none
    ∧ ({ command with moved := [3] } : CopyCmd).moved.contains 3 = true ∧ started.copyBehind 1 { command with started := true } = false
    ∧ started.putBehind 0 1 { command with started := true } 3 = false
    ∧ ({ command with started := true, moved := [0, 1, 2, 3] } : CopyCmd).next = none
    ∧ started.chainReady 1 command = true ∧ command.follow = none ∧ command.crc = none ∧ started.matFull (coreOf command.bid) = false
    ∧ ({ command with status := 3 } : CopyCmd).status ≠ 0
    ∧ ({} : Tag).st ≠ TagState.busy ∧ ({ st := .busy, count := 2 } : Tag).st = .busy := by decide +kernel

/-- The reads of a granule. -/
def Tests.readsOf (c : CopyCmd) (u : Nat) : List (Nat × Nat) := ((c.parts u).flatMap c.reads).flatMap fun e => cutLines e.1 e.2

/-- The last granule of the landing copy: its reads are answered, its last byte lands at a place of its own, and the first
granule's lands elsewhere. -/
theorem witness_CopyEvents_landing :
    (match started.copyReads 0 command (readsOf command 3) [] with
      | (s1, .bytes _, _) => s1.dev.damage.isEmpty
      | _ => false) = true
    ∧ started.dev.damage = [] ∧ command.parts 3 = [] ++ (0, 48, 64) :: [] ∧ (0, 48) ∈ started.landPlaces command 0 48
    ∧ (command.output (0, 48, 64) fun _ => 7)[15]? = some 7
    ∧ (∀ q ∈ started.landPlaces command 0 48, ∀ k, k < 16 → started.landKey command q k = started.landKey command (0, 48) 15 → k = 15)
    ∧ (∀ q ∈ started.landPlaces command 0 48, ∀ k, k < 16 → started.landKey command q k ≠ 47)
    ∧ command.kind = .cpy ∧ command.fmc = .plain ∧ 15 < 64 - 48 := by decide +kernel

/-- A read of a plain copy at the home of its line. -/
theorem witness_CopyEvents_read :
    command.kind ≠ .put ∧ command.kind ≠ .get
    ∧ (match started.resolve command.ctx command.uclass .load 0x30 (started.translateLease 0 command.ctx 0x30).2 with
      | .ok .device pa uco =>
        let r := started.copyReq command false uco .device 0x30 pa [⟨0x30, 16, []⟩]
        (started.frameRefused (started.tagOfBlock command.bid) (pa / 64)).isNone && (started.copyEntry command r).isNone
          && !started.copyWaits command r && !started.loadWaits 0 r.line
      | _ => false) = true
    ∧ started.homes.migration = none ∧ started.homes.owners = [] ∧ started.homes.backs = [] ∧ started.enabled command.ctx = true := by
  decide +kernel

/-- The machine with one `cpyo` entered and started. -/
def Tests.outgoing : State := nextOr (execCpyo (acAt 64) described) described
def Tests.outCmd : CopyCmd := ((outgoing.core 0).copies.get? 1).getD command

/-- Its last granule is written, and one run of it goes to the home of its line. -/
theorem witness_CopyEvents_write :
    outCmd.kind = .cpyo ∧ outgoing.dev.damage = [] ∧ outCmd.granules.contains 3 = true ∧ outCmd.fmc = .plain
    ∧ (match outgoing.copyPiece 0 outCmd true (((outCmd.parts 3).map (outgoing.writtenAt outCmd)).map (·.1)) with
      | (_, .bytes _) => true
      | _ => false) = true
    ∧ (match outgoing.poolAt outCmd.flask (outCmd.dst 0) outCmd.len with | .at' _ _ => true | _ => false) = true
    ∧ (match outgoing.resolve outCmd.ctx outCmd.uclass .store 0x3F (outgoing.translateLease 0 outCmd.ctx 0x3F).2 with
      | .ok .device pa uco => (outgoing.frameRefused (outgoing.tagOfBlock outCmd.bid) (pa / 64)).isNone
          && !outgoing.copyWaits outCmd (outgoing.copyReq outCmd true uco .device 0x3F pa [⟨0x3F, 1, [7]⟩])
      | _ => false) = true
    ∧ outgoing.homes.migration = none ∧ outgoing.homes.owners = [] ∧ outgoing.homes.backs = []
    ∧ outgoing.silent outCmd.flask = false := by decide +kernel

/-- The machine with tag 0 done, tag 63 done with status 4, tag 1 busy, and masks in pairs of scalar registers. -/
def Tests.tagged (lo hi : Word) : State :=
  let s := withRegs [(2, lo), (3, hi)] []
  s.setBlock 0 { s.block 0 with tags := [(0, { st := .done }), (1, { st := .busy, count := 1 }), (63, { st := .done, status := 4 })] }
def Tests.at2 : Args Unit := { d := .s 4, a := .s 2, mod := () }
/-- The same with one declared tag. -/
def Tests.oneTag : State :=
  let s := tagged 2 0
  s.setPour 7 { s.pour 7 with kern := { kernel with tags := 1 } }

theorem witness_TagInstructions :
    (tagged 1 0x80000000).prepare (headOf at2 (.twaitAll at2)) = .run x0
    ∧ (tagged 1 0x80000000).prepare (headOf at2 (.twaitAny at2)) = .run x0
    ∧ (tagged 1 0x80000000).prepare (headOf at2 (.tfind at2)) = .run x0 ∧ (tagged 1 0x80000000).prepare (headOf at2 (.tclr at2)) = .run x0
    ∧ (tagged 1 0x80000000).tagBeyond x0 ((tagged 1 0x80000000).get x0 (.s 2) 2 0) = none
    ∧ (∀ n ∈ maskTags ((tagged 1 0x80000000).get x0 (.s 2) 2 0), ((tagged 1 0x80000000).tag 0 n).st = TagState.done)
    ∧ (∃ n ∈ maskTags ((tagged 3 0).get x0 (.s 2) 2 0), ((tagged 3 0).tag 0 n).st = TagState.done)
    ∧ (tagged 0 0).get x0 (.s 2) 2 0 = 0
    ∧ oneTag.tagBeyond x0 (oneTag.get x0 (.s 2) 2 0) = some 1
    ∧ ([Instr.twaitAll at2, .twaitAny at2, .tfind at2, .tclr at2].all fun i => oneTag.prepare (headOf at2 i) == .run x0) = true
    ∧ (maskTags ((tagged 5 0).get x0 (.s 2) 2 0)).find? (fun n => ((tagged 5 0).tag 0 n).st == TagState.idle) = some 2
    ∧ (∀ k ∈ maskTags ((tagged 0x14 0).get x0 (.s 2) 2 0), ((tagged 0x14 0).tag 0 k).st = TagState.idle)
    ∧ (maskTags ((tagged 0x14 0).get x0 (.s 2) 2 0)).head? = some 2
    ∧ (tagged 1 0).failureMap x0 0x8000000000000001 = 0x8000000000000000 := by decide

/-! ## Barriers, runners, programs, drains -/

/-- The machine with a barrier and scalar registers s2 and s4. -/
def Tests.barred (b : Bar) (m c : Word) : State := (withRegs [(2, m), (4, c)] []).setBar 0 3 b
/-- The last declared barrier, and the first beyond. -/
def Tests.ab3 : Args SMod := { d := .p 1, a := .s 2, b := .s 4, mod := { idx := 3 } }
def Tests.ab4 : Args SMod := { d := .p 1, a := .s 2, b := .s 4, mod := { idx := 4 } }
/-- Every thread of squad 0 enrolled. -/
def Tests.enrolled0 : Bar := { enr := allThreads 1 }

theorem witness_BarriersComplete :
    ([Instr.bini ab3, .biniMap2 ab3, .bexp ab3, .bexpMap2 ab3, .bwait ab3, .bwaitMap2 ab3, .btest ab3, .btestMap2 ab3].all
      fun i => (barred {} 1 0).prepare (headOf ab3 i) == .run x0) = true
    ∧ (barred {} 1 0).prepare (headOf ab3 (.barv ab3) false true) = .run x0
    ∧ (barred {} 1 0).prepare (headOf ab3 (.barvMap2 ab3) false true) = .run x0
    ∧ (barred {} 1 0).barCause x0 3 = none ∧ (1 : Word).toNat < 2 ^ ((barred {} 1 0).kernel 0).nsq
    ∧ (barred {} 1 0).get1 x0 (.s 2) 0 = 1
    ∧ (∀ k ∈ lanesOf x0.pass, (barred enrolled0 1 0).mayArrive x0 3 k = true) ∧ enrolled0.arr0 &&& enrolled0.arr1 &&& threadSet 0 x0.pass = 0
    ∧ ((barred {} 0xFFFFFFFF 0).bar 0 3).eb + 0xFFFFFFFF < 2 ^ 32
    ∧ (∀ k ∈ lanesOf x0.pass, ((barred { ph := 1 } 1 0).noteAwait x0 3).phaseDone x0 3 false 0 = true)
    ∧ (barred {} 1 0).prepare (headOf ab4 (.barv ab4) false true) = .run x0 ∧ (barred {} 1 0).prepare (headOf ab4 (.bini ab4)) = .run x0
    ∧ ((barred {} 1 0).kernel 0).bars ≤ ab4.mod.idx.toNat ∧ ab3.mod.idx.toNat < ((barred {} 1 0).kernel 0).bars
    ∧ x0.firstLane (fun k => !(barred {} 1 0).mayArrive x0 3 k) = some 0 := by decide +kernel

/-- Lane 31 has arrived in both phases: the arrivals of the lanes before it complete the first. -/
def Tests.ahead : Bar := { enr := allThreads 1, arr0 := threadBit 0 31, arr1 := threadBit 0 31 }

/-- The bounds of R249 and R250: a lane in both phases, its two arrivals, and a count that passes 2^32 - 1. -/
theorem witness_BarriersComplete_bounds :
    (∀ k ∈ lanesOf x0.pass, (barred ahead 1 0).mayArrive x0 3 k = true)
    ∧ ahead.arr0 &&& ahead.arr1 &&& threadSet 0 x0.pass ≠ 0
    ∧ ((barred ahead 1 0).arriveLanes x0 3 (lanesOf x0.pass)).2 = 0
    ∧ (barred ahead 1 0).flaskScope 0 3 = false ∧ ahead.arr0 &&& threadBit 0 30 = 0 ∧ ¬ahead.arr0 &&& threadBit 0 31 = 0
    ∧ (barred { eb := 1 } 0xFFFFFFFF 0).barCause x0 3 = none
    ∧ 2 ^ 32 ≤ ((barred { eb := 1 } 0xFFFFFFFF 0).bar 0 3).eb + ((barred { eb := 1 } 0xFFFFFFFF 0).get1 x0 ab3.a x0.lane).toNat := by
  decide +kernel

/-- The machine with barrier 3 of its flask met on the dies. -/
def Tests.seam : State := barred { enrolled0 with localMet := true } 1 0

theorem witness_BarriersComplete_seam :
    (seam.flask 5).blocks ≠ [] ∧ ((seam.flask 5).status = .resident ∨ (seam.flask 5).status = .saving) ∧ (∀ k ∈ (seam.flask 5).blocks, (seam.block k).bars.has 3 = true ∧ (seam.bar k 3).localMet = true)
    ∧ ({ enr := 1, arr0 := 1 } : Bar).met = true ∧ ({ enr := 1 } : Bar).met = false := by decide +kernel

/-- The machine with a runner of depth 4 at pooled address 16. -/
def Tests.ringed (n : Nat) (waiting : List PopReq) : State :=
  let s := withRegs [(2, 16), (4, 4)] []
  s.setFlask 5 { s.flask 5 with runners := [(1, { ring := some 16, allow := 4, n, waiting })] }
def Tests.ar1 : Args SMod := { d := .s 5, a := .s 2, b := .s 4, mod := { idx := 1 } }
/-- A declared runner that no `rinit` has set up. -/
def Tests.bare : State := withRegs [(2, 16), (4, 4)] []

theorem witness_RunnersComplete :
    bare.prepare (headOf ar1 (.rinit ar1)) = .run x0 ∧ ar1.mod.idx.toNat < (bare.kernel 0).runners
    ∧ (bare.get1 x0 ar1.a 0).toNat % 2 ^ 24 % 4 = 0 ∧ bare.poolAt 5 16 (4 * (bare.kernel 0).depth 1) = .at' 0 16
    ∧ 1 ≤ (bare.get1 x0 ar1.b 0).toNat ∧ (bare.get1 x0 ar1.b 0).toNat ≤ (bare.kernel 0).depth 1
    ∧ (bare.runner 5 1).n = 0 ∧ (bare.runner 5 1).waiting = [] ∧ (bare.runner 5 1).pushers = []
    ∧ (ringed 3 []).prepare (headOf ar1 (.push ar1)) = .run x0 ∧ (ringed 3 []).prepare (headOf ar1 (.pop ar1)) = .run x0
    ∧ (ringed 3 []).runnerCause x0 1 = none ∧ ((ringed 3 []).runner 5 1).n < ((ringed 3 []).runner 5 1).allow
    ∧ ((ringed 0 []).runner 5 1).waiting = [] ∧ ((ringed 1 [⟨0, 0, 63⟩]).runner 5 1).waiting = [⟨0, 0, 63⟩]
    ∧ ((ringed 1 [⟨0, 0, 63⟩]).runner 5 1).n = 1 ∧ (ringed 1 [⟨0, 0, 63⟩]).dev.damage = [] := by decide

/-- The machine with a copy program of one instruction forked, begun, and ended or not. -/
def Tests.forking (e : Engine) (begun ended : Bool) (left : Nat) (fault : Option Nat) : State :=
  { mach { squad0 with forks := [{ eng := e, prog := 9 }] } with
    progs := [(9, { eng := e, core := 0, bid := 0, sq := 0, pc := 24, left, begun, ended, fault })] }
def Tests.asyn (i : BitVec 7) : Args SMod := { imm := 1, mod := { idx := i } }
/-- The program of a `fork` with a count of 1 at offset 1: it lies in the TLB's page. -/
def Tests.forkable : State := base.setCore 0 { tlb := [page] }

/-- Whether a `fork` by squad 0 finds the words of its program, its registers full, and room in both sequencers. -/
def Tests.forkReady (s : State) (imm : Word) : Bool :=
  match s.forkReads x0 imm with
  | (t, .words is) => !(t.squad 0 0).rf.forkWaits is && ((t.squad 0 0).rf.forkTraps is).isNone
      && decide ((t.heldProgs 0 .copy).length < 4) && decide ((t.heldProgs 0 .matrix).length < 4)
      && (t.squad 0 0).forks == (s.squad 0 0).forks
  | _ => false

theorem witness_ProgramsComplete :
    ([(Instr.forkCopy (asyn 0), asyn 0), (.forkMatrix (asyn 1), asyn 1), (.forkMap2 (asyn 1), asyn 1)].all
      fun p => forkable.prepare (headOf p.2 p.1) == .run x0) = true
    ∧ forkable.forkInside x0 1 = true ∧ (forkable.squad 0 0).forks = []
    ∧ forkReady (forkable.begin x0) 1 = true := by decide

/-- A second `fork` of the copy sequencer, and one whose last instruction lies beyond the code segment. -/
theorem witness_ProgramsComplete_second :
    (forking .copy false false 1 none).prepare (headOf (asyn 0) (.forkCopy (asyn 0))) = .run x0
    ∧ (forking .copy false false 1 none).forkInside x0 (asyn 0).imm = true
    ∧ forkReady ((forking .copy false false 1 none).begin x0) (asyn 0).imm = true
    ∧ (∃ f ∈ ((forking .copy false false 1 none).squad 0 0).forks, f.eng = .copy)
    ∧ ((forking .copy false false 1 none).begin x0).forkInside x0 254 = true
    ∧ ((forking .copy false false 1 none).begin x0).forkInside x0 255 = false := by decide

theorem witness_ProgramsComplete_rdv :
    (forking .copy true true 0 none).prepare (headOf (asyn 0) (.rdvCopy (asyn 0))) = .run x0
    ∧ (forking .matrix true true 0 none).prepare (headOf (asyn 1) (.rdvMatrix (asyn 1))) = .run x0
    ∧ (forking .matrix true true 0 none).prepare (headOf (asyn 1) (.rdvMap2 (asyn 1))) = .run x0
    ∧ (((forking .copy true true 0 none).squad 0 0).forks.find? fun f => f.eng == .copy) = some ⟨.copy, 9⟩
    ∧ (((forking .matrix true true 0 (some 5)).squad 0 0).forks.find? fun f => f.eng == engineOf 1) = some ⟨.matrix, 9⟩
    ∧ (∀ g ∈ (forking .copy true true 0 none).progs, (forking .copy true true 0 none).progDone 9 g.2 = true ∧ g.2.fault = none)
    ∧ (∀ g ∈ (forking .matrix true true 0 (some 5)).progs, (forking .matrix true true 0 (some 5)).progDone 9 g.2 = true ∧ g.2.fault = some 5)
    ∧ ((base.squad 0 0).forks.find? fun f => f.eng == .copy) = none
    ∧ (forking .copy false false 1 none).running 0 .copy = none ∧ ((forking .copy false false 1 none).heldProgs 0 .copy).length = 1
    ∧ (((forking .copy true false 0 none).running 0 .copy).map fun p => (p.1, p.2.left)) = some (9, 0) := by decide

/-- The machine with a squad at a drain. -/
def Tests.draining (w : DrainWait) (now : Nat) : State :=
  let s := mach { squad0 with drain := some w }
  { s with ctrl := { s.ctrl with now } }

theorem witness_DrainsComplete :
    ([(Instr.drainDie (asyn 0), asyn 0), (.drainPkg (asyn 0), asyn 0), (.drainMap2 (asyn 0), asyn 0)].all fun p =>
      (draining { pkg := true, done := true } 0).prepare (headOf p.2 p.1 false true) == .run x0
      && base.prepare (headOf p.2 p.1 false true) == .run x0) = true
    ∧ ((draining { pkg := true, done := true } 0).squad 0 0).drain = some { pkg := true, done := true }
    ∧ (base.squad 0 0).drain = none
    ∧ ((draining { pkg := true, since := some 7 } 1407).squad (0 / 32) (0 % 32)).drain = some { pkg := true, since := some 7 }
    ∧ 7 + 1400 ≤ (draining { pkg := true, since := some 7 } 1407).ctrl.now
    ∧ (draining { pkg := true, since := some 7 } 1407).idleFor 0 true = true
    ∧ 7 + 600 ≤ (draining { pkg := false, since := some 7 } 607).ctrl.now
    ∧ (draining { pkg := false, since := some 7 } 607).idleFor 0 false = true := by decide

/-! ## Launches and work -/

/-- What a doorbell reads of the launch descriptor. -/
def Tests.launchRead : CtxRead × List Byte × Image := base.readLaunch none 1 0x2080
/-- The machine with a full queue. -/
def Tests.fullQueue : State := base.mapQueue 0 0 fun q => { q with entries := [1, 2, 3, 4] }
/-- The machine with one place left in its overflow ring. -/
def Tests.ovfQueue : State := base.mapQueue 0 0 fun q => { q with overflow := [5], ovfQuota := 2 }

theorem witness_LaunchResults :
    ((base.tenant 0).queues.get 0 {}).en = true ∧ 0 < (base.tenant 0).nq ∧ (base.tenant 0).nq ≤ 2
    ∧ ((base.tenant 0).queues.get 1 {}).en = false
    ∧ base.refusedLaunch 1 ((base.tenant 0).queues.get 0 {}) launchRead.2.1 launchRead.2.2 = false
    ∧ base.refusedLaunch 1 ((base.tenant 0).queues.get 0 {}) [] launchRead.2.2 = true ∧ base.pours.length < 65536
    ∧ (((base.tenant 0).queues.get 0 {}).entries.length ≤ ((base.tenant 0).queues.get 0 {}).depthM1)
    ∧ ((base.tenant 0).queues.get 0 {}).overflow = []
    ∧ ((fullQueue.tenant 0).queues.get 0 {}).depthM1 < ((fullQueue.tenant 0).queues.get 0 {}).entries.length
    ∧ ((fullQueue.tenant 0).queues.get 0 {}).ovfQuota ≤ ((fullQueue.tenant 0).queues.get 0 {}).overflow.length
    ∧ ((ovfQueue.tenant 0).queues.get 0 {}).overflow ≠ []
    ∧ ((ovfQueue.tenant 0).queues.get 0 {}).overflow.length < ((ovfQueue.tenant 0).queues.get 0 {}).ovfQuota := by decide +kernel

/-- A device whose launch table is full. -/
def Tests.fullTable : State := { base with pours := List.replicate 65536 (7, { tag := 1 }) }

theorem witness_LaunchResults_full : 65536 ≤ fullTable.pours.length :=
  Nat.le_of_eq List.length_replicate.symm

/-- Scalar registers for the work instructions: a descriptor's address in pair s2, a handle in s8, an offset in s10. -/
def Tests.work : State :=
  let s := (withRegs [(2, 0x2080), (4, 0x2000), (8, 3), (10, 4092)] []).setCore 0 { tlb := [page] }
  s.setContext 1 { s.context 1 with retired := [(3, 2)], lastNum := 3 }
def Tests.apour : Args LMod := { d := .s 6, a := .s 2, b := .p 1, mod := {} }
def Tests.asp : Args Unit := { d := .s 6, a := .s 4, mod := () }
def Tests.acw : Args Unit := { d := .s 6, a := .s 8, mod := () }
def Tests.atk : Args Unit := { d := .s 6, a := .s 10, imm := 0x1FC, mod := () }
/-- Whether a `cwait` has its status. -/
def Tests.hasStatus : CwaitOn → Bool
  | .status w => w == 2
  | _ => false

/-- The same while that pour is in progress. -/
def Tests.awaiting : State := { work with pours := work.pours ++ [(pourKey 1 3, { tag := 1, num := 3 })] }
/-- Whether a `cwait` waits for a pour. -/
def Tests.waitsFor (p : Nat) : CwaitOn → Bool
  | .running q => q == p
  | _ => false

theorem witness_WorkInstructionsComplete_running :
    awaiting.prepare (headOf acw (.cwait acw) false true) = .run x0 ∧ awaiting.replayed x0 .cwait = .fresh
    ∧ waitsFor (pourKey 1 3) ((awaiting.begin x0).cwaitOn x0 (awaiting.get1 x0 acw.a 0)) = true := by decide

theorem witness_WorkInstructionsComplete :
    work.prepare (headOf apour (.pour apour)) = .run x0 ∧ work.replayed x0 (.pour 0) = .fresh
    ∧ (work.get x0 apour.a 2 0).toNat % 128 = 0 ∧ work.noteEnds (work.block 0).flask = false ∧ (work.begin x0).noneDeclined x0
    ∧ ((work.begin x0).readLaunch (some 0) 1 (work.get x0 apour.a 2 0).toNat).1 = .bytes []
    ∧ work.prepare (headOf acw (.cwait acw) false true) = .run x0 ∧ work.replayed x0 .cwait = .fresh
    ∧ hasStatus ((work.begin x0).cwaitOn x0 (work.get1 x0 acw.a 0)) = true
    ∧ work.prepare (headOf atk (.tknxt atk)) = .run x0 ∧ work.hasWs 0 (atk.imm.toNat % 4) = true
    ∧ work.replayed x0 (.tknxt 0) = .fresh ∧ work.asked 0 0 < 8
    ∧ work.prepare (headOf atk (.tknxtPooled atk)) = .run x0 ∧ atk.imm.toNat / 8 % 64 < (work.kernel 0).tags
    ∧ (work.get1 x0 atk.a 0).toNat % 2 ^ 24 % 4 = 0 ∧ work.poolAt 5 ((work.get1 x0 atk.a 0).toNat % 2 ^ 24) 4 = .at' 0 4092
    ∧ work.hasWs 0 3 = false
    ∧ work.prepare (headOf asp (.sparm asp)) = .run x0 ∧ work.replayed x0 .sparm = .fresh ∧ (work.get x0 asp.a 2 0).toNat % 64 = 0
    ∧ (match ((work.begin x0).readSprue (some 0) 1 (work.get x0 asp.a 2 0).toNat).1 with | .bytes _ => true | _ => false) = true
    ∧ work.prepare (headOf acw (.prog acw)) = .run x0 := by unfold State.noneDeclined; decide +kernel

/-- A squad that has replayed two of its recorded instructions and comes to one of another kind. -/
def Tests.diverged : State :=
  let s := work.setFlask 5 { work.flask 5 with replay := [(replayKey 0 0 2, ⟨.cwait, 0⟩)] }
  s.setSquad 0 0 { s.squad 0 0 with turn := 2 }

theorem witness_WorkInstructionsComplete_diverged :
    diverged.replayed x0 (.tknxt 0) = .diverge 2 ∧ diverged.replayed x0 (.pour 0) = .diverge 2 ∧ diverged.replayed x0 .sparm = .diverge 2
    ∧ diverged.recordBad x0 = false ∧ diverged.prepare (headOf atk (.tknxt atk)) = .run x0
    ∧ diverged.prepare (headOf apour (.pour apour)) = .run x0 ∧ diverged.prepare (headOf asp (.sparm asp)) = .run x0 := by decide +kernel

/-- The last tile of a work set of 3 by 2, and the first request beyond it. -/
theorem witness_WorkInstructionsComplete_tiles :
    4 < 5 ∧ 4 < 3 * 2 ∧ tileAnswer (3, 2) 5 = 0x00010002 ∧ tileAnswer (3, 2) 6 = 0xFFFFFFFF := by decide

/-- The machine with a request on its way and an armed sprue whose trigger is met. -/
def Tests.asked0 : State := { base with tks := [(4, { bid := 0, sq := 0, flask := 5, ws := 0, reg := some 63 })] }
def Tests.sprue0 (ldesc : Nat) : Sprue :=
  { tag := 1, ldesc, buf0 := 0x4000, buf1 := 0, len := 64, trig := 64, msg := false, rearm := false, que := 0, count := 64 }
def Tests.sprued (ldesc : Nat) : State := base.setSprue 0 1 (sprue0 ldesc)

theorem witness_WorkInstructionsComplete_events :
    asked0.tks.has 4 = true ∧ (∀ e ∈ asked0.tks, e.1 < 4 → e.2.bid = 0 → e.2.sq ≠ 0)
    ∧ ((sprued 0x2080).tenant 0).sprues.get? 1 = some (sprue0 0x2080) ∧ (sprue0 0x2080).st = .armed 0
    ∧ (sprue0 0x2080).met = true ∧ (∀ e ∈ (sprue0 0x2080).fired, e.1 ≠ 0)
    ∧ (sprued 0x2080).enabled 1 = true ∧ asked0.noteEnds 5 = false
    ∧ ((sprued 0x2080).launchAt 1 0 0x2080 (some 0x4000)).map (·.2.msb) = some false
    ∧ ((sprued 0x3000).launchAt 1 0 0x3000 (some 0x4000)).map (·.2.msb) = some true
    ∧ base.sprueDue { sprue0 0x2080 with count := 63 } = none := by decide +kernel

/-! ## Control registers, services, privileged instructions -/

/-- Each control register at a boundary: the last tile shape, a shape refused, a register that only the handler
writes. -/
def Tests.acrg (r : Cr) : Args Cr := { d := .s 6, a := .s 2, mod := r }
def Tests.crs : State := withRegs [(2, 0x11F1F)] []

theorem witness_ControlRegisterMoves :
    crs.prepare (headOf (acrg (.tshape 15)) (.movcr (acrg (.tshape 15)))) = .run x0 ∧ (crs.begin x0).mayWrite x0 (.tshape 15) = true
    ∧ ((crs.begin x0).crWrite x0 (.tshape 15) ((crs.begin x0).get x0 (.s 2) 1 0)).isSome = true
    ∧ crs.mayWrite x0 .cause = false ∧ (crs.crWrite x0 (.tshape 0) 0x40000).isNone = true ∧ (crs.crWrite x0 .stklim 0x50).isNone = true
    ∧ (crs.crWrite x0 .stklim 0x4F).isSome = true ∧ (crs.crWrite x0 (.skew 3) 0).isSome = true
    ∧ crs.prepare (headOf (acrg .cause) (.movrc (acrg .cause)) true) = .run x0 ∧ crs.mayRead x0 .cause = true
    ∧ ((crs.setContext 1 { crs.context 1 with priv := false }).mayRead x0 .asgen) = false
    ∧ (handled.crWrite xh .cause 0x380).isSome = true ∧ (handled.crWrite xh .trappc 24).isSome = true := by decide +kernel

theorem witness_ServicesComplete :
    ([Instr.sysVersion au, .sysRecoveryState au, .sysSetSideEffect au, .sysPourNumber au].all fun i =>
      base.prepare (headOf au i) == .run x0) = true
    ∧ au.imm = 0 ∧ ({ au with imm := 4 } : Args Unit).imm ≠ 0 ∧ (base.flask (base.block 0).flask).run = .first := by decide

/-- The machine with a second context of the same tenant and one of another, translation structures in frame 1, and the
operands of the privileged instructions: the target in s6, an address in pair s2, a node in pair s4. -/
def Tests.privd (target : Word) : State :=
  let s := (withRegs [(2, 0x800000), (4, 0x13000), (6, target), (8, 0x2000)] []).setCore 0 { tlb := [page] }
  { ((s.setContext 255 { en := true, root := 0x10000 }).setContext 2 { en := true, tenant := 1 }) with
    homes := { frames := [(0, 1), (1, 0x80FF)] } }
def Tests.aas : Args Unit := { d := .s 10, a := .s 6, mod := () }
def Tests.aspl : Args Unit := { d := .s 6, a := .s 2, b := .s 4, imm := 63, mod := () }
def Tests.adt : Args Unit := { d := .s 10, a := .s 8, b := .s 6, mod := () }

theorem witness_PrivilegedComplete :
    (privd 255).prepare (headOf aas (.asgen aas) false true) = .run x0 ∧ (privd 255).prepare (headOf aspl (.splint aspl)) = .run x0
    ∧ (privd 255).prepare (headOf aas (.tagkill aas)) = .run x0 ∧ (privd 255).prepare (headOf adt (.dtload adt)) = .run x0
    ∧ (privd 255).badTarget x0 255 false = false ∧ (privd 255).badTarget x0 255 true = false
    ∧ ((privd 255).get x0 (.s 2) 2 0).toNat % 2 ^ 21 = 0 ∧ ((privd 255).get x0 (.s 2) 2 0).toNat < 2 ^ 57
    ∧ ((privd 255).get x0 (.s 4) 2 0).toNat % 256 = 0
    ∧ (privd 255).tblOf ((privd 255).get x0 (.s 4) 2 0).toNat ((privd 255).tenantOf 255) = true
    ∧ aspl.imm.toNat % 64 < ((privd 255).kernel 0).tags
    ∧ (privd 255).dev.splinters.countP (fun e => e.2.bid == some 0) < 16
    ∧ (privd 2).badTarget x0 2 false = true ∧ (privd 2).badTarget x0 2 true = true ∧ (privd 0).badTarget x0 0 false = true
    ∧ ((privd 255).get1 x0 adt.b 0).toNat < 2 ^ 11 ∧ ((privd 255).get x0 adt.a 2 0).toNat % 64 = 0
    ∧ (((privd 255).begin x0).giveBack 0).owing 0 = false
    ∧ (privd 255).splintWaits 0 ((privd 255).get x0 (.s 4) 2 0).toNat
        ((privd 255).walk (some 0) 255 ((privd 255).get x0 (.s 2) 2 0).toNat) = false := by decide +kernel

/-- A table of zeros is accepted; one whose second entry is 3 is not (R46). -/
theorem witness_PrivilegedComplete_tables :
    (match ((privd 255).begin x0).ctxRead (some 0) 1 0x2000 2048 with | .bytes _ => true | _ => false) = true
    ∧ ((privd 255).begin x0).noneDeclined x0 ∧ (privd 255).homes.owners = [] ∧ (privd 255).homes.backs = []
    ∧ tableStatus (List.replicate 1024 0) = 0 ∧ tableStatus [0, 3] = 0x80020001 := by unfold State.noneDeclined; decide +kernel

/-- The machine with a splinter whose compare-and-swap is still to be made, or has been. -/
def Tests.splinting (swap : Option (Nat × Nat)) : State :=
  { base with dev := { base.dev with splinters :=
    [(1, { bid := some 0, core := 0, ctag := 255, tag := 63, va := 0x800000, node := 0, swap, status := 0, until' := 0 })] } }

theorem witness_PrivilegedComplete_splinter :
    (splinting (some (0x12000, 0x1F))).dev.splinters.has 1 = true ∧ (splinting (some (0x12000, 0x1F))).homeNat 0x12000 8 = 0x1F
    ∧ (splinting (some (0x12000, 0x1E))).homeNat 0x12000 8 ≠ 0x1E
    ∧ ((splinting none).dev.splinters.get? 1).map (·.swap) = some none
    ∧ ((splinting none).dev.splinters.get? 1).map (fun z => decide (z.until' ≤ (splinting none).ctrl.time)) = some true
    ∧ (splinting (some (0x12000, 0x1F))).homeWaits (some 0) ((splinting (some (0x12000, 0x1F))).forward 0x12000) 8 = false
    ∧ (splinting (some (0x12000, 0x1F))).dev.damage = [] ∧ (splinting (some (0x12000, 0x1F))).walkOk 255 0x12000 = true
    ∧ base.blocks.has 0 = true := by decide +kernel

/-! ## Events -/

/-- A request for one byte at the last place of a line. -/
def Tests.req (op : ReqOp) : Req :=
  { bid := 0, sq := 0, flask := 5, tag := 1, inst := 9, op, line := 0x80
    pieces := [{ lane := 31, ofs := 0, va := 0x203F, addr := 0x203F, n := 1, data := [7] }] }
def Tests.onItsWay (op : ReqOp) : State := { base with homes := { base.homes with reqs := [(3, req op)] } }

/-- Whether a request stands before its home. -/
def Tests.stands (s : State) (r : Req) : Bool :=
  s.homes.reqs.get? 3 == some r && (r.status == .sent || r.status == .held) && r.target == .device && s.homes.migration == none
  && !s.behind 3 r && !s.combinedAhead r && !s.seamHolds 3 r && (s.frameRefused r.tag r.line).isNone && s.dev.damage.isEmpty
  && r.pieces.all (fun p => p.addr / 64 == r.line) && !s.heldBefore 3 r

/-- A request of two pieces of one word. -/
def Tests.req2 (op : ReqOp) (rq : Rq) : Req :=
  { req op with rq, pieces := (req op).pieces ++ [{ lane := 30, ofs := 0, va := 0x203E, addr := 0x203E, n := 1, data := [9] }] }
def Tests.standing (r : Req) : State := { base with homes := { base.homes with reqs := [(3, r)] } }
/-- The machine with that word owned by a block. -/
def Tests.ownedBy (bid : Nat) (pending : BitVec 16) (r : Req) : State :=
  let s := standing r
  { s with homes := { s.homes with owners := [(ownerKey 0x80 bid, { words := 0x8000, bid, tag := 1, pending })] } }

theorem witness_HomeServesRequests :
    ([req2 (.load false) .uc, req2 (.load false) .wt, req2 (.store false) .si, req2 (.atom .add true) .uc].all fun r =>
      let s := standing r
      stands s r && !s.cacheable r && (s.memoOf r).isNone && !s.memoGone r && decide (s.ownerState r = .free)
      && !(s.effective r).owned && !s.silent r.flask && s.homes.owners.isEmpty && s.homes.backs.isEmpty
      && (List.range 2).all (fun k => (s.rangeAt (0x203E + k)).isNone)) = true
    ∧ (req2 (.load true) .ow).owned = true ∧ (standing (req2 (.load true) .ow)).effective (req2 (.load true) .ow) = req2 (.load true) .ow
    ∧ stands (standing (req2 (.load true) .ow)) (req2 (.load true) .ow) = true
    ∧ (standing (req2 (.store true) .ow)).recordFree (req2 (.store true) .ow) = true
    ∧ stands (standing (req2 (.store true) .ow)) (req2 (.store true) .ow) = true
    ∧ ((standing (req2 (.load true) .ow)).core 0).owner.length < 128
    ∧ (∀ p ∈ (req2 (.load true) .ow).pieces, p.addr % 64 + p.n ≤ 64)
    ∧ (ownedBy 0 0 (req2 (.store true) .ow)).ownerState (req2 (.store true) .ow) = .self
    ∧ (ownedBy 0 0 (req2 (.load false) .uc)).ownerState (req2 (.load false) .uc) = .self
    ∧ (ownedBy 2 0 (req2 (.load false) .uc)).ownerState (req2 (.load false) .uc) = .other
    ∧ (ownedBy 2 0x8000 (req2 (.load false) .uc)).ownerState (req2 (.load false) .uc) = .pending
    ∧ stands (ownedBy 2 0x8000 (req2 (.load false) .uc)) (req2 (.load false) .uc) = true := by decide +kernel

/-- The machine in which the squad's block lies on the other die, whose cache holds the line of a `.wt` load. -/
def Tests.cachedReq : Req := { req (.load false) with bid := 240, rq := .wt }
def Tests.cached : State :=
  let s := (standing cachedReq).setRegs { base.dev.regs with rdcSz1 := 1 }
  s.setDie 1 { s.die 1 with rdc := [(0x80, { bytes := List.replicate 64 5, tag := s.ownerTag 0x2000, fgen := 0 })] }
/-- A retried atomic with its memo, and with none at a home whose die was reset after its issue. -/
def Tests.retried (epoch : Nat) : Req := { req (.atom .add true) with tries := 1, epoch, ident := 4 }
def Tests.recalls : State :=
  let s := standing (retried 0)
  { s with homes := { s.homes with memos := [{ core := 0, home := s.keeper (retried 0), ident := 4, inst := 9, line := 0x80, result := [(31, 0, [6])] }] } }

theorem witness_HomeServesRequests_answered :
    cached.homes.reqs.get? 3 = some cachedReq ∧ cached.behind 3 cachedReq = false ∧ cached.combinedAhead cachedReq = false
    ∧ cached.cacheable cachedReq = true ∧ cachedReq.left = none ∧ (cached.rdcEntry cachedReq).isSome = true
    ∧ stands recalls (retried 0) = true
    ∧ stands (standing (retried 1)) (retried 1) = true ∧ (standing (retried 1)).memoOf (retried 1) = none
    ∧ (standing (retried 1)).memoGone (retried 1) = true := by decide +kernel

/-- The keeper of that memo is the home slice of the line, which the specification leaves open. -/
theorem witness_HomeServesRequests_memo : (recalls.memoOf (retried 0)).isSome = true := by
  simp [State.memoOf, State.memoFor, recalls, retried, req, coreOf, Req.memoLine]
  rfl

/-- Contributions to the last element of a range with its home at 0x2000 and two slots at 0x3000, and its fold. -/
def Tests.ranged2 : Range := { range0 with slots := 2, fmt := .i32, len := 16 }
def Tests.contribution (op : ReqOp) : Req :=
  { req op with pieces := [{ lane := 31, ofs := 0, va := 0x203C, addr := 0x203C, n := 4, data := [7, 0, 0, 0] }] }
def Tests.contributed (op : ReqOp) : State :=
  let s := (standing (contribution op)).setContext 1 { base.context 1 with ranges := [ranged2] }
  { s with mem := { s.mem with dev := Memory.writeBytes s.mem.dev 0x203C [1, 0, 0, 0] } }

theorem witness_HomeServesRequests_ranges :
    ([ReqOp.load false, .cred, .crfold].all fun op =>
      stands { contributed op with homes := { (contributed op).homes with frames := [(0, 1)] } } { contribution op with line := 0x80 }
      && decide ((contributed op).rangeAt 0x203C = some (ranged2, 60))) = true
    ∧ ranged2.fmt.bytes = 4 ∧ 60 % 4 = 0 ∧ (contributed .cred).slotAt ranged2 15 0 = some (0x3000 + 30 * 4)
    ∧ (contributed .cred).silent 5 = false ∧ (contributed .cred).homes.owners = [] := by decide +kernel

/-- R149 and R150: a contribution adds to its slot, and a read adds the slots to the home value. -/
theorem test_contribution :
    let s := nextOr (exec (.homeRequest 3) (contributed .cred)) (contributed .cred)
    Memory.readBytes s.mem.dev (0x3000 + 30 * 4) 4 = [7, 0, 0, 0] ∧ s.valueBytes 0x203C 4 = [8, 0, 0, 0]
    ∧ Memory.readBytes s.mem.dev 0x203C 4 = [1, 0, 0, 0] := by decide +kernel

/-- The machine with owned words being recalled, a write-back, two combined stores, an open access and a posted
instruction. -/
def Tests.ownedLine : OwnerLine := { line := 0x80, bid := 0, tag := 1, words := 0x8001, bytes := List.replicate 64 1 }
def Tests.combined0 (id lane deadline : Nat) : Combine :=
  { id, lane, line := 0x80, va := 0x2000, bytes := [(0, 1)], deadline, insts := [7] }
def Tests.open9 : OpenAcc := { id := 9, seq := 1, pc := 0, ctl := {}, lanes := 0x80000000, d := .v 4, size := 1, left := 0x80000000 }
def Tests.busyMem : State :=
  let q : Squad := { squad0 with
    combine := [combined0 4 0 0, combined0 5 1 1], opens := [open9], posted := [{ id := 8, left := 0x80000000 }] }
  let s := (mach q).setCore 0 { owner := [ownedLine] }
  { s with homes := { s.homes with
    owners := [(ownerKey 0x80 0, { words := 0x8001, bid := 0, tag := 1, pending := 1 })]
    backs := [(6, ⟨0x81, 0, 0x8001, List.replicate 64 1⟩)]
    reqs := [(3, { req (.load false) with status := .performed }), (4, { req (.store false) with status := .performed, inst := 8 })] } }

theorem witness_AccessEvents :
    (∃ o ∈ busyMem.homes.owners, o.1 / 512 = 0x80 ∧ o.2.bid = 0 ∧ ownedLine.words &&& o.2.pending ≠ 0)
    ∧ ((busyMem.core 0).owner.find? fun l => l.line == 0x80 && l.bid == 0) = some ownedLine ∧ busyMem.homes.backs.get? 6 = some ⟨0x81, 0, 0x8001, List.replicate 64 1⟩
    ∧ ((busyMem.squad 0 0).combine.find? fun c => c.id == 4) = some (combined0 4 0 0) ∧ (0 ≤ busyMem.ctrl.now)
    ∧ ((busyMem.squad 0 0).combine.find? fun c => c.id == 5) = some (combined0 5 1 1) ∧ busyMem.ctrl.now < 1
    ∧ busyMem.damaged [(0x09, ownerKey 0x80 0)] = none ∧ busyMem.dev.damage = []
    ∧ busyMem.backHeld ⟨0x81, 0, 0x8001, List.replicate 64 1⟩ = false
    ∧ owes.backHeld ⟨2 ^ 39 / 64, 0, 0x8001, List.replicate 64 1⟩ = true := by decide

/-- The same with the line damaged in its buffer. -/
theorem witness_AccessEvents_damaged :
    (let s := { busyMem with dev := { busyMem.dev with damage := [(0x09, ownerKey 0x80 0)] } }
     s.damaged [(0x09, ownerKey 0x80 0)] ≠ none
     ∧ ((s.core 0).owner.find? fun l => l.line == 0x80 && l.bid == 0) = some ownedLine) := by decide

theorem witness_AccessEvents_answers :
    busyMem.homes.reqs.get? 3 = some { req (.load false) with status := .performed }
    ∧ (busyMem.cores.findSome? fun c => c.2.atoms.find? fun a => a.id == 3) = none
    ∧ ((busyMem.squad 0 0).opens.find? fun o => o.id == 9) = some open9
    ∧ (req (.load false)).bad = [] ∧ (busyMem.squad 0 0).opens = [open9] ∧ open9.bad = 0 ∧ open9.cause = none
    ∧ (req (.load false)).lanes = open9.left
    ∧ (∀ e ∈ busyMem.homes.reqs, e.1 ≠ 3 → ¬(e.2.bid = 0 ∧ e.2.sq = 0 ∧ 9 ∈ e.2.insts))
    ∧ (∀ e ∈ busyMem.homes.reqs, e.1 ≠ 4 → ¬(e.2.bid = 0 ∧ e.2.sq = 0 ∧ 8 ∈ e.2.insts))
    ∧ (∀ c ∈ (busyMem.squad 0 0).combine, 9 ∉ c.insts ∧ 8 ∉ c.insts)
    ∧ busyMem.homes.reqs.get? 4 = some { req (.store false) with status := .performed, inst := 8 }
    ∧ (req (.store false)).bad = [] ∧ (req (.store false)).also = []
    ∧ (∀ p ∈ (busyMem.squad 0 0).posted, p.id = 8 → p.cause = none) ∧ (∃ p ∈ (busyMem.squad 0 0).posted, p.id = 8) := by decide

/-- The machine with a pour accepted and not placed, and no block. -/
def Tests.waiting : State :=
  let p : Pour := { tag := 1, num := 1, kern := { kernel with accRc := 0 } }
  { (base.mapQueue 0 0 fun q => { q with entries := [pourKey 1 1] }) with
    squads := [], blocks := [], flasks := [], pours := [(pourKey 1 1, p)] }
/-- The same with an H pour that no core can take, 33,000 cycles later. -/
def Tests.hWaits : State :=
  let s := waiting.setPour (pourKey 1 1) { waiting.pour (pourKey 1 1) with cls := 1, kern := { kernel with tiles := 17 } }
  { s with ctrl := { s.ctrl with now := 33000 } }

theorem witness_SchedulerEvents_place :
    (waiting.urgentTrigger.cwaitTriggers.nextPlaced).isSome = true := by decide +kernel

theorem witness_SchedulerEvents_wait :
    (hWaits.waitingAt (flaskKey (pourKey 1 1) 0 .first)).isSome = true ∧ (hWaits.pour (pourKey 1 1)).cls = 1
    ∧ hWaits.waitsSince (.new (pourKey 1 1)) + 33000 ≤ hWaits.ctrl.now
    ∧ (hWaits.slotsFor (hWaits.pourWaiting (.new (pourKey 1 1)))) = none := by decide +kernel

/-- The machine whose flask is being saved, and one whose threads have ended. -/
def Tests.saving : State := base.setFlask 5 { base.flask 5 with status := .saving }
def Tests.finished : State := mach {}
def Tests.released : State := { base with pours := [(7, { tag := 1, num := 1, kern := kernel, ended := 1 })] }

theorem witness_SchedulerEvents :
    (saving.flask 5).status = .saving ∧ saving.handling (saving.flask 5) = false ∧ (∀ b ∈ (saving.flask 5).blocks, saving.quiet b = true)
    ∧ (let u := (saving.flask 5).blocks.foldl State.giveBack (saving.flushStacks (saving.flask 5).blocks)
       (∀ b ∈ (saving.flask 5).blocks, u.quiet b = true ∧ u.givesBack b = false)
       ∧ u.handlerCause (u.flask 5).blocks = none ∧ u.heldCause (u.flask 5).blocks = none ∧ u.saveDamage (u.flask 5).blocks = none)
    ∧ finished.blockDone 0 = true ∧ finished.handlerCause [0] = none ∧ (finished.giveBack 0).givesBack 0 = false ∧ released.pourDone 7 = true ∧ base.dev.mailbox.busy = none ∧ (base.context 1).en = true
    ∧ ({ base with dev := { base.dev with mailbox := { busy := some {} } } } : State).dev.mailbox.busy.isSome = true := by decide

/-- The machine whose flask 5 may be flushed, and one with a tenant that may hold a save area. -/
def Tests.flushed : State := base.setPour 7 { base.pour 7 with kern := { kernel with idem := true } }
def Tests.saver : State := base.setTenant 0 { base.tenant 0 with nsave := 1 }

/-- The flask that a pre-emption of the mailbox names: resident with its threads or its handler running, or being saved;
and the conditions of each of its actions. -/
theorem witness_SchedulerEvents_mail :
    base.namedBy 1 0 0xFFFFFFFF (base.flask 5) ∧ ¬base.namedBy 2 0 0xFFFFFFFF (base.flask 5)
    ∧ (base.flask 5).status = .resident ∧ base.handling (base.flask 5) = false ∧ handled.handling (handled.flask 5) = true
    ∧ (handled.flask 5).status = .resident ∧ saving.namedBy 1 0 0xFFFFFFFF (saving.flask 5) ∧ (base.context 2).en = false
    ∧ base.areaFree 0 = false ∧ base.endsWithin (base.flask 5) 33000 = false
    ∧ (base.setBlock 0 { base.block 0 with progress := 65535 }).endsWithin (base.flask 5) 33000 = true
    ∧ flushed.flushable 5 = true ∧ base.flushable 5 = false := by
  unfold State.namedBy; decide +kernel

theorem witness_SchedulerEvents_area (h : 0 < Config.saveAreas) : saver.areaFree 0 = true := by
  have h1 : ((saver.tenants.map fun t => t.2.saves).sum) = 0 := by decide
  have h2 : (saver.tenant 0).saves < (saver.tenant 0).nsave := by decide
  simp [State.areaFree, h1, h2, h]

/-- The machine with a die in a phase, a lease, a queued write-back, and an audit. -/
def Tests.died (p : DiePhase) (clearing : Bool) : State :=
  (base.setDie 1 { phase := p, clearing, scrubQ := [5] }).setCore 239 { leases := [page] }
def Tests.auditing : State :=
  let s := base.setFlask 5 { base.flask 5 with chosen := true, sites := [0], status := .retired }
  { s with ctrl := { s.ctrl with now := 2 ^ 24 } }
/-- The same where the tenant has no core, and after the replay has retired. -/
def Tests.noCore : State := auditing.setTenant 0 {}
def Tests.replayed : State := auditing.setFlask (auditing.runKey 5 .replay) { pour := 7, idx := 0, run := .replay, status := .retired }
def Tests.replayedBad : State :=
  auditing.setFlask (auditing.runKey 5 .replay) { pour := 7, idx := 0, run := .replay, status := .retired, sigs := [(0, 1)] }

/-- The machine with an entry of the ingress. -/
def Tests.ingressing : State := { base with dev := { base.dev with ingress := [page] } }

theorem witness_RecoveryEvents :
    ((died .quiescing false).die 1).phase = .quiescing
    ∧ (∀ e ∈ (died .quiescing false).homes.reqs, ¬((e.2.status = .held ∨ e.2.status = .performed) ∧ e.2.target = .device
        ∧ homeDie (e.2.line * 64) = 1))
    ∧ (∀ b ∈ (died .quiescing false).homes.backs, ¬(homeDie (b.2.line * 64) = 1 ∧ dieOfBlock b.2.bid = 1))
    ∧ (∀ e ∈ (died .quiescing false).homes.dirty, homeDie (e.1 * 64) ≠ 1)
    ∧ (base.context (base.ownerTag (0x800 * 64))).en = false ∧ (List.replicate 64 (1 : Byte)).length = 64
    ∧ (base.context (base.ownerTag (0x80 * 64))).en = true ∧ base.dev.regs.bootStep = 7 ∧ (State.reset.die 1).phase = .held
    ∧ (died .reset false).dev.altered.contains 1 = false ∧ [1].contains 1 = true
    ∧ started.copyCrosses 1 { command with started := true } = false
    ∧ (started.core 0).copies.get? 1 = some { command with started := true }
    ∧ ((died .quiescing false).die 1).deadline ≤ (died .quiescing false).ctrl.time ∧ ((died .fenced false).die 1).phase = .fenced
    ∧ ((died .reset false).die 1).phase = .reset ∧ ((died .rejoining false).die 1).clearing = false
    ∧ ((died .running true).die 1).clearing = true ∧ ((died .running true).die 1).clearEnd ≤ (died .running true).ctrl.now
    ∧ ((died .running true).die 1).phase = .running ∧ base.dev.damage = [] ∧ ((died .running true).die 1).scrubQ = [5]
    ∧ ((died .running true).core 239).leases[0]? = some page ∧ page.expires ≤ (died .running true).ctrl.time
    ∧ ingressing.dev.ingress[0]? = some page ∧ page.expires ≤ ingressing.ctrl.time := by decide +kernel

/-- The machine with a started copy whose pages lie at the other die. -/
def Tests.mapsFar : State :=
  { started with mem := { started.mem with dev := Memory.writeBytes started.mem.dev 0x12000 (leBytes 8 (2 ^ 39 + 0x1F)) } }

theorem witness_RecoveryEvents_copies :
    (mapsFar.core 0).copies.get? 1 = some { command with started := true }
    ∧ mapsFar.copyCrosses 1 { command with started := true } = true := by decide +kernel

theorem witness_RecoveryEvents_audit :
    auditing.enabled (auditing.pour (auditing.flask 5).pour).tag = true ∧ auditing.dev.damage = []
    ∧ (auditing.setContext 1 {}).enabled 1 = false ∧ (auditing.auditRun 5).map (fun r => r.made) = some false
    ∧ ((auditing.auditRun 5).bind fun r => auditing.auditSlots (auditing.flask 5) r.avoid).isSome = true
    ∧ ((noCore.auditRun 5).map fun r => noCore.auditSlots (noCore.flask 5) r.avoid) = some none
    ∧ (noCore.flask 5).waitFrom + 2 ^ 24 ≤ noCore.ctrl.now
    ∧ (replayed.flask 5).chosen = true ∧ (replayed.flask (replayed.runKey 5 .replay)).status = .retired
    ∧ replayed.flasks.has (replayed.runKey 5 .third) = false
    ∧ replayed.differing (replayed.flask 5) (replayed.flask (replayed.runKey 5 .replay)) = []
    ∧ replayedBad.differing (replayedBad.flask 5) (replayedBad.flask (replayedBad.runKey 5 .replay)) ≠ [] := by decide +kernel

/-- A peer's read, and the machine that admits it. -/
def Tests.peer (n : Nat) : PeerReq := { src := 5, ptag := 1, addr := 0x2000, ident := 0, op := .read n }
def Tests.admitting : State :=
  base.setTenant 0 { base.tenant 0 with ninb := 1, inbound := [(0, { en := true, r := true, dtag := 1, ephi := 5, eplo := 5 })] }
/-- A link in a phase and a key state, some microseconds and units after it began. -/
def Tests.linked (p : LinkPhase) (k : KeyState) (replay : List Bool) (time : Nat) : State :=
  let s := base.setLink 19 { phase := p, key := k, recv := (true, false), flits := 2 ^ 36, replay }
  { s with ctrl := { s.ctrl with time } }
/-- The machine with a held ordered write of the peer, and with a memo of its atomic. -/
def Tests.heldUp : State :=
  { base with dev := { base.dev with ingressHeld := [⟨{ peer 64 with op := .write [1] true false }, []⟩] } }
def Tests.remembering (time : Nat) : State :=
  { base with homes := { base.homes with peerMemos := [{ peer := 5, ident := 2, result := 0, since := 0 }] }
              ctrl := { base.ctrl with time } }

theorem witness_FabricEvents :
    (∀ e ∈ base.dev.ingressHeld, holdsBack e.req (peer 64) = false) ∧ base.admitted (peer 64) = false
    ∧ (∃ e ∈ heldUp.dev.ingressHeld, holdsBack e.req (peer 64) = true)
    ∧ admitting.admitted (peer 64) = true ∧ peerFits (peer 0) = false
    ∧ (match (admitting.ingressOne (peer 64)).2 with | .answer (.bytes _) => true | _ => false) = true
    ∧ ((linked .up (.steady false) [] 0).link 19).key = .steady false ∧ ((linked .up (.steady false) [] 0).link 19).holds true = false
    ∧ 2 ^ ((linked .up (.steady false) [] 0).link 19).limLog ≤ ((linked .up (.steady false) [] 0).link 19).flits
    ∧ ((linked .up (.wait false) [] 0).link 19).key = .wait false ∧ ((linked .up (.drain false) [] 0).link 19).key = .drain false
    ∧ ((linked .up (.drain false) [] 0).link 19).replay.contains false = false
    ∧ ((linked .up (.drain false) [false] 0).link 19).replay.contains false = true
    ∧ ((linked .up (.steady false) [true] 0).link 19).phase = .up
    ∧ (∃ i ∈ ((linked .up (.steady false) [true] 0).link 19).replay, ((linked .up (.steady false) [true] 0).link 19).holds i = false)
    ∧ (linked .retraining (.steady false) [] (microseconds 100)).ctrl.time
        ≤ ((linked .retraining (.steady false) [] (microseconds 100)).link 19).since + microseconds 100
    ∧ ((linked .retraining (.steady false) [] (microseconds 100 + 1)).link 19).since + microseconds 100
        < (linked .retraining (.steady false) [] (microseconds 100 + 1)).ctrl.time
    ∧ ((remembering (microseconds 100)).homes.peerMemos.find? fun m => m.peer == 5 && m.ident == 2).map (fun m =>
        decide (m.since + microseconds (10 * (remembering (microseconds 100)).dev.regs.retryW) ≤ (remembering (microseconds 100)).ctrl.time))
        = some true := by
  decide +kernel

/-- A peer's access to a page that is not present: the ingress holds it. -/
theorem witness_FabricEvents_held :
    (match ((admitting.setContext 1 { admitting.context 1 with root := 0x14000 }).ingressOne (peer 64)).2 with
      | .held fs => !fs.isEmpty | _ => false) = true := by decide +kernel

/-- The host's registers at the bounds of R265, R296, R297, R352 and R364. -/
theorem witness_HostEvents_registers :
    base.namesContext 0 (BitVec.ofNat 64 ((base.tenant 0).aperture % 256)) = false
    ∧ base.namesContext 0 1 = true ∧ (base.tenant 0).en = true ∧ 1 < (base.tenant 0).nq ∧ (base.tenant 0).urt = true
    ∧ fieldBits (2 ^ 255 + 0x1000 * 2 ^ 256) 312 256 % 4096 = 0 ∧ ((base.tenant 0).queues.get 1 {}).locked = false
    ∧ (base.tenant 63).en = false ∧ fieldBits (256 * 2 ^ 44 + 64 * 2 ^ 37 + 4 * 2 ^ 30 + 16 * 2 ^ 25) 52 44 ≤ 256
    ∧ fieldBits (64 * 2 ^ 37) 43 37 ≤ 64 ∧ 4 ≤ fieldBits (4 * 2 ^ 30) 36 30 ∧ fieldBits (64 * 2 ^ 30) 36 30 ≤ 64
    ∧ fieldBits (16 * 2 ^ 25) 29 25 ≤ 16
    ∧ (base.context 255).en = false ∧ (base.context 255).loading = false ∧ fieldBits (2 ^ 127 + 0x1000 * 2 ^ 64) 115 64 % 4096 = 0
    ∧ (2 ^ 127 + 0x1000 * 2 ^ 64 : Nat).testBit 127 = true
    ∧ fieldBits (1023 * 2 ^ 40) 57 40 - fieldBits (1023 * 2 ^ 40) 39 22 < 1024 ∧ base.portsDown = true
    ∧ (1 ≤ fieldBits (1000 * 2 ^ 40) 49 40 ∧ fieldBits (1000 * 2 ^ 40) 49 40 ≤ 1000)
    ∧ (1 ≤ fieldBits (100 * 2 ^ 30) 39 30 ∧ fieldBits (100 * 2 ^ 30) 39 30 ≤ 100) ∧ base.sizeOk 0 0 = true ∧ base.sizeOk 1 64 = true
    ∧ 24 ≤ fieldBits (24 * 2 ^ 50 + 1) 55 50 ∧ 1 ≤ fieldBits (24 * 2 ^ 50 + 1) 17 0
    ∧ 1 ≤ fieldBits (1 * 2 ^ 28) 35 28 ∧ 10 ≤ fieldBits 10 9 0 ∧ (outWindowOf (1 * 2 ^ 101)).ptag ≠ 0 ∧ base.vfs = true ∧ (base.context 255).stale = [] := by decide +kernel

/-- The machine with a page fault in its slot and one that waits, a sprue, a mailbox command, an invalidation and a
waiting request of the host, as hot as can be. -/
def Tests.hosted : State :=
  let s := sprued 0x2080
  let s := s.setTenant 0 { s.tenant 0 with
    faults := [(3, { tag := 1, va := 0x40000000, kind := 0, src := 0, slot := some 0 }), (4, { tag := 1, va := 0x50000000, kind := 0, src := 0 })] }
  { s with dev := { s.dev with
    mailbox := { busy := some {} }, invalidating := [[3]], celsius := 106, hostHeld := [.doorbell 0 1 0x2080 1] } }
/-- The machine whose root node of context 1 has a request held for its words. -/
def Tests.nodeHeld : State :=
  { base with homes := { base.homes with reqs := [(3, { req (.load false) with
    status := .held, line := 0x400, pieces := [{ lane := 0, ofs := 0, va := 0x10000, addr := 0x10000, n := 8, data := [] }] })] } }
/-- The machine with an access of a squad to host memory in flight. -/
def Tests.hostFlying : State :=
  { hosted with homes := { hosted.homes with reqs := [(3, { req (.load false) with target := .host })] } }
/-- A migration at a step. -/
def Tests.migrating (st : MigStep) : State :=
  { base with homes := { base.homes with migration := some { tag := 1, va := 0, old := 0, new := 2 ^ 16, step := st, since := some 0 } }
              ctrl := { base.ctrl with now := 1400 } }

/-- Doorbells and arming requests: refused, answered, and waiting for a read or behind an earlier request. -/
theorem witness_HostEvents_requests :
    base.vf 0 = true ∧ base.vf 63 = false ∧ base.dev.hostHeld = [] ∧ (∃ e ∈ hosted.dev.hostHeld, e.tenant = 0)
    ∧ base.namesContext 0 2 = false ∧ base.namesContext 0 1 = true ∧ (0x2081 : DWord).toNat % 128 ≠ 0
    ∧ (base.ring 0 15 0x2080 1).isSome = true ∧ (nodeHeld.ring 0 1 0x2080 1).isNone = true ∧ nodeHeld.vf 0 = true
    ∧ (base.armRequest 0 0x2000 1).isSome = true ∧ (nodeHeld.armRequest 0 0x2000 1).isNone = true
    ∧ (0x2000 : DWord).toNat % 64 = 0 ∧ (0x2020 : DWord).toNat % 64 ≠ 0
    ∧ (match (base.readSprue none 1 0x2000).1 with | .bytes _ => true | _ => false) = true
    ∧ hosted.namesContext 0 (BitVec.ofNat 64 (fieldBits (1 * 2 ^ 32 + 1) 39 32)) = true ∧ fieldBits (1 * 2 ^ 32 + 1) 63 40 = 0
    ∧ ((hosted.tenant 0).sprues.get? ((1 * 2 ^ 32 + 1) % 2 ^ 31)).map (·.tag) = some (fieldBits (1 * 2 ^ 32 + 1) 39 32)
    ∧ hosted.vf 0 = true := by decide +kernel

/-- The machine whose first page of 64 KiB has a leaf of its own, and with a second frame of context 1. -/
def Tests.paged : State :=
  let put := fun (m : Memory) (e : Nat × Nat) => Memory.writeBytes m e.1 (leBytes 8 e.2)
  { base with
    homes := { base.homes with frames := base.homes.frames ++ [(2, 1)] }
    mem := { base.mem with dev := [(0x12000, 0x13001), (0x13000, 0x15001), (0x15000, 0x1F)].foldl put base.mem.dev } }

theorem witness_HostEvents_mailbox :
    base.dev.mailbox.busy = none ∧ installed (1 * 2 ^ 16) = true ∧ base.contextMemory (1 * 2 ^ 16) = true
    ∧ installed (2 ^ 40 * 2 ^ 16) = false ∧ (base.link 9).phase ≠ .retired ∧ 2 ^ 18 - 1 < 2 ^ 18 ∧ (base.context 1).en = true
    ∧ (paged.startMigration 1 0 0x20000).2 = 0
    ∧ hosted.dev.mailbox.busy = some {} ∧ ({} : MailCmd).flasks = [] ∧ ({} : MailCmd).migrating = false
    ∧ (800 ≤ 800 ∧ 2200 ≤ 2200) ∧ (799 < 800 ∨ 2200 < 799) := by decide +kernel

theorem witness_HostEvents_migration :
    (migrating .marked).homes.migration.map (·.step) = some .marked ∧ (migrating .marked).homes.migration.map (·.until') = some 0
    ∧ (migrating .recalled).homes.migration.map (fun m => (m.step, (migrating .recalled).handoverWaits m)) = some (.recalled, false)
    ∧ (nodeHeld.handoverWaits { tag := 1, va := 0, old := 0, new := 2 ^ 16 } = true ∨ MigStep.marked ≠ .recalled)
    ∧ (migrating .switched).homes.migration.map (fun m => (m.step, decide (m.until' ≤ (migrating .switched).ctrl.time))) = some (.switched, true)
    ∧ (migrating .forwarding).homes.migration.map (fun m => (m.step, m.since)) = some (.forwarding, some 0)
    ∧ 0 + 1400 ≤ (migrating .forwarding).ctrl.now := by decide +kernel

/-- The drain of every group is idle there, so that of system software is. -/
theorem witness_HostEvents_idle (m : Migration) (h : m.step = .forwarding) : (migrating .forwarding).migrationIdle m = true := by
  have k : ∀ g, g < 16 → ((migrating .forwarding).idleDie g 0 && (migrating .forwarding).idleDie g 1) = true := by decide
  have q := k _ (Nat.mod_lt Config.systemGroup (by decide : 0 < 16))
  simp only [Bool.and_eq_true] at q
  simp [State.migrationIdle, h, q.1, q.2]

theorem witness_HostEvents_faults :
    hosted.vf 0 = true ∧ (hosted.slot 0 3).isSome = true ∧ hosted.slot 0 4 = none
    ∧ ((hosted.tenant 0).faults.find? fun f => f.2.slot.isNone).map (·.1) = some 4 ∧ (hosted.tenant 0).freeSlot = some 1
    ∧ (base.tenant 0).faults = [] := by decide +kernel

theorem witness_HostEvents_registers2 :
    (0 < 255 ∧ 255 < 256) ∧ regAt 64 8 = none ∧ base.function 64 = true ∧ base.function 63 = false
    ∧ ((regAt 64 0x1000).map fun r => decide (r.base = 0x1000)) = some true
    ∧ (base.enabled 1 = true ∧ (base.context 1).priv = true ∧ 63 < 64 ∧ (inWindowOf (1 * 2 ^ 52)).dtag = 1
      ∧ (base.context 1).tenant = 0) := by decide +kernel

theorem witness_HostEvents_boot :
    State.reset.dev.regs.bootStep < 7 ∧ State.reset.dev.regs.bootFail = 0 ∧ placed.dev.regs.bootStep = 7
    ∧ (State.reset.setRegs { State.reset.dev.regs with bootStep := 2 }).dev.regs.bootStep = 2
    ∧ base.dev.regs.bootStep = 7 ∧ 1 ≤ 6 ∧ 64 ≤ 64
    ∧ hosted.dev.invalidating = [[3]] ∧ 3 ∉ hosted.hostFlight ∧ 3 ∈ hostFlying.hostFlight ∧ 1600 < hosted.dev.regs.mhz := by
  decide +kernel

theorem witness_HostEvents_clock : hosted.hot = true ∧ base.hot = false := by
  constructor
  · have h : (105 < hosted.dev.celsius) = True := by decide
    simp [State.hot, h]
  · have h : base.dev.watts = 0 := by decide
    have k : (105 < base.dev.celsius) = False := by decide
    simp [State.hot, h, k]

theorem witness_HostEvents_aperture :
    let s := base.setTenant 0 { base.tenant 0 with aperture := 1 }
    base.namesContext 0 (BitVec.ofNat 64 ((base.tenant 0).aperture % 256)) = false ∧ s.namesContext 0 1 = true
    ∧ (match (s.hostAccess 1 0x2000 (.read 8)).2 with | .answer (.bytes _) => true | _ => false) = true
    ∧ (match (s.hostAccess 1 0x2000 (.write [1] false false)).2 with | .answer _ => true | _ => false) = true
    ∧ (match (s.hostAccess 1 0x40000000 (.read 8)).2 with | .answer .abort => true | _ => false) = true
    ∧ 2 ^ 36 - 8 + 8 ≤ s.bar2Size 0 ∧ s.bar2Size 0 < 2 ^ 36 - 7 + 8 ∧ s.vfs = true ∧ State.reset.vfs = false := by decide +kernel

/-- An access of the host to the bytes that are held at their home waits. -/
theorem witness_HostEvents_aperture_held :
    (match (nodeHeld.hostAccess 1 0x2000 (.read 8)).2 with | .held _ => true | _ => false) = true := by decide +kernel

end
end

section

namespace Sys2Proof.Machine

open Sys2Proof

/-!
# The canonical form of the memories, and the answer of every step

Two facts are kept together. An operation on the state keeps `State.Canonical`; an effect that answers an
outcome meets `Answers`: it answers a next state (R3), which is canonical where the state before it is. There is
one lemma for each operation of the model, in the model's order, that cites the lemmas of the operations it is
made of. Memory changes at a few of them, by bytes written or places cleared; everywhere else the memories
stand unchanged (`State.Canonical.update`). `Answers.exec` goes over the instructions, `AllAnswer.events` over the
events, and `Answers.step` puts them together.
-/

/-- Every memory of the state is in canonical form. -/
def State.Canonical (s : State) : Prop := s.mem.wf = true

namespace State.Canonical

variable {α β : Type} {s t : State}

section Memories

variable {c : Ctrl} {q : Table Squad} {b : Table Block} {f : Table Flask} {p : Table Pour} {co : Table Core}
  {pr : Table Prog} {ch : Table Chain} {tk : Table TkReq} {ho : Homes} {cx : Table Context} {tn : Table Tenant}
  {dv : Device} {m : Memory} {as : Table Word}

/-- A state made of the memories of another and of any other fields. -/
theorem update (h : s.Canonical) : (State.mk c q b f p co pr ch tk s.mem ho cx tn dv).Canonical := h

theorem updateDev (h : s.Canonical) (hm : Memory.wf s.mem.dev = true → Memory.wf m = true) :
    (State.mk c q b f p co pr ch tk { s.mem with dev := m } ho cx tn dv).Canonical := by
  obtain ⟨hdev, hrest⟩ := (Memories.wf_iff _).mp h
  exact (Memories.wf_iff _).mpr ⟨hm hdev, hrest⟩

theorem updatePooled (h : s.Canonical) (hm : Memory.wf s.mem.pooled = true → Memory.wf m = true) :
    (State.mk c q b f p co pr ch tk { s.mem with pooled := m } ho cx tn dv).Canonical := by
  obtain ⟨hdev, hpooled, hrest⟩ := (Memories.wf_iff _).mp h
  exact (Memories.wf_iff _).mpr ⟨hdev, hm hpooled, hrest⟩

theorem updateTiles (h : s.Canonical) (hm : Memory.wf s.mem.tiles = true → Memory.wf m = true) :
    (State.mk c q b f p co pr ch tk { s.mem with tiles := m } ho cx tn dv).Canonical := by
  obtain ⟨hdev, hpooled, htiles, hrest⟩ := (Memories.wf_iff _).mp h
  exact (Memories.wf_iff _).mpr ⟨hdev, hpooled, hm htiles, hrest⟩

theorem updateHost (h : s.Canonical) (hm : Memory.wf s.mem.host = true → Memory.wf m = true) :
    (State.mk c q b f p co pr ch tk { s.mem with host := m } ho cx tn dv).Canonical := by
  obtain ⟨hdev, hpooled, htiles, hhost, hpeer⟩ := (Memories.wf_iff _).mp h
  exact (Memories.wf_iff _).mpr ⟨hdev, hpooled, htiles, hm hhost, hpeer⟩

theorem updatePeer (h : s.Canonical) (hm : Memory.wf s.mem.peer = true → Memory.wf m = true) :
    (State.mk c q b f p co pr ch tk { s.mem with peer := m } ho cx tn dv).Canonical := by
  obtain ⟨hdev, hpooled, htiles, hhost, hpeer⟩ := (Memories.wf_iff _).mp h
  exact (Memories.wf_iff _).mpr ⟨hdev, hpooled, htiles, hhost, hm hpeer⟩

/-- The accumulators hold words, of which 0 may be listed: the canonical form says nothing of them. -/
theorem updateAccs (h : s.Canonical) :
    (State.mk c q b f p co pr ch tk { s.mem with accs := as } ho cx tn dv).Canonical := h

end Memories

theorem ite {c : Prop} {d : Decidable c} (hs : s.Canonical) (ht : t.Canonical) :
    (if c then s else t).Canonical := by
  split
  · exact hs
  · exact ht

/-- The choice between two values that hold a state, or from which one is read. -/
theorem ite_on {c : Prop} {d : Decidable c} (g : β → State) {p q : β} (hp : (g p).Canonical)
    (hq : (g q).Canonical) :
    (g (if c then p else q)).Canonical := by
  split
  · exact hp
  · exact hq

theorem elim {o : Option α} {k : α → State} (h : s.Canonical) (hk : ∀ a, (k a).Canonical) :
    (o.elim s k).Canonical := by
  cases o with
  | none => exact h
  | some a => exact hk a

theorem of_fst {p : State × α} {a : α} (e : p = (t, a)) (h : p.1.Canonical) : t.Canonical := by
  subst e
  exact h

/-- A fold over values that hold a state, or from which one is read. -/
theorem foldl_on (g : β → State) {f : β → α → β} {l : List α} {b : β} (h : (g b).Canonical)
    (hf : ∀ b a, (g b).Canonical → (g (f b a)).Canonical) : (g (l.foldl f b)).Canonical := by
  induction l generalizing b with
  | nil => exact h
  | cons a r ih => exact ih (hf b a h)

theorem foldl {f : State → α → State} {l : List α} (h : s.Canonical)
    (hf : ∀ s a, s.Canonical → (f s a).Canonical) :
    (l.foldl f s).Canonical := foldl_on id h hf

end State.Canonical

/-- The state in an optional answer, if there is one, is in canonical form. -/
def OptCanonical {α : Type} (g : α → State) (o : Option α) : Prop := ∀ a ∈ o, (g a).Canonical

namespace OptCanonical

variable {α : Type} {g : α → State} {a : α} {o u : Option α}

theorem some (h : (g a).Canonical) : OptCanonical g (some a) := by
  intro b hb
  cases hb
  exact h

theorem none : OptCanonical g none := by
  intro b hb
  cases hb

theorem ite {c : Prop} {d : Decidable c} (ho : OptCanonical g o) (hu : OptCanonical g u) :
    OptCanonical g (if c then o else u) := by
  split
  · exact ho
  · exact hu

theorem get (h : OptCanonical g o) (e : o = .some a) : (g a).Canonical := h a e

theorem getD {s : State} {o : Option State} (h : OptCanonical id o) (hs : s.Canonical) : (o.getD s).Canonical := by
  cases o with
  | none => exact hs
  | some t => exact h t rfl

theorem map {k : α → State} (h : OptCanonical g o) (hk : ∀ a, (g a).Canonical → (k a).Canonical) :
    OptCanonical id (o.map k) := by
  cases o with
  | none => exact none
  | some a => exact some (hk a (h a rfl))

end OptCanonical

/-- Every state that the result of an instruction's effect goes on with is in canonical form. -/
def Result.Canonical : Result → Prop
  | .go s | .jump s _ | .mem s _ _ _ _ | .placed s | .wait s | .hold s | .failed s _ _ | .after s _ _ | .dead s =>
    s.Canonical
  | .trap _ _ => True

namespace Result.Canonical

variable {s : State}

theorem go (h : s.Canonical) : (Result.go s).Canonical := h
theorem jump {f : Nat → Pc} (h : s.Canonical) : (Result.jump s f).Canonical := h
theorem mem {p d : Lanes} {fs : List (Nat × Lanes)} {c : Option (Nat × Nat)} (h : s.Canonical) :
    (Result.mem s p fs d c).Canonical := h
theorem placed (h : s.Canonical) : (Result.placed s).Canonical := h
theorem wait (h : s.Canonical) : (Result.wait s).Canonical := h
theorem hold (h : s.Canonical) : (Result.hold s).Canonical := h
theorem failed {c k : Nat} (h : s.Canonical) : (Result.failed s c k).Canonical := h
theorem after {c k : Nat} (h : s.Canonical) : (Result.after s c k).Canonical := h
theorem dead (h : s.Canonical) : (Result.dead s).Canonical := h
theorem trap {c k : Nat} : (Result.trap c k).Canonical := trivial

theorem ite {c : Prop} {d : Decidable c} {r q : Result} (hr : r.Canonical) (hq : q.Canonical) :
    (if c then r else q).Canonical := by
  split
  · exact hr
  · exact hq

end Result.Canonical

/-- An outcome that is a next state, in canonical form where `s` is. -/
def Answers (s : State) (o : Host.Outcome State Fault Refusal) : Prop :=
  ∃ t, o = .next t ∧ (s.Canonical → t.Canonical)

namespace Answers

variable {s t : State} {o u : Host.Outcome State Fault Refusal}

theorem next (h : s.Canonical → t.Canonical) : Answers s (.next t) := ⟨t, rfl, h⟩

theorem ite {c : Prop} {d : Decidable c} (ho : Answers s o) (hu : Answers s u) :
    Answers s (if c then o else u) := by
  split
  · exact ho
  · exact hu

/-- An outcome reached through a state that is canonical where `s` is. -/
theorem through (h : s.Canonical → t.Canonical) (ho : Answers t o) : Answers s o := by
  obtain ⟨u, e, hu⟩ := ho
  exact ⟨u, e, fun hs => hu (h hs)⟩

end Answers

variable {s t : State}
  {bid sq n tag f core die va tenant pa addr flask line key ep link struct len ofs frame code fid sub que pitch : Nat}
  {x : Ins}
  {r : Req}
  {c : CopyCmd}
  {p : Site}
  {lanes : Lanes}
  {bytes : List Byte}
  {w : Word}
  {l : StackLine}
  {skew store byHandler : Bool}
  {fl : Flask}
  {g : Range}
  {eng : Engine}

/-! ## The state after reset -/

theorem State.Canonical.reset : State.reset.Canonical := rfl

/-! ## The parts of the state -/

theorem State.Canonical.setSquad {x : Squad} (h : s.Canonical) : (s.setSquad bid sq x).Canonical := .update h
theorem State.Canonical.setBlock {x : Block} (h : s.Canonical) : (s.setBlock bid x).Canonical := .update h
theorem State.Canonical.setFlask {x : Flask} (h : s.Canonical) : (s.setFlask f x).Canonical := .update h
theorem State.Canonical.setPour {p : Nat} {x : Pour} (h : s.Canonical) : (s.setPour p x).Canonical := .update h
theorem State.Canonical.setCore {c : Nat} {x : Core} (h : s.Canonical) : (s.setCore c x).Canonical := .update h

theorem State.Canonical.setContext {t : Nat} {x : Context} (h : s.Canonical) : (s.setContext t x).Canonical :=
  .update h

theorem State.Canonical.setTenant {x : Tenant} (h : s.Canonical) : (s.setTenant n x).Canonical := .update h
theorem State.Canonical.setDie {d : Nat} {x : Die} (h : s.Canonical) : (s.setDie d x).Canonical := .update h
theorem State.Canonical.setLink {l : Nat} {x : Link} (h : s.Canonical) : (s.setLink l x).Canonical := .update h
theorem State.Canonical.forgetReady (h : s.Canonical) : (s.forgetReady bid).Canonical := .update h
theorem State.Canonical.bump (h : s.Canonical) : s.bump.Canonical := .update h
theorem State.Canonical.tickStamp (h : s.Canonical) : s.tickStamp.Canonical := .update h
theorem State.Canonical.notReady (h : s.Canonical) : s.notReady.Canonical := .update h
theorem State.Canonical.takeStamp (h : s.Canonical) : (s.takeStamp bid).1.Canonical := .update (.setCore h)

theorem State.Canonical.raiseStamp {st : DWord} (h : s.Canonical) : (s.raiseStamp bid st).Canonical :=
  .ite (.setCore h) h

theorem State.Canonical.elapse {cc : Nat} (h : s.Canonical) : (s.elapse cc).Canonical := .update h

theorem State.Canonical.sendIrq {i : Irq} (h : s.Canonical) : (s.sendIrq i).Canonical :=
  .ite (.ite h (.update h)) (.update h)

theorem State.Canonical.irq {tenant : Option Nat} {vec : Nat} (h : s.Canonical) : (s.irq tenant vec).Canonical :=
  .ite (.sendIrq h) h

theorem State.Canonical.record {r : ErrRec} (h : s.Canonical) : (s.record r).Canonical :=
  .ite (.update h) (.ite (.irq (.update h)) (.irq (.update h)))

/-! ## Device memory at its homes -/

theorem State.Canonical.cleaned {which : Nat → Bool} (h : s.Canonical) : (s.cleaned which).Canonical := .update h
theorem State.Canonical.l2Room (h : s.Canonical) : (s.l2Room line).Canonical := .elim h fun _ => .cleaned h
theorem State.Canonical.dirtyLine (h : s.Canonical) : (s.dirtyLine line).Canonical := .ite h (.update (.l2Room h))

theorem State.Canonical.repair {us : List (Nat × Nat)} (h : s.Canonical) : (s.repair us).Canonical :=
  .ite h (.update h)

theorem State.Canonical.corrected (h : s.Canonical) : (s.corrected tag struct key).Canonical :=
  .ite (.irq (.record (.update h))) (.record (.update h))

theorem State.Canonical.ruinBlock (h : s.Canonical) : (s.ruinBlock bid struct key).Canonical := .ite h (.update h)
theorem State.Canonical.ruinTag (h : s.Canonical) : (s.ruinTag tag struct key).Canonical := .ite h (.update h)
theorem State.Canonical.devWrite (h : s.Canonical) : (s.devWrite pa bytes).Canonical := State.wf_devWrite _ _ h

theorem State.Canonical.disown {words : BitVec 16} (h : s.Canonical) : (s.disown line bid words).Canonical := by
  dsimp only [State.disown]
  split
  · exact h
  · exact .update h

theorem State.Canonical.writeWords {words : BitVec 16} (h : s.Canonical) :
    (s.writeWords line words bytes).Canonical := by
  dsimp only [State.writeWords]
  have hm : Memory.wf (s.dirtyLine line).mem.dev = true → _ := wf_mergeWords line words bytes
  exact .ite (.updateDev (.dirtyLine h) hm) (.repair (.updateDev (.dirtyLine h) hm))

theorem State.Canonical.patchCache (h : s.Canonical) : (s.patchCache die pa n).Canonical := by
  dsimp only [State.patchCache]
  refine .ite h ?_
  split
  · exact h
  · exact .setDie h

theorem State.Canonical.landBack {id : Nat} (h : s.Canonical) : (s.landBack id).Canonical := by
  dsimp only [State.landBack]
  split
  · exact h
  · split
    · exact .ruinBlock (.disown (.update h))
    · exact .foldl (.writeWords (.disown (.update h))) fun _ _ => .patchCache

theorem State.Canonical.sendBack (h : s.Canonical) : (s.sendBack line bid).Canonical := by
  dsimp only [State.sendBack]
  split
  · exact h
  · exact .ite (.ruinBlock (.repair (.disown (.setCore h)))) (.bump (.update (.setCore h)))

theorem State.Canonical.recallNow (h : s.Canonical) : (s.recallNow line).Canonical :=
  .foldl (.foldl h (fun _ _ => .sendBack)) fun _ _ => .landBack

theorem State.Canonical.recallLines (h : s.Canonical) : (s.recallLines pa n).Canonical :=
  .foldl h fun _ _ => .recallNow

theorem State.Canonical.homeWrite (h : s.Canonical) : (s.homeWrite pa bytes).Canonical := .devWrite (.recallLines h)

theorem State.Canonical.correctRead (h : s.Canonical) : (s.correctRead pa n).Canonical :=
  .ite h (.foldl h (fun _ _ h1 => .ite (.corrected (.setDie h1)) h1))

theorem State.Canonical.correctValue (h : s.Canonical) : (s.correctValue pa n).Canonical :=
  .ite h (.foldl h (fun _ _ => .correctRead))

theorem State.Canonical.correctElem {r : Range} {e : Nat} (h : s.Canonical) : (s.correctElem r e).Canonical :=
  .ite h (.foldl h (fun _ _ => .correctRead))

theorem State.Canonical.foldElement {r : Range} {e : Nat} (h : s.Canonical) : (s.foldElement r e).Canonical :=
  .foldl (.elim h (fun _ => .homeWrite h)) fun _ _ => .homeWrite

theorem State.Canonical.addToSlot {r : Range} {x : Nat} (h : s.Canonical) : (s.addToSlot r pa x).Canonical :=
  .homeWrite h

/-! ## Loads at a home -/

theorem State.Canonical.spoilCache (h : s.Canonical) : (s.spoilCache die line).Canonical := by
  dsimp only [State.spoilCache]
  split
  · exact h
  · exact .ite h (.setDie h)

theorem State.Canonical.storeFrom (h : s.Canonical) : (s.storeFrom die pa bytes).Canonical :=
  .foldl (.homeWrite h) fun _ _ => .patchCache

theorem State.Canonical.loadDone {die : Option Nat} (h : s.Canonical) : (s.loadDone die pa n).Canonical := by
  dsimp only [State.loadDone]
  split
  · exact .foldl (.correctValue (.recallLines h)) fun _ _ => .patchCache
  · exact .correctValue (.recallLines h)

/-! ## Translation, page faults and routes -/

theorem State.Canonical.walked {die : Option Nat} {w : Walk} (h : s.Canonical) :
    (s.walked die tag va w).Canonical := by
  dsimp only [State.walked]
  refine .ite h ?_
  split
  · exact .ruinTag (.foldl h (fun _ _ => .correctValue))
  · exact .foldl h fun _ _ => .correctValue

theorem State.Canonical.translate (h : s.Canonical) : (s.translate core tag va).1.Canonical := by
  dsimp only [State.translate]
  split
  · exact .ite (.setCore h) h
  · split
    · exact .setCore (.walked h)
    · exact .walked h

theorem State.Canonical.translateLease (h : s.Canonical) : (s.translateLease core tag va).1.Canonical := by
  dsimp only [State.translateLease]
  split
  · exact .ite (.setCore h) h
  · split
    · exact .setCore (.walked h)
    · exact .walked h

theorem State.Canonical.sendFlit {l cls : Nat} (h : s.Canonical) : (s.sendFlit ep l cls n).Canonical :=
  .setLink (.tickStamp (.update h))

theorem State.Canonical.pageFault {kind src : Nat} (h : s.Canonical) : (s.pageFault tag va kind src).1.Canonical := by
  dsimp only [State.pageFault]
  split
  · exact .setTenant h
  · exact .ite (.irq (.bump (.setTenant h))) (.bump (.setTenant h))

/-! ## Reads of a context's memory by the device -/

theorem State.Canonical.partDone {core : Option Nat} (h : s.Canonical) : (s.partDone core tag va n).Canonical := by
  dsimp only [State.partDone]
  split
  · refine .loadDone ?_
    split
    · exact .walked h
    · exact .translate h
  · split
    · refine .sendFlit ?_
      split
      · exact .walked h
      · exact .translate h
    · split
      · exact .walked h
      · exact .translate h
  · split
    · exact .walked h
    · exact .translate h

theorem State.Canonical.codeChanged {pour : Nat} (h : s.Canonical) : (s.codeChanged pour va).Canonical :=
  .ite (.elim h (fun _ => .setPour h)) h

theorem State.Canonical.readsMade {core : Option Nat} {reads : List (Nat × Nat)} (h : s.Canonical) :
    (s.readsMade core tag reads).Canonical := by
  induction reads generalizing s with
  | nil => exact h
  | cons e rest ih =>
    unfold State.readsMade
    dsimp only
    split
    · refine .ite (ih (.partDone h)) ?_
      split
      · exact ih (.partDone (.partDone h))
      · exact .partDone h
    · exact h

/-! ## Kills, reports and traps -/

theorem State.Canonical.zeroBytes (h : s.Canonical) : (s.zeroBytes pa n).Canonical :=
  .updateDev (.cleaned (.foldl h fun _ _ h => .recallNow h)) (Memory.wf_filter _)

theorem State.Canonical.zeroPart (h : s.Canonical) : (s.zeroPart tag va n).Canonical := by
  dsimp only [State.zeroPart]
  split
  · exact .ite (.ite (.zeroBytes h) h) (.ite (.updateHost h (Memory.wf_filter _)) h)
  · exact h

theorem State.Canonical.zeroArea (h : s.Canonical) : (s.zeroArea tag va len).Canonical :=
  .ite h (.foldl h (fun _ _ => .zeroPart))

theorem State.Canonical.zeroStacks (h : s.Canonical) : (s.zeroStacks f).Canonical := .foldl h fun _ _ => .zeroArea
theorem State.Canonical.dropBlock (h : s.Canonical) : (s.dropBlock bid).Canonical := .update (.setCore h)
theorem State.Canonical.dropBlocks (h : s.Canonical) : (s.dropBlocks f).Canonical := .foldl h fun _ _ => .dropBlock

theorem State.Canonical.clearRange {r : Range} (h : s.Canonical) : (s.clearRange f r).Canonical :=
  .foldl h fun _ _ h1 => .foldl h1 fun _ _ h2 => .elim h2 fun _ => .homeWrite h2

theorem State.Canonical.clearSlots (h : s.Canonical) : (s.clearSlots f).Canonical := .foldl h fun _ _ => .clearRange

theorem State.Canonical.deadRead (h : s.Canonical) : (s.deadRead tag struct key).Canonical :=
  .ite (.ruinTag h) (.record h)

theorem State.Canonical.failPour {p : Nat} (h : s.Canonical) : (s.failPour p).Canonical := .setPour h
theorem State.Canonical.endAudit (h : s.Canonical) : (s.endAudit f).Canonical := .setFlask (.update h)

theorem State.Canonical.giveUpAudit {r : ErrRec} (h : s.Canonical) : (s.giveUpAudit f r).Canonical :=
  .endAudit (.record h)

theorem State.Canonical.startAgain (h : s.Canonical) : (s.startAgain f fl).Canonical :=
  .ite (.zeroStacks (.setFlask h)) (.setFlask h)

theorem State.Canonical.freeArea (h : s.Canonical) : (s.freeArea f).Canonical := .ite (.setTenant h) h

theorem State.Canonical.killFlask {forced : Bool} {r : ErrRec} (h : s.Canonical) :
    (s.killFlask f forced r).Canonical := by
  dsimp only [State.killFlask]
  generalize hd : (s.freeArea f).dropBlocks f = d
  have hb : d.Canonical := by
    subst hd
    exact .dropBlocks (.freeArea h)
  have hc : (if d.slotsClearable f then d.clearSlots f else d).Canonical := .ite (.clearSlots hb) hb
  refine .ite (.ite (.ite (.record (.startAgain hb)) (.startAgain hb)) (.giveUpAudit hb)) ?_
  exact .ite (.record (.setPour (.setFlask hc))) (.ite (.record (.startAgain hc)) (.startAgain hc))

theorem State.Canonical.consume (h : s.Canonical) : (s.consume bid struct key).Canonical :=
  .ite (.ruinTag h) (.killFlask h)

theorem State.Canonical.consumeSub (h : s.Canonical) : (s.consumeSub bid sub).Canonical := .consume h

theorem State.Canonical.reportRunning {cause : Word} (h : s.Canonical) : (s.reportRunning f core cause).Canonical :=
  .record (.failPour (.setFlask h))

theorem State.Canonical.sideEffect (h : s.Canonical) : (s.sideEffect f).Canonical := .setFlask h
theorem State.Canonical.handlerDone (h : s.Canonical) : (s.handlerDone bid).Canonical := .ite h (.readsMade h)

theorem State.Canonical.endUnhandled {cause : Word} {x : NoHandler} (h : s.Canonical) :
    (s.endUnhandled bid cause x).Canonical := by
  dsimp only [State.endUnhandled]
  split
  · exact .killFlask (.handlerDone h)
  · exact .consume (.handlerDone h)

theorem State.Canonical.halt (h : s.Canonical) : (s.halt bid).Canonical := .ite h (.update (.setBlock h))

theorem State.Canonical.takeTrap {pc : Pc} {posted : Bool} (h : s.Canonical) :
    (s.takeTrap bid sq code sub pc lanes posted).Canonical := by
  dsimp only [State.takeTrap]
  refine .ite (.endAudit (.dropBlocks h)) (.ite (.killFlask h) ?_)
  split
  · exact .endUnhandled h
  · exact .ite (.reportRunning (.setSquad (.halt h))) (.setSquad (.halt h))

theorem State.Canonical.serve {entry : Pc} {codeLo codeHi : Nat} (h : s.Canonical) :
    (s.serve bid sq entry codeLo codeHi).Canonical :=
  .tickStamp (.setSquad (.setBlock h))

theorem State.Canonical.stopSiblings (h : s.Canonical) : (s.stopSiblings bid).Canonical := .update h
theorem State.Canonical.resume (h : s.Canonical) : (s.resume bid).Canonical := .setBlock h

theorem State.Canonical.serveFrom (h : s.Canonical) : (s.serveFrom bid sq).Canonical := by
  dsimp only [State.serveFrom]
  split
  · exact .serve (.handlerDone h)
  · exact .endUnhandled h
  · exact .setBlock h

theorem State.Canonical.nextTrapped (h : s.Canonical) : (s.nextTrapped bid).Canonical := by
  dsimp only [State.nextTrapped]
  split
  · exact .serveFrom h
  · exact .resume h

theorem State.Canonical.addReq (h : s.Canonical) : (s.addReq r).Canonical := .bump (.update h)
theorem State.Canonical.addPosted (h : s.Canonical) : (s.addPosted bid sq lanes).1.Canonical := .bump (.setSquad h)

theorem State.Canonical.sendCombine {c : Combine} (h : s.Canonical) : (s.sendCombine bid sq c).Canonical :=
  .addReq (.setSquad h)

theorem State.Canonical.sendCombines (h : s.Canonical) : (s.sendCombines bid sq).Canonical :=
  .foldl h fun _ _ => .sendCombine

theorem State.Canonical.sendLines {lines : List Nat} (h : s.Canonical) : (s.sendLines bid sq lines).Canonical :=
  .foldl h fun _ _ => .sendCombine

/-! ## The issue of an instruction -/

theorem State.Canonical.dropLost (h : s.Canonical) : (s.dropLost bid sq).Canonical := .ite (.setBlock h) (.setSquad h)
theorem State.Canonical.begin (h : s.Canonical) : (s.begin x).Canonical := .setSquad h
theorem State.Canonical.dropPusher (h : s.Canonical) : (s.dropPusher bid sq).Canonical := .setFlask h
theorem State.Canonical.endWait (h : s.Canonical) : (s.endWait bid sq).Canonical := .ite (.dropPusher h) h

theorem State.Canonical.issued {hd : Hint} (h : s.Canonical) : (s.issued x hd).Canonical :=
  .tickStamp (.setSquad (.endWait h))

theorem State.Canonical.setCtl {exited : Bool} {c : Ctl} (h : s.Canonical) : (s.setCtl x exited c).Canonical :=
  .setSquad h

theorem State.Canonical.moveTo {target : Nat → Pc} (h : s.Canonical) : (s.moveTo x target).Canonical := .setCtl h
theorem State.Canonical.finish {hd : Hint} (h : s.Canonical) : (s.finish x hd).Canonical := .issued (.moveTo h)
theorem State.Canonical.forgetDeclined (h : s.Canonical) : (s.forgetDeclined x).Canonical := .setSquad h

theorem State.Canonical.trapAt (h : s.Canonical) : (s.trapAt x code sub).Canonical :=
  .takeTrap (.ite (.forgetDeclined h) h)

theorem State.Canonical.dropDeferred (h : s.Canonical) : (s.dropDeferred x code).Canonical := by
  dsimp only [State.dropDeferred]
  refine .ite h ?_
  split
  · exact .ite (.setSquad h) h
  · exact h

theorem State.Canonical.parkLanes {parked : Lanes} {faults : List (Nat × Lanes)} {done : Lanes} {stay : Bool}
    (h : s.Canonical) :
    (s.parkLanes x parked faults done stay).Canonical :=
  .setCtl h

theorem State.Canonical.apply {r : Result} {hint : Hint} (hr : r.Canonical) (h : s.Canonical) :
    (r.apply x hint s).Canonical := by
  cases r with
  | go t => exact .finish hr
  | jump t target => exact .issued (.moveTo hr)
  | placed t => exact .issued hr
  | mem t parked faults done c =>
    cases c with
    | none => exact .ite (.parkLanes hr) (.issued (.parkLanes hr))
    | some c => exact .ite (.takeTrap (.parkLanes hr)) (.notReady h)
  | wait t => exact .notReady hr
  | hold t => exact .notReady (.setSquad hr)
  | trap c k => exact .trapAt h
  | failed t c k => exact .trapAt hr
  | after t c k => exact .takeTrap (.finish hr)
  | dead t => exact hr

/-- An instruction answers a next state through `issue`; it keeps the memories canonical when its effect does. -/
theorem Answers.issue {hd : Head} {body : Ins → State → Result}
    (hbody : ∀ a s, s.Canonical → (body a s).Canonical) :
    Answers s (issue hd body s) := by
  dsimp only [Machine.issue]
  refine .next fun h => ?_
  split
  · exact h
  · exact .notReady h
  · exact .notReady (.sendCombines h)
  · exact .finish h
  · exact .trapAt h
  · exact .takeTrap (.dropDeferred h)
  · exact .trapAt (.dropLost h)
  · exact .consume h
  · exact .apply (hbody _ _ (.begin h)) h

theorem State.Canonical.put {o : Opnd} {w : Nat} {f : Nat → DWord} (h : s.Canonical) : (s.put x o w f).Canonical :=
  .setSquad (.repair h)

theorem State.Canonical.put1 {o : Opnd} {f : Nat → Word} (h : s.Canonical) : (s.put1 x o f).Canonical := .put h
theorem State.Canonical.putBits {o : Opnd} {f : Nat → Bool} (h : s.Canonical) : (s.putBits x o f).Canonical := .put1 h

/-! ## The fetch of an instruction -/

theorem State.Canonical.fetchHome (h : s.Canonical) : (s.fetchHome die tag pa n).1.Canonical :=
  .ite_on Prod.fst h (.ite_on Prod.fst h (.ite_on Prod.fst h (.loadDone h)))

theorem State.Canonical.fetchPeer {ptag a : Nat} (h : s.Canonical) : (s.fetchPeer ep ptag a n).1.Canonical := by
  dsimp only [State.fetchPeer]
  split
  · exact h
  · exact h
  · exact .ite_on Prod.fst h (.sendFlit h)

theorem State.Canonical.fetchPart (h : s.Canonical) : (s.fetchPart core tag va n).1.Canonical := by
  dsimp only [State.fetchPart]
  split
  · exact .translate h
  · exact .translate h
  · exact .translate h
  · exact .translate h
  · exact .fetchHome (.translate h)
  · exact .translate h
  · exact .fetchPeer (.translate h)

theorem State.Canonical.fetchWord {s0 : State} (h : s0.Canonical) : (s0.fetchWord core tag va).1.Canonical := by
  dsimp only [State.fetchWord]
  split
  · rename_i e
    exact .of_fst e (.fetchPart h)
  · rename_i e
    exact .of_fst e (.fetchPart h)
  · rename_i e
    exact .of_fst e (.fetchPart h)
  · exact h
  · rename_i t _ e
    have h1 : t.Canonical := .of_fst e (.fetchPart h)
    refine .ite_on Prod.fst h1 ?_
    split
    · rename_i e
      exact .of_fst e (.fetchPart h1)
    · rename_i e
      exact .of_fst e (.fetchPart h1)
    · rename_i e
      exact .of_fst e (.fetchPart h1)
    · exact h
    · rename_i e
      exact .of_fst e (.fetchPart h1)

theorem State.Canonical.setGroup {g : Group} (h : s.Canonical) : (s.setGroup p g).Canonical := .setSquad h

theorem State.Canonical.markDone (h : s.Canonical) : (s.markDone x lanes).Canonical := by
  dsimp only [State.markDone]
  split
  · exact .setGroup h
  · exact h

theorem State.Canonical.parkFetch {g : Group} (h : s.Canonical) : (s.parkFetch p g tag va).Canonical :=
  .setGroup (.pageFault h)

theorem State.Canonical.fetchTrap {g : Group} (h : s.Canonical) : (s.fetchTrap p g code sub).Canonical := .takeTrap h

theorem State.Canonical.fetchAt {g : Group} (h : s.Canonical) : (s.fetchAt p g).1.Canonical := by
  dsimp only [State.fetchAt]
  refine .ite_on Prod.fst (.fetchTrap h) ?_
  split
  · rename_i e
    exact .parkFetch (.of_fst e (.fetchWord h))
  · rename_i e
    exact .fetchTrap (.of_fst e (.fetchWord h))
  · rename_i e
    exact .consume (.of_fst e (.fetchWord h))
  · rename_i e
    exact .notReady (.of_fst e (.fetchWord h))
  · rename_i t _ e
    have h1 : t.Canonical := .of_fst e (.fetchWord h)
    split
    · exact .fetchTrap h1
    · exact h1

theorem State.Canonical.atSite (h : s.Canonical) : (s.atSite p).Canonical := .update h

theorem State.Canonical.turnOf (h : s.Canonical) : (s.turnOf p).1.Canonical := by
  dsimp only [State.turnOf]
  refine .ite_on Prod.fst (.notReady (.atSite h)) ?_
  split
  · exact .notReady (.atSite h)
  · exact .ite_on Prod.fst (.notReady (.atSite h)) (.ite_on Prod.fst (.fetchTrap (.setGroup (.atSite h)))
      (.ite_on Prod.fst (.fetchAt (.setGroup (.atSite h))) (.notReady (.atSite h))))

/-! ## Generations and barriers -/

theorem State.Canonical.raiseDgen (h : s.Canonical) : s.raiseDgen.Canonical := .ite (.update h) (.update h)
theorem State.Canonical.raiseView (h : s.Canonical) : (s.raiseView f).Canonical := .setFlask (.raiseDgen h)
theorem State.Canonical.setBar {b : Bar} (h : s.Canonical) : (s.setBar bid n b).Canonical := .setBlock h

theorem State.Canonical.mapBars {bids : List Nat} {f : Bar → Bar} (h : s.Canonical) :
    (s.mapBars bids n f).Canonical :=
  .foldl h fun _ _ => .setBar

theorem State.Canonical.judge {guard : Bar → Bool} (h : s.Canonical) : (s.judge fl n guard).Canonical :=
  .foldl h fun _ _ h1 => .ite (.mapBars h1) h1

theorem State.Canonical.checkLocal (h : s.Canonical) : (s.checkLocal bid n).Canonical := .ite (.setBar h) (.judge h)

theorem State.Canonical.judgeDue (h : s.Canonical) : (s.judgeDue fl n).Canonical := by
  dsimp only [State.judgeDue]
  split
  · exact h
  · exact .ite (.judge (.setBar h)) (.mapBars (.judge (.setBar h)))

theorem State.Canonical.seamPhase (h : s.Canonical) : (s.seamPhase fl n).Canonical :=
  .ite (.judgeDue (.mapBars h)) (.ite (.mapBars (.mapBars h)) (.judgeDue (.judge (.mapBars h))))

theorem State.Canonical.checkWhole (h : s.Canonical) : (s.checkWhole fl n).Canonical :=
  .ite (.ite (.mapBars (.mapBars h)) (.mapBars h)) h

theorem State.Canonical.checkFlask (h : s.Canonical) : (s.checkFlask bid n).Canonical :=
  .ite (.checkLocal h) (.checkWhole h)

theorem State.Canonical.checkBar (h : s.Canonical) : (s.checkBar bid n).Canonical := .ite (.checkFlask h) (.setBar h)

theorem State.Canonical.withdraw (h : s.Canonical) : (s.withdraw bid sq lanes).Canonical :=
  .foldl h fun _ _ h1 => .foldl h1 fun _ _ h2 => .checkBar (.setBar h2)

theorem State.Canonical.countBytes {k : Nat} (h : s.Canonical) : (s.countBytes bid n k).Canonical :=
  .foldl h fun _ _ h1 => .checkBar (.setBar h1)

theorem State.Canonical.withdrawPops (h : s.Canonical) : (s.withdrawPops bid sq).Canonical :=
  .setFlask (.dropPusher h)

theorem State.Canonical.endThreads (h : s.Canonical) : (s.endThreads bid sq lanes).Canonical :=
  .ite (.withdrawPops (.withdraw (.setSquad h))) (.withdraw (.setSquad h))

/-! ## Atomics -/

theorem State.Canonical.acquireNow {o : MemOrd} {sc : Option Scope} (h : s.Canonical) :
    (s.acquireNow bid o sc).Canonical :=
  .ite (.raiseView h) h

/-! ## Pooled space -/

theorem State.Canonical.poolWrite {o : Nat} (h : s.Canonical) : (s.poolWrite bid o skew bytes).Canonical :=
  State.wf_poolWrite _ _ _ _ h

theorem State.Canonical.stampPool {o : MemOrd} (h : s.Canonical) : (s.stampPool bid o).Canonical :=
  .ite (.takeStamp h) h

theorem Answers.lds {a : Args PMod} : Answers s (execLds a s) := by
  dsimp only [Machine.execLds]
  refine .issue fun _ _ h => ?_
  split
  · exact .trap
  · refine .ite (.wait h) ?_
    split
    · exact .dead (.consume h)
    · exact .go (.stampPool (.acquireNow (.setSquad (.repair h))))

theorem State.Canonical.poolStores {place : Nat → Nat × Nat} {data : Nat → List Byte} (h : s.Canonical) :
    (s.poolStores x place skew data).Canonical :=
  .foldl h fun _ _ => .poolWrite

theorem Answers.sts {a : Args PMod} : Answers s (execSts a s) := by
  dsimp only [Machine.execSts]
  refine .issue fun _ _ h => ?_
  split
  · exact .trap
  · refine .ite (.wait h) ?_
    split
    · exact .dead (.consume h)
    · exact .go (.stampPool (.poolStores (.repair h)))

theorem State.Canonical.poolAtom {op : AtomOp} {place : Nat × Nat} {b cmp : Nat} (h : s.Canonical) :
    (s.poolAtom op place n skew b cmp).1.Canonical :=
  .poolWrite h

theorem State.Canonical.poolAtoms {a : PoolAtom} (h : s.Canonical) : (s.poolAtoms a).1.Canonical :=
  .foldl_on Prod.fst h fun _ _ => .poolAtom

theorem State.Canonical.performAtom {a : PoolAtom} (h : s.Canonical) : (s.performAtom a).Canonical := by
  dsimp only [State.performAtom]
  split
  · exact .consume (.setCore h)
  · exact .stampPool (.ite (.raiseView (.repair (.setSquad (.poolAtoms (.setCore h)))))
      (.repair (.setSquad (.poolAtoms (.setCore h)))))

theorem Answers.pooledAtomic {op : AtomOp} {hd : Head} {a : Args PMod} : Answers s (pooledAtomic op hd a s) := by
  dsimp only [Machine.pooledAtomic]
  refine .issue fun _ _ h => ?_
  split
  · exact .trap
  · exact .ite (.wait h) (.go (.bump (.setCore (.setSquad h))))

/-! ## Home slices and answers -/

theorem State.Canonical.askRecall (h : s.Canonical) : (s.askRecall r).Canonical := .update h

theorem State.Canonical.landOpen {id : Nat} (h : s.Canonical) : (s.landOpen id).Canonical := by
  dsimp only [State.landOpen]
  split
  · exact .ite h (.landBack h)
  · exact h

theorem State.Canonical.bufferRoom (h : s.Canonical) : (s.bufferRoom core).Canonical := by
  dsimp only [State.bufferRoom]
  refine .ite h ?_
  split
  · exact h
  · exact .foldl (.sendBack h) fun _ _ => .landOpen

theorem State.Canonical.noteOwner (h : s.Canonical) : (s.noteOwner r).Canonical := .update h

theorem State.Canonical.grant (h : s.Canonical) : (s.grant r).Canonical :=
  .ite (.noteOwner (.setCore h)) (.noteOwner (.setCore (.bufferRoom h)))

theorem State.Canonical.ownedWrite (h : s.Canonical) : (s.ownedWrite bid line ofs bytes).Canonical := .setCore h
theorem State.Canonical.rdcFill (h : s.Canonical) : (s.rdcFill r).Canonical := .ite h (.setDie (.correctRead h))

theorem State.Canonical.rdcPass (h : s.Canonical) : (s.rdcPass r).Canonical := by
  dsimp only [State.rdcPass]
  split
  · exact .foldl h fun _ _ => .patchCache
  · exact .foldl h fun _ _ => .patchCache
  · exact .spoilCache h

theorem State.Canonical.noteCred (h : s.Canonical) : (s.noteCred f g).Canonical := .ite h (.setFlask h)

theorem State.Canonical.credAt {p : Piece} {e : Nat} (h : s.Canonical) : (s.credAt r p g e).1.Canonical := by
  dsimp only [State.credAt]
  split
  · exact h
  · split
    · exact h
    · exact .addToSlot (.noteCred (.correctRead h))

theorem State.Canonical.rangeOp {p : Piece} {fold : Bool} (h : s.Canonical) : (s.rangeOp r p fold).1.Canonical := by
  dsimp only [State.rangeOp]
  split
  · exact h
  · refine .ite_on Prod.fst h (.ite_on Prod.fst h (.ite_on Prod.fst h (.ite_on Prod.fst (.credAt h) ?_)))
    split
    · exact h
    · exact .foldElement (.correctElem h)

theorem State.Canonical.homePiece {p : Piece} (h : s.Canonical) : (s.homePiece r p).1.Canonical := by
  dsimp only [State.homePiece]
  split
  · exact h
  · exact h
  · split
    · exact .correctValue h
    · exact .ite h (.repair (.devWrite h))
    · exact .ite (.correctRead h) (.devWrite (.correctRead h))
    · exact .rangeOp h
    · exact .rangeOp h

/-- Bytes written to the host's memory or to the peers', whichever a piece is for. -/
theorem State.Canonical.farWrite {host : Bool} (h : s.Canonical) : (if host then { s with mem := { s.mem with
        host := Memory.writeBytes (if host then s.mem.host else s.mem.peer) key bytes } }
      else { s with mem := { s.mem with
        peer := Memory.writeBytes (if host then s.mem.host else s.mem.peer) key bytes } }).Canonical := by
  cases host with
  | true => exact .updateHost h (Memory.wf_writeBytes _ _)
  | false => exact .updatePeer h (Memory.wf_writeBytes _ _)

theorem State.Canonical.farPiece {p : Piece} (h : s.Canonical) : (s.farPiece r p).1.Canonical := by
  dsimp only [State.farPiece]
  split
  · exact h
  · exact .ite h (.farWrite h)
  · exact .ite h (.farWrite h)
  · exact h
  · exact h

theorem State.Canonical.ownPiece {p : Piece} (h : s.Canonical) : (s.ownPiece r p).1.Canonical := by
  dsimp only [State.ownPiece]
  split
  · exact h
  · split
    · exact .ite h (.ownedWrite h)
    · exact h

theorem State.Canonical.runPieces {f : State → Piece → State × PieceOut} (h : s.Canonical)
    (hf : ∀ s a, s.Canonical → (f s a).1.Canonical) :
    (s.runPieces r f).1.Canonical := by
  dsimp only [State.runPieces]
  refine .foldl_on Prod.fst h fun _ _ h1 => ?_
  split
  · rename_i e
    exact .of_fst e (hf _ _ h1)
  · rename_i e
    exact .of_fst e (hf _ _ h1)

theorem State.Canonical.setReq {id : Nat} (h : s.Canonical) : (s.setReq id r).Canonical := .update h

theorem State.Canonical.memoise (h : s.Canonical) : (s.memoise r).Canonical := by
  dsimp only [State.memoise]
  split
  · exact .update h
  · exact h

theorem State.Canonical.detected (h : s.Canonical) : (s.detected r).Canonical := .foldl h fun _ _ => .ruinBlock

theorem State.Canonical.performed {id : Nat} (h : s.Canonical) : (s.performed id r).Canonical :=
  .ite (.raiseView (.detected (.memoise (.setReq (.ite_on Prod.fst (.takeStamp h) h)))))
    (.detected (.memoise (.setReq (.ite_on Prod.fst (.takeStamp h) h))))

theorem OptCanonical.answerRetry (h : s.Canonical) : OptCanonical id (s.answerRetry key r) := by
  unfold State.answerRetry
  split
  · exact .some (.setReq h)
  · exact .ite (.some (.setReq h)) .none

theorem State.Canonical.serveHome {id : Nat} (h : s.Canonical) : (s.serveHome id r).Canonical :=
  have hp := .runPieces h fun _ _ => .homePiece
  .performed (.ite (.ite (.rdcFill hp) hp) (.rdcPass hp))

theorem State.Canonical.serveCache {id : Nat} {e : RdcEntry} (h : s.Canonical) : (s.serveCache id r e).Canonical :=
  .performed h

theorem State.Canonical.atSeam {id : Nat} (h : s.Canonical) : (s.atSeam id r).Canonical :=
  .ite (.setReq h) (.tickStamp (.setReq h))

theorem State.Canonical.serveOwned {id : Nat} (h : s.Canonical) : (s.serveOwned id r).Canonical := by
  dsimp only [State.serveOwned]
  split
  · exact .performed h
  · exact .performed h
  · exact .performed (.runPieces (.grant (.foldl h (fun _ _ => .correctRead))) (fun _ _ => .ownPiece))

theorem State.Canonical.holdReq {id : Nat} (h : s.Canonical) : (s.holdReq id r).Canonical := by
  dsimp only [State.holdReq]
  refine .ite h (.tickStamp (.setReq ?_))
  split
  · exact h
  · exact h
  · exact .spoilCache h

theorem State.Canonical.deviceStep {id : Nat} {r0 : Req} (h : s.Canonical) : (s.deviceStep id r0 r).Canonical := by
  dsimp only [State.deviceStep]
  split
  · rename_i e
    exact OptCanonical.get (.answerRetry h) e
  · refine .ite (.holdReq h) ?_
    split
    · exact .holdReq h
    · exact .holdReq (.askRecall h)
    · exact .ite (.serveOwned h) (.holdReq (.askRecall h))
    · exact .ite (.serveHome h) (.ite (.serveOwned h) (.serveHome h))

theorem State.Canonical.toHome {id : Nat} {r0 : Req} (h : s.Canonical) : (s.toHome id r0 r).Canonical :=
  .ite (.atSeam h) (.deviceStep h)

theorem State.Canonical.deviceReach {id : Nat} {r0 : Req} (h : s.Canonical) : (s.deviceReach id r0 r).Canonical := by
  dsimp only [State.deviceReach]
  refine .ite ?_ (.toHome h)
  split
  · exact .serveCache h
  · exact .toHome (.setReq h)

theorem State.Canonical.peerPerforms {id : Nat} (h : s.Canonical) : (s.peerPerforms id r).Canonical := by
  dsimp only [State.peerPerforms]
  split
  · rename_i e
    exact OptCanonical.get (.answerRetry h) e
  · exact .performed (.runPieces h (fun _ _ => .farPiece))

theorem State.Canonical.peerRefused {id : Nat} (h : s.Canonical) : (s.peerRefused id r).Canonical := by
  dsimp only [State.peerRefused]
  split
  · exact .setReq h
  · exact .setReq h

theorem State.Canonical.peerStep {id cls : Nat} (h : s.Canonical) : (s.peerStep id r ep cls).Canonical := by
  dsimp only [State.peerStep]
  refine .ite (.performed h) ?_
  split
  · exact .ite (.peerPerforms h) h
  · split
    · exact h
    · exact .peerRefused h
    · exact .setReq (.sendFlit h)

theorem State.Canonical.homeStep {id : Nat} {r0 : Req} (h : s.Canonical) : (s.homeStep id r0).Canonical := by
  dsimp only [State.homeStep]
  refine .ite h ?_
  split
  · exact .deviceReach h
  · exact .peerStep h
  · exact .performed (.runPieces h (fun _ _ => .farPiece))

theorem State.Canonical.unload {o : OpenAcc} (h : s.Canonical) : (s.unload bid sq o).Canonical := by
  refine .updateTiles h (wf_foldl _ (fun m e hm => ?_) _)
  split
  · exact Memory.wf_writeBytes _ _ hm
  · exact hm

theorem State.Canonical.fillOpen {o : OpenAcc} (h : s.Canonical) : (s.fillOpen bid sq o lanes).Canonical :=
  .setSquad (.ite h (.repair h))

theorem State.Canonical.abortOpen {o : OpenAcc} (h : s.Canonical) : (s.abortOpen bid sq o code sub).Canonical :=
  .ite (.consumeSub h) (.ite (.takeTrap (.fillOpen (.setSquad (.unload h)))) (.takeTrap (.setSquad (.unload h))))

theorem State.Canonical.closeOpens (h : s.Canonical) : (s.closeOpens bid sq).Canonical := by
  dsimp only [State.closeOpens]
  split
  · refine .ite ?_ (.setSquad h)
    split
    · exact .abortOpen (.setSquad h)
    · exact .setSquad h
  · exact .setSquad h

theorem State.Canonical.answerOpen {id : Nat} {o : OpenAcc} (h : s.Canonical) : (s.answerOpen id r o).Canonical :=
  .closeOpens (.setSquad (.fillOpen (.ite (.raiseStamp (.update h)) (.update h))))

theorem State.Canonical.defer (h : s.Canonical) : (s.defer bid sq byHandler w).Canonical :=
  .ite (.setBlock h) (.setSquad h)

theorem State.Canonical.settlePosted {inst : Nat} (h : s.Canonical) : (s.settlePosted r inst).Canonical := by
  dsimp only [State.settlePosted]
  split
  · exact h
  · refine .ite ?_ (.setSquad h)
    split
    · exact .defer (.ite (.sideEffect (.setSquad h)) (.setSquad h))
    · exact .setSquad h

theorem State.Canonical.answerPosted {id : Nat} (h : s.Canonical) : (s.answerPosted id r).Canonical := by
  dsimp only [State.answerPosted]
  split
  · exact .consumeSub (.ite (.raiseStamp (.update h)) (.update h))
  · exact .foldl (.ite (.raiseStamp (.update h)) (.update h)) fun _ _ => .settlePosted

theorem State.Canonical.lostReq {id : Nat} (h : s.Canonical) : (s.lostReq id r).1.Canonical := by
  dsimp only [State.lostReq]
  split
  · exact .setReq h
  · exact .ite_on Prod.fst h (.ite_on Prod.fst h (.setReq h))
  · exact h

theorem State.Canonical.abortAnswer {id : Nat} (h : s.Canonical) : (s.abortAnswer id).Canonical := by
  dsimp only [State.abortAnswer]
  split
  · exact .ite (.setReq h) h
  · exact h

theorem State.Canonical.answerable {id : Nat} (h : s.Canonical) : (s.answerable id).1.Canonical := by
  dsimp only [State.answerable]
  split
  · exact h
  · split
    · exact h
    · exact .lostReq h
    · exact h

/-! ## Audited pours -/

theorem State.Canonical.sign {recs : List (List Byte)} (h : s.Canonical) : (s.sign bid recs).Canonical :=
  .ite h (.setFlask h)

theorem State.Canonical.endReplay (h : s.Canonical) : (s.endReplay bid).Canonical := .endAudit (.dropBlocks h)

/-! ## Global accesses -/

theorem State.Canonical.region {c : Coal} {k : AccKind} {declined : Table Lanes} {region : Nat} {on : Lanes}
    (h : c.s.Canonical) :
    (Coal.region c x k declined region on).s.Canonical := by
  dsimp only [Coal.region]
  refine .ite_on Coal.s h ?_
  split
  · exact .ite_on Coal.s (.translate h) (.translate h)
  · exact .ite_on Coal.s (.translate h) (.translate h)
  · exact .ite_on Coal.s (.translate h) (.translate h)
  · exact .ruinTag (.translate h)
  · exact .translate h

theorem State.Canonical.coalesce {addr : Nat → Nat} {k : AccKind} (h : s.Canonical) :
    (s.coalesce x lanes addr n k).s.Canonical :=
  .foldl_on Coal.s h fun _ _ => .region

theorem State.Canonical.faults {c : Coal} {kind : Nat} (h : c.s.Canonical) : (Coal.faults c x kind).1.Canonical :=
  .foldl_on Prod.fst h fun _ _ => .pageFault

theorem State.Canonical.makeReq {k : ReqKind} {e : Routed × List Piece} (h : s.Canonical) :
    (s.makeReq x k e).Canonical :=
  .addReq h

theorem State.Canonical.makeReqs {k : ReqKind} {rs : List Routed} (h : s.Canonical) : (s.makeReqs x k rs).Canonical :=
  .foldl (.sendLines h) fun _ _ => .makeReq

theorem State.Canonical.combine {inst : Nat} {p : Piece} (h : s.Canonical) : (s.combine x inst p).Canonical := by
  dsimp only [State.combine]
  refine .ite (.setSquad ?_) (.bump (.setSquad ?_))
  · split
    · exact .sendCombine h
    · exact h
  · split
    · exact .sendCombine h
    · exact h

theorem State.Canonical.openAccess {d : Opnd} {sx acq raises : Bool} {before : Ctl} {park : Option Group}
    {trap : Option (Nat × Nat)} (h : s.Canonical) :
    (s.openAccess x lanes d n sx acq raises before park trap).1.Canonical :=
  .bump (.setSquad h)

theorem Answers.ldg {a : Args GMod} : Answers s (execLdg a s) := by
  dsimp only [Machine.execLdg]
  refine .issue fun _ _ h => ?_
  split
  · exact .trap
  · exact .ite (.wait h) (.mem (.ite (.faults (.coalesce h)) (.makeReqs (.openAccess (.faults (.coalesce h))))))

theorem Answers.globalAtomic {op : AtomOp} {hd : Head} {a : Args GMod} : Answers s (globalAtomic op hd a s) := by
  dsimp only [Machine.globalAtomic]
  refine .issue fun _ _ h => .ite (.dead (.endReplay h)) ?_
  split
  · exact .trap
  · exact .ite (.wait h) (.ite (.wait h) (.mem (.ite (.faults (.coalesce h))
      (.makeReqs (.update (.sideEffect (.setCore (.openAccess (.faults (.coalesce h))))))))))

theorem State.Canonical.post {k : Nat → ReqKind} {rs : List Routed} (h : s.Canonical) : (s.post x k rs).Canonical :=
  .makeReqs (.foldl (.addPosted h) (fun _ _ => .combine))

theorem Answers.stg {a : Args GMod} : Answers s (execStg a s) := by
  dsimp only [Machine.execStg]
  refine .issue fun _ _ h => .ite (.dead (.endReplay h)) ?_
  split
  · exact .trap
  · exact .ite (.wait h) (.mem (.ite (.faults (.coalesce h)) (.post
      (.sign (.ite (.sideEffect (.faults (.coalesce h))) (.faults (.coalesce h)))))))

theorem Answers.postedOp {op : ReqOp} {kind : Nat} {hd : Head} {a : Args GMod} {opd : Ins → State → Nat → Nat} :
    Answers s (postedOp op kind code hd a opd s) := by
  dsimp only [Machine.postedOp]
  refine .issue fun _ _ h => ?_
  split
  · exact .trap
  · exact .ite (.wait h) (.mem (.ite (.faults (.coalesce h)) (.post (.sign (.faults (.coalesce h))))))

theorem Answers.globalReduction {op : AtomOp} {hd : Head} {a : Args GMod} : Answers s (globalReduction op hd a s) :=
  .postedOp

theorem State.Canonical.giveBack (h : s.Canonical) : (s.giveBack bid).Canonical :=
  .foldl (.foldl h (fun _ _ => .sendBack)) fun _ _ => .landOpen

theorem State.Canonical.fenceBack {o : MemOrd} {sc : Option Scope} (h : s.Canonical) :
    (s.fenceBack bid o sc).Canonical :=
  .ite (.giveBack h) h

theorem State.Canonical.fenced {o : MemOrd} {sc : Option Scope} (h : s.Canonical) : (s.fenced bid o sc).Canonical :=
  .ite (.takeStamp (.acquireNow (.fenceBack h))) (.acquireNow (.fenceBack h))

theorem State.Canonical.zeroShadow {r : Range} (h : s.Canonical) : (s.zeroShadow die r).Canonical := by
  dsimp only [State.zeroShadow]
  refine .foldl h fun _ _ h1 => ?_
  split
  · exact .storeFrom h1
  · exact h1

theorem State.Canonical.dropCopies (h : s.Canonical) : s.dropCopies.Canonical := .update h

theorem State.Canonical.pagesWalked {vas : List Nat} (h : s.Canonical) : (s.pagesWalked die tag vas).Canonical :=
  .foldl h fun _ _ => .walked

theorem Result.Canonical.declare {silent : Bool} {r : Range} (h : s.Canonical) : (s.declare die silent r).Canonical :=
  .ite .trap (.ite (.go h) (.ite .trap (.ite .trap (.ite (.wait h)
    (.go (.bump (.dropCopies (.setContext (.zeroShadow (.pagesWalked h))))))))))

theorem Result.Canonical.areaStops {ar : Area} (h : s.Canonical) : ∀ r ∈ s.areaStops x store ar, r.Canonical := by
  unfold State.areaStops
  intro r hr
  split at hr
  · cases hr
  · cases hr; exact .trap
  · cases hr; exact .trap
  · split at hr
    · cases hr; exact .trap
    · cases hr; exact .mem (.pageFault h)
  · cases hr; exact .dead (.ruinTag h)
  · cases hr; exact .wait h

/-- The first of two results that is there, or else a trap. -/
theorem Result.Canonical.firstOf {o u : Option Result} {c k : Nat}
    (ho : ∀ r ∈ o, r.Canonical) (hu : ∀ r ∈ u, r.Canonical) :
    ((o.orElse fun _ => u).getD (.trap c k)).Canonical := by
  cases o with
  | some r => exact ho r rfl
  | none =>
    cases u with
    | some r => exact hu r rfl
    | none => exact .trap

theorem Answers.crdecl {a : Args GMod} : Answers s (execCrdecl a s) := by
  dsimp only [Machine.execCrdecl]
  refine .issue fun x s h => .ite .trap (.ite .trap ?_)
  split
  · exact .declare h
  · exact .firstOf (.areaStops h) (.areaStops h)

theorem Answers.homeRequest {id : Nat} : Answers s (execHomeRequest id s) := by
  dsimp only [Machine.execHomeRequest]
  refine .next fun h => ?_
  split
  · exact .ite (.homeStep h) h
  · exact h

theorem Answers.recall : Answers s (execRecall line s) := .next fun h => .foldl h fun _ _ => .sendBack
theorem Answers.ownerWriteback {id : Nat} : Answers s (execOwnerWriteback id s) := .next .landOpen

theorem Answers.accessResponse {id : Nat} : Answers s (execAccessResponse id s) := by
  dsimp only [Machine.execAccessResponse]
  refine .next fun h => ?_
  split
  · exact .performAtom h
  · split
    · rename_i e
      exact .of_fst e (.answerable h)
    · rename_i t _ e
      have h1 : t.Canonical := .of_fst e (.answerable h)
      split
      · exact .answerOpen h1
      · exact h1

theorem Answers.postedAccessAnswer {id : Nat} : Answers s (execPostedAccessAnswer id s) := by
  dsimp only [Machine.execPostedAccessAnswer]
  refine .next fun h => ?_
  split
  · rename_i e
    exact .of_fst e (.answerable h)
  · rename_i t _ e
    have h1 : t.Canonical := .of_fst e (.answerable h)
    exact .ite (.answerPosted h1) h1

theorem Answers.siCombineTimeout {squad id : Nat} : Answers s (execSiCombineTimeout squad id s) := by
  dsimp only [Machine.execSiCombineTimeout]
  refine .next fun h => ?_
  split
  · exact .ite (.sendCombine h) h
  · exact h

/-! ## Integer instructions -/

theorem State.Canonical.putD {hd : Head} {f : Nat → DWord} (h : s.Canonical) : (s.putD x hd f).Canonical := .put h

theorem Answers.alu {hd : Head} {f : Ins → State → Nat → DWord} : Answers s (alu hd f s) :=
  .issue fun _ _ h => .go (.putD h)

theorem Answers.alu1 {hd : Head} {op : DWord → DWord} : Answers s (alu1 hd op s) := .alu
theorem Answers.alu2 {hd : Head} {op : DWord → DWord → DWord} : Answers s (alu2 hd op s) := .alu
theorem Answers.alu3 {hd : Head} {op : DWord → DWord → DWord → DWord} : Answers s (alu3 hd op s) := .alu

theorem Answers.flagged {hd : Head} {f : Ins → State → Nat → Bool} : Answers s (flagged hd f s) :=
  .issue fun _ _ h => .go (.putBits h)

/-! ## Control flow -/

theorem State.Canonical.setMeet {pc : Pc} (h : s.Canonical) : (s.setMeet x pc).Canonical := .setSquad h
theorem State.Canonical.rejoin {rest : List (Nat × Pc)} (h : s.Canonical) : (s.rejoin x rest).Canonical := .setCtl h

theorem Answers.exit {a : Args Unit} : Answers s (execExit a s) :=
  .issue fun _ _ h => .placed (.endThreads (.ite (.setBlock (.setSquad h)) (.setSquad h)))

/-! ## Quantise instructions -/

theorem State.Canonical.putScale {b : Opnd} {v : Nat} (h : s.Canonical) : (s.putScale x b n v).Canonical := .put1 h

/-! ## The stack cache -/

theorem State.Canonical.holdSpill (h : s.Canonical) : (s.holdSpill bid sq byHandler fid l).Canonical :=
  .bump (.setSquad h)

theorem State.Canonical.spillFar {ptag cls a : Nat} (h : s.Canonical) :
    (s.spillFar bid sq byHandler l ep ptag cls a).Canonical := by
  dsimp only [State.spillFar]
  split
  · exact .defer (.sideEffect h)
  · exact .holdSpill h
  · exact .ite (.holdSpill h) (.updatePeer (.sendFlit h) (Memory.wf_writeBytes _ _))

theorem State.Canonical.spillHome (h : s.Canonical) : (s.spillHome bid sq byHandler l pa).Canonical := by
  dsimp only [State.spillHome]
  split
  · exact .defer h
  · exact .ite (.holdSpill h) (.storeFrom h)

theorem State.Canonical.keepLine (h : s.Canonical) : (s.keepLine bid sq l).Canonical := .setSquad h

theorem State.Canonical.spill (h : s.Canonical) : (s.spill bid sq byHandler l).Canonical := by
  dsimp only [State.spill]
  refine .ite (.ruinBlock h) (.ite (.keepLine h) ?_)
  split
  · exact .spillHome (.translate h)
  · exact .updateHost (.translate h) (Memory.wf_writeBytes _ _)
  · exact .spillFar (.translate h)
  · exact .defer (.translate h)
  · exact .ruinTag (.translate h)
  · exact .holdSpill (.translate h)
  · exact .holdSpill (.pageFault (.translate h))

theorem State.Canonical.answerSpillsOf {decline : Bool} (h : s.Canonical) :
    (s.answerSpillsOf bid sq fid decline).Canonical := by
  dsimp only [State.answerSpillsOf]
  refine .foldl (.setSquad h) fun _ _ h1 => ?_
  split
  · exact .ite (.defer h1) (.spill h1)
  · exact h1

theorem State.Canonical.answerSpills {decline : Bool} (h : s.Canonical) : (s.answerSpills fid decline).Canonical :=
  .foldl h fun _ _ => .answerSpillsOf

theorem State.Canonical.retrySpills (h : s.Canonical) : s.retrySpills.Canonical := .answerSpills h

theorem State.Canonical.backing (h : s.Canonical) : (s.backing bid sq key).1.Canonical := by
  dsimp only [State.backing]
  refine .ite_on Prod.fst h ?_
  split
  · exact .loadDone h
  · exact h
  · split
    · exact .sendFlit h
    · exact h
  · exact h

theorem State.Canonical.evictStack (h : s.Canonical) : (s.evictStack bid sq).Canonical := by
  dsimp only [State.evictStack]
  split
  · exact h
  · exact .ite h (.ite (.spill (.setSquad h)) (.setSquad h))

theorem State.Canonical.flushStack (h : s.Canonical) : (s.flushStack bid sq).Canonical :=
  .foldl (.setSquad h) fun _ _ => .spill

theorem State.Canonical.flushStacks {bids : List Nat} (h : s.Canonical) : (s.flushStacks bids).Canonical :=
  .foldl h fun _ _ => .flushStack

theorem State.Canonical.touchStack (h : s.Canonical) : (s.touchStack bid sq key).Canonical := by
  dsimp only [State.touchStack]
  split
  · exact .setSquad h
  · exact .setSquad (.repair (.evictStack (.backing h)))

theorem State.Canonical.setStackByte {lane o : Nat} {b : Byte} (h : s.Canonical) :
    (s.setStackByte bid sq lane o b).Canonical :=
  .setSquad h

theorem State.Canonical.stackPages {ofs : Nat → Nat} (h : s.Canonical) : (s.stackPages x ofs n).s.Canonical :=
  .foldl_on Coal.s h fun _ _ => .region

theorem State.Canonical.touchAll {o : Nat} (h : s.Canonical) : (s.touchAll bid sq o n).Canonical :=
  .foldl h fun _ _ => .touchStack

theorem State.Canonical.fillAhead {lowest : Nat} (h : s.Canonical) : (s.fillAhead x lowest).Canonical :=
  .ite h (.touchStack h)

theorem State.Canonical.lane {r : StackRun} {ofs : Nat → Nat} {perform : State → State} {i : Nat} (h : r.s.Canonical)
    (hperform : ∀ s, s.Canonical → (perform s).Canonical) :
    (StackRun.lane r x ofs n perform i).s.Canonical := by
  dsimp only [StackRun.lane]
  refine .ite_on StackRun.s h (.ite_on StackRun.s h (.ite_on StackRun.s (.stackPages h)
    (.ite_on StackRun.s (.stackPages h) ?_)))
  split
  · exact h
  · exact h
  · exact hperform _ (.touchAll (.stackPages h))

/-- The run over the lanes of a stack access, from the state in which its pages are present. -/
theorem State.Canonical.runLanes {ofs : Nat → Nat} {perform : Nat → State → State} {ls : List Nat} (h : s.Canonical)
    (hperform : ∀ i s, s.Canonical → (perform i s).Canonical) :
    (ls.foldl (fun (r : StackRun) i => r.lane x ofs n (perform i) i) { s := (s.stackPages x ofs n).s }).s.Canonical :=
  .foldl_on StackRun.s (.stackPages h) fun _ i h => .lane h (hperform i)

theorem Answers.stackAccess {hd : Head} {a : Args PMod} {lane : Ins → State → Nat → Nat → State}
    (hlane : ∀ a s b c, s.Canonical → (lane a s b c).Canonical) :
    Answers s (stackAccess hd a store lane s) := by
  dsimp only [Machine.stackAccess]
  refine .issue fun x s h => ?_
  split
  · exact .trap
  · split
    · exact .dead (.consume h)
    · refine .ite (.wait h) ?_
      split
      · exact .trap
      · have hrun {ls : List Nat} := State.Canonical.runLanes (x := x) (ofs := s.stackOfs x a) (n := a.mod.sz.bytes)
          (ls := ls) h fun i t => hlane x t (s.stackOfs x a i) i
        split
        · exact .dead (.consume hrun)
        · exact .ite (.wait (.markDone hrun)) (.mem (.elim (.faults hrun) fun _ => .fillAhead (.faults hrun)))

theorem Answers.stk {a : Args PMod} : Answers s (execStk a s) :=
  .stackAccess fun _ _ _ _ h => .foldl (.repair h) fun _ _ => .setStackByte

/-! ## The scheduler -/

theorem State.Canonical.zeroBlock (h : s.Canonical) : (s.zeroBlock bid).Canonical := State.wf_zeroBlock _ h

theorem State.Canonical.startBlock {b : Block} {p : Pour} (h : s.Canonical) : (s.startBlock bid b p).Canonical :=
  .foldl (.setBlock (.forgetReady (.zeroBlock h))) fun _ _ => .setSquad

theorem State.Canonical.startFlask {x : Slots} (h : s.Canonical) : (s.startFlask f fl x).Canonical :=
  .tickStamp (.foldl (.setFlask h) (fun _ _ => .startBlock))

theorem State.Canonical.newRecord {r : Nat} (h : s.Canonical) : (s.newRecord r).Canonical := .repair h

theorem State.Canonical.readRecord {r : Nat} (h : s.Canonical) : (s.readRecord r).Canonical :=
  .ite (.ruinTag h) (.foldl h (fun _ _ h1 => .ite (.corrected (.repair h1)) h1))

theorem State.Canonical.moveQueues {old new : Nat} (h : s.Canonical) : (s.moveQueues old new).Canonical :=
  .bump (.setCore (.setCore h))

theorem State.Canonical.moveBlock {old new : Nat} (h : s.Canonical) : (s.moveBlock old new).Canonical := by
  have hq : (s.moveQueues old new).Canonical := .moveQueues h
  obtain ⟨hdev, hpooled, htiles, hrest⟩ := (Memories.wf_iff _).mp hq
  exact (Memories.wf_iff _).mpr ⟨hdev, wf_moveRange _ _ _ hpooled, wf_moveRange _ _ _ htiles, hrest⟩

theorem State.Canonical.dropPushers (h : s.Canonical) : (s.dropPushers bid).Canonical := .setFlask h
theorem State.Canonical.restartBlock (h : s.Canonical) : (s.restartBlock bid).Canonical := .update (.dropPushers h)

theorem State.Canonical.saveAccs (h : s.Canonical) : (s.saveAccs bid).Canonical :=
  .ite (.restartBlock (.updateAccs h)) (.updateAccs h)

theorem State.Canonical.saveBlock (h : s.Canonical) : (s.saveBlock bid).Canonical :=
  .bump (.moveBlock (.update (.saveAccs h)))

theorem State.Canonical.resumeFlask {x : Slots} (h : s.Canonical) : (s.resumeFlask f x).Canonical :=
  .tickStamp (.setFlask (.freeArea (.foldl (.readRecord h) (fun _ _ h1 => .setBlock
    (.moveBlock (.forgetReady (.zeroBlock h1)))))))

theorem State.Canonical.mapQueue {f : Queue → Queue} (h : s.Canonical) : (s.mapQueue tenant que f).Canonical :=
  .setTenant h

theorem State.Canonical.placeNew {p : Nat} {x : Slots} (h : s.Canonical) : (s.placeNew p x).Canonical :=
  .ite (.mapQueue (.setPour (.startFlask (.newRecord h)))) (.setPour (.startFlask (.newRecord h)))

theorem State.Canonical.place {w : Waiting} {x : Slots} {q : Option (Nat × Nat)} (h : s.Canonical) :
    (s.place w x q).Canonical := by
  dsimp only [State.place]
  split
  · refine .ite (.resumeFlask ?_) (.startFlask ?_)
    · split
      · exact .update (.readRecord h)
      · exact .readRecord h
    · split
      · exact .update (.readRecord h)
      · exact .readRecord h
  · refine .placeNew ?_
    split
    · exact .update (.readRecord h)
    · exact .readRecord h

theorem State.Canonical.flush (h : s.Canonical) : (s.flush f).Canonical := .startAgain (.clearSlots (.dropBlocks h))

theorem State.Canonical.beginSave (h : s.Canonical) : (s.beginSave f).Canonical :=
  .ite (.foldl (.setFlask (.setTenant h)) (fun _ _ h1 => .foldl h1 (fun _ _ => .sendCombines))) (.setFlask h)

theorem State.Canonical.preempt {deadline : Option Nat} (h : s.Canonical) : (s.preempt f deadline).Canonical :=
  .ite (.setFlask h) (.ite (.flush h) (.beginSave h))

theorem State.Canonical.preemptFor {p : Pour} {victims : List Nat} {deadline : Option Nat} (h : s.Canonical) :
    (s.preemptFor p victims deadline).Canonical := by
  dsimp only [State.preemptFor]
  split
  · exact .foldl h fun _ _ => .preempt
  · exact h

theorem State.Canonical.preemptClasses {p : Pour} {ok : Nat → Bool} {deadline : Nat} (h : s.Canonical) :
    (s.preemptClasses p ok deadline).Canonical :=
  .preemptFor h

theorem State.Canonical.urgentTrigger (h : s.Canonical) : s.urgentTrigger.Canonical :=
  .foldl h fun _ _ h1 => .ite (.preemptClasses h1) h1

theorem State.Canonical.resumesAfter {before : List (Nat × Nat)} (h : s.Canonical) :
    (s.resumesAfter before).Canonical :=
  .foldl h fun _ _ h1 => .ite (.setFlask h1) h1

theorem State.Canonical.cwaitTrigger {c d : Nat} (h : s.Canonical) : (s.cwaitTrigger c d).Canonical :=
  .resumesAfter (.foldl h (fun _ _ h1 => .ite (.preemptFor h1) h1))

theorem State.Canonical.cwaitTriggers (h : s.Canonical) : s.cwaitTriggers.Canonical :=
  .foldl h fun _ _ h1 => .foldl h1 fun _ _ => .cwaitTrigger

theorem Answers.flaskPlace : Answers s (execFlaskPlace s) := by
  dsimp only [Machine.execFlaskPlace]
  refine .next fun h => ?_
  split
  · exact .place (.cwaitTriggers (.urgentTrigger h))
  · exact .cwaitTriggers (.urgentTrigger h)

theorem Answers.hWaitTimeout : Answers s (execHWaitTimeout flask s) := by
  dsimp only [Machine.execHWaitTimeout]
  refine .next fun h => ?_
  split
  · exact .ite (.preemptClasses h) h
  · exact h

theorem State.Canonical.deferredAtSave (h : s.Canonical) : (s.deferredAtSave bid sq).Canonical := by
  dsimp only [State.deferredAtSave]
  split
  · exact .takeTrap (.setSquad h)
  · exact .takeTrap (.setSquad h)

theorem State.Canonical.deferredOfHandler (h : s.Canonical) : (s.deferredOfHandler bid).Canonical := .killFlask h

theorem State.Canonical.finishSave (h : s.Canonical) : (s.finishSave flask).Canonical := by
  dsimp only [State.finishSave]
  split
  · exact .deferredOfHandler h
  · exact .deferredAtSave h
  · exact .consume h
  · exact .setFlask (.newRecord (.foldl h (fun _ _ => .saveBlock)))

theorem Answers.saveComplete : Answers s (execSaveComplete flask s) :=
  .next fun h => .ite h (.ite (.foldl (.flushStacks h) (fun _ _ => .giveBack))
    (.finishSave (.foldl (.flushStacks h) (fun _ _ => .giveBack))))

theorem State.Canonical.retireFlask {draw : BitVec 16} (h : s.Canonical) : (s.retireFlask f draw).Canonical :=
  .ite (.setPour (.setFlask (.dropBlocks h))) (.setFlask (.dropBlocks h))

theorem State.Canonical.retireBlock {blk : Nat} {draw : BitVec 16} (h : s.Canonical) :
    (s.retireBlock blk draw).Canonical :=
  .ite (.retireFlask (.setBlock h)) (.setBlock h)

theorem Answers.blockRetire {blk : Nat} {draw : BitVec 16} : Answers s (execBlockRetire blk draw s) :=
  .next fun h => .ite h (.ite (.deferredOfHandler h) (.ite (.giveBack h) (.retireBlock (.giveBack h))))

theorem State.Canonical.foldLast {e : Nat} (h : s.Canonical) : (s.foldLast g e).Canonical := by
  dsimp only [State.foldLast]
  split
  · exact .record h
  · exact .foldElement (.correctElem h)

theorem State.Canonical.foldRange (h : s.Canonical) : (s.foldRange g).Canonical := .foldl h fun _ _ => .foldLast

theorem State.Canonical.retirePour {p : Nat} (h : s.Canonical) : (s.retirePour p).Canonical :=
  .update (.raiseDgen (.irq (.setTenant (.setContext (.foldl (.readRecord h) (fun _ _ => .foldRange))))))

theorem Answers.pourRetire {pour : Nat} : Answers s (execPourRetire pour s) := .next fun h => .ite (.retirePour h) h

/-! ## Copy tags -/

theorem State.Canonical.setTag {t : Tag} (h : s.Canonical) : (s.setTag bid n t).Canonical := .setBlock h
theorem State.Canonical.tagBegin (h : s.Canonical) : (s.tagBegin bid n).Canonical := .setTag h
theorem State.Canonical.tagEnd {status : Nat} (h : s.Canonical) : (s.tagEnd bid n status).Canonical := .setTag h

theorem Result.Canonical.squadRead {r : CtxRead} {reads : List (Nat × Nat)} {k : State → List Byte → Result}
    (h : s.Canonical) (hk : ∀ s a, s.Canonical → (k s a).Canonical) :
    (s.squadRead x r reads k).Canonical := by
  dsimp only [State.squadRead]
  split
  · exact .ite (.failed (.readsMade h)) (hk _ _ (.readsMade h))
  · exact .failed (.readsMade h)
  · exact .dead (.consume (.readsMade h))
  · exact .wait h
  · exact .ite (.failed (.readsMade h)) (.mem (.pageFault (.readsMade h)))

/-! ## Launches and work -/

theorem State.Canonical.acceptPour {d : Desc} {k : Kernel} {overflow : Bool} (h : s.Canonical) :
    (s.acceptPour tag que d k overflow).1.Canonical :=
  .raiseDgen (.mapQueue (.setPour (.newRecord (.setContext h))))

theorem State.Canonical.launch {bs : List Byte} {i : Image} {prm : Option Nat} (h : s.Canonical) :
    (s.launch tag que bs i prm).1.Canonical :=
  .ite_on Prod.fst h (.ite_on Prod.fst h (.ite_on Prod.fst h (.ite_on Prod.fst (.acceptPour h)
    (.ite_on Prod.fst (.acceptPour h) h))))

theorem State.Canonical.tookTurn (h : s.Canonical) : (s.tookTurn x).Canonical := .setSquad h

theorem State.Canonical.note {kind : ReplayKind} (h : s.Canonical) : (s.note f key kind w).Canonical :=
  .ite (.setFlask h) (.sideEffect h)

theorem State.Canonical.noteHere {kind : ReplayKind} (h : s.Canonical) : (s.noteHere x kind w).Canonical :=
  .tookTurn (.note h)

theorem Result.Canonical.replaying {kind : ReplayKind} {check : Option (Nat × Nat)}
    {val : Word → Result} {fresh : Unit → Result} (h : s.Canonical) (hval : ∀ a, (val a).Canonical)
    (hfresh : ∀ a, (fresh a).Canonical) :
    (s.replaying x kind check val fresh).Canonical := by
  dsimp only [State.replaying]
  refine .ite (.wait (.readRecord h)) ?_
  split
  · exact .trap
  · exact .trap
  · exact hval _
  · exact hfresh _

theorem State.Canonical.pourResult {a : Args LMod} (h : s.Canonical) : (s.pourResult x a w).Canonical :=
  .putBits (.put1 h)

theorem Answers.pour {a : Args LMod} : Answers s (execPour a s) :=
  .issue fun _ _ h => .replaying h (fun _ => .go (.pourResult (.tookTurn h))) fun _ => .squadRead h fun _ _ h1 => .ite
    (.dead (.endReplay h)) (.go (.pourResult (.noteHere (.launch h1))))

theorem State.Canonical.setCwait {p : Option Nat} (h : s.Canonical) : (s.setCwait x p).Canonical := .setSquad h

theorem Answers.cwait {a : Args Unit} : Answers s (execCwait a s) := by
  dsimp only [Machine.execCwait]
  refine .issue fun _ _ h => .replaying h (fun _ => .go (.put1 (.tookTurn h))) fun _ => ?_
  split
  · exact .trap
  · exact .hold (.setCwait h)
  · exact .ite (.dead (.endReplay h)) (.go (.put1 (.noteHere (.raiseView (.setCwait h)))))

theorem State.Canonical.poolAnswer (h : s.Canonical) : (s.poolAnswer f addr w).Canonical := by
  dsimp only [State.poolAnswer]
  split
  · exact .repair (.poolWrite h)
  · exact h

theorem State.Canonical.deliver {r : TkReq} (h : s.Canonical) : (s.deliver r w).Canonical := by
  dsimp only [State.deliver]
  split
  · exact .setSquad (.repair h)
  · exact .tagEnd (.poolAnswer h)

theorem Result.Canonical.tkIssue {check : Option (Nat × Nat)} {req : TkReq} {mark : State → State}
    (hmark : ∀ s, s.Canonical → (mark s).Canonical) (h : s.Canonical) :
    (tkIssue check req x mark s).Canonical :=
  .replaying h (fun _ => .go (.deliver (hmark _ (.tookTurn h)))) fun _ => .ite (.wait h)
    (.go (.tookTurn (.bump (.update (hmark _ h)))))

theorem Answers.tknxtAnswer {req : Nat} : Answers s (execTknxtAnswer req s) := by
  dsimp only [Machine.execTknxtAnswer]
  refine .next fun h => ?_
  split
  · exact h
  · exact .ite h (.ite (.endReplay h) (.deliver (.note (.update (.setPour (.readRecord h))))))

theorem State.Canonical.armSprue {bs desc : List Byte} {i : Image} (h : s.Canonical) :
    (s.armSprue tag bs desc i).1.Canonical := by
  dsimp only [State.armSprue]
  refine .ite_on Prod.fst h ?_
  split
  · exact h
  · exact .setTenant h

theorem Answers.sparm {a : Args Unit} : Answers s (execSparm a s) :=
  .issue fun _ _ h => .replaying h (fun _ => .go (.put1 (.tookTurn h))) fun _ => .squadRead h fun _ _ h1 => .ite
    (.dead (.endReplay h)) (.go (.put1 (.noteHere (.armSprue h1))))

theorem State.Canonical.setSprue {hd : Nat} {x : Sprue} (h : s.Canonical) : (s.setSprue n hd x).Canonical :=
  .setTenant h

theorem OptCanonical.launchAt {prm : Option Nat} (h : s.Canonical) :
    OptCanonical Prod.fst (s.launchAt tag que addr prm) := by
  dsimp only [State.launchAt]
  split
  · exact .none
  · exact .some (.launch (.readsMade h))
  · exact .some (.deadRead (.readsMade h))
  · exact .some (.readsMade h)

theorem Answers.sprueFire {handle : Nat} : Answers s (execSprueFire tenant handle s) := by
  dsimp only [Machine.execSprueFire]
  refine .next fun h => ?_
  split
  · exact h
  · split
    · exact h
    · split
      · exact h
      · rename_i t _ e
        have h1 : t.Canonical := OptCanonical.get (.launchAt h) e
        exact .ite (.irq (.setSprue h1)) (.setSprue h1)

/-! ## Control registers, services and privileged instructions -/

theorem State.Canonical.setTrapPc {v : Pc} (h : s.Canonical) : (s.setTrapPc x v).Canonical := .setSquad (.setBlock h)

theorem OptCanonical.crWrite {r : Cr} {v : DWord} (h : s.Canonical) : OptCanonical id (s.crWrite x r v) := by
  dsimp only [State.crWrite]
  split
  · exact .ite (.some (.setBlock h)) .none
  · exact .ite (.some (.setBlock h)) .none
  · exact .ite .none (.some (.setBlock h))
  · exact .some (.setSquad h)
  · exact .some (.setTrapPc h)
  · exact .ite (.some (.setContext h)) .none
  · exact .ite .none (.some (.setContext h))
  · exact .none

theorem Answers.movcr {a : Args Cr} : Answers s (execMovcr a s) := by
  dsimp only [Machine.execMovcr]
  refine .issue fun _ _ h => .ite .trap ?_
  split
  · rename_i e
    exact .go (OptCanonical.get (.crWrite h) e)
  · exact .trap

theorem Answers.sysSetSideEffect {a : Args Unit} : Answers s (execSysSetSideEffect a s) :=
  .issue fun _ _ h => .ite (.dead (.endReplay h)) (.go (.put1 (.sideEffect h)))

theorem State.Canonical.returnFrom {hd : Handler} (h : s.Canonical) : (s.returnFrom x hd lanes).Canonical := by
  unfold State.returnFrom
  exact .nextTrapped (.endThreads (.setSquad h))

theorem Answers.rft {a : Args Unit} : Answers s (execRft a s) := by
  dsimp only [Machine.execRft]
  refine .issue fun _ _ h => .ite .trap ?_
  split
  · exact .placed (.returnFrom h)
  · exact .trap

theorem Answers.handlerStart {blk : Nat} : Answers s (execHandlerStart blk s) := by
  dsimp only [Machine.execHandlerStart]
  refine .next fun h => .ite h ?_
  split
  · exact h
  · exact .serveFrom (.stopSiblings h)

theorem State.Canonical.clearTlbs (h : s.Canonical) : (s.clearTlbs tag).Canonical := .update h

theorem State.Canonical.raiseAsgen (h : s.Canonical) : (s.raiseAsgen tag).Canonical :=
  .ite (.clearTlbs (.setContext h)) (.setContext h)

theorem Answers.asgen {a : Args Unit} : Answers s (execAsgen a s) :=
  .issue fun _ _ h => .ite .trap (.ite (.wait (.giveBack h)) (.go (.put1 (.raiseAsgen (.fenced h)))))

theorem State.Canonical.fillNode {node : Nat} (h : s.Canonical) : (s.fillNode die tag va node).1.Canonical := by
  dsimp only [State.fillNode]
  split
  · exact .ite_on Prod.fst h (.storeFrom (.loadDone h))
  · exact h

theorem State.Canonical.swapLeaf {node at' leaf : Nat} (h : s.Canonical) :
    (s.swapLeaf core tag node at' leaf).1.Canonical :=
  .ite_on Prod.fst (.raiseAsgen (.storeFrom (.correctValue (.takeStamp h)))) (.correctValue (.takeStamp h))

theorem State.Canonical.splinted {ctag node : Nat} {w : Walk} (h : s.Canonical) :
    (s.splinted bid ctag va node tag w).Canonical := by
  dsimp only [State.splinted]
  refine .tagBegin (.bump (.update ?_))
  split
  · exact .walked h
  · exact .fillNode (.walked h)

theorem Answers.splint {a : Args Unit} : Answers s (execSplint a s) :=
  .issue fun _ _ h => .ite .trap (.ite .trap (.ite .trap (.ite .trap
    (.ite (.wait h) (.ite (.wait h) (.go (.splinted h)))))))

theorem State.Canonical.swapSplinter {id : Nat} {z : Splinter} {at' leaf : Nat} (h : s.Canonical) :
    (s.swapSplinter id z at' leaf).Canonical := by
  dsimp only [State.swapSplinter]
  refine .update ?_
  split
  · exact .ruinTag h
  · exact .swapLeaf h

theorem Answers.splinterComplete {id : Nat} : Answers s (execSplinterComplete id s) := by
  dsimp only [Machine.execSplinterComplete]
  refine .next fun h => ?_
  split
  · exact h
  · split
    · exact .ite h (.swapSplinter h)
    · refine .ite h ?_
      split
      · exact .ite (.tagEnd (.update h)) (.update h)
      · exact .update h

theorem State.Canonical.killContext (h : s.Canonical) : (s.killContext tag).Canonical :=
  .foldl h fun _ _ h1 => .ite h1 (.ite (.killFlask h1) (.giveUpAudit (.dropBlocks (.freeArea h1))))

theorem State.Canonical.releasePours (h : s.Canonical) : (s.releasePours tag).Canonical :=
  .foldl (.update h) fun _ _ h1 => .retirePour (.failPour h1)

theorem State.Canonical.endContext (h : s.Canonical) : (s.endContext tag).Canonical :=
  .setContext (.setTenant (.releasePours (.killContext h)))

theorem Answers.dtload {a : Args Unit} : Answers s (execDtload a s) :=
  .issue fun _ _ h => .ite .trap (.ite .trap (.ite .trap (.squadRead h
    (fun _ _ h1 => .go (.put1 (.ite (.setContext h1) h1))))))

/-! ## Barriers, runners and drains -/

theorem Result.Canonical.biniBody {a : Args SMod} (h : s.Canonical) : (biniBody a x s).Canonical := by
  dsimp only [Machine.biniBody]
  split
  · exact .trap
  · exact .ite .trap (.ite .trap (.ite .trap (.go (.setBar h))))

theorem State.Canonical.arriveLane {i : Nat} (h : s.Canonical) : (s.arriveLane x n i).Canonical :=
  .checkBar (.setBar (.setSquad h))

theorem State.Canonical.arriveLanes {lanes : List Nat} (h : s.Canonical) : (s.arriveLanes x n lanes).1.Canonical := by
  induction lanes generalizing s with
  | nil => exact h
  | cons i r ih =>
    unfold State.arriveLanes
    exact .ite_on Prod.fst (ih h) (ih (.arriveLane h))

theorem Result.Canonical.barvBody {a : Args SMod} (h : s.Canonical) : (barvBody a x s).Canonical := by
  dsimp only [Machine.barvBody]
  split
  · exact .trap
  · split
    · exact .trap
    · exact .ite (.go (.arriveLanes h)) (.wait (.markDone (.arriveLanes h)))

theorem Result.Canonical.bexpBody {a : Args SMod} (h : s.Canonical) : (bexpBody a x s).Canonical := by
  dsimp only [Machine.bexpBody]
  split
  · exact .trap
  · exact .ite .trap (.go (.checkBar (.setBar h)))

theorem State.Canonical.consumeAph {loc : Bool} {lanes : List Nat} (h : s.Canonical) :
    (s.consumeAph x n loc lanes).Canonical :=
  .ite (.raiseView (.setSquad h)) (.setSquad h)

theorem State.Canonical.noteAwait (h : s.Canonical) : (s.noteAwait x n).Canonical := by
  dsimp only [State.noteAwait]
  split
  · exact .setGroup h
  · exact h

theorem Result.Canonical.bwaitBody {a : Args SMod} (h : s.Canonical) : (bwaitBody a x s).Canonical := by
  dsimp only [Machine.bwaitBody]
  split
  · exact .trap
  · exact .ite (.go (.consumeAph (.noteAwait h))) (.wait (.noteAwait h))

theorem Result.Canonical.btestBody {a : Args SMod} (h : s.Canonical) : (btestBody a x s).Canonical := by
  dsimp only [Machine.btestBody]
  split
  · exact .trap
  · exact .go (.putBits (.consumeAph h))

theorem Answers.seamPhaseComplete {bar : Nat} : Answers s (execSeamPhaseComplete flask bar s) :=
  .next fun h => .ite (.seamPhase h) h

theorem State.Canonical.setRunner {r : Runner} (h : s.Canonical) : (s.setRunner f n r).Canonical := .setFlask h

theorem State.Canonical.popped {p : PopReq} {hd : Word} (h : s.Canonical) : (s.popped f p hd).Canonical :=
  .ite (.raiseView (.repair (.setSquad h))) (.repair (.setSquad h))

theorem State.Canonical.servePops {fuel : Nat} (h : s.Canonical) : (State.servePops f n fuel s).Canonical := by
  induction fuel generalizing s with
  | zero => exact h
  | succ fuel ih =>
    unfold State.servePops
    dsimp only
    split
    · refine .ite h ?_
      split
      · exact .ruinBlock h
      · exact ih (.popped (.setRunner h))
    · exact h

theorem Answers.rinit {a : Args SMod} : Answers s (execRinit a s) := by
  dsimp only [Machine.execRinit]
  refine .issue fun _ _ h => .ite .trap (.ite .trap ?_)
  split
  · exact .trap
  · exact .ite .trap (.ite .trap (.go (.setRunner h)))

theorem State.Canonical.pushHandle {hd : Word} (h : s.Canonical) : (s.pushHandle x n hd).Canonical :=
  .servePops (.setRunner (.repair (.poolWrite h)))

theorem Answers.push {a : Args SMod} : Answers s (execPush a s) := by
  dsimp only [Machine.execPush]
  refine .issue fun _ _ h => ?_
  split
  · exact .trap
  · exact .ite (.hold (.setRunner h)) (.go (.pushHandle h))

theorem State.Canonical.askPop {d : Opnd} (h : s.Canonical) : (s.askPop x n d).Canonical :=
  .servePops (.setRunner (.setSquad h))

theorem Answers.pop {a : Args SMod} : Answers s (execPop a s) := by
  dsimp only [Machine.execPop]
  refine .issue fun _ _ h => ?_
  split
  · exact .trap
  · exact .go (.askPop h)

theorem Result.Canonical.drainBody {pkg : Bool} (h : s.Canonical) : (drainBody pkg x s).Canonical := by
  dsimp only [Machine.drainBody]
  split
  · exact .ite (.go (.ite (.raiseView (.setSquad h)) (.setSquad h))) (.hold h)
  · exact .hold (.setSquad h)

theorem State.Canonical.watchDrains (h : s.Canonical) : s.watchDrains.Canonical := .ite h (.update h)

theorem Answers.drainComplete {squad : Nat} : Answers s (execDrainComplete squad s) := by
  dsimp only [Machine.execDrainComplete]
  refine .next fun h => ?_
  split
  · split
    · exact .ite (.setSquad h) h
    · exact h
  · exact h

/-! ## The matrix engine -/

theorem State.Canonical.tileWrite {t o : Nat} (h : s.Canonical) : (s.tileWrite bid t o bytes).Canonical :=
  State.wf_tileWrite _ _ _ _ h

theorem State.Canonical.accPut {a : Nat} {cells : List (Nat × Nat)} {f : Nat → Nat → Word} (h : s.Canonical) :
    (s.accPut bid a cells f).Canonical := State.wf_accPut _ _ _ _ h

theorem State.Canonical.matPush {op : MatOp} {prog : Option Nat} {by' : Option (Nat × Nat)} (h : s.Canonical) :
    (s.matPush bid op prog by').Canonical :=
  .setCore h

theorem Result.Canonical.matIssue {chk : MatChk} (h : s.Canonical) : (matIssue x s chk).Canonical := by
  dsimp only [Machine.matIssue]
  refine .ite (.hold h) ?_
  split
  · exact .trap
  · exact .ite (.wait h) (.go (.matPush h))

theorem State.Canonical.storeRows {rows : List (List Byte)} (h : s.Canonical) :
    (s.storeRows bid addr pitch len skew rows).Canonical :=
  .foldl h fun _ _ h1 => .repair (.poolWrite h1)

theorem State.Canonical.storeTransfer {reads : Unit → List (Nat × Nat)} {rows : List (List Byte)} (h : s.Canonical) :
    (s.storeTransfer bid addr pitch len skew reads rows).Canonical := by
  dsimp only [State.storeTransfer]
  split
  · exact .consume h
  · exact .storeRows h

theorem State.Canonical.runTld {t : Nat} (h : s.Canonical) : (s.runTld bid t addr pitch skew w).Canonical := by
  dsimp only [State.runTld]
  split
  · exact .consume h
  · exact .repair (.tileWrite h)

theorem State.Canonical.runTst {t : Nat} (h : s.Canonical) : (s.runTst bid t addr pitch skew w).Canonical :=
  .storeTransfer h

theorem State.Canonical.runAccst {a : Nat} {f : Fmt} (h : s.Canonical) :
    (s.runAccst bid a addr pitch skew f).Canonical := by
  unfold State.runAccst
  exact .storeTransfer h

theorem State.Canonical.runTzero {t : Nat} (h : s.Canonical) : (s.runTzero bid t).Canonical :=
  .updateTiles h (wf_dropRange _ _)

theorem State.Canonical.runMma {acc ta tb : Nat} {f : Fmt} {trb : Bool} {sa sb : Word} {scales : Option
    (List Word × Nat × Nat)} (h : s.Canonical) :
    (s.runMma bid acc ta tb f trb sa sb scales).Canonical := by
  dsimp only [State.runMma]
  split
  · exact .consume h
  · exact .accPut h

theorem State.Canonical.runAccz {a : Nat} (h : s.Canonical) : (s.runAccz bid a).Canonical := .updateAccs h

theorem State.Canonical.runAccmul {a : Nat} {factor : Word} (h : s.Canonical) :
    (s.runAccmul bid a factor).Canonical := by
  dsimp only [State.runAccmul]
  split
  · exact .consume h
  · exact .accPut h

theorem State.Canonical.runAccrd {a row reg : Nat} (h : s.Canonical) :
    (s.runAccrd bid a row sq reg lanes).Canonical := by
  dsimp only [State.runAccrd]
  split
  · exact .consume h
  · exact .repair (.setSquad h)

theorem State.Canonical.runAccwr {a row : Nat} {vals : List Word} (h : s.Canonical) :
    (s.runAccwr bid a row lanes vals).Canonical :=
  .repair (.accPut h)

theorem State.Canonical.runAccdecl {a : Nat} {recompute : Bool} (h : s.Canonical) :
    (s.runAccdecl bid a recompute).Canonical :=
  .setBlock h

theorem State.Canonical.runMat {x : MatOp} (h : s.Canonical) : (s.runMat bid x).Canonical := by
  dsimp only [State.runMat]
  split
  · exact .runTld h
  · exact .runTst h
  · exact .runTzero h
  · exact .runMma h
  · exact .runAccz h
  · exact .runAccmul h
  · exact .runAccrd h
  · exact .runAccwr h
  · exact .runAccst h
  · exact .runAccdecl h

theorem State.Canonical.noteTile {m : MatCmd} (h : s.Canonical) : (s.noteTile m).Canonical := by
  dsimp only [State.noteTile]
  split
  · exact .ite (.setSquad h) h
  · exact h

theorem Answers.matrixCommandExecute : Answers s (execMatrixCommandExecute core s) := by
  dsimp only [Machine.execMatrixCommandExecute]
  refine .next fun h => ?_
  split
  · exact .runMat (.noteTile (.setCore h))
  · exact h

/-! ## The copy engine -/

theorem State.Canonical.enterChain {id : Nat} (h : s.Canonical) : (s.enterChain id c).1.Canonical := by
  dsimp only [State.enterChain]
  split
  · exact h
  · exact .update (.setCore h)

theorem State.Canonical.copyEnter (h : s.Canonical) : (s.copyEnter c).Canonical :=
  .ite (.sideEffect (.tagBegin (.setCore (.enterChain (.bump h))))) (.tagBegin (.setCore (.enterChain (.bump h))))

theorem Result.Canonical.copyIssue {kind : CopyKind} {a : Args CMod} (h : s.Canonical) :
    (copyIssue kind a x s).Canonical := by
  dsimp only [Machine.copyIssue]
  refine .ite (.hold h) ?_
  split
  · exact .trap
  · exact .wait h
  · exact .dead (.consume h)
  · exact .ite (.dead (.endReplay h)) (.go (.copyEnter h))

theorem Answers.cpyl {a : Args CMod} : Answers s (execCpyl a s) := by
  dsimp only [Machine.execCpyl]
  refine .issue fun _ _ h => .ite (.hold h) ?_
  split
  · exact .trap
  · exact .go (.copyEnter h)

theorem State.Canonical.copyHome (h : s.Canonical) : (s.copyHome c store r va pa).1.Canonical :=
  .ite (.ite (.rdcFill (.runPieces (.recallNow h) (fun _ _ => .homePiece)))
    (.runPieces (.recallNow h) (fun _ _ => .homePiece))) (.rdcPass
    (.runPieces (.recallNow h) (fun _ _ => .homePiece)))

theorem State.Canonical.copyDevice (h : s.Canonical) : (s.copyDevice c store r va pa).1.Canonical := by
  dsimp only [State.copyDevice]
  refine .ite_on Prod.fst h ?_
  split
  · exact h
  · exact .ite_on Prod.fst h (.copyHome h)

theorem State.Canonical.copyPeer {kind : Nat} (h : s.Canonical) : (s.copyPeer c store r ep kind).1.Canonical := by
  dsimp only [State.copyPeer]
  split
  · exact h
  · exact h
  · exact .runPieces (.sendFlit h) fun _ _ => .farPiece

theorem State.Canonical.copyPiece {runs : List CopyRun} (h : s.Canonical) :
    (s.copyPiece core c store runs).1.Canonical := by
  dsimp only [State.copyPiece]
  split
  · exact .pageFault (.translateLease h)
  · exact .translateLease h
  · exact .translateLease h
  · exact .translateLease h
  · split
    · exact .ite_on Prod.fst (.copyPeer (.translateLease h)) (.translateLease h)
    · exact .ite_on Prod.fst (.translateLease h) (.copyDevice (.translateLease h))
    · exact .ite_on Prod.fst (.translateLease h) (.runPieces (.translateLease h) (fun _ _ => .farPiece))

theorem State.Canonical.copyReads {reads : List (Nat × Nat)} {got : Table Byte} (h : s.Canonical) :
    (s.copyReads core c reads got).1.Canonical := by
  induction reads generalizing s got with
  | nil => exact h
  | cons e r ih =>
    unfold State.copyReads
    split
    · rename_i t _ e
      exact ih (.of_fst e (.copyPiece h))
    · rename_i t _ _ e
      exact .of_fst e (.copyPiece h)

theorem State.Canonical.setCopy {id : Nat} (h : s.Canonical) : (s.setCopy core id c).Canonical := .ite (.setCore h) h

theorem State.Canonical.landPart {p : RowPart} (h : s.Canonical) : (s.landPart c p bytes).Canonical :=
  .foldl h fun _ _ h1 => .ite (.tileWrite h1) (.poolWrite h1)

theorem State.Canonical.countLanded (h : s.Canonical) : (s.countLanded c n).Canonical :=
  .ite (.foldl h (fun _ _ => .countBytes)) h

theorem State.Canonical.copyStop {id : Nat} {x : CopyOut} (h : s.Canonical) : (s.copyStop core id c x).Canonical := by
  dsimp only [State.copyStop]
  split
  · exact .setCopy h
  · exact .setCopy h
  · exact .consumeSub h
  · exact h

theorem State.Canonical.landParts {ps : List RowPart} {rd : Nat → Byte} (h : s.Canonical) :
    (s.landParts c ps rd).Canonical :=
  .repair (.foldl h (fun _ _ => .landPart))

theorem State.Canonical.landGranule {id u : Nat} (h : s.Canonical) : (s.landGranule core id c u).Canonical := by
  dsimp only [State.landGranule]
  split
  · exact h
  · rename_i t _ _ e
    have h1 : t.Canonical := .of_fst e (.copyReads h)
    split
    · exact .consume h1
    · exact .countLanded (.setCopy (.landParts h1))
  · rename_i e
    exact .copyStop (.of_fst e (.copyReads h))

theorem State.Canonical.writeGranule {id u : Nat} (h : s.Canonical) : (s.writeGranule core id c u).Canonical := by
  dsimp only [State.writeGranule]
  split
  · exact .consume h
  · split
    · exact h
    · rename_i e
      exact .setCopy (.sign (.of_fst e (.copyPiece h)))
    · rename_i e
      exact .copyStop (.of_fst e (.copyPiece h))

theorem Answers.copyStart : Answers s (execCopyStart core que s) := by
  dsimp only [Machine.execCopyStart]
  refine .next fun h => .ite h ?_
  split
  · exact .setCore h
  · exact h

theorem Answers.copyLanding {cmd : Nat} : Answers s (execCopyLanding core cmd n s) := by
  dsimp only [Machine.execCopyLanding]
  refine .next fun h => ?_
  split
  · exact h
  · exact .ite h (.ite (.landGranule h) (.writeGranule h))

theorem State.Canonical.chainDone {id : Nat} (h : s.Canonical) : (s.chainDone id c).Canonical := .ite h (.update h)

theorem State.Canonical.closeChain {id : Nat} (h : s.Canonical) : (s.closeChain id c).1.Canonical := by
  dsimp only [State.closeChain]
  refine .ite_on Prod.fst h (.ite_on Prod.fst (.update h) (.ite ?_ (.update h)))
  split
  · exact .repair (.poolWrite (.update h))
  · exact .update h

theorem State.Canonical.finishCopy {id : Nat} (h : s.Canonical) : (s.finishCopy core id c).Canonical := by
  dsimp only [State.finishCopy]
  refine .tagEnd ?_
  split
  · exact .ite (.matPush (.setCore (.closeChain (.chainDone (.ite (.countLanded h) h)))))
      (.setCore (.closeChain (.chainDone (.ite (.countLanded h) h))))
  · exact .setCore (.closeChain (.chainDone (.ite (.countLanded h) h)))

theorem Answers.copyComplete {cmd : Nat} : Answers s (execCopyComplete core cmd s) := by
  dsimp only [Machine.execCopyComplete]
  refine .next fun h => ?_
  split
  · exact h
  · exact .ite h (.finishCopy h)

theorem Result.Canonical.twaitBody {all : Bool} {d a : Opnd} (h : s.Canonical) :
    (twaitBody all d a x s).Canonical := by
  dsimp only [Machine.twaitBody]
  refine .ite .trap ?_
  split
  · exact .trap
  · split
    · exact .trap
    · exact .ite (.go (.put h)) (.wait h)

theorem Answers.tfind {a : Args Unit} : Answers s (execTfind a s) := by
  dsimp only [Machine.execTfind]
  refine .issue fun _ _ h => ?_
  split
  · exact .trap
  · exact .go (.put1 h)

theorem State.Canonical.cancelCopy {id : Nat} (h : s.Canonical) : (s.cancelCopy core id).Canonical := by
  dsimp only [State.cancelCopy]
  split
  · exact h
  · exact .ite (.setCopy h) (.finishCopy h)

theorem State.Canonical.clearTag (h : s.Canonical) : (s.clearTag bid n).Canonical := by
  dsimp only [State.clearTag]
  split
  · exact h
  · exact .setTag h
  · exact .foldl (.ite h (.setTag h)) fun _ _ => .cancelCopy

theorem Answers.tclr {a : Args Unit} : Answers s (execTclr a s) := by
  dsimp only [Machine.execTclr]
  refine .issue fun _ _ h => ?_
  split
  · exact .trap
  · exact .go (.foldl h (fun _ _ => .clearTag))

/-! ## Engine programs -/

theorem State.Canonical.programAt {declined : Nat → Bool} {pc : Nat} (h : s.Canonical) :
    (s.programAt bid declined pc n).1.Canonical := by
  induction n generalizing s pc with
  | zero => exact h
  | succ n ih =>
    unfold State.programAt
    split
    · rename_i e
      exact .of_fst e (.fetchWord h)
    · rename_i e
      exact .of_fst e (.fetchWord h)
    · rename_i e
      exact ih (.of_fst e (.fetchWord h))
    · rename_i e
      exact .ite_on Prod.fst (ih (.of_fst e (.fetchWord h))) (.of_fst e (.fetchWord h))
    · rename_i t _ e
      have ht : t.Canonical := .of_fst e (.fetchWord h)
      split
      · rename_i e'
        exact .of_fst e' (ih ht)
      · exact ih ht

theorem State.Canonical.forked {imm : Word} (h : s.Canonical) : (s.forked x eng imm).Canonical :=
  .update (.bump (.setSquad h))

theorem Result.Canonical.forkOn {imm : Word} {is : List Instr} (h : s.Canonical) :
    (s.forkOn x eng imm is).Canonical := by
  dsimp only [State.forkOn]
  refine .ite (.wait h) ?_
  split
  · exact .trap
  · exact .ite .trap (.ite (.hold h) (.go (.forked h)))

theorem Result.Canonical.forkBody {imm : Word} (h : s.Canonical) : (forkBody eng imm x s).Canonical := by
  dsimp only [Machine.forkBody]
  refine .ite .trap ?_
  split
  · rename_i e
    exact .forkOn (.of_fst e (.programAt h))
  · rename_i e
    exact .mem (.pageFault (.of_fst e (.programAt h)))
  · rename_i e
    exact .dead (.consume (.of_fst e (.programAt h)))
  · exact .wait h

theorem Result.Canonical.rdvBody (h : s.Canonical) : (rdvBody eng x s).Canonical := by
  dsimp only [Machine.rdvBody]
  split
  · exact .trap
  · refine .ite ?_ (.hold h)
    split
    · exact .after (.update (.setSquad h))
    · exact .go (.update (.setSquad h))

theorem State.Canonical.setProg {id : Nat} {p : Prog} (h : s.Canonical) : (s.setProg id p).Canonical :=
  .ite (.update h) h

theorem Answers.engineProgramStart : Answers s (execEngineProgramStart core eng s) := by
  dsimp only [Machine.execEngineProgramStart]
  refine .next fun h => ?_
  split
  · exact h
  · split
    · exact .setProg h
    · exact h

theorem Answers.engineProgramEnd : Answers s (execEngineProgramEnd core eng s) := by
  dsimp only [Machine.execEngineProgramEnd]
  refine .next fun h => ?_
  split
  · exact .ite (.setProg h) h
  · exact h

theorem State.Canonical.seqMatrix {id : Nat} {p : Prog} {i : Instr} (h : s.Canonical) :
    (s.seqMatrix id p i).Canonical := by
  dsimp only [State.seqMatrix]
  split
  · exact .setProg h
  · exact .setProg h
  · exact .ite h (.matPush (.setProg h))

theorem State.Canonical.seqCopy {id : Nat} {p : Prog} {i : Instr} (h : s.Canonical) :
    (s.seqCopy id p i).Canonical := by
  dsimp only [State.seqCopy]
  split
  · exact .setProg h
  · refine .ite h ?_
    split
    · exact .setProg h
    · exact h
    · exact .consume h
    · exact .ite (.endReplay h) (.copyEnter (.setProg h))

theorem State.Canonical.sequence (h : s.Canonical) : (s.sequence core eng).Canonical := by
  dsimp only [State.sequence]
  split
  · exact h
  · refine .ite h ?_
    split
    · rename_i e
      exact .setProg (.pageFault (.of_fst e (.fetchWord h)))
    · rename_i e
      exact .setProg (.of_fst e (.fetchWord h))
    · rename_i e
      exact .consume (.of_fst e (.fetchWord h))
    · rename_i e
      exact .of_fst e (.fetchWord h)
    · rename_i t _ e
      have h1 : t.Canonical := .of_fst e (.fetchWord h)
      split
      · exact .setProg h1
      · refine .ite (.setProg h1) ?_
        split
        · exact .seqMatrix h1
        · exact .seqCopy h1

/-! ## Recovery -/

theorem State.Canonical.withoutDamage {which : Nat × Nat → Bool} (h : s.Canonical) :
    (s.withoutDamage which).Canonical :=
  .update h

theorem State.Canonical.ruinContext (h : s.Canonical) : (s.ruinContext tag struct key).Canonical :=
  .ite (.record (.endContext (.withoutDamage h))) h

theorem State.Canonical.deviceReset (h : s.Canonical) : (s.deviceReset die).Canonical := by
  obtain ⟨-, -, -, hhost, hpeer⟩ := (Memories.wf_iff _).mp h
  exact .record ((Memories.wf_iff _).mpr ⟨rfl, rfl, rfl, hhost, hpeer⟩)

theorem State.Canonical.quiesce (h : s.Canonical) : (s.quiesce die).Canonical :=
  .ite (.foldl (.setDie (.record h)) (fun _ _ => .killFlask)) (.deviceReset h)

theorem Answers.seamFence : Answers s (execSeamFence die s) := .next fun h => .ite (.setDie h) h
theorem State.Canonical.loseCopies (h : s.Canonical) : (s.loseCopies die).Canonical := .update h

theorem State.Canonical.loseLine {e : Nat × List Byte} (h : s.Canonical) : (s.loseLine e).Canonical :=
  .ruinContext (.updateDev (.cleaned (.withoutDamage h)) (Memory.wf_writeBytes _ _))

theorem Answers.quiesceDeadline : Answers s (execQuiesceDeadline die s) :=
  .next fun h => .ite (.foldl (.update (.loseCopies (.setDie h))) (fun _ _ => .loseLine)) h

theorem State.Canonical.resetDie (h : s.Canonical) : (s.resetDie die).Canonical :=
  .update (.setDie (.withoutDamage h))

theorem State.Canonical.clearCaches (h : s.Canonical) : s.clearCaches.Canonical := .foldl h fun _ _ => .setDie

theorem Answers.dieRejoin : Answers s (execDieRejoin die s) := by
  dsimp only [Machine.execDieRejoin]
  refine .next fun h => ?_
  split
  · exact .resetDie h
  · exact .ite (.deviceReset h) (.setDie (.clearCaches (.raiseDgen h)))
  · exact .ite h (.irq (.setDie h))
  · exact h

theorem Answers.remoteDataCacheClearEnd : Answers s (execRemoteDataCacheClearEnd s) :=
  .next fun h => .foldl h fun _ _ h1 => .ite (.setDie h1) h1

theorem State.Canonical.breakUnit (h : s.Canonical) : (s.breakUnit struct addr).Canonical := .ite h (.update h)

theorem State.Canonical.loseMemo {k : Nat} (h : s.Canonical) : (s.loseMemo core k).Canonical := by
  dsimp only [State.loseMemo]
  split
  · exact h
  · exact .record (.update h)

theorem State.Canonical.losePeerMemo {k : Nat} (h : s.Canonical) : (s.losePeerMemo k).Canonical := by
  dsimp only [State.losePeerMemo]
  split
  · exact h
  · exact .record (.update h)

theorem State.Canonical.loseEntry {k : Nat} (h : s.Canonical) : (s.loseEntry core k).Canonical :=
  .corrected (.ite (.update h) (.setCore h))

theorem State.Canonical.loseBack {id : Nat} {b : WriteBack} (h : s.Canonical) : (s.loseBack id b).Canonical :=
  .ite (.defer (.sideEffect (.record (.disown (.update h))))) (.record (.disown (.update h)))

theorem State.Canonical.loseMessage {id : Nat} (h : s.Canonical) : (s.loseMessage id).Canonical := by
  dsimp only [State.loseMessage]
  split
  · exact .record (.setReq h)
  · exact .loseBack h
  · split
    · exact .record (.setCopy h)
    · exact h

theorem State.Canonical.detectUnit (h : s.Canonical) : (s.detectUnit struct addr).Canonical := by
  dsimp only [State.detectUnit]
  refine .ite (.ite (.consume h) h) ?_
  split
  · exact .record (.breakUnit h)
  · exact .record (.breakUnit h)
  · exact .corrected (.setDie h)
  · exact .loseEntry h
  · exact .ruinContext h
  · exact .ite (.losePeerMemo h) (.loseMemo h)
  · exact .loseMessage h
  · exact .ruinContext h
  · exact .ruinContext h
  · exact .ruinContext h
  · exact .ruinContext h
  · exact .readRecord (.breakUnit h)
  · exact .quiesce h
  · exact .deviceReset h
  · exact h

theorem Answers.scrubRead : Answers s (execScrubRead die s) :=
  .next fun h => .ite h (.correctRead (.foldl (.setDie h) (fun _ _ => .record)))

theorem Answers.scrubWriteback : Answers s (execScrubWriteback die s) := by
  dsimp only [Machine.execScrubWriteback]
  refine .next fun h => ?_
  split
  · exact h
  · exact .repair (.setDie h)

theorem State.Canonical.startAudit {r : AuditRun} {x : Slots} (h : s.Canonical) :
    (s.startAudit flask r x).Canonical :=
  .ite (.resumeFlask (.readRecord h)) (.startFlask (.readRecord h))

theorem Answers.fettlerReplayStart : Answers s (execFettlerReplayStart flask s) := by
  dsimp only [Machine.execFettlerReplayStart]
  refine .next fun h => ?_
  split
  · exact h
  · refine .ite h ?_
    split
    · exact h
    · exact .startAudit h

theorem Answers.fettlerSkip : Answers s (execFettlerSkip flask s) := by
  dsimp only [Machine.execFettlerSkip]
  refine .next fun h => ?_
  split
  · exact h
  · exact .ite (.update (.endAudit h)) h

theorem State.Canonical.retireCore (h : s.Canonical) : (s.retireCore core).Canonical :=
  .ite h (.irq (.update (.setCore h)))

theorem State.Canonical.verdict {a b c : Flask} {k : Nat} (h : s.Canonical) : (s.verdict a b c k).Canonical :=
  .ite (.retireCore h) (.ite (.record (.failPour (.retireCore h))) (.record (.failPour h)))

theorem Answers.replayEnd : Answers s (execReplayEnd flask s) :=
  .next fun h => .ite h (.ite (.ite h (.endAudit (.foldl h (fun _ _ => .verdict))))
    (.ite (.endAudit h) (.setFlask h)))

/-! ## The fabric -/

theorem State.Canonical.translateIngress (h : s.Canonical) : (s.translateIngress tag va).1.Canonical := by
  dsimp only [State.translateIngress]
  split
  · exact .update h
  · split
    · exact .update (.walked h)
    · exact .walked h

theorem State.Canonical.admitParts {r : PeerReq} {parts : List (Nat × Nat)} (h : s.Canonical) :
    (s.admitParts r parts).1.Canonical := by
  induction parts generalizing s with
  | nil => exact h
  | cons p rest ih =>
    unfold State.admitParts
    dsimp only
    have ht : (s.translateIngress r.ptag p.1).1.Canonical := .translateIngress h
    split
    · exact .pageFault ht
    · exact ht
    · exact ht
    · exact ht
    · exact ht
    · split
      · rename_i e
        exact .of_fst e (ih ht)
      · exact ih ht

theorem State.Canonical.peerLine {q : Req} (h : s.Canonical) : (s.peerLine q).1.Canonical := by
  dsimp only [State.peerLine]
  split
  · exact .homePiece (.recallNow h)
  · exact .farPiece h

theorem State.Canonical.peerPerform {r : PeerReq} {es : List (Target × Nat × Nat × Nat)} (h : s.Canonical) :
    (s.peerPerform r es).1.Canonical := by
  dsimp only [State.peerPerform]
  refine .foldl_on Prod.fst h fun _ _ h1 => ?_
  split
  · rename_i e
    exact .of_fst e (.peerLine h1)
  · rename_i e
    exact .of_fst e (.peerLine h1)

theorem State.Canonical.countSprue {r : PeerReq} (h : s.Canonical) : (s.countSprue r).Canonical := by
  dsimp only [State.countSprue]
  split
  · split
    · exact .setSprue h
    · exact h
  · exact h

theorem State.Canonical.keepPeerMemo {r : PeerReq} {bs : List Byte} (h : s.Canonical) :
    (s.keepPeerMemo r bs).Canonical :=
  .update h

theorem State.Canonical.atLines {r : PeerReq} {es : List (Target × Nat × Nat × Nat)} {admitted : State → State}
    (h : s.Canonical) (hadmitted : ∀ s, s.Canonical → (admitted s).Canonical) :
    (s.atLines r es admitted).1.Canonical := by
  dsimp only [State.atLines]
  split
  · exact .deadRead h
  · exact h
  · exact .ite_on Prod.fst h (.ite (.keepPeerMemo (.peerPerform (hadmitted _ h))) (.peerPerform (hadmitted _ h)))

theorem State.Canonical.ingressLines {r : PeerReq} {es : List (Target × Nat × Nat × Nat)} (h : s.Canonical) :
    (s.ingressLines r es).1.Canonical :=
  .ite_on Prod.fst h (.atLines h (fun _ => .countSprue))

theorem State.Canonical.ingressOne {r : PeerReq} (h : s.Canonical) : (s.ingressOne r).1.Canonical := by
  dsimp only [State.ingressOne]
  refine .ite_on Prod.fst h ?_
  split
  · exact h
  · refine .ite_on Prod.fst h ?_
    split
    · exact h
    · exact h
    · split
      · rename_i e
        exact .of_fst e (.admitParts h)
      · rename_i e
        exact .of_fst e (.admitParts h)
      · rename_i e
        exact .ingressLines (.of_fst e (.admitParts h))

theorem State.Canonical.answered {src : Nat} {a : PeerAnswer} (h : s.Canonical) : (s.answered src a).Canonical := by
  dsimp only [State.answered]
  split
  · exact .sendFlit (.update h)
  · exact .update h

theorem Answers.fabricIngressRequest {req : PeerReq} : Answers s (execFabricIngressRequest req s) := by
  dsimp only [Machine.execFabricIngressRequest]
  refine .next fun h => .ite (.update h) ?_
  split
  · rename_i e
    exact .answered (.of_fst e (.ingressOne h))
  · rename_i e
    exact .update (.of_fst e (.ingressOne h))

theorem State.Canonical.presentHeld (h : s.Canonical) : s.presentHeld.Canonical := by
  dsimp only [State.presentHeld]
  refine .ite h (.update (.foldl_on Prod.fst h (fun _ _ h1 => .ite_on Prod.fst h1 ?_)))
  split
  · rename_i e
    exact .answered (.of_fst e (.ingressOne h1))
  · rename_i e
    exact .of_fst e (.ingressOne h1)

theorem State.Canonical.abortHeld {which : HeldReq → Bool} (h : s.Canonical) : (s.abortHeld which).Canonical :=
  .foldl (.update h) fun _ _ => .answered

theorem Answers.memoEntryAged {peer idx : Nat} : Answers s (execMemoEntryAged peer idx s) := by
  dsimp only [Machine.execMemoEntryAged]
  refine .next fun h => ?_
  split
  · exact .ite (.update h) h
  · exact h

theorem State.Canonical.linkUp {l : Nat} (h : s.Canonical) : (s.linkUp l).Canonical := .ite (.setLink h) h
theorem State.Canonical.linkAck {l : Nat} (h : s.Canonical) : (s.linkAck l n).Canonical := .ite (.setLink h) h
theorem Answers.uCapRelease {port : Nat} : Answers s (execUCapRelease port s) := .next .setLink

theorem Answers.keyRolloverDue : Answers s (execKeyRolloverDue link s) := by
  dsimp only [Machine.execKeyRolloverDue]
  refine .next fun h => ?_
  split
  · exact .ite (.setLink h) h
  · exact h

theorem Answers.keyReady : Answers s (execKeyReady link s) := by
  dsimp only [Machine.execKeyReady]
  refine .next fun h => ?_
  split
  · exact .setLink h
  · exact h

theorem Answers.replayDrained : Answers s (execReplayDrained link s) := by
  dsimp only [Machine.execReplayDrained]
  refine .next fun h => ?_
  split
  · exact .ite h (.setLink h)
  · exact h

theorem Answers.retireKey : Answers s (execRetireKey link s) := by
  dsimp only [Machine.execRetireKey]
  refine .next fun h => ?_
  split
  · exact .setLink h
  · exact h

theorem State.Canonical.retrain {l : Nat} (h : s.Canonical) : (s.retrain l).Canonical := .ite (.setLink h) h
theorem Answers.linkRetrained : Answers s (execLinkRetrained link s) := .next fun h => .ite (.setLink h) h

theorem State.Canonical.logLoss {e : (Nat × Nat × Nat) × Nat} (h : s.Canonical) : (s.logLoss e).Canonical :=
  .irq (.update h)

theorem State.Canonical.failLink {l : Nat} {ph : LinkPhase} (h : s.Canonical) : (s.failLink l ph).Canonical :=
  .update (.setLink (.foldl (.update h) (fun _ _ => .logLoss)))

theorem Answers.retrainTimeout : Answers s (execRetrainTimeout link s) := .next fun h => .ite (.failLink h) h

/-! ## The host interface -/

theorem State.Canonical.setRegs {r : Regs} (h : s.Canonical) : (s.setRegs r).Canonical := .update h
theorem Answers.fabcfgWrite {val : DWord} : Answers s (execFabcfgWrite val s) := .next fun h => .ite h (.setRegs h)
theorem State.Canonical.resized {new : Nat} (h : s.Canonical) : (s.resized die new).Canonical := .ite h (.setDie h)

theorem Answers.memcfgWrite {val : DWord} : Answers s (execMemcfgWrite val s) :=
  .next fun h => .ite (.setRegs (.update (.resized (.resized h)))) h

theorem Answers.linkcfgWrite {val : DWord} : Answers s (execLinkcfgWrite val s) := .next fun h => .ite (.setRegs h) h
theorem Answers.contcfgWrite {val : DWord} : Answers s (execContcfgWrite val s) := .next fun h => .ite h (.setRegs h)

theorem Answers.launchQueueConfigWrite {queue : Nat} {val : BitVec 512} :
    Answers s (execLaunchQueueConfigWrite tenant queue val s) :=
  .next fun h => .ite h (.setTenant h)

theorem Answers.tenantWordWrite {val : DWord} : Answers s (execTenantWordWrite tenant val s) :=
  .next fun h => .ite h (.setTenant h)

theorem Answers.contextEntryWrite {val : BitVec 128} : Answers s (execContextEntryWrite tag val s) :=
  .next fun h => .ite h (.ite (.setContext (.clearTlbs h)) (.setContext (.ite (.endContext h) h)))

theorem Answers.contextKeyLoaded : Answers s (execContextKeyLoaded tag s) := .next fun h => .ite (.setContext h) h

theorem OptCanonical.ring {queue : Nat} {desc tail : DWord} (h : s.Canonical) :
    OptCanonical Prod.fst (s.ring tenant queue desc tail) :=
  .ite (.some h) (.ite (.some h) (.launchAt h))

theorem State.Canonical.hostPart {k : AccKind} (h : s.Canonical) : (s.hostPart tag k va n).1.Canonical := by
  dsimp only [State.hostPart]
  split
  · split
    · exact .walked h
    · exact h
    · exact .ite_on Prod.fst h (.walked h)
  · exact .walked h
  · exact h
  · exact .walked h

theorem State.Canonical.hostParts {k : AccKind} {parts : List (Nat × Nat)} (h : s.Canonical) :
    (s.hostParts tag k parts).1.Canonical := by
  induction parts generalizing s with
  | nil => exact h
  | cons p rest ih =>
    unfold State.hostParts
    split
    · rename_i t _ e
      have ht : t.Canonical := .of_fst e (.hostPart h)
      split
      · rename_i e'
        exact .of_fst e' (ih ht)
      · exact ih ht
    · exact .hostPart h

theorem State.Canonical.hostFlits {k : AccKind} {ps : List (Target × Nat × Nat)} (h : s.Canonical) :
    (s.hostFlits k ps).Canonical := by
  dsimp only [State.hostFlits]
  refine .foldl h fun _ _ h1 => ?_
  split
  · split
    · exact .sendFlit h1
    · exact h1
  · exact h1

theorem State.Canonical.hostAccess {op : PeerOp} (h : s.Canonical) : (s.hostAccess tag va op).1.Canonical := by
  dsimp only [State.hostAccess]
  refine .ite_on Prod.fst h ?_
  split
  · rename_i e
    exact .of_fst e (.hostParts h)
  · rename_i e
    exact .of_fst e (.hostParts h)
  · rename_i e
    exact .atLines (.of_fst e (.hostParts h)) fun _ => .hostFlits

theorem State.Canonical.hostReturns {bs : List Byte} (h : s.Canonical) : (s.hostReturns bs).Canonical := .update h

theorem State.Canonical.bar2Answer {write : Option (List Byte)} {a : PeerAnswer} (h : s.Canonical) :
    (s.bar2Answer write len a).Canonical := by
  dsimp only [State.bar2Answer]
  split
  · exact h
  · exact .hostReturns h
  · exact .hostReturns h

theorem State.Canonical.throughAperture {aperture : Nat} {write : Option (List Byte)} (h : s.Canonical) :
    (s.throughAperture tenant aperture ofs write len).1.Canonical :=
  .ite_on Prod.fst (.hostAccess h) h

theorem OptCanonical.armRequest {desc tail : DWord} (h : s.Canonical) :
    OptCanonical Prod.fst (s.armRequest tenant desc tail) := by
  dsimp only [State.armRequest]
  refine .ite (.some h) (.ite (.some h) ?_)
  split
  · exact .none
  · exact .some (.armSprue (.readsMade h))
  · exact .some (.deadRead (.readsMade h))
  · exact .some (.readsMade h)

theorem OptCanonical.hostTry {r : HostReq} (h : s.Canonical) : OptCanonical id (s.hostTry r) := by
  unfold State.hostTry
  split
  · split
    · rename_i e
      exact .some (.bar2Answer (.of_fst e (.throughAperture h)))
    · exact .none
  · exact .map (.ring h) fun _ h => .setTenant h
  · exact .map (.armRequest h) fun _ h => .setTenant h

theorem State.Canonical.hostAccept {r : HostReq} (h : s.Canonical) : (s.hostAccept r).Canonical :=
  .ite (.update h) (OptCanonical.getD (.hostTry h) (.update h))

theorem State.Canonical.presentHost (h : s.Canonical) : s.presentHost.Canonical :=
  .ite h (.foldl (.update h) (fun _ _ => .hostAccept))

theorem Answers.doorbell {queue : Nat} {desc tail : DWord} : Answers s (execDoorbell tenant queue desc tail s) :=
  .next fun h => .ite h (.hostAccept h)

theorem Answers.bar2Access {write : Option (List Byte)} : Answers s (execBar2Access tenant ofs write len s) :=
  .next fun h => .ite (.bar2Answer h) (.ite (.bar2Answer h) (.ite (.hostAccept h) (.bar2Answer h)))

theorem State.Canonical.sendFrame (h : s.Canonical) : (s.sendFrame frame).Canonical := .foldl h fun _ _ => .sendLines

theorem State.Canonical.startMigration (h : s.Canonical) : (s.startMigration tag va frame).1.Canonical := by
  dsimp only [State.startMigration]
  refine .ite_on Prod.fst h (.ite_on Prod.fst h ?_)
  split
  · exact .walked h
  · exact .ite_on Prod.fst (.walked h) (.raiseAsgen (.update (.sendFrame (.walked h))))

theorem State.Canonical.setMigration {m : Option Migration} (h : s.Canonical) : (s.setMigration m).Canonical :=
  .update h

theorem Answers.migrationLeaseWaitEnd : Answers s (execMigrationLeaseWaitEnd s) := by
  dsimp only [Machine.execMigrationLeaseWaitEnd]
  refine .next fun h => ?_
  split
  · exact h
  · refine .ite h ?_
    split
    · exact .update (.setMigration h)
    · exact .setMigration h
    · exact h

theorem State.Canonical.handOver {m : Migration} (h : s.Canonical) : (s.handOver m).Canonical := by
  have hm : ∀ dev : Memory, dev.wf = true →
      Memory.wf ((dev.filter fun e => e.1 / 2 ^ 16 * 2 ^ 16 == m.old).foldl
        (fun (t : Memory) e => Table.put t (m.moved e.1) e.2)
        (dev.filter fun e => e.1 / 2 ^ 16 * 2 ^ 16 != m.new)) = true :=
    fun _ hd => wf_putAll _ _ (fun e he => mem_ne_zero hd e (List.mem_filter.mp he).1) (Memory.wf_filter _ hd)
  dsimp only [State.handOver]
  refine .raiseAsgen ?_
  split
  · exact .homeWrite (.updateDev (.cleaned h) (hm _))
  · exact .updateDev (.cleaned h) (hm _)

theorem Answers.migrationHandover : Answers s (execMigrationHandover s) := by
  dsimp only [Machine.execMigrationHandover]
  refine .next fun h => ?_
  split
  · exact h
  · exact .ite h (.handOver h)

theorem State.Canonical.watchMigration (h : s.Canonical) : s.watchMigration.Canonical := by
  dsimp only [State.watchMigration]
  split
  · exact .setMigration h
  · exact h

theorem Answers.migrationForwardingEnd : Answers s (execMigrationForwardingEnd s) := by
  dsimp only [Machine.execMigrationForwardingEnd]
  refine .next fun h => ?_
  split
  · exact h
  · exact .ite h (.update (.raiseDgen h))

theorem State.Canonical.setBusy {c : Option MailCmd} (h : s.Canonical) : (s.setBusy c).Canonical := .update h

theorem State.Canonical.command {r : Nat} (h : s.Canonical) (ht : t.Canonical) : (s.command r t).Canonical :=
  .ite h (.setBusy (.ite ht h))

theorem State.Canonical.zeroFrame (h : s.Canonical) : (s.zeroFrame frame).Canonical := .update (.zeroBytes h)

theorem State.Canonical.cmdFrameOwner {entry : BitVec 16} (h : s.Canonical) :
    (s.cmdFrameOwner frame entry).Canonical :=
  .command h (.update (.ite h (.setContext (.zeroFrame h))))

theorem State.Canonical.cmdReserved {map : BitVec 240} (h : s.Canonical) : (s.cmdReserved map).Canonical :=
  .command h (.foldl h (fun _ _ h1 => .ite h1 (.setCore h1)))

theorem State.Canonical.unitRetired {slice : Option Nat} (h : s.Canonical) : (s.unitRetired slice).Canonical :=
  .irq (.setRegs h)

theorem State.Canonical.cmdRetire {kind index : Nat} (h : s.Canonical) : (s.cmdRetire kind die index).Canonical :=
  .ite (.command h (.unitRetired h)) (.command h (.unitRetired (.failLink h)))

theorem State.Canonical.holdFlask {c : MailCmd} (h : s.Canonical) : (s.holdFlask c f).Canonical :=
  .ite (.setFlask h) h

theorem State.Canonical.mailPreempt {c : MailCmd} (h : s.Canonical) : (s.mailPreempt c f).Canonical := by
  dsimp only [State.mailPreempt]
  refine .holdFlask ?_
  split
  · exact .preempt h
  · exact .beginSave h
  · exact .ite (.flush h) (.beginSave h)

theorem State.Canonical.advanceMail {c : MailCmd} (h : s.Canonical) : (s.advanceMail c).Canonical :=
  .setBusy (.foldl (.foldl h (fun _ _ => .holdFlask)) (fun _ _ => .mailPreempt))

theorem State.Canonical.watchMail (h : s.Canonical) : s.watchMail.Canonical := by
  dsimp only [State.watchMail]
  split
  · exact .ite h (.setBusy h)
  · exact h

theorem State.Canonical.cmdPreempt {pour action deadline : Nat} {hold : Bool} (h : s.Canonical) :
    (s.cmdPreempt tag pour flask action deadline hold).Canonical :=
  .ite h (.ite (.command h h) (.advanceMail h))

theorem State.Canonical.cmdMigrate (h : s.Canonical) : (s.cmdMigrate tag va frame).Canonical :=
  .ite h (.setBusy (.startMigration h))

theorem State.Canonical.cmdEndpoint {ip : BitVec 128} {valid : Bool} (h : s.Canonical) :
    (s.cmdEndpoint ep ip valid).Canonical :=
  .command h (.update h)

theorem State.Canonical.cmdRelease {pour : Nat} (h : s.Canonical) : (s.cmdRelease tag pour).Canonical :=
  .command h (.update h)

theorem State.Canonical.cmdPower {watts : Nat} (h : s.Canonical) : (s.cmdPower watts).Canonical :=
  .command h (.setRegs h)

theorem State.Canonical.goMailbox (h : s.Canonical) : s.goMailbox.Canonical := by
  dsimp only [State.goMailbox]
  split
  · exact .cmdFrameOwner h
  · exact .cmdReserved h
  · exact .cmdRetire h
  · exact .cmdPreempt h
  · exact .cmdMigrate h
  · exact .cmdEndpoint h
  · exact .cmdRelease h
  · exact .cmdPower h
  · exact .command h h

theorem Answers.mailboxDone : Answers s (execMailboxDone s) := by
  dsimp only [Machine.execMailboxDone]
  refine .next fun h => ?_
  split
  · exact h
  · split
    · exact .ite (.irq (.update (.advanceMail h))) (.advanceMail h)
    · exact .advanceMail h

theorem State.Canonical.answerFault {decline : Bool} (h : s.Canonical) :
    (s.answerFault tenant fid decline).Canonical :=
  .answerSpills (.update (.setTenant h))

theorem Answers.pfrespServe : Answers s (execPfrespServe tenant fid s) := .next fun h => .ite (.answerFault h) h

theorem Answers.pfrespDecline : Answers s (execPfrespDecline tenant fid s) :=
  .next fun h => .ite (.abortHeld (.answerFault h)) h

theorem Answers.pageFaultEnqueue : Answers s (execPageFaultEnqueue tenant s) := by
  dsimp only [Machine.execPageFaultEnqueue]
  refine .next fun h => ?_
  split
  · exact .irq (.setTenant h)
  · exact h

theorem Answers.lostClear {log : Option Nat} : Answers s (execLostClear log s) := by
  dsimp only [Machine.execLostClear]
  refine .next fun h => ?_
  split
  · exact .update h
  · exact .ite h (.update h)

theorem Answers.sparmreq {desc tail : DWord} : Answers s (execSparmreq tenant desc tail s) :=
  .next fun h => .ite (.hostAccept h) h

theorem Answers.spdis {val : DWord} : Answers s (execSpdis tenant val s) := by
  dsimp only [Machine.execSpdis]
  refine .next fun h => .ite h (.ite (.setTenant h) ?_)
  split
  · exact .ite (.setTenant (.abortHeld (.setTenant h))) (.setTenant h)
  · exact .setTenant h

theorem Answers.invalidateCompletion : Answers s (execInvalidateCompletion s) := by
  dsimp only [Machine.execInvalidateCompletion]
  refine .next fun h => ?_
  split
  · exact .update h
  · exact h

theorem State.Canonical.bootFails {step check : Nat} (h : s.Canonical) : (s.bootFails step check).Canonical :=
  .ite (.foldl (.setRegs h) (fun _ _ => .setDie)) h

theorem State.Canonical.releaseDie {d : Nat} (h : s.Canonical) : (s.releaseDie d).Canonical := .setDie (.update h)

theorem State.Canonical.bootEffect {step : Nat} (h : s.Canonical) : (s.bootEffect step).Canonical := by
  dsimp only [State.bootEffect]
  split
  · exact .releaseDie h
  · exact .releaseDie h
  · exact .update h
  · exact h

theorem Answers.boot : Answers s (execBoot s) := .next fun h => .ite h (.bootEffect (.setRegs h))
theorem Answers.clockThrottle : Answers s (execClockThrottle s) := .next fun h => .ite (.setRegs h) h
theorem Answers.clockRestore : Answers s (execClockRestore s) := .next fun h => .ite (.setRegs h) h

/-! ## Registers behind BAR0 -/

theorem State.Canonical.bar0Read {fn : Nat} (h : s.Canonical) : (s.bar0Read fn ofs len).Canonical := .hostReturns h

theorem State.Canonical.after {f : State → Host.Outcome State Fault Refusal} (h : s.Canonical) (hf : Answers s (f s)) :
    (s.after f).Canonical := by
  obtain ⟨t, e, ht⟩ := hf
  unfold State.after
  rw [e]
  exact ht h

theorem State.Canonical.setHentry {v : Nat} (h : s.Canonical) : (s.setHentry tag v).Canonical :=
  .ite h (.setContext h)

theorem State.Canonical.setCommand {cmd : BitVec 512} (h : s.Canonical) : (s.setCommand cmd).Canonical := .update h

theorem State.Canonical.setAperture {v : Nat} (h : s.Canonical) : (s.setAperture n v).Canonical :=
  .ite (.setTenant h) h

theorem State.Canonical.setPfresp {v : Nat} (h : s.Canonical) : (s.setPfresp n v).Canonical :=
  .ite h (.ite (.after h .pfrespDecline) (.after h .pfrespServe))

theorem State.Canonical.pfWrites {k : BarKind} {i v : Nat} (h : s.Canonical) : (s.pfWrites k i v).Canonical := by
  dsimp only [State.pfWrites]
  split
  · exact .after h .contcfgWrite
  · exact .after h .fabcfgWrite
  · exact .after h .memcfgWrite
  · exact .after h .linkcfgWrite
  · exact .after h .tenantWordWrite
  · exact .after h .contextEntryWrite
  · exact .setHentry h
  · exact .setCommand h
  · exact .goMailbox h
  · exact .after h .lostClear
  · exact h

theorem State.Canonical.vfWrites {k : BarKind} {i v : Nat} (h : s.Canonical) : (s.vfWrites n k i v).Canonical := by
  dsimp only [State.vfWrites]
  split
  · exact .after h .launchQueueConfigWrite
  · exact .after h .doorbell
  · exact .setAperture h
  · exact .after h .sparmreq
  · exact .after h .spdis
  · exact .after h .lostClear
  · exact .setPfresp h
  · exact h

theorem State.Canonical.regWrites {fn : Nat} {r : BarReg} (h : s.Canonical) :
    (s.regWrites fn ofs bytes r).Canonical :=
  .ite h (.ite (.pfWrites h) (.vfWrites h))

theorem State.Canonical.bar0Write {fn : Nat} (h : s.Canonical) : (s.bar0Write fn ofs bytes).Canonical :=
  .ite (.foldl h (fun _ _ => .regWrites)) h

theorem Answers.registerWrite {reg : HostReg} {val : BitVec 512} : Answers s (execRegisterWrite reg val s) := by
  dsimp only [Machine.execRegisterWrite]
  refine .next fun h => ?_
  split
  · exact .setHentry h
  · exact .setAperture h
  · exact .ite h (.setTenant h)
  · exact .ite h (.setTenant h)
  · exact .setCommand h
  · split
    · exact .ite (.pfWrites h) h
    · exact h

theorem State.Canonical.msixWrite {fn vector : Nat} {e : MsixEntry} (h : s.Canonical) :
    (s.msixWrite fn vector e).Canonical :=
  .ite h (.ite (.sendIrq (.update h)) (.update h))

theorem State.Canonical.msixRead {fn vector : Nat} (h : s.Canonical) : (s.msixRead fn vector).Canonical :=
  .hostReturns h

theorem State.Canonical.pbaRead {fn : Nat} (h : s.Canonical) : (s.pbaRead fn).Canonical := .hostReturns h

theorem State.Canonical.resizeBar2 {fn log : Nat} (h : s.Canonical) : (s.resizeBar2 fn log).Canonical :=
  .ite (.update h) h

/-! ## Every instruction and every event -/

/-- Every instruction and every event answers a next state (R3), and keeps every memory in canonical form. -/
theorem Answers.exec {i : Instr} : Answers s (exec i s) := by
  cases i with
  | nop a => exact (.issue fun _ _ => .go : Answers s (execNop a s))
  | bra a => exact (.issue fun _ _ => .jump : Answers s (execBra a s))
  | brx a => exact (.issue fun _ _ => .jump : Answers s (execBrx a s))
  | call a => exact (.issue fun _ _ h => .jump (.put h) : Answers s (execCall a s))
  | callInd a => exact (.issue fun _ _ h => .jump (.put h) : Answers s (execCallInd a s))
  | ret a => exact (.issue fun _ _ => .jump : Answers s (execRet a s))
  | meet a => exact (.issue fun _ _ h => .ite (.go (.setMeet h)) .trap : Answers s (execMeet a s))
  | meetSave a => exact (.issue fun _ _ h => .ite (.go (.setMeet (.put h))) .trap : Answers s (execMeetSave a s))
  | rejoin a => exact (.issue fun _ _ h => .placed (.rejoin h) : Answers s (execRejoin a s))
  | rejoinRest a => exact (.issue fun _ _ h => .ite (.placed (.rejoin h)) .trap : Answers s (execRejoinRest a s))
  | exit => exact .exit
  | yield a => exact (.issue fun _ _ => .go : Answers s (execYield a s))
  | voteAny a => exact (.issue fun _ _ h => .go (.putBits h) : Answers s (execVoteAny a s))
  | voteAll a => exact (.issue fun _ _ h => .go (.putBits h) : Answers s (execVoteAll a s))
  | voteMask a => exact (.issue fun _ _ h => .go (.put1 h) : Answers s (execVoteMask a s))
  | shflPick a => exact (.issue fun _ _ h => .go (.put1 h) : Answers s (execShflPick a s))
  | shflRot a => exact (.issue fun _ _ h => .go (.put1 h) : Answers s (execShflRot a s))
  | shflSlide a => exact (.issue fun _ _ h => .go (.put1 h) : Answers s (execShflSlide a s))
  | shflMir a => exact (.issue fun _ _ h => .go (.put1 h) : Answers s (execShflMir a s))
  | add a => exact (.alu2 : Answers s (execAdd a s))
  | sub a => exact (.alu2 : Answers s (execSub a s))
  | mulLo a => exact (.alu2 : Answers s (execMulLo a s))
  | mulHi a => exact (.alu2 : Answers s (execMulHi a s))
  | mad a => exact (.alu3 : Answers s (execMad a s))
  | madWide a => exact (.alu3 : Answers s (execMadWide a s))
  | div a => exact (.alu2 : Answers s (execDiv a s))
  | rem a => exact (.alu2 : Answers s (execRem a s))
  | min a => exact (.alu2 : Answers s (execMin a s))
  | max a => exact (.alu2 : Answers s (execMax a s))
  | abs a => exact (.alu1 : Answers s (execAbs a s))
  | neg a => exact (.alu1 : Answers s (execNeg a s))
  | and a => exact (.alu2 : Answers s (execAnd a s))
  | or a => exact (.alu2 : Answers s (execOr a s))
  | xor a => exact (.alu2 : Answers s (execXor a s))
  | not a => exact (.alu1 : Answers s (execNot a s))
  | shl a => exact (.alu2 : Answers s (execShl a s))
  | shr a => exact (.alu2 : Answers s (execShr a s))
  | sar a => exact (.alu2 : Answers s (execSar a s))
  | rot a => exact (.alu2 : Answers s (execRot a s))
  | clz a => exact (.alu1 : Answers s (execClz a s))
  | popc a => exact (.alu1 : Answers s (execPopc a s))
  | brev a => exact (.alu1 : Answers s (execBrev a s))
  | bfx a => exact (.alu2 : Answers s (execBfx a s))
  | bfi a => exact (.alu3 : Answers s (execBfi a s))
  | lea a => exact (.alu2 : Answers s (execLea a s))
  | setp a => exact (.flagged : Answers s (execSetp a s))
  | sel a => exact (.alu : Answers s (execSel a s))
  | plop a => exact (.flagged : Answers s (execPlop a s))
  | mov a => exact (.alu1 : Answers s (execMov a s))
  | movi a => exact (.alu : Answers s (execMovi a s))
  | dp4 a => exact (.alu3 : Answers s (execDp4 a s))
  | addImm a => exact (.alu1 : Answers s (execAddImm a s))
  | subImm a => exact (.alu1 : Answers s (execSubImm a s))
  | mulLoImm a => exact (.alu1 : Answers s (execMulLoImm a s))
  | mulHiImm a => exact (.alu1 : Answers s (execMulHiImm a s))
  | divImm a => exact (.alu1 : Answers s (execDivImm a s))
  | remImm a => exact (.alu1 : Answers s (execRemImm a s))
  | minImm a => exact (.alu1 : Answers s (execMinImm a s))
  | maxImm a => exact (.alu1 : Answers s (execMaxImm a s))
  | andImm a => exact (.alu1 : Answers s (execAndImm a s))
  | orImm a => exact (.alu1 : Answers s (execOrImm a s))
  | xorImm a => exact (.alu1 : Answers s (execXorImm a s))
  | shlImm a => exact (.alu1 : Answers s (execShlImm a s))
  | shrImm a => exact (.alu1 : Answers s (execShrImm a s))
  | sarImm a => exact (.alu1 : Answers s (execSarImm a s))
  | rotImm a => exact (.alu1 : Answers s (execRotImm a s))
  | leaImm a => exact (.alu1 : Answers s (execLeaImm a s))
  | setpImm a => exact (.flagged : Answers s (execSetpImm a s))
  | mulLoMap2 a => exact (.alu2 : Answers s (execMulLoMap2 a s))
  | mulHiMap2 a => exact (.alu2 : Answers s (execMulHiMap2 a s))
  | fadd a => exact (.alu2 : Answers s (execFadd a s))
  | fsub a => exact (.alu2 : Answers s (execFsub a s))
  | fmul a => exact (.alu2 : Answers s (execFmul a s))
  | fma a => exact (.alu3 : Answers s (execFma a s))
  | fmin a => exact (.alu2 : Answers s (execFmin a s))
  | fmax a => exact (.alu2 : Answers s (execFmax a s))
  | fsetp a => exact (.flagged : Answers s (execFsetp a s))
  | fclass a => exact (.alu1 : Answers s (execFclass a s))
  | frcp a => exact (.alu1 : Answers s (execFrcp a s))
  | frsq a => exact (.alu1 : Answers s (execFrsq a s))
  | fsqrt a => exact (.alu1 : Answers s (execFsqrt a s))
  | fdiv a => exact (.alu2 : Answers s (execFdiv a s))
  | fexp2 a => exact (.alu1 : Answers s (execFexp2 a s))
  | flog2 a => exact (.alu1 : Answers s (execFlog2 a s))
  | fsin a => exact (.alu1 : Answers s (execFsin a s))
  | fcos a => exact (.alu1 : Answers s (execFcos a s))
  | ftanh a => exact (.alu1 : Answers s (execFtanh a s))
  | hadd2 a => exact (.alu2 : Answers s (execHadd2 a s))
  | hmul2 a => exact (.alu2 : Answers s (execHmul2 a s))
  | hfma2 a => exact (.alu3 : Answers s (execHfma2 a s))
  | cvt a => exact (.alu1 : Answers s (execCvt a s))
  | faddImm a => exact (.alu1 : Answers s (execFaddImm a s))
  | fsubImm a => exact (.alu1 : Answers s (execFsubImm a s))
  | fmulImm a => exact (.alu1 : Answers s (execFmulImm a s))
  | fminImm a => exact (.alu1 : Answers s (execFminImm a s))
  | fmaxImm a => exact (.alu1 : Answers s (execFmaxImm a s))
  | fsetpImm a => exact (.flagged : Answers s (execFsetpImm a s))
  | qblk a => exact (.issue fun _ _ h => .go (.putScale (.put1 h)) : Answers s (execQblk a s))
  | dqblk a => exact (.issue fun _ _ h => .go (.put1 h) : Answers s (execDqblk a s))
  | pk4 a => exact (.issue fun _ _ h => .go (.put1 h) : Answers s (execPk4 a s))
  | upk4 a => exact (.issue fun _ _ h => .go (.put1 h) : Answers s (execUpk4 a s))
  | amax a => exact (.issue fun _ _ h => .go (.put1 h) : Answers s (execAmax a s))
  | tld a => exact (.issue fun _ _ => .matIssue : Answers s (execTld a s))
  | tst a => exact (.issue fun _ _ => .matIssue : Answers s (execTst a s))
  | tzero a => exact (.issue fun _ _ => .matIssue : Answers s (execTzero a s))
  | mma a => exact (.issue fun _ _ => .matIssue : Answers s (execMma a s))
  | mmas a => exact (.issue fun _ _ => .matIssue : Answers s (execMmas a s))
  | accz a => exact (.issue fun _ _ => .matIssue : Answers s (execAccz a s))
  | accmul a => exact (.issue fun _ _ => .matIssue : Answers s (execAccmul a s))
  | accrd a => exact (.issue fun _ _ h => .ite (.hold h) (.matIssue (.setSquad h)) : Answers s (execAccrd a s))
  | accwr a => exact (.issue fun _ _ => .matIssue : Answers s (execAccwr a s))
  | accst a => exact (.issue fun _ _ => .matIssue : Answers s (execAccst a s))
  | accdeclRetain a => exact (.issue fun _ _ => .matIssue : Answers s (execAccdeclRetain a s))
  | accdeclRecompute a => exact (.issue fun _ _ => .matIssue : Answers s (execAccdeclRecompute a s))
  | rstlbl a => exact (.issue fun _ _ h => .ite (.go (.setBlock h)) .trap : Answers s (execRstlbl a s))
  | matrixCommandExecute => exact .matrixCommandExecute
  | lds => exact .lds
  | sts => exact .sts
  | ldg => exact .ldg
  | stg => exact .stg
  | ldk a => exact (.stackAccess fun _ _ _ _ h => .setSquad (.repair h) : Answers s (execLdk a s))
  | stk => exact .stk
  | fence a => exact (.issue fun _ _ h => .ite (.wait (.giveBack h)) (.go (.fenced h)) : Answers s (execFence a s))
  | crdecl => exact .crdecl
  | crfold a => exact (.postedOp : Answers s (execCrfold a s))
  | cred a => exact (.postedOp : Answers s (execCred a s))
  | atomsAdd a => exact (.pooledAtomic : Answers s (execAtomsAdd a s))
  | atomsMin a => exact (.pooledAtomic : Answers s (execAtomsMin a s))
  | atomsMax a => exact (.pooledAtomic : Answers s (execAtomsMax a s))
  | atomsAnd a => exact (.pooledAtomic : Answers s (execAtomsAnd a s))
  | atomsOr a => exact (.pooledAtomic : Answers s (execAtomsOr a s))
  | atomsXor a => exact (.pooledAtomic : Answers s (execAtomsXor a s))
  | atomsExch a => exact (.pooledAtomic : Answers s (execAtomsExch a s))
  | atomsCas a => exact (.pooledAtomic : Answers s (execAtomsCas a s))
  | atomsInc a => exact (.pooledAtomic : Answers s (execAtomsInc a s))
  | atomsDec a => exact (.pooledAtomic : Answers s (execAtomsDec a s))
  | atomsFadd a => exact (.pooledAtomic : Answers s (execAtomsFadd a s))
  | atomsFmin a => exact (.pooledAtomic : Answers s (execAtomsFmin a s))
  | atomsFmax a => exact (.pooledAtomic : Answers s (execAtomsFmax a s))
  | atomgAdd a => exact (.globalAtomic : Answers s (execAtomgAdd a s))
  | atomgMin a => exact (.globalAtomic : Answers s (execAtomgMin a s))
  | atomgMax a => exact (.globalAtomic : Answers s (execAtomgMax a s))
  | atomgAnd a => exact (.globalAtomic : Answers s (execAtomgAnd a s))
  | atomgOr a => exact (.globalAtomic : Answers s (execAtomgOr a s))
  | atomgXor a => exact (.globalAtomic : Answers s (execAtomgXor a s))
  | atomgExch a => exact (.globalAtomic : Answers s (execAtomgExch a s))
  | atomgCas a => exact (.globalAtomic : Answers s (execAtomgCas a s))
  | atomgInc a => exact (.globalAtomic : Answers s (execAtomgInc a s))
  | atomgDec a => exact (.globalAtomic : Answers s (execAtomgDec a s))
  | atomgFadd a => exact (.globalAtomic : Answers s (execAtomgFadd a s))
  | atomgFmin a => exact (.globalAtomic : Answers s (execAtomgFmin a s))
  | atomgFmax a => exact (.globalAtomic : Answers s (execAtomgFmax a s))
  | redgAdd a => exact (.globalReduction : Answers s (execRedgAdd a s))
  | redgMin a => exact (.globalReduction : Answers s (execRedgMin a s))
  | redgMax a => exact (.globalReduction : Answers s (execRedgMax a s))
  | redgAnd a => exact (.globalReduction : Answers s (execRedgAnd a s))
  | redgOr a => exact (.globalReduction : Answers s (execRedgOr a s))
  | redgXor a => exact (.globalReduction : Answers s (execRedgXor a s))
  | redgInc a => exact (.globalReduction : Answers s (execRedgInc a s))
  | redgDec a => exact (.globalReduction : Answers s (execRedgDec a s))
  | redgFadd a => exact (.globalReduction : Answers s (execRedgFadd a s))
  | redgFmin a => exact (.globalReduction : Answers s (execRedgFmin a s))
  | redgFmax a => exact (.globalReduction : Answers s (execRedgFmax a s))
  | cpy a => exact (.issue fun _ _ => .copyIssue : Answers s (execCpy a s))
  | cpyl => exact .cpyl
  | cpyw a => exact (.issue fun _ _ => .copyIssue : Answers s (execCpyw a s))
  | cpyp a => exact (.issue fun _ _ => .copyIssue : Answers s (execCpyp a s))
  | cpyo a => exact (.issue fun _ _ => .copyIssue : Answers s (execCpyo a s))
  | cpyxPut a => exact (.issue fun _ _ => .copyIssue : Answers s (execCpyxPut a s))
  | cpyxGet a => exact (.issue fun _ _ => .copyIssue : Answers s (execCpyxGet a s))
  | twaitAny a => exact (.issue fun _ _ => .twaitBody : Answers s (execTwaitAny a s))
  | twaitAll a => exact (.issue fun _ _ => .twaitBody : Answers s (execTwaitAll a s))
  | tfind => exact .tfind
  | tclr => exact .tclr
  | copyStart => exact .copyStart
  | copyLanding => exact .copyLanding
  | copyComplete => exact .copyComplete
  | bini a => exact (.issue fun _ _ => .biniBody : Answers s (execBini a s))
  | barv a => exact (.issue fun _ _ => .barvBody : Answers s (execBarv a s))
  | bexp a => exact (.issue fun _ _ => .bexpBody : Answers s (execBexp a s))
  | bwait a => exact (.issue fun _ _ => .bwaitBody : Answers s (execBwait a s))
  | btest a => exact (.issue fun _ _ => .btestBody : Answers s (execBtest a s))
  | biniMap2 a => exact (.issue fun _ _ => .biniBody : Answers s (execBiniMap2 a s))
  | barvMap2 a => exact (.issue fun _ _ => .barvBody : Answers s (execBarvMap2 a s))
  | bexpMap2 a => exact (.issue fun _ _ => .bexpBody : Answers s (execBexpMap2 a s))
  | bwaitMap2 a => exact (.issue fun _ _ => .bwaitBody : Answers s (execBwaitMap2 a s))
  | btestMap2 a => exact (.issue fun _ _ => .btestBody : Answers s (execBtestMap2 a s))
  | seamPhaseComplete => exact .seamPhaseComplete
  | rinit => exact .rinit
  | push => exact .push
  | pop => exact .pop
  | forkCopy a => exact (.issue fun _ _ => .forkBody : Answers s (execForkCopy a s))
  | forkMatrix a => exact (.issue fun _ _ => .forkBody : Answers s (execForkMatrix a s))
  | forkMap2 a => exact (.issue fun _ _ => .forkBody : Answers s (execForkMap2 a s))
  | rdvCopy a => exact (.issue fun _ _ => .rdvBody : Answers s (execRdvCopy a s))
  | rdvMatrix a => exact (.issue fun _ _ => .rdvBody : Answers s (execRdvMatrix a s))
  | rdvMap2 a => exact (.issue fun _ _ => .rdvBody : Answers s (execRdvMap2 a s))
  | engineProgramStart => exact .engineProgramStart
  | engineProgramEnd => exact .engineProgramEnd
  | drainDie a => exact (.issue fun _ _ => .drainBody : Answers s (execDrainDie a s))
  | drainPkg a => exact (.issue fun _ _ => .drainBody : Answers s (execDrainPkg a s))
  | drainMap2 a => exact (.issue fun _ _ => .drainBody : Answers s (execDrainMap2 a s))
  | drainComplete => exact .drainComplete
  | pour => exact .pour
  | cwait => exact .cwait
  | tknxt a => exact (.issue fun _ _ h => .tkIssue (fun _ => .setSquad) h : Answers s (execTknxt a s))
  | tknxtPooled a => exact (.issue fun _ _ h => .tkIssue (fun _ => .tagBegin) h : Answers s (execTknxtPooled a s))
  | tknxtAnswer => exact .tknxtAnswer
  | sparm => exact .sparm
  | prog a => exact (.issue fun _ _ h => .go (.setBlock h) : Answers s (execProg a s))
  | movcr => exact .movcr
  | movrc a => exact (.issue fun _ _ h => .ite (.go (.put h)) .trap : Answers s (execMovrc a s))
  | rdclk a => exact (.issue fun _ _ h => .go (.put h) : Answers s (execRdclk a s))
  | sysVersion a => exact (.issue fun _ _ h => .ite (.go (.put1 h)) .trap : Answers s (execSysVersion a s))
  | sysRecoveryState a => exact (.issue fun _ _ h => .go (.put1 h) : Answers s (execSysRecoveryState a s))
  | sysSetSideEffect => exact .sysSetSideEffect
  | sysPourNumber a => exact (.issue fun _ _ h => .go (.put1 h) : Answers s (execSysPourNumber a s))
  | trap a => exact (.issue fun _ _ => .after : Answers s (execTrap a s))
  | rft => exact .rft
  | rftAbort a => exact (.issue fun _ _ h => .ite (.dead (.killFlask h)) .trap : Answers s (execRftAbort a s))
  | asgen => exact .asgen
  | splint => exact .splint
  | tagkill a => exact (.issue fun _ _ h => .ite .trap (.go (.put1 (.endContext h))) : Answers s (execTagkill a s))
  | dtload => exact .dtload
  | splinterComplete => exact .splinterComplete
  | handlerStart => exact .handlerStart
  | accessResponse => exact .accessResponse
  | siCombineTimeout => exact .siCombineTimeout
  | homeRequest => exact .homeRequest
  | recallOwner => exact .recall
  | ownerWriteback => exact .ownerWriteback
  | seamFence => exact .seamFence
  | quiesceDeadline => exact .quiesceDeadline
  | dieRejoin => exact .dieRejoin
  | scrubRead => exact .scrubRead
  | scrubWriteback => exact .scrubWriteback
  | leaseExpiry a b => exact (.next fun h => .ite (.setCore h) (.update h) : Answers s (execLeaseExpiry a b s))
  | migrationHandover => exact .migrationHandover
  | migrationForwardingEnd => exact .migrationForwardingEnd
  | flaskPlace => exact .flaskPlace
  | hWaitTimeout => exact .hWaitTimeout
  | saveComplete => exact .saveComplete
  | blockRetire => exact .blockRetire
  | fettlerReplayStart => exact .fettlerReplayStart
  | fettlerSkip => exact .fettlerSkip
  | replayEnd => exact .replayEnd
  | pourRetire => exact .pourRetire
  | sprueFire => exact .sprueFire
  | fabricIngressRequest => exact .fabricIngressRequest
  | uCapRelease => exact .uCapRelease
  | keyRolloverDue => exact .keyRolloverDue
  | keyReady => exact .keyReady
  | replayDrained => exact .replayDrained
  | retireKey => exact .retireKey
  | linkIntegrityFailure a => exact (.next .retrain : Answers s (execLinkIntegrityFailure a s))
  | laneLoss a => exact (.next .retrain : Answers s (execLaneLoss a s))
  | retrainTimeout => exact .retrainTimeout
  | doorbell => exact .doorbell
  | bar2Access => exact .bar2Access
  | launchQueueConfigWrite => exact .launchQueueConfigWrite
  | tenantWordWrite => exact .tenantWordWrite
  | contextEntryWrite => exact .contextEntryWrite
  | contextKeyLoaded => exact .contextKeyLoaded
  | fabcfgWrite => exact .fabcfgWrite
  | memcfgWrite => exact .memcfgWrite
  | linkcfgWrite => exact .linkcfgWrite
  | contcfgWrite => exact .contcfgWrite
  | registerWrite => exact .registerWrite
  | frameOwner a b => exact (.next .cmdFrameOwner : Answers s (execFrameOwner a b s))
  | reservedSlots a => exact (.next .cmdReserved : Answers s (execReservedSlots a s))
  | retireUnit a b c => exact (.next .cmdRetire : Answers s (execRetireUnit a b c s))
  | preEmpt a b c d e f => exact (.next .cmdPreempt : Answers s (execPreEmpt a b c d e f s))
  | migratePage a b c => exact (.next .cmdMigrate : Answers s (execMigratePage a b c s))
  | endpointMap a b c => exact (.next .cmdEndpoint : Answers s (execEndpointMap a b c s))
  | releaseHeld a b => exact (.next .cmdRelease : Answers s (execReleaseHeld a b s))
  | powerLimit a => exact (.next .cmdPower : Answers s (execPowerLimit a s))
  | mailboxDone => exact .mailboxDone
  | pfrespServe => exact .pfrespServe
  | pfrespDecline => exact .pfrespDecline
  | pageFaultEnqueue => exact .pageFaultEnqueue
  | lostClear => exact .lostClear
  | sparmreq => exact .sparmreq
  | spdis => exact .spdis
  | invalidateRequest a b => exact (.next .update : Answers s (execInvalidateRequest a b s))
  | invalidateCompletion => exact .invalidateCompletion
  | getMeasurements a b => exact (.next fun h => .ite (.update h) h : Answers s (execGetMeasurements a b s))
  | boot => exact .boot
  | clockThrottle => exact .clockThrottle
  | clockRestore => exact .clockRestore
  | postedAccessAnswer => exact .postedAccessAnswer
  | linkRetrained => exact .linkRetrained
  | flitCheckFailure a => exact (.next fun h => .ite (.retrain h) h : Answers s (execFlitCheckFailure a s))
  | memoEntryAged => exact .memoEntryAged
  | migrationLeaseWaitEnd => exact .migrationLeaseWaitEnd
  | remoteDataCacheClearEnd => exact .remoteDataCacheClearEnd

/-! ## Turns, and the events that happen by themselves -/

theorem Answers.issueTurn : Answers s (s.issueTurn p) := by
  unfold State.issueTurn
  split
  · rename_i e
    exact .through (fun h => .of_fst e (.turnOf h)) .exec
  · rename_i e
    exact .next fun h => .of_fst e (.turnOf h)

theorem State.Canonical.picks (h : s.Canonical) : (s.picks p).Canonical := .update h
theorem State.Canonical.noteReady (h : s.Canonical) : s.noteReady.Canonical := .update h

theorem State.Canonical.notePick (h : s.Canonical) : s.notePick.Canonical := by
  dsimp only [State.notePick]
  split
  · exact h
  · exact .ite (.update h) (.update h)

theorem State.Canonical.peerMemoAged {ident : Nat} (h : s.Canonical) : (s.peerMemoAged ep core ident).Canonical :=
  .ite (.update h) h

theorem State.Canonical.peerRefuses {on : Bool} (h : s.Canonical) : (s.peerRefuses ep on).Canonical := .update h

theorem Answers.act {a : Act} : Answers s (s.act a) := by
  cases a with
  | issue p late => exact .ite (.through .picks .issueTurn) (.next id)
  | event i => exact .ite (.next id) .exec
  | engine core eng => exact .next .sequence
  | hostWrites a bs => exact .next fun h => .updateHost h (Memory.wf_writeBytes _ _)
  | peerWrites k bs => exact .next fun h => .updatePeer h (Memory.wf_writeBytes _ _)
  | peerAged ep core ident => exact .next .peerMemoAged
  | peerRefuses ep on => exact .next .peerRefuses
  | writeBack ls => exact .next .cleaned
  | damage st a => exact .next .breakUnit
  | detect st a => exact .next .detectUnit
  | bootFails k c => exact .next .bootFails
  | abortAnswer id => exact .next .abortAnswer
  | codeChanged p va => exact .next .codeChanged
  | linkUp l => exact .next .linkUp
  | linkAck l n => exact .next .linkAck
  | sensors w c => exact .next .update
  | hostPage page present => exact .next .update
  | altersDie d => exact .next fun h => .ite h (.update h)
  | bar0Read fn ofs n => exact .next .bar0Read
  | bar0Write fn ofs bs => exact .next .bar0Write
  | msixWrite fn v e => exact .next .msixWrite
  | msixRead fn v => exact .next .msixRead
  | pbaRead fn => exact .next .pbaRead
  | resizeBar2 fn log => exact .next .resizeBar2
  | idle => exact .next id

theorem State.Canonical.stopIdle (h : s.Canonical) : (s.stopIdle bid).Canonical := .update (.setBlock h)
theorem State.Canonical.stopHalted (h : s.Canonical) : s.stopHalted.Canonical := .foldl h fun _ _ => .stopIdle

theorem State.Canonical.ruin (h : s.Canonical) : s.ruin.Canonical :=
  .ite h (.foldl (.update (.foldl (.update h) (fun _ _ h1 => .ite (.consume h1) h1))) (fun _ _ => .ruinContext))

theorem State.Canonical.settle (h : s.Canonical) : s.settle.Canonical :=
  .noteReady (.watchMail (.presentHost (.presentHeld (.watchMigration
    (.watchDrains (.retrySpills (.ruin (.stopHalted (.notePick h)))))))))

/-- Every effect of a list answers every state with a next one, in canonical form where the state is. -/
def AllAnswer (l : List Effect) : Prop := ∀ e ∈ l, ∀ s, Answers s (e s)

namespace AllAnswer

variable {α : Type} {l r : List Effect} {e : Effect} {s : State}

theorem nil : AllAnswer [] := by
  intro e he
  cases he

theorem cons (he : ∀ s, Answers s (e s)) (hl : AllAnswer l) : AllAnswer (e :: l) := by
  intro f hf
  cases hf with
  | head => exact he
  | tail _ hf => exact hl f hf

theorem append (hl : AllAnswer l) (hr : AllAnswer r) : AllAnswer (l ++ r) := by
  intro e he
  cases List.mem_append.mp he with
  | inl he => exact hl e he
  | inr he => exact hr e he

theorem flatMap {k : α → List Effect} {as : List α} (hk : ∀ a, AllAnswer (k a)) : AllAnswer (as.flatMap k) := by
  intro e he
  obtain ⟨a, -, ha⟩ := List.mem_flatMap.mp he
  exact hk a e ha

theorem map {k : α → Effect} {as : List α} (hk : ∀ a s, Answers s (k a s)) : AllAnswer (as.map k) := by
  intro e he
  obtain ⟨a, -, rfl⟩ := List.mem_map.mp he
  exact hk a

theorem filterMap {k : α → Option Effect} {as : List α} (hk : ∀ a e, k a = some e → ∀ s, Answers s (e s)) :
    AllAnswer (as.filterMap k) := by
  intro e he
  obtain ⟨a, -, ha⟩ := List.mem_filterMap.mp he
  exact hk a e ha

theorem ite {c : Prop} {d : Decidable c} (hl : AllAnswer l) (hr : AllAnswer r) : AllAnswer (if c then l else r) := by
  split
  · exact hl
  · exact hr

theorem single (he : ∀ s, Answers s (e s)) : AllAnswer [e] := .cons he .nil

theorem memoryEvents : AllAnswer s.memoryEvents := by
  unfold State.memoryEvents
  exact .append (.append (.append (.append
    (.flatMap fun _ => .cons (fun _ => .homeRequest) (.cons (fun _ => .accessResponse)
      (.single fun _ => .postedAccessAnswer)))
    (.flatMap fun _ => .map fun _ _ => .accessResponse))
    (.map fun _ _ => .recall)) (.map fun _ _ => .ownerWriteback)) (.flatMap fun _ => .map fun _ _ => .siCombineTimeout)

theorem engineEvents : AllAnswer s.engineEvents := by
  unfold State.engineEvents
  refine .flatMap fun c => .append (.append (.append (.single fun _ => .matrixCommandExecute)
    (.map fun _ _ => .copyStart))
    (.flatMap fun x => .append ?_ (.single fun _ => .copyComplete)))
    (.flatMap fun _ => .cons (fun _ => .engineProgramStart) (.cons (fun _ => .engineProgramEnd)
      (.single fun _ => .next .sequence)))
  split
  · exact .single fun _ => .copyLanding
  · exact .nil

theorem workEvents : AllAnswer s.workEvents := by
  unfold State.workEvents
  refine .append (.append (.append (.append (.append (.append (.append (.append (.append (.append (.append
    (.map fun _ _ => .tknxtAnswer) (.filterMap ?_)) (.flatMap fun _ => .filterMap ?_))
    (.flatMap fun _ => .cons (fun _ => .handlerStart) (.single fun _ => .blockRetire)))
    (.map fun _ _ => .saveComplete))
    (.flatMap fun _ => .ite (.cons (fun _ => .fettlerReplayStart) (.cons (fun _ => .replayEnd)
      (.single fun _ => .fettlerSkip))) .nil))
    (.map fun _ _ => .pourRetire)) (.map fun _ _ => .splinterComplete)) (.flatMap fun _ => .map fun _ _ => .sprueFire))
    (.single fun _ => .flaskPlace)) (.map fun _ _ => .hWaitTimeout)) (.filterMap ?_)
  · intro q e he
    split at he <;> cases he
    exact fun _ => .drainComplete
  · intro b e he
    split at he <;> cases he
    exact fun _ => .seamPhaseComplete
  · intro w e he
    split at he <;> cases he
    exact fun _ => .hWaitTimeout

theorem deviceEvents : AllAnswer s.deviceEvents := by
  unfold State.deviceEvents
  exact .append (.append (.append (.append (.append (.append (.append (.append (.append
    (.ite .nil (.single fun _ => .boot)) (.map fun _ _ => .next fun h => .ite (.cleaned h) h))
    (.map fun _ _ => .contextKeyLoaded)) (.map fun _ _ => .pageFaultEnqueue))
    (.cons (fun _ => .mailboxDone) (.cons (fun _ => .migrationLeaseWaitEnd) (.cons (fun _ => .migrationHandover)
      (.cons (fun _ => .migrationForwardingEnd) (.single fun _ => .remoteDataCacheClearEnd))))))
    (.ite .nil (.single fun _ => .invalidateCompletion)))
    (.flatMap fun _ => .cons (fun _ => .seamFence) (.cons (fun _ => .quiesceDeadline)
      (.cons (fun _ => .dieRejoin) (.single fun _ => .scrubWriteback)))))
    (.flatMap fun _ => .cons (fun _ => .uCapRelease) (.cons (fun _ => .linkRetrained) (.cons (fun _ => .retrainTimeout)
      (.cons (fun _ => .keyRolloverDue) (.cons (fun _ => .keyReady) (.cons (fun _ => .replayDrained)
        (.single fun _ => .retireKey))))))))
    (.map fun _ _ => .memoEntryAged)) (.cons (fun _ => .clockThrottle) (.single fun _ => .clockRestore))

theorem events : AllAnswer s.events :=
  .append (.append (.append (.append memoryEvents engineEvents) workEvents) deviceEvents)
    (.map fun _ _ => .next .linkAck)

end AllAnswer

theorem Answers.choose : Answers s (s.choose s) := by
  unfold State.choose
  have hall : AllAnswer (s.events ++ s.sites.map fun p (s : State) => (s.picks p).issueTurn p) :=
    .append .events (.map fun _ _ => .through .picks .issueTurn)
  cases hf : (s.events ++ s.sites.map fun p (s : State) => (s.picks p).issueTurn p).find? s.changes with
  | none => exact .next id
  | some e => exact hall e (List.mem_of_find?_eq_some hf) s

theorem Answers.turn : Answers s s.turn := by
  unfold State.turn
  split
  · exact .through (fun h => .elapse (.update h)) .act
  · exact .through .elapse .choose

/-! ## One step -/

/-- A step answers a next state, whichever turn or event the schedule chooses. -/
theorem Answers.step : Answers s (step s) := by
  obtain ⟨t, e, ht⟩ := Answers.turn (s := s)
  unfold Machine.step
  rw [e]
  exact .next fun h => .settle (ht h)

/-- Settles O10: a step answers one next state, which is canonical where the state before it is. -/
theorem stepKeepsMemoryCanonical : Obligations.StepKeepsMemoryCanonical := by
  intro s t h e
  obtain ⟨u, hu, hc⟩ := Answers.step (s := s)
  rw [e] at hu
  cases hu
  exact hc h

/-- Settles O7: the outcome of a step is the next state that `Answers.step` names. -/
theorem everyStepAnswersANextState : Obligations.EveryStepAnswersANextState := by
  intro s
  obtain ⟨t, ht, -⟩ := Answers.step (s := s)
  exact ⟨t, ht⟩

/-- Settles O9: after reset every memory is empty. -/
theorem resetMemoryCanonical : Obligations.ResetMemoryCanonical := State.Canonical.reset

end Sys2Proof.Machine

end

section

namespace Sys2Proof

/-!
# Pooled loads and stores

Writes made one after another leave at each key the value of the last write that reaches it: the bytes that the
passing lanes store, in the order of lanes and of bytes within each. The registers of a destination, written one after
another, hold their words, and nothing else of the register file changes. With the frame of an issue, and of the
ordering of an access, these two facts settle the pooled load and store.
-/

section Writes

variable {β : Type} {key : β → Nat} {val : β → Byte} {l : List β}

/-- Bytes written in the order of a list of writes, each with its key and its byte. -/
def Memory.writeEach (m : Memory) (key : β → Nat) (val : β → Byte) (l : List β) : Memory :=
  l.foldl (fun m e => Memory.write m (key e) (val e)) m

theorem Memory.read_writeEach_ne (m : Memory) {n : Nat} (h : ∀ e ∈ l, key e ≠ n) :
    Memory.read (Memory.writeEach m key val l) n = Memory.read m n := by
  induction l generalizing m with
  | nil => rfl
  | cons a r ih =>
    obtain ⟨ha, hr⟩ := List.forall_mem_cons.mp h
    exact (ih (Memory.write m (key a) (val a)) hr).trans (Memory.read_write_ne _ (Ne.symm ha) _)

/-- The write after which no other reaches its key stands. -/
theorem Memory.read_writeEach_last (m : Memory) {R : β → β → Prop} (hl : l.Pairwise R) {e : β} (he : e ∈ l)
    (hlast : ∀ c ∈ l, R e c → key c ≠ key e) : Memory.read (Memory.writeEach m key val l) (key e) = val e := by
  induction l generalizing m with
  | nil => cases he
  | cons a r ih =>
    obtain ⟨har, hr⟩ := List.pairwise_cons.mp hl
    obtain ⟨-, hlastr⟩ := List.forall_mem_cons.mp hlast
    rcases List.mem_cons.mp he with rfl | her
    · have hne : ∀ c ∈ r, key c ≠ key e := fun c hc => hlastr c hc (har c hc)
      exact (Memory.read_writeEach_ne _ hne).trans (Memory.read_write_self _ _ _)
    · exact ih (Memory.write m (key a) (val a)) hr her hlastr

end Writes

/-- Pairs of two rising lists rise in the order of their first parts, and of their second within each. -/
theorem pairwise_product_lex {l r : List Nat} (hl : l.Pairwise (· < ·)) (hr : r.Pairwise (· < ·)) :
    (l ×ˢ r).Pairwise (Prod.Lex (· < ·) (· < ·)) := by
  induction l with
  | nil => exact List.Pairwise.nil
  | cons a l ih =>
    obtain ⟨hal, hl⟩ := List.pairwise_cons.mp hl
    rw [List.product_cons, List.pairwise_append, List.pairwise_map]
    refine ⟨hr.imp fun h => .right a h, ih hl, ?_⟩
    rintro _ hx ⟨j, k⟩ hy
    obtain ⟨k', -, rfl⟩ := List.mem_map.mp hx
    exact .left _ _ (hal j (List.mem_product.mp hy).1)

end Sys2Proof

namespace Sys2Proof.Machine

open Sys2Proof

/-! ## Lanes -/

theorem mem_lanesOf {m : Lanes} {i : Nat} : i ∈ lanesOf m ↔ i < 32 ∧ m.getLsbD i = true := by
  simp [lanesOf]

theorem pairwise_lanesOf (m : Lanes) : (lanesOf m).Pairwise (· < ·) := List.pairwise_lt_range.filter _

/-! ## Registers -/

/-- Of the keys from a base on that are put for the lanes below a bound, those of the set hold their values. -/
theorem get_foldl_putLanes (t : Table Word) (base m : Nat) (d : Word) (lanes : Lanes) (f : Nat → Word) (n : Nat) :
    Table.get ((List.range n).foldl (fun t i => if lanes.getLsbD i then t.put (base + i) (f i) else t) t) m d
      = if (base ≤ m ∧ m < base + n) ∧ lanes.getLsbD (m - base) = true then f (m - base) else t.get m d := by
  induction n with
  | zero =>
    have hno : ¬(base ≤ m ∧ m < base + 0) := by omega
    rw [if_neg fun h => hno h.1]
    rfl
  | succ n ih =>
    rw [List.range_succ, List.foldl_append, List.foldl_cons, List.foldl_nil]
    by_cases hm : m = base + n
    · subst hm
      by_cases hn : lanes.getLsbD n = true
      · simp only [hn, if_true, Table.get_put_self, Nat.add_sub_cancel_left]
        rw [if_pos ⟨by omega, trivial⟩]
      · simp only [hn, Bool.false_eq_true, if_false, ih, Nat.add_sub_cancel_left, and_false]
    · have hb : (base ≤ m ∧ m < base + (n + 1)) ↔ (base ≤ m ∧ m < base + n) := by omega
      simp only [hb, ← ih]
      split
      · exact Table.get_put_ne _ hm _ _
      · rfl

/-- A vector register written in some lanes holds the values there, and nothing else of it or of another changes. -/
theorem RegFile.vec_setVec (r : RegFile) (n m i : Nat) (lanes : Lanes) (f : Nat → Word) (hi : i < 32) :
    (r.setVec n lanes f).vec m i = if m = n ∧ lanes.getLsbD i = true then f i else r.vec m i := by
  have hkey : (n * 32 ≤ m * 32 + i ∧ m * 32 + i < n * 32 + 32) ↔ m = n := by omega
  have hget := get_foldl_putLanes r.v (n * 32) (m * 32 + i) 0 lanes f 32
  simp only [hkey] at hget
  refine hget.trans ?_
  by_cases hm : m = n
  · subst hm; simp only [Nat.add_sub_cancel_left]; rfl
  · simp only [hm, false_and, if_false]; rfl

/-- A scalar register written holds the value, and no other changes. -/
theorem RegFile.scalar_setScalar (r : RegFile) (n m : Nat) (w : Word) :
    (r.setScalar n w).scalar m = if m = n then w else r.scalar m := by
  by_cases hm : m = n
  · subst hm; simp [RegFile.scalar, RegFile.setScalar]
  · simp [RegFile.scalar, RegFile.setScalar, Table.get_put_ne _ hm, hm]

/-- A predicate register written leaves every other. -/
theorem RegFile.pred_setPred_ne (r : RegFile) {n m : Nat} (w : Lanes) (h : m ≠ n) :
    (r.setPred n w).pred m = r.pred m := by
  unfold RegFile.setPred
  split
  · rfl
  · simp [RegFile.pred, Table.get_put_ne _ h]

theorem RegFile.agreeBut_refl (r : RegFile) (o : Opnd) (w : Nat) (lanes : Lanes) : r.agreeBut r o w lanes :=
  ⟨fun _ _ _ _ => rfl, fun _ _ => rfl, fun _ _ => rfl, rfl, rfl⟩

theorem RegFile.agreeBut.trans {r r' r'' : RegFile} {o : Opnd} {w : Nat} {lanes : Lanes} (h : r.agreeBut r' o w lanes)
    (h' : r'.agreeBut r'' o w lanes) : r.agreeBut r'' o w lanes := by
  obtain ⟨hv, hs, hp, hve, hse⟩ := h
  obtain ⟨hv', hs', hp', hve', hse'⟩ := h'
  exact ⟨fun n i hi hc => (hv' n i hi hc).trans (hv n i hi hc), fun n hc => (hs' n hc).trans (hs n hc),
    fun n hc => (hp' n hc).trans (hp n hc), hve'.trans hve, hse'.trans hse⟩

/-- A write to the k-th of the w registers of an operand changes nothing outside them and the lanes. -/
theorem RegFile.write_agreeBut (r : RegFile) (o : Opnd) {k w : Nat} (hk : k < w) (lanes : Lanes) (f : Nat → Word) :
    r.agreeBut (r.write o k lanes f) o w lanes := by
  cases o with
  | v n =>
    refine ⟨fun m i hi hc => ?_, fun _ _ => rfl, fun _ _ => rfl, rfl, rfl⟩
    have hno : ¬(m = n.toNat + k ∧ lanes.getLsbD i = true) := by
      rintro ⟨rfl, hl⟩
      simp [Opnd.coversV, hl] at hc
      omega
    exact (RegFile.vec_setVec r _ m i lanes f hi).trans (if_neg hno)
  | s n =>
    refine ⟨fun _ _ _ _ => rfl, fun m hc => ?_, fun _ _ => rfl, rfl, rfl⟩
    have hno : m ≠ n.toNat + k := by
      rintro rfl
      simp [Opnd.coversS] at hc
      omega
    exact (RegFile.scalar_setScalar r _ m _).trans (if_neg hno)
  | p n =>
    have hset : ∀ w, (r.setPred n.toNat w).v = r.v ∧ (r.setPred n.toNat w).s = r.s
        ∧ (r.setPred n.toNat w).vE = r.vE ∧ (r.setPred n.toNat w).sE = r.sE := by
      intro w; unfold RegFile.setPred; split <;> simp
    obtain ⟨hv, hs, hve, hse⟩ := hset (f (lowestLane lanes))
    refine ⟨fun m i _ _ => by simp [RegFile.write, RegFile.vec, hv],
      fun m _ => by simp [RegFile.write, RegFile.scalar, hs], fun m hc => ?_, hve, hse⟩
    have hno : m ≠ n.toNat := by rintro rfl; simp [Opnd.coversP] at hc
    exact RegFile.pred_setPred_ne r _ hno
  | t _ | acc _ | sp _ | bad _ => exact RegFile.agreeBut_refl r _ _ _

/-- The register file with the w registers of an operand written from numbers, the first register lowest. -/
def RegFile.writeNat (r : RegFile) (o : Opnd) (w : Nat) (lanes : Lanes) (f : Nat → Nat) : RegFile :=
  (List.range w).foldl (fun r k => r.write o k lanes fun i => BitVec.ofNat 32 (f i / 2 ^ (32 * k))) r

theorem RegFile.writeNat_succ (r : RegFile) (o : Opnd) (w : Nat) (lanes : Lanes) (f : Nat → Nat) :
    r.writeNat o (w + 1) lanes f
      = (r.writeNat o w lanes f).write o w lanes fun i => BitVec.ofNat 32 (f i / 2 ^ (32 * w)) := by
  simp [RegFile.writeNat, List.range_succ]

/-- Registers written from numbers change nothing outside the operand and the lanes. -/
theorem RegFile.writeNat_agreeBut (r : RegFile) (o : Opnd) (w : Nat) (lanes : Lanes) (f : Nat → Nat) :
    r.agreeBut (r.writeNat o w lanes f) o w lanes :=
  List.foldlRecOn (motive := fun r' => r.agreeBut r' o w lanes) (List.range w) _ (r.agreeBut_refl o w lanes)
    fun r' h _ hk => h.trans (r'.write_agreeBut o (List.mem_range.mp hk) lanes _)

/-- Vector registers written from numbers hold their words in the lanes. -/
theorem RegFile.vec_writeNat (r : RegFile) (n : BitVec 8) {k w i : Nat} (hk : k < w) (hi : i < 32) {lanes : Lanes}
    (hl : lanes.getLsbD i = true) (f : Nat → Nat) :
    (r.writeNat (.v n) w lanes f).vec (n.toNat + k) i = BitVec.ofNat 32 (f i / 2 ^ (32 * k)) := by
  induction w with
  | zero => omega
  | succ w ih =>
    rw [RegFile.writeNat_succ, RegFile.write, RegFile.vec_setVec _ _ _ _ _ _ hi]
    by_cases hkw : k = w
    · simp [hkw, hl]
    · simp [hkw, ih (by omega)]

/-- Scalar registers written from numbers hold the words of the lowest lane. -/
theorem RegFile.scalar_writeNat (r : RegFile) (n : BitVec 6) {k w : Nat} (hk : k < w) (lanes : Lanes) (f : Nat → Nat) :
    (r.writeNat (.s n) w lanes f).scalar (n.toNat + k) = BitVec.ofNat 32 (f (lowestLane lanes) / 2 ^ (32 * k)) := by
  induction w with
  | zero => omega
  | succ w ih =>
    rw [RegFile.writeNat_succ, RegFile.write, RegFile.scalar_setScalar]
    by_cases hkw : k = w
    · simp [hkw]
    · simp [hkw, ih (by omega)]

/-! ## The registers of a squad -/

/-- A logged write of a register changes the register file and the log alone. -/
theorem Squad.writeReg_eq (q : Squad) (o : Opnd) (k : Nat) (lanes : Lanes) (f : Nat → Word) :
    q.writeReg o k lanes f = { q with rf := q.rf.write o k lanes f, log := (q.logged o k lanes).log } := by
  have hlog : q.logged o k lanes = { q with log := (q.logged o k lanes).log } := by
    unfold Squad.logged
    split
    · rfl
    · cases q.entryFor o k lanes <;> rfl
  rw [Squad.writeReg, hlog]

/-- A squad whose registers are written from numbers differs in the register file and the log alone. -/
theorem Squad.writeNat_eq (q : Squad) (o : Opnd) (w : Nat) (lanes : Lanes) (f : Nat → Nat) :
    q.writeNat o w lanes f = { q with rf := q.rf.writeNat o w lanes f, log := (q.writeNat o w lanes f).log } := by
  induction w with
  | zero => rfl
  | succ w ih =>
    have hstep : q.writeNat o (w + 1) lanes f
        = (q.writeNat o w lanes f).writeReg o w lanes fun i => BitVec.ofNat 32 (f i / 2 ^ (32 * w)) := by
      simp [Squad.writeNat, List.range_succ]
    rw [hstep, Squad.writeReg_eq, ih, RegFile.writeNat_succ]

/-! ## The frame of an issue -/

/-- States with the same table of squads have the same squads. -/
theorem State.squad_of_squads {s t : State} (h : t.squads = s.squads) (b q : Nat) : t.squad b q = s.squad b q := by
  simp [State.squad, h]

theorem Squad.sameRest.trans {q q' q'' : Squad} (h : q.sameRest q') (h' : q'.sameRest q'') : q.sameRest q'' := by
  simp_all [Squad.sameRest]

/-- The beginning of an issue leaves the squad's other state. -/
theorem State.begin_sameRest (s : State) (x : Ins) : ((s.begin x).squad x.bid x.sq).sameRest (s.squad x.bid x.sq) := by
  simp [State.begin, Squad.sameRest]

/-- The advance of a sub-group leaves the squad's other state. -/
theorem State.finish_sameRest (s : State) (x : Ins) (h : Hint) :
    ((s.finish x h).squad x.bid x.sq).sameRest (s.squad x.bid x.sq) := by
  simp [State.finish, State.issued, State.moveTo, State.setCtl, State.squad, Squad.sameRest]

/-- The beginning of an issue leaves every other squad. -/
theorem State.begin_squad_ne (s : State) (x : Ins) : s.sameSquadsBut (s.begin x) x :=
  fun _ _ hne => s.squad_setSquad_ne _ hne

/-- The end of a wait in place does the same to the flasks of states that agree in the squad's wait, the blocks and the
flasks. -/
theorem State.endWait_flasks_congr {s t : State} {bid sq : Nat} (hw : (t.squad bid sq).waitsAt = (s.squad bid sq).waitsAt)
    (hb : t.blocks = s.blocks) (hf : t.flasks = s.flasks) : (t.endWait bid sq).flasks = (s.endWait bid sq).flasks := by
  unfold State.endWait
  rw [hw]
  split
  · simp [State.dropPusher, State.setFlask, State.flask, State.block, hb, hf]
  · exact hf

/-- The advance of a sub-group ends its squad's wait in place, and changes the flasks in nothing else. -/
theorem State.finish_flasks_endWait (s : State) (x : Ins) (h : Hint) :
    (s.finish x h).flasks = (s.endWait x.bid x.sq).flasks := by
  have hmove : ∀ target, ((s.moveTo x target).endWait x.bid x.sq).flasks = (s.endWait x.bid x.sq).flasks :=
    fun target => State.endWait_flasks_congr (by simp [State.moveTo, State.setCtl]) rfl rfl
  exact hmove _

/-- The register values that an instruction reads are those before its issue began. -/
theorem State.begin_regWord (s : State) (x : Ins) (o : Opnd) (k i : Nat) :
    (s.begin x).regWord x.bid x.sq o k i = s.regWord x.bid x.sq o k i := by
  cases o with
  | sp y => rfl
  | v _ | s _ | p _ => simp only [State.regWord, State.begin_rf]
  | t _ | acc _ | bad _ => rfl

theorem State.begin_regNat (s : State) (x : Ins) (o : Opnd) (w i : Nat) :
    (s.begin x).regNat x.bid x.sq o w i = s.regNat x.bid x.sq o w i := by
  simp only [State.regNat, State.begin_regWord]

/-! ## The ordering of a pooled access -/

/-- The acquire of an access at its issue changes no memory, no squad and no block. -/
theorem State.acquireNow_frame (s : State) (bid : Nat) (o : MemOrd) (sc : Option Scope) :
    (s.acquireNow bid o sc).mem = s.mem ∧ (s.acquireNow bid o sc).squads = s.squads
    ∧ (s.acquireNow bid o sc).blocks = s.blocks := by
  unfold State.acquireNow State.raiseView State.raiseDgen
  dsimp only
  split
  · split <;> exact ⟨rfl, rfl, rfl⟩
  · exact ⟨rfl, rfl, rfl⟩

/-- The stamp of an access changes nothing but its core and the last stamp taken. -/
theorem State.stampPool_frame (s : State) (bid : Nat) (o : MemOrd) :
    (s.stampPool bid o).mem = s.mem ∧ (s.stampPool bid o).squads = s.squads ∧ (s.stampPool bid o).blocks = s.blocks
    ∧ (s.stampPool bid o).flasks = s.flasks ∧ (s.stampPool bid o).contexts = s.contexts := by
  unfold State.stampPool
  split <;> exact ⟨rfl, rfl, rfl, rfl, rfl⟩

/-! ## Pooled addresses and bytes -/

theorem State.begin_poolAddr (s : State) (x : Ins) (a : Args PMod) : (s.begin x).poolAddr x a = s.poolAddr x a := by
  funext i
  simp only [State.poolAddr, State.get1, State.begin_regWord]

theorem State.begin_lanePlace (s : State) (x : Ins) (addr n : Nat) :
    (s.begin x).lanePlace x addr n = s.lanePlace x addr n := rfl

theorem State.begin_poolCause (s : State) (x : Ins) (addr : Nat → Nat) (n : Nat) (atom skew : Bool) :
    (s.begin x).poolCause x addr n atom skew = s.poolCause x addr n atom skew := rfl

theorem State.begin_poolRead (s : State) (x : Ins) (bid o n : Nat) (skew : Bool) :
    (s.begin x).poolRead bid o n skew = s.poolRead bid o n skew := rfl

/-- Where no unit is damaged, the lanes of a pooled access reach none. -/
theorem State.poolDamage_of_sound {s : State} (h : s.dev.damage = []) (x : Ins) (units : Nat → List (Nat × Nat)) :
    s.poolDamage x units = none := by
  simp [State.poolDamage, h]

/-! ## Pooled stores -/

/-- The state with another pooled memory. -/
def State.setPooled (s : State) (m : Memory) : State := { s with mem := { s.mem with pooled := m } }

/-- The bytes that each passing lane stores, by lane and place in its data, in the order in which they are written. -/
def Ins.stored (x : Ins) (n : Nat) : List (Nat × Nat) := lanesOf x.pass ×ˢ List.range n

theorem Ins.mem_stored {x : Ins} {n i k : Nat} : (i, k) ∈ x.stored n ↔ (i < 32 ∧ x.pass.getLsbD i = true) ∧ k < n := by
  simp only [Ins.stored, List.mem_product, mem_lanesOf, List.mem_range]

theorem Ins.pairwise_stored (x : Ins) (n : Nat) : (x.stored n).Pairwise (Prod.Lex (· < ·) (· < ·)) :=
  pairwise_product_lex (pairwise_lanesOf x.pass) List.pairwise_lt_range

/-- A number's bytes written to an allocation, one after another. -/
theorem State.poolWrite_leBytes (s : State) (m : Memory) (bid o : Nat) (skew : Bool) (n v : Nat) :
    (s.setPooled m).poolWrite bid o skew (leBytes n v)
      = s.setPooled (Memory.writeEach m (fun k => s.poolKey bid (o + k) skew) (fun k => BitVec.ofNat 8 (v / 256 ^ k))
          (List.range n)) := by
  have hidx : (leBytes n v).zipIdx = (List.range n).map fun k => (BitVec.ofNat 8 (v / 256 ^ k), k) := by
    apply List.ext_getElem <;> simp [leBytes]
  simp only [State.poolWrite, hidx, List.foldl_map]
  rfl

/-- The stores of an instruction's lanes write the bytes of `Ins.stored` in its order, and change nothing else. -/
theorem State.poolStores_leBytes (s : State) (x : Ins) (place : Nat → Nat × Nat) (skew : Bool) (n : Nat) (v : Nat → Nat) :
    s.poolStores x place skew (fun i => leBytes n (v i))
      = s.setPooled (Memory.writeEach s.mem.pooled (fun e => s.poolKey (place e.1).1 ((place e.1).2 + e.2) skew)
          (fun e => BitVec.ofNat 8 (v e.1 / 256 ^ e.2)) (x.stored n)) := by
  have hlanes : ∀ (l : List Nat) (m : Memory),
      l.foldl (fun t i => t.poolWrite (place i).1 (place i).2 skew (leBytes n (v i))) (s.setPooled m)
        = s.setPooled (Memory.writeEach m (fun e => s.poolKey (place e.1).1 ((place e.1).2 + e.2) skew)
            (fun e => BitVec.ofNat 8 (v e.1 / 256 ^ e.2)) (l ×ˢ List.range n)) := by
    intro l
    induction l with
    | nil => exact fun _ => rfl
    | cons i l ih =>
      intro m
      rw [List.foldl_cons, State.poolWrite_leBytes, ih, List.product_cons]
      simp only [Memory.writeEach, List.foldl_append, List.foldl_map]
  exact hlanes (lanesOf x.pass) s.mem.pooled

/-! ## The pooled load -/

/-- The number that a pooled load brings to a lane: the bytes at its address, extended (R191). -/
def State.poolLoaded (s : State) (x : Ins) (a : Args PMod) (i : Nat) : Nat :=
  let p := s.lanePlace x (s.poolAddr x a i) a.mod.sz.bytes
  extendLoad a.mod.sz.bytes a.mod.sx (leNat (s.poolRead p.1 p.2 a.mod.sz.bytes a.mod.skew))

/-- The squad that a pooled load leaves before its sub-group advances. -/
def State.squadLoaded (s : State) (x : Ins) (a : Args PMod) : Squad :=
  ((s.begin x).squad x.bid x.sq).writeNat a.d a.mod.sz.regs x.pass (s.poolLoaded x a)

/-- The state that a pooled load leaves before its sub-group advances. -/
def State.loaded (s : State) (x : Ins) (a : Args PMod) : State :=
  (((s.begin x).setSquad x.bid x.sq (s.squadLoaded x a)).acquireNow x.bid a.mod.ord a.mod.sc).stampPool x.bid a.mod.ord

theorem exec_lds (a : Args PMod) (s : State) : exec (.lds a) s = execLds a s := rfl

/-- A pooled load that goes ahead in sound memory completes. -/
theorem exec_lds_of_poolGoes {a : Args PMod} {s : State} {x : Ins}
    (hp : s.prepare (headOf a (.lds a) (a.mod.ord != .sc) (a.mod.ord != .relaxed)) = .run x)
    (hg : s.poolGoes x a false) (hd : s.dev.damage = []) : exec (.lds a) s = .next ((s.loaded x a).finish x a.hint) := by
  obtain ⟨hcause, hbusy⟩ := hg
  have hd' : (s.begin x).dev.damage = [] := hd
  rw [exec_lds]
  refine (issue_run hp).trans ?_
  simp only [State.begin_poolAddr, State.begin_lanePlace, State.begin_poolCause, State.begin_poolRead, hcause, hbusy,
    State.poolDamage_of_sound hd', State.repair_of_sound hd', Bool.false_eq_true, if_false]
  rfl

/-- A pooled load changes no memory, no block, and of the squads its own. -/
theorem State.loaded_frame (s : State) (x : Ins) (a : Args PMod) :
    (s.loaded x a).mem = s.mem ∧ (s.loaded x a).blocks = s.blocks
    ∧ (s.loaded x a).squads = ((s.begin x).setSquad x.bid x.sq (s.squadLoaded x a)).squads := by
  obtain ⟨hmem, hsquads, hblocks⟩ :=
    ((s.begin x).setSquad x.bid x.sq (s.squadLoaded x a)).acquireNow_frame x.bid a.mod.ord a.mod.sc
  obtain ⟨hmem', hsquads', hblocks', -, -⟩ := State.stampPool_frame
    (((s.begin x).setSquad x.bid x.sq (s.squadLoaded x a)).acquireNow x.bid a.mod.ord a.mod.sc) x.bid a.mod.ord
  exact ⟨hmem'.trans hmem, hblocks'.trans hblocks, hsquads'.trans hsquads⟩

theorem State.squadLoaded_rf (s : State) (x : Ins) (a : Args PMod) :
    (s.squadLoaded x a).rf = (s.squad x.bid x.sq).rf.writeNat a.d a.mod.sz.regs x.pass (s.poolLoaded x a) := by
  rw [State.squadLoaded, Squad.writeNat_eq, State.begin_rf]

theorem State.squadLoaded_sameRest (s : State) (x : Ins) (a : Args PMod) :
    (s.squadLoaded x a).sameRest (s.squad x.bid x.sq) := by
  rw [State.squadLoaded, Squad.writeNat_eq]
  exact s.begin_sameRest x

/-- A destination written from numbers holds their words. -/
theorem State.wordsIn_of_writeNat {t : State} {x : Ins} {o : Opnd} {w : Nat} {f : Nat → Nat} {r : RegFile}
    (h : (t.squad x.bid x.sq).rf = r.writeNat o w x.pass f) : t.wordsIn x o w f := by
  intro k hk
  cases o with
  | v n =>
    intro i hi hl
    rw [State.regWord, h]
    exact r.vec_writeNat n hk hi hl f
  | s n =>
    intro i
    rw [State.regWord, h]
    exact r.scalar_writeNat n hk x.pass f
  | t _ | acc _ | p _ | sp _ | bad _ => exact trivial

/-- Settles O31: the destination is written from the bytes read, and neither the ordering of the access nor the advance
of the sub-group touches memory, the blocks or another register. -/
theorem pooledLoadCompletes : Obligations.PooledLoadCompletes := by
  intro a s x hp hg hd
  obtain ⟨hmem, hblocks, hsquads⟩ := s.loaded_frame x a
  obtain ⟨hfmem, -, hfblocks, -⟩ := (s.loaded x a).finish_other x a.hint
  have hsquad : (s.loaded x a).squad x.bid x.sq = s.squadLoaded x a :=
    (State.squad_of_squads hsquads _ _).trans (State.squad_setSquad _ _ _ _)
  have hothers : s.sameSquadsBut (s.loaded x a) x := fun b q hne =>
    (State.squad_of_squads hsquads b q).trans ((State.squad_setSquad_ne _ _ hne).trans (s.begin_squad_ne x b q hne))
  have hrf : (((s.loaded x a).finish x a.hint).squad x.bid x.sq).rf
      = (s.squad x.bid x.sq).rf.writeNat a.d a.mod.sz.regs x.pass (s.poolLoaded x a) := by
    rw [State.finish_rf, hsquad, State.squadLoaded_rf]
  obtain ⟨hcause, hpc, -⟩ : (((s.loaded x a).finish x a.hint).squad x.bid x.sq).sameRest (s.squad x.bid x.sq) :=
    (State.finish_sameRest _ _ _).trans (by rw [hsquad]; exact s.squadLoaded_sameRest x a)
  refine ⟨_, exec_lds_of_poolGoes hp hg hd, hfmem.trans hmem, State.wordsIn_of_writeNat hrf, ?_, fun b q hne => ?_,
    hfblocks.trans hblocks, hcause.symm, hpc.symm⟩
  · rw [hrf]
    exact RegFile.writeNat_agreeBut _ _ _ _ _
  · exact (State.finish_squad_ne _ _ _ hne).trans (hothers b q hne)

/-! ## The pooled store -/

/-- The key in pooled memory of byte k of a lane's access. -/
def State.laneKey (s : State) (x : Ins) (a : Args PMod) (i k : Nat) : Nat :=
  let p := s.lanePlace x (s.poolAddr x a i) a.mod.sz.bytes
  s.poolKey p.1 (p.2 + k) a.mod.skew

/-- The pooled memory after the stores of an instruction's lanes. -/
def State.pooledStored (s : State) (x : Ins) (a : Args PMod) : Memory :=
  Memory.writeEach s.mem.pooled (fun e => s.laneKey x a e.1 e.2)
    (fun e => BitVec.ofNat 8 (s.regNat x.bid x.sq a.d a.mod.sz.regs e.1 / 256 ^ e.2)) (x.stored a.mod.sz.bytes)

/-- The state that a pooled store leaves before its sub-group advances. -/
def State.stored (s : State) (x : Ins) (a : Args PMod) : State :=
  ((s.begin x).setPooled (s.pooledStored x a)).stampPool x.bid a.mod.ord

theorem exec_sts (a : Args PMod) (s : State) : exec (.sts a) s = execSts a s := rfl

/-- A pooled store that goes ahead in sound memory completes. -/
theorem exec_sts_of_poolGoes {a : Args PMod} {s : State} {x : Ins}
    (hp : s.prepare (headOf a (.sts a) false (a.mod.ord != .relaxed)) = .run x) (hg : s.poolGoes x a false)
    (hd : s.dev.damage = []) : exec (.sts a) s = .next ((s.stored x a).finish x a.hint) := by
  obtain ⟨hcause, hbusy⟩ := hg
  have hd' : (s.begin x).dev.damage = [] := hd
  rw [exec_sts]
  refine (issue_run hp).trans ?_
  simp only [State.begin_poolAddr, State.begin_lanePlace, State.begin_poolCause, State.begin_regNat, hcause, hbusy,
    State.poolDamage_of_sound hd', State.repair_of_sound hd', State.poolStores_leBytes, Bool.false_eq_true, if_false]
  rfl

/-- A byte that no lane stores to keeps its value. -/
theorem State.read_pooledStored_ne (s : State) (x : Ins) (a : Args PMod) {m : Nat}
    (h : ∀ i k, i < 32 → x.pass.getLsbD i = true → k < a.mod.sz.bytes → s.laneKey x a i k ≠ m) :
    Memory.read (s.pooledStored x a) m = Memory.read s.mem.pooled m := by
  refine Memory.read_writeEach_ne _ ?_
  rintro ⟨i, k⟩ he
  obtain ⟨⟨hi, hpass⟩, hk⟩ := Ins.mem_stored.mp he
  exact h i k hi hpass hk

/-- A byte holds what the last lane, and its last byte, that reaches it stores (R190). -/
theorem State.read_pooledStored_last (s : State) (x : Ins) (a : Args PMod) {i k : Nat} (hi : i < 32)
    (hpass : x.pass.getLsbD i = true) (hk : k < a.mod.sz.bytes)
    (hlast : ∀ j l, j < 32 → x.pass.getLsbD j = true → l < a.mod.sz.bytes → (i < j ∨ (i = j ∧ k < l)) →
      s.laneKey x a j l ≠ s.laneKey x a i k) :
    Memory.read (s.pooledStored x a) (s.laneKey x a i k)
      = BitVec.ofNat 8 (s.regNat x.bid x.sq a.d a.mod.sz.regs i / 256 ^ k) := by
  refine Memory.read_writeEach_last (e := (i, k)) _ (x.pairwise_stored _) (Ins.mem_stored.mpr ⟨⟨hi, hpass⟩, hk⟩) ?_
  rintro ⟨j, l⟩ he hlt
  obtain ⟨⟨hj, hpassj⟩, hl⟩ := Ins.mem_stored.mp he
  exact hlast j l hj hpassj hl (Prod.lex_def.mp hlt)

/-- A pooled store changes no other memory, and no squad, block, flask or context. -/
theorem State.stored_frame (s : State) (x : Ins) (a : Args PMod) :
    (s.stored x a).mem = { s.mem with pooled := s.pooledStored x a } ∧ (s.stored x a).squads = (s.begin x).squads
    ∧ (s.stored x a).blocks = s.blocks ∧ (s.stored x a).flasks = s.flasks ∧ (s.stored x a).contexts = s.contexts :=
  State.stampPool_frame _ _ _

/-- Settles O32: the lanes' bytes are written in order, so that the last to reach a place stands there; the stamp of
the access and the advance of the sub-group touch no memory and no register. -/
theorem pooledStoreWritesItsBytes : Obligations.PooledStoreWritesItsBytes := by
  intro a s x hp hg hd
  obtain ⟨hmem, hsquads, hblocks, hflasks, hcontexts⟩ := s.stored_frame x a
  have hsquad := State.squad_of_squads hsquads
  obtain ⟨hfmem, -, hfblocks, -, -, hfcontexts, -⟩ := (s.stored x a).finish_other x a.hint
  have hpooled : ((s.stored x a).finish x a.hint).mem.pooled = s.pooledStored x a := by rw [hfmem, hmem]
  refine ⟨_, exec_sts_of_poolGoes hp hg hd, fun m hm => ?_, fun i k hi hpass hk hlast => ?_, ?_, ?_, ?_, fun b q hne => ?_,
    hfblocks.trans hblocks, ?_, hfcontexts.trans hcontexts⟩
  · rw [hpooled]
    exact s.read_pooledStored_ne x a hm
  · rw [hpooled]
    exact s.read_pooledStored_last x a hi hpass hk hlast
  · rw [hpooled, hfmem, hmem]
  · rw [State.finish_rf, hsquad, State.begin_rf]
  · exact (State.finish_sameRest _ _ _).trans (by rw [hsquad]; exact s.begin_sameRest x)
  · exact (State.finish_squad_ne _ _ _ hne).trans ((hsquad b q).trans (s.begin_squad_ne x b q hne))
  · exact (State.finish_flasks_endWait _ _ _).trans
      (State.endWait_flasks_congr (by simp [hsquad, State.begin]) hblocks hflasks)

end Sys2Proof.Machine

end

section

/-!
# Register results, shuffles, the clock and control registers

The write of a destination from 64-bit values is the write of its registers from numbers, of which the rules stand with
the pooled load. So a destination holds its result once its sub-group has advanced, and nothing else has changed but
what the advance changes. As the sources of an instruction read the same after its issue has begun as before it, the
results that the operations compute are those on the old values.
-/

namespace Sys2Proof

open Sys2Proof.Machine

theorem Ty.regs_one_or_two (t : Ty) : t.regs = 1 ∨ t.regs = 2 := by
  unfold Ty.regs
  split <;> simp

theorem Cr.regs_one_or_two (r : Cr) : r.regs = 1 ∨ r.regs = 2 := by
  cases r <;> simp [Cr.regs]

/-! ## The halves of a 64-bit value -/

theorem DWord.lo_eq_ofNat (v : DWord) : v.lo = BitVec.ofNat 32 (v.toNat / 2 ^ (32 * 0)) := by
  simp [DWord.lo, BitVec.extractLsb']

theorem DWord.hi_eq_ofNat (v : DWord) : v.hi = BitVec.ofNat 32 (v.toNat / 2 ^ (32 * 1)) := by
  simp [DWord.hi, BitVec.extractLsb', Nat.shiftRight_eq_div_pow]

theorem DWord.ofHalves_lo_hi (v : DWord) : DWord.ofHalves v.lo v.hi = v := by
  unfold DWord.ofHalves DWord.lo DWord.hi
  rw [BitVec.extractLsb'_append_extractLsb'_eq_extractLsb' (by rfl)]
  simp

end Sys2Proof

namespace Sys2Proof.Machine

open Sys2Proof

/-! ## The write of an operand -/

/-- A predicate register other than p7 holds the value written to it (R33). -/
theorem RegFile.pred_setPred_self (r : RegFile) {n : Nat} (hn : n ≠ 7) (w : Lanes) : (r.setPred n w).pred n = w := by
  simp [RegFile.setPred, RegFile.pred, hn]

/-- The repair of damaged units leaves every squad. -/
theorem State.squad_repair (s : State) (us : List (Nat × Nat)) (b q : Nat) : (s.repair us).squad b q = s.squad b q := by
  unfold State.repair
  split <;> rfl

section

variable {w : Nat} (hw : w = 1 ∨ w = 2)
include hw

/-- An operand of one or two registers written from 64-bit values is written from their numbers. -/
theorem Squad.writeVal_eq_writeNat (q : Squad) (o : Opnd) (lanes : Lanes) (f : Nat → DWord) :
    q.writeVal o w lanes f = q.writeNat o w lanes fun i => (f i).toNat := by
  rcases hw with rfl | rfl <;>
    simp [Squad.writeVal, Squad.writeNat, List.range_succ, DWord.lo_eq_ofNat, DWord.hi_eq_ofNat]

/-- An operand whose registers hold the words of a 64-bit value reads as what they hold of it. -/
theorem State.get_eq_cutTo {t : State} {x : Ins} {o : Opnd} {i : Nat} {v : DWord}
    (h : ∀ k, k < w → t.regWord x.bid x.sq o k i = BitVec.ofNat 32 (v.toNat / 2 ^ (32 * k))) :
    t.get x o w i = cutTo w v := by
  rcases hw with rfl | rfl
  · simp only [State.get, State.regVal, cutTo, if_true, h 0 (by omega), DWord.lo_eq_ofNat]
  · have hlo := (h 0 (by omega)).trans v.lo_eq_ofNat.symm
    have hhi := (h 1 (by omega)).trans v.hi_eq_ofNat.symm
    simp [State.get, State.regVal, cutTo, hlo, hhi, DWord.ofHalves_lo_hi]

/-- A destination written from the numbers of a result holds it. -/
theorem State.holdsIn_of_writeNat {t : State} {x : Ins} {o : Opnd} {f : Nat → DWord} {r : RegFile}
    (h : (t.squad x.bid x.sq).rf = r.writeNat o w x.pass fun i => (f i).toNat) : t.holdsIn x o w f := by
  have hwords : t.wordsIn x o w fun i => (f i).toNat := State.wordsIn_of_writeNat h
  cases o with
  | v n => exact fun i hi hl => State.get_eq_cutTo hw fun k hk => hwords k hk i hi hl
  | s n => exact fun i => State.get_eq_cutTo hw fun k hk => hwords k hk i
  | p n =>
    rintro rfl hn
    have hn' : n.toNat ≠ 7 := fun e => hn (BitVec.eq_of_toNat_eq e)
    rw [h, RegFile.writeNat_succ, RegFile.write, RegFile.pred_setPred_self _ hn', DWord.lo_eq_ofNat]
    rfl
  | t _ | acc _ | sp _ | bad _ => exact trivial

/-- An operand written in the passing lanes is written in the squad's registers. -/
theorem State.put_squad (s : State) (x : Ins) (o : Opnd) (f : Nat → DWord) :
    (s.put x o w f).squad x.bid x.sq = (s.squad x.bid x.sq).writeNat o w x.pass fun i => (f i).toNat := by
  refine (State.squad_setSquad _ _ _ _).trans ?_
  rw [State.squad_repair, Squad.writeVal_eq_writeNat hw]

/-- The registers after an instruction that writes an operand and advances its sub-group. -/
theorem State.put_finish_rf (s : State) (x : Ins) (o : Opnd) (f : Nat → DWord) (h : Hint) :
    ((((s.begin x).put x o w f).finish x h).squad x.bid x.sq).rf
      = (s.squad x.bid x.sq).rf.writeNat o w x.pass fun i => (f i).toNat := by
  rw [State.finish_rf, State.put_squad hw, Squad.writeNat_eq, State.begin_rf]

/-- Once the instruction has advanced, the operand holds what was written. -/
theorem State.put_finish_holdsIn (s : State) (x : Ins) (o : Opnd) (f : Nat → DWord) (h : Hint) :
    (((s.begin x).put x o w f).finish x h).holdsIn x o w f :=
  State.holdsIn_of_writeNat hw (s.put_finish_rf hw x o f h)

end

/-! ## The frame of a write -/

theorem State.sameOutside.trans {s t u : State} (h : s.sameOutside t) (h' : t.sameOutside u) : s.sameOutside u := by
  simp_all [State.sameOutside]

/-- The repair of damaged units touches their marks alone. -/
theorem State.repair_sameOutside (s : State) (us : List (Nat × Nat)) : s.sameOutside (s.repair us) := by
  unfold State.repair
  split <;> simp [State.sameOutside]

theorem State.setSquad_sameOutside (s : State) (bid sq : Nat) (q : Squad) : s.sameOutside (s.setSquad bid sq q) := by
  simp [State.sameOutside]

theorem State.tickStamp_sameOutside (s : State) : s.sameOutside s.tickStamp := by
  simp [State.sameOutside]

theorem State.put_sameOutside (s : State) (x : Ins) (o : Opnd) (w : Nat) (f : Nat → DWord) :
    s.sameOutside (s.put x o w f) :=
  (s.repair_sameOutside _).trans (State.setSquad_sameOutside _ _ _ _)

/-- The write of an operand leaves every other squad. -/
theorem State.put_sameSquadsBut (s : State) (x : Ins) (o : Opnd) (w : Nat) (f : Nat → DWord) :
    s.sameSquadsBut (s.put x o w f) x :=
  fun b q hne => (State.squad_setSquad_ne _ _ hne).trans (s.squad_repair _ b q)

/-- The end of a wait in place leaves the engine programs, the chains and the requests of `tknxt`. -/
theorem State.endWait_programs (s : State) (bid sq : Nat) :
    (s.endWait bid sq).progs = s.progs ∧ (s.endWait bid sq).chains = s.chains ∧ (s.endWait bid sq).tks = s.tks := by
  unfold State.endWait State.dropPusher
  split <;> simp

/-- The end of a wait in place does the same outside the squads to states that agree there and in the squad's wait. -/
theorem State.endWait_sameOutside_congr {s t : State} {bid sq : Nat}
    (hw : (t.squad bid sq).waitsAt = (s.squad bid sq).waitsAt) (h : s.sameOutside t) :
    (s.endWait bid sq).sameOutside (t.endWait bid sq) := by
  obtain ⟨hmem, hhomes, hblocks, hflasks, hpours, hcores, hprogs, hchains, htks, hcontexts, htenants, hdev⟩ := h
  simp only [State.sameOutside, State.endWait_other, State.endWait_programs]
  exact ⟨hmem, hhomes, hblocks, State.endWait_flasks_congr hw hblocks hflasks, hpours, hcores, hprogs, hchains, htks,
    hcontexts, htenants, hdev⟩

/-- Outside the squads, the advance of a sub-group is the end of its squad's wait in place. -/
theorem State.finish_sameOutside (s : State) (x : Ins) (h : Hint) :
    (s.endWait x.bid x.sq).sameOutside (s.finish x h) := by
  have hmove : s.sameOutside (s.moveTo x fun _ => x.next) := State.setSquad_sameOutside _ _ _ _
  have hwait : ((s.moveTo x fun _ => x.next).squad x.bid x.sq).waitsAt = (s.squad x.bid x.sq).waitsAt := by
    simp [State.moveTo, State.setCtl]
  exact (State.endWait_sameOutside_congr hwait hmove).trans
    ((State.setSquad_sameOutside _ x.bid x.sq _).trans (State.tickStamp_sameOutside _))

/-- An instruction that writes an operand and advances leaves every other squad. -/
theorem State.put_finish_sameSquadsBut (s : State) (x : Ins) (o : Opnd) (w : Nat) (f : Nat → DWord) (h : Hint) :
    s.sameSquadsBut (((s.begin x).put x o w f).finish x h) x := fun b q hne =>
  (State.finish_squad_ne _ x h hne).trans
    (((s.begin x).put_sameSquadsBut x o w f b q hne).trans (s.begin_squad_ne x b q hne))

section

variable {w : Nat} (hw : w = 1 ∨ w = 2) (s : State) (x : Ins) (o : Opnd) (f : Nat → DWord) (h : Hint)
include hw

/-- It changes nothing outside the squads but what its squad's wait leaves there. -/
theorem State.put_finish_sameOutside :
    (s.endWait x.bid x.sq).sameOutside (((s.begin x).put x o w f).finish x h) := by
  have hput : s.sameOutside ((s.begin x).put x o w f) :=
    (State.setSquad_sameOutside _ _ _ _).trans ((s.begin x).put_sameOutside x o w f)
  have hwait : (((s.begin x).put x o w f).squad x.bid x.sq).waitsAt = (s.squad x.bid x.sq).waitsAt := by
    rw [State.put_squad hw, Squad.writeNat_eq]
    simp [State.begin]
  exact (State.endWait_sameOutside_congr hwait hput).trans (State.finish_sameOutside _ x h)

/-- It leaves every register outside the operand and the passing lanes. -/
theorem State.put_finish_agreeBut :
    RegFile.agreeBut (s.squad x.bid x.sq).rf ((((s.begin x).put x o w f).finish x h).squad x.bid x.sq).rf o w x.pass := by
  rw [State.put_finish_rf hw]
  exact RegFile.writeNat_agreeBut _ _ _ _ _

end

/-! ## Values that the beginning of an issue leaves -/

theorem State.begin_get (s : State) (x : Ins) (o : Opnd) (w i : Nat) : (s.begin x).get x o w i = s.get x o w i := by
  simp only [State.get, State.regVal, State.begin_regWord]

theorem State.begin_srcA (s : State) (x : Ins) (h : Head) (i : Nat) : (s.begin x).srcA x h i = s.srcA x h i :=
  s.begin_get x _ _ i

theorem State.begin_srcB (s : State) (x : Ins) (h : Head) (i : Nat) : (s.begin x).srcB x h i = s.srcB x h i :=
  s.begin_get x _ _ i

theorem State.begin_srcC (s : State) (x : Ins) (h : Head) (i : Nat) : (s.begin x).srcC x h i = s.srcC x h i :=
  s.begin_get x _ _ i

theorem State.begin_shuffled (s : State) (x : Ins) (m : ShflMode) (a b : Opnd) (i : Nat) :
    (s.begin x).shuffled x m a b i = s.shuffled x m a b i := by
  simp only [State.shuffled, State.get1, State.begin_regWord]

theorem State.begin_clock (s : State) (x : Ins) : (s.begin x).clock x.bid = s.clock x.bid := rfl

theorem State.begin_mayRead (s : State) (x : Ins) (r : Cr) : (s.begin x).mayRead x r = s.mayRead x r := rfl

/-- The beginning of an issue changes no control register. -/
theorem State.begin_crRead (s : State) (x : Ins) (r : Cr) : (s.begin x).crRead x r = s.crRead x r := by
  cases r with
  | cause | trappc | skidct => simp [State.crRead, State.begin]
  | _ => rfl

/-! ## Instructions that write a destination -/

/-- An instruction that writes its destination with a function of its lane, which the beginning of an issue leaves as it
is, leaves the values of that function in it. -/
theorem yields_alu {i : Instr} {h : Head} {f : Ins → State → Nat → DWord}
    (hw : h.shape.d.width = 1 ∨ h.shape.d.width = 2) (hexec : exec i = alu h f)
    (hbegin : ∀ s x, f x (s.begin x) = f x s) : Yields i h fun s x => f x s := by
  intro s x hp
  refine ⟨_, (congrFun hexec s).trans (issue_run hp), ?_⟩
  rw [hbegin]
  exact s.put_finish_holdsIn hw x _ _ _

section

variable {μ : Type} {a : Args μ} {i : Instr} {op₁ : DWord → DWord} {op₂ : DWord → DWord → DWord}
  {op₃ : DWord → DWord → DWord → DWord}

theorem yields_alu1 (hw : (shape i).d.width = 1 ∨ (shape i).d.width = 2)
    (hexec : exec i = alu1 (headOf a i true) op₁) : Yields i (headOf a i true) (of1 (headOf a i) op₁) :=
  yields_alu hw hexec fun s x => by
    funext k
    simp only [of1, State.begin_srcA]

theorem yields_alu2 (hw : (shape i).d.width = 1 ∨ (shape i).d.width = 2)
    (hexec : exec i = alu2 (headOf a i true) op₂) : Yields i (headOf a i true) (of2 (headOf a i) op₂) :=
  yields_alu hw hexec fun s x => by
    funext k
    simp only [of2, State.begin_srcA, State.begin_srcB]

theorem yields_alu3 (hw : (shape i).d.width = 1 ∨ (shape i).d.width = 2)
    (hexec : exec i = alu3 (headOf a i true) op₃) : Yields i (headOf a i true) (of3 (headOf a i) op₃) :=
  yields_alu hw hexec fun s x => by
    funext k
    simp only [of3, State.begin_srcA, State.begin_srcB, State.begin_srcC]

end

/-! ## Integer instructions -/

/-- Settles O13: each instruction writes its destination, of its type's registers or of one or two that do not depend on
the type, with its operation on its sources. -/
theorem integerResults : Obligations.IntegerResults :=
  have regs (a : Args IntMod) := a.mod.ty.regs_one_or_two
  ⟨fun a => yields_alu2 (regs a) rfl,  -- add
    fun a => yields_alu2 (regs a) rfl,  -- sub
    fun a => yields_alu2 (regs a) rfl,  -- mulLo
    fun a => yields_alu2 (regs a) rfl,  -- mulHi
    fun a => yields_alu2 (regs a) rfl,  -- mulLoMap2
    fun a => yields_alu2 (regs a) rfl,  -- mulHiMap2
    fun a => yields_alu3 (regs a) rfl,  -- mad
    fun _ => yields_alu3 (.inr rfl) rfl,  -- madWide
    fun a => yields_alu2 (regs a) rfl,  -- div
    fun a => yields_alu2 (regs a) rfl,  -- rem
    fun a => yields_alu2 (regs a) rfl,  -- min
    fun a => yields_alu2 (regs a) rfl,  -- max
    fun a => yields_alu1 (regs a) rfl,  -- abs
    fun a => yields_alu1 (regs a) rfl,  -- neg
    fun a => yields_alu2 (regs a) rfl,  -- and
    fun a => yields_alu2 (regs a) rfl,  -- or
    fun a => yields_alu2 (regs a) rfl,  -- xor
    fun a => yields_alu1 (regs a) rfl,  -- not
    fun a => yields_alu2 (regs a) rfl,  -- shl
    fun a => yields_alu2 (regs a) rfl,  -- shr
    fun a => yields_alu2 (regs a) rfl,  -- sar
    fun a => yields_alu2 (regs a) rfl,  -- rot
    fun _ => yields_alu1 (.inl rfl) rfl,  -- clz
    fun _ => yields_alu1 (.inl rfl) rfl,  -- popc
    fun a => yields_alu1 (regs a) rfl,  -- brev
    fun a => yields_alu2 (regs a) rfl,  -- bfx
    fun a => yields_alu3 (regs a) rfl,  -- bfi
    fun _ => yields_alu2 (.inr rfl) rfl,  -- lea
    fun _ => yields_alu3 (.inl rfl) rfl,  -- dp4
    fun a => yields_alu1 (regs a) rfl,  -- mov
    fun a => yields_alu (regs a) rfl fun _ _ => rfl⟩  -- movi

/-! ## Shuffles and the clock -/

/-- A shuffle in any mode leaves each passing lane its shuffled value. -/
theorem yields_shuffled {i : Instr} {a : Args Unit} {m : ShflMode} (hw : (shape i).d.width = 1)
    (hexec : exec i = alu (headOf a i true) fun x s k => (s.shuffled x m a.a a.b k).setWidth 64) :
    Yields i (headOf a i true) fun s x k => (s.shuffled x m a.a a.b k).setWidth 64 :=
  yields_alu (.inl hw) hexec fun s x => by simp only [State.begin_shuffled]

/-- Settles O19: a shuffle reads lanes that the beginning of its issue leaves, and the clock of its block's die is none of
its squad's state. -/
theorem shuffleAndClockResults : Obligations.ShuffleAndClockResults :=
  ⟨fun _ => yields_shuffled rfl rfl, fun _ => yields_shuffled rfl rfl, fun _ => yields_shuffled rfl rfl,
    fun _ => yields_shuffled rfl rfl,
    fun _ => yields_alu (f := fun x s _ => s.clock x.bid) (.inr rfl) rfl fun s x => funext fun _ => s.begin_clock x⟩

/-! ## Control registers -/

theorem exec_movcr (a : Args Cr) (s : State) : exec (.movcr a) s = execMovcr a s := rfl

theorem exec_movrc (a : Args Cr) (s : State) : exec (.movrc a) s = execMovrc a s := rfl

/-- A control register that may be written, with a value that it accepts, is written (R62). -/
theorem exec_movcr_of_crWrite {a : Args Cr} {s u : State} {x : Ins} (hp : s.prepare (headOf a (.movcr a)) = .run x)
    (hmay : (s.begin x).mayWrite x a.mod = true)
    (hwrite : (s.begin x).crWrite x a.mod ((s.begin x).get x a.a a.mod.regs x.lane) = some u) :
    exec (.movcr a) s = .next (u.finish x a.hint) := by
  rw [exec_movcr, execMovcr, issue_run hp]
  simp only [hmay, hwrite, Bool.not_true, Bool.false_eq_true, if_false]
  rfl

theorem movcr_traps_of_not_mayWrite (a : Args Cr) :
    TrapsWhen (.movcr a) (headOf a (.movcr a)) (fun x s => s.mayWrite x a.mod = false) 0x017 fun _ _ => a.mod.enc.toNat := by
  intro s x hp hmay
  rw [exec_movcr, execMovcr, issue_run hp]
  simp only [hmay, Bool.not_false, if_true]
  rfl

theorem movcr_traps_of_crWrite_none (a : Args Cr) :
    TrapsWhen (.movcr a) (headOf a (.movcr a))
      (fun x s => s.mayWrite x a.mod = true ∧ s.crWrite x a.mod (s.get x a.a a.mod.regs x.lane) = none) 0x018
      fun _ _ => a.mod.enc.toNat := by
  rintro s x hp ⟨hmay, hnone⟩
  rw [exec_movcr, execMovcr, issue_run hp]
  simp only [hmay, hnone, Bool.not_true, Bool.false_eq_true, if_false]
  rfl

/-- A control register that may be read is written to the destination (R62). -/
theorem exec_movrc_of_mayRead {a : Args Cr} {s : State} {x : Ins} (hp : s.prepare (headOf a (.movrc a) true) = .run x)
    (hmay : s.mayRead x a.mod = true) :
    exec (.movrc a) s = .next (((s.begin x).put x a.d a.mod.regs fun _ => s.crRead x a.mod).finish x a.hint) := by
  rw [exec_movrc, execMovrc, issue_run hp]
  simp only [State.begin_mayRead, State.begin_crRead, hmay, if_true]
  rfl

theorem movrc_traps_of_not_mayRead (a : Args Cr) :
    TrapsWhen (.movrc a) (headOf a (.movrc a) true) (fun x s => s.mayRead x a.mod = false) 0x017
      fun _ _ => a.mod.enc.toNat := by
  intro s x hp hmay
  rw [exec_movrc, execMovrc, issue_run hp]
  simp only [hmay, Bool.false_eq_true, if_false]
  rfl

/-- What each control register that takes a write becomes (R63 to R66). -/
theorem State.crWrite_cases {s u : State} {x : Ins} {r : Cr} {v : DWord} (h : s.crWrite x r v = some u) :
    (∃ n, r = .tshape n ∧ u = s.setBlock x.bid { s.block x.bid with
        tshape := (s.block x.bid).tshape.put n.toNat (v.lo &&& 0x00073F7F) })
    ∨ (∃ n, r = .skew n ∧ u = s.setBlock x.bid { s.block x.bid with skew := (s.block x.bid).skew.put n.toNat v.lo })
    ∨ (r = .stklim ∧ u = s.setBlock x.bid { s.block x.bid with stklim := v.lo &&& 0xFFFFFFF0 })
    ∨ (r = .cause ∧ u = s.setSquad x.bid x.sq { s.squad x.bid x.sq with cause := v.lo &&& 0xFFFF03FF })
    ∨ (r = .trappc ∧ u = s.setTrapPc x v)
    ∨ ((r = .dtsel ∨ r = .audfrac) ∧ ∃ c, u = s.setContext (s.tagOfBlock x.bid) c) := by
  cases r with
  | tshape | skew | stklim | dtsel | audfrac =>
    simp only [State.crWrite] at h
    split at h <;> cases h
    simp
  | cause | trappc =>
    cases h
    simp
  | tagmap | skidct | rstpc | asgen | viewgen | prio | drgrp => cases h

/-- TRAPPC written changes no memory and no general register, and the PC of the squad is the one written. -/
theorem State.setTrapPc_frame (s : State) (x : Ins) (v : Pc) :
    (s.setTrapPc x v).mem = s.mem ∧ ((s.setTrapPc x v).squad x.bid x.sq).rf = (s.squad x.bid x.sq).rf
    ∧ ((s.setTrapPc x v).squad x.bid x.sq).trapPc = v &&& 0x01FFFFFFFFFFFFFF := by
  simp [State.setTrapPc]

/-- The write of a block or a context leaves every squad. -/
theorem State.squad_setBlock (s : State) (bid b k : Nat) (y : Block) : (s.setBlock bid y).squad b k = s.squad b k := rfl

theorem State.squad_setContext (s : State) (t b k : Nat) (y : Context) :
    (s.setContext t y).squad b k = s.squad b k := rfl

/-- A control register written changes no memory and no general register, and reads back with its reserved bits 0. -/
theorem State.crWrite_readsBack {s u : State} {x : Ins} {r : Cr} {v : DWord} (h : s.crWrite x r v = some u) :
    u.mem = s.mem ∧ (u.squad x.bid x.sq).rf = (s.squad x.bid x.sq).rf
    ∧ (∀ n, r = .tshape n → u.crRead x r = (v.lo &&& 0x00073F7F).setWidth 64)
    ∧ (∀ n, r = .skew n → u.crRead x r = v.lo.setWidth 64)
    ∧ (r = .stklim → u.crRead x r = (v.lo &&& 0xFFFFFFF0).setWidth 64)
    ∧ (r = .cause → u.crRead x r = (v.lo &&& 0xFFFF03FF).setWidth 64)
    ∧ (r = .trappc → u.crRead x r = v &&& 0x01FFFFFFFFFFFFFF) := by
  obtain ⟨n, rfl, rfl⟩ | ⟨n, rfl, rfl⟩ | ⟨rfl, rfl⟩ | ⟨rfl, rfl⟩ | ⟨rfl, rfl⟩ | ⟨hr, c, rfl⟩ := State.crWrite_cases h
  · simp [State.crRead, State.squad_setBlock]
  · simp [State.crRead, State.squad_setBlock]
  · simp [State.crRead, State.squad_setBlock]
  · simp [State.crRead]
  · obtain ⟨hmem, hrf, hpc⟩ := s.setTrapPc_frame x v
    simp [State.crRead, hmem, hrf, hpc, BitVec.and_assoc]
  · rcases hr with rfl | rfl <;> simp [State.squad_setContext]

/-- Settles O52: `movcr` writes and `movrc` reads where R62 lets them, and both trap with no effect where it does not;
the value written stands in the field of the block or squad that the register reads. -/
theorem controlRegisterMoves : Obligations.ControlRegisterMoves := by
  refine ⟨fun a s u x hp hmay hwrite => ?_, movcr_traps_of_not_mayWrite, movcr_traps_of_crWrite_none,
    fun a s x hp hmay => ?_, movrc_traps_of_not_mayRead, fun s u x r v h => State.crWrite_readsBack h⟩
  · rw [← State.begin_get] at hwrite
    exact exec_movcr_of_crWrite hp hmay hwrite
  · have hw := a.mod.regs_one_or_two
    exact ⟨_, exec_movrc_of_mayRead hp hmay, s.put_finish_holdsIn hw x _ _ _, s.put_finish_sameOutside hw x _ _ _,
      s.put_finish_sameSquadsBut x _ _ _ _, s.put_finish_agreeBut hw x _ _ _⟩

end Sys2Proof.Machine

end

section

/-!
# Integer arithmetic, division, shifts and predicates

Every integer operation reads its operands as exact integers, computes on them and writes the result back. A type reads
back from what it wrote the value wrapped to it (`Ty.read_write`), so the value itself where the type contains it. With
that, the arithmetic of R87 and R89 and the arithmetic shift of R90 are statements on integers; the other shifts are
statements on the numbers that the words stand for. An instruction that writes bits of a predicate writes one word, made
of the old bits and the tests.
-/

namespace Sys2Proof

open Sys2Proof.Machine

/-! ## The integers of a type (R86, R87) -/

/-- A type contains an integer: it lies in the range of R87. -/
def Ty.contains (t : Ty) (v : Int) : Prop := t.minOf ≤ v ∧ v ≤ t.maxOf

/-- The range of a type, by its signedness. -/
theorem Ty.contains_iff (t : Ty) (v : Int) :
    t.contains v ↔ if t.signed = true then -(2 ^ (t.bits - 1)) ≤ v ∧ v < 2 ^ (t.bits - 1) else 0 ≤ v ∧ v < 2 ^ t.bits := by
  unfold Ty.contains Ty.minOf Ty.maxOf
  split <;> rw [Int.le_sub_one_iff]

theorem Ty.two_pow_bits (t : Ty) : (2 : Int) ^ t.bits = 2 * 2 ^ (t.bits - 1) := by
  cases t <;> rfl

theorem Ty.bits_eq_of_le {t : Ty} (h : 32 ≤ t.bits) : t.bits = 32 ∨ t.bits = 64 := by
  cases t <;> simp_all [Ty.bits]

/-- Every type contains 0. -/
theorem Ty.contains_zero (t : Ty) : t.contains 0 := by
  have hp : (0 : Int) < 2 ^ (t.bits - 1) := by positivity
  have h2 := t.two_pow_bits
  rw [Ty.contains_iff]
  split <;> omega

/-- The integers between 0 and one that a type contains are of the type. -/
theorem Ty.contains_between {t : Ty} {v u : Int} (hv : t.contains v) (h : 0 ≤ u ∧ u ≤ v ∨ v ≤ u ∧ u ≤ 0) :
    t.contains u := by
  obtain ⟨hlo, hhi⟩ := t.contains_zero
  obtain ⟨hvlo, hvhi⟩ := hv
  exact ⟨by omega, by omega⟩

theorem Ty.wrap_eq (t : Ty) (v : Int) :
    t.wrap v = if t.signed = true ∧ 2 ^ (t.bits - 1) ≤ v % 2 ^ t.bits then v % 2 ^ t.bits - 2 ^ t.bits
      else v % 2 ^ t.bits := rfl

theorem Ty.contains_wrap (t : Ty) (v : Int) : t.contains (t.wrap v) := by
  have hlo : 0 ≤ v % 2 ^ t.bits := Int.emod_nonneg v (by positivity)
  have hhi : v % 2 ^ t.bits < 2 ^ t.bits := Int.emod_lt_of_pos v (by positivity)
  have h2 := t.two_pow_bits
  rw [Ty.contains_iff, Ty.wrap_eq]
  by_cases hs : t.signed = true
  · simp only [hs, true_and, if_true]
    split <;> omega
  · rw [if_neg hs, if_neg fun hc => hs hc.1]
    exact ⟨hlo, hhi⟩

/-- An integer that a type contains is not wrapped. -/
theorem Ty.wrap_of_contains {t : Ty} {v : Int} (h : t.contains v) : t.wrap v = v := by
  have h2 := t.two_pow_bits
  have hp : (0 : Int) < 2 ^ (t.bits - 1) := by positivity
  rw [Ty.contains_iff] at h
  rw [Ty.wrap_eq]
  by_cases hs : t.signed = true
  · simp only [hs, true_and, if_true] at h ⊢
    rcases lt_or_ge v 0 with hneg | hpos
    · have hmod : v % 2 ^ t.bits = v + 2 ^ t.bits := by
        rw [← Int.add_emod_right, Int.emod_eq_of_lt (by omega) (by omega)]
      rw [hmod, if_pos (by omega), Int.add_sub_cancel]
    · rw [Int.emod_eq_of_lt hpos (by omega), if_neg (by omega)]
  · rw [if_neg hs] at h
    rw [if_neg fun hc => hs hc.1]
    exact Int.emod_eq_of_lt h.1 h.2

/-- Wrapping changes an integer by a multiple of 2^W. -/
theorem Ty.wrap_emod (t : Ty) (v : Int) : t.wrap v % 2 ^ t.bits = v % 2 ^ t.bits := by
  rw [Ty.wrap_eq]
  split
  · rw [Int.sub_emod_right, Int.emod_emod]
  · exact Int.emod_emod _ _

theorem Ty.wrap_of_emod (t : Ty) (v : Int) : t.wrap (v % 2 ^ t.bits) = t.wrap v := by
  simp only [Ty.wrap_eq, Int.emod_emod]

theorem Ty.read_eq_wrap (t : Ty) (x : DWord) : t.read x = t.wrap x.toNat := by
  simp only [Ty.read, Ty.wrap_eq]
  norm_cast

theorem Ty.contains_read (t : Ty) (x : DWord) : t.contains (t.read x) :=
  t.read_eq_wrap x ▸ t.contains_wrap _

section

variable {t : Ty} (h : 32 ≤ t.bits)
include h

theorem Ty.toNat_write (v : Int) : ((t.write v).toNat : Int) = v % 2 ^ t.bits := by
  have hmod : ∀ n : Nat, 0 ≤ v % 2 ^ n := fun n => Int.emod_nonneg v (by positivity)
  unfold Ty.write
  rcases Ty.bits_eq_of_le h with hb | hb
  · rw [if_neg (by omega), BitVec.toNat_setWidth_of_le (by omega), BitVec.toNat_ofInt, hb]
    exact Int.toNat_of_nonneg (hmod 32)
  · rw [if_pos hb, BitVec.toNat_ofInt, hb]
    exact Int.toNat_of_nonneg (hmod 64)

/-- A type reads back the integer that it wrote, wrapped. -/
theorem Ty.read_write (v : Int) : t.read (t.write v) = t.wrap v := by
  rw [Ty.read_eq_wrap, Ty.toNat_write h, Ty.wrap_of_emod]

/-- A type reads back an integer that it contains. -/
theorem Ty.read_write_of_contains {v : Int} (hv : t.contains v) : t.read (t.write v) = v :=
  (Ty.read_write h v).trans (Ty.wrap_of_contains hv)

end

/-! ## Wrapped and saturated arithmetic (R87) -/

section

variable {t : Ty} (h : t.bits = 32)
include h

theorem Ty.ofInt_wrap (v : Int) : BitVec.ofInt 32 (t.wrap v) = BitVec.ofInt 32 v := by
  have hmod := t.wrap_emod v
  rw [h] at hmod
  apply BitVec.eq_of_toNat_eq
  rw [BitVec.toNat_ofInt, BitVec.toNat_ofInt]
  exact congrArg Int.toNat hmod

/-- The low word of an operand, from the integer that a 32-bit type reads in it. -/
theorem Ty.lo_eq_ofInt_read (x : DWord) : x.lo = BitVec.ofInt 32 (t.read x) := by
  rw [Ty.read_eq_wrap, Ty.ofInt_wrap h, BitVec.ofInt_natCast, DWord.lo_eq_ofNat, Nat.mul_zero, Nat.pow_zero, Nat.div_one]

/-- The low word of a wrapped result is the exact one modulo 2^32. -/
theorem Ty.lo_fit_wrapped (v : Int) : (t.fit false v).lo = BitVec.ofInt 32 v := by
  rw [Ty.lo_eq_ofInt_read h, Ty.fit, Ty.read_write h.ge, Ty.ofInt_wrap h]
  exact Ty.ofInt_wrap h v

end

theorem clampInt_eq_max_min {lo hi : Int} (h : lo ≤ hi) (v : Int) : clampInt lo hi v = max lo (min hi v) := by
  unfold clampInt
  split_ifs <;> omega

/-- A saturated result reads as the exact one cut to the range of the type. -/
theorem Ty.read_fit_saturated {t : Ty} (h : 32 ≤ t.bits) (v : Int) :
    t.read (t.fit true v) = max t.minOf (min t.maxOf v) := by
  obtain ⟨hlo, hhi⟩ := t.contains_zero
  have hclamp := clampInt_eq_max_min (hlo.trans hhi) v
  have hin : t.contains (clampInt t.minOf t.maxOf v) := by
    rw [hclamp]
    exact ⟨by omega, by omega⟩
  exact (Ty.read_write_of_contains h hin).trans hclamp

theorem DWord.toNat_lo (x : DWord) : x.lo.toNat = x.toNat % 2 ^ 32 := by
  rw [DWord.lo_eq_ofNat, BitVec.toNat_ofNat, Nat.mul_zero, Nat.pow_zero, Nat.div_one]

/-- A word extended with zeros has itself as its low word. -/
theorem DWord.lo_setWidth (w : Word) : DWord.lo (w.setWidth 64) = w := by
  apply BitVec.eq_of_toNat_eq
  rw [DWord.toNat_lo, BitVec.toNat_setWidth_of_le (by omega), Nat.mod_eq_of_lt w.isLt]

theorem Ty.read_n32 (x : DWord) : Ty.n32.read x = x.lo.toNat := by
  rw [DWord.toNat_lo]
  rfl

theorem Ty.read_i32 (x : DWord) : Ty.i32.read x = x.lo.toInt := by
  rw [BitVec.toInt_eq_toNat_cond, DWord.toNat_lo, Ty.read]
  simp only [Ty.signed, Ty.bits, true_and]
  split_ifs <;> omega

/-- Settles O15: a 32-bit type reads the low words of the operands, and what it writes back is the exact result modulo
2^32 or, saturated, cut to its range. -/
theorem wrappedAndSaturatedArithmetic : Obligations.WrappedAndSaturatedArithmetic := by
  refine ⟨fun m a b c hty hsat => ?_, fun m a b hty hsat => ?_, fun m a b hty hsat => ?_⟩
  · have hbits : m.ty.bits = 32 := by rcases hty with hty | hty <;> rw [hty] <;> rfl
    simp only [opAdd, opSub, opMulLo, opMad, opNeg, hsat, Ty.lo_fit_wrapped hbits, Ty.lo_eq_ofInt_read hbits,
      sub_eq_add_neg, BitVec.ofInt_add, BitVec.ofInt_mul, BitVec.ofInt_neg, and_self]
  · simp only [opAdd, opSub, hty, hsat, ← Ty.read_i32, Ty.read_fit_saturated (t := .i32) le_rfl]
    exact ⟨rfl, rfl⟩
  · have ha := a.lo.isLt
    have hb := b.lo.isLt
    have hadd := Ty.read_fit_saturated (t := .n32) le_rfl (Ty.n32.read a + Ty.n32.read b)
    have hsub := Ty.read_fit_saturated (t := .n32) le_rfl (Ty.n32.read a - Ty.n32.read b)
    have hmin : Ty.n32.minOf = 0 := rfl
    have hmax : Ty.n32.maxOf = 2 ^ 32 - 1 := rfl
    simp only [Ty.read_n32, hmin, hmax] at hadd hsub
    simp only [opAdd, opSub, hty, hsat, Ty.read_n32]
    constructor <;> omega

/-! ## Division (R89) -/

theorem Ty.minOf_of_signed {t : Ty} (h : t.signed = true) : t.minOf = -(2 ^ (t.bits - 1)) := if_pos h

theorem Ty.maxOf_of_signed {t : Ty} (h : t.signed = true) : t.maxOf = 2 ^ (t.bits - 1) - 1 := if_pos h

theorem Ty.contains_minOf (t : Ty) : t.contains t.minOf := by
  obtain ⟨hlo, hhi⟩ := t.contains_zero
  exact ⟨le_rfl, hlo.trans hhi⟩

theorem Ty.contains_maxOf (t : Ty) : t.contains t.maxOf := by
  obtain ⟨hlo, hhi⟩ := t.contains_zero
  exact ⟨hlo.trans hhi, le_rfl⟩

/-- A type contains what it reads in all ones. -/
theorem Ty.contains_allOnes (t : Ty) : t.contains (if t.signed then -1 else t.maxOf) := by
  split
  case isTrue hs =>
    have hp : (0 : Int) < 2 ^ (t.bits - 1) := by positivity
    rw [Ty.contains_iff, if_pos hs]
    omega
  case isFalse => exact t.contains_maxOf

theorem divRem_zero (t : Ty) (sat : Bool) (a : Int) :
    divRem t sat a 0 = (if t.signed then -1 else t.maxOf, a) := if_pos rfl

theorem divRem_overflow {t : Ty} (h : t.signed = true) (sat : Bool) :
    divRem t sat t.minOf (-1) = (if sat then t.maxOf else t.minOf, 0) :=
  (if_neg (by decide)).trans (if_pos ⟨h, rfl, rfl⟩)

theorem divRem_truncates {t : Ty} {a b : Int} (hb : b ≠ 0) (hno : ¬(t.signed = true ∧ a = t.minOf ∧ b = -1))
    (sat : Bool) : divRem t sat a b = (a.tdiv b, a.tmod b) :=
  (if_neg hb).trans (if_neg hno)

/-- Only a division by 1 or -1 leaves the magnitude of a dividend. -/
theorem natAbs_tdiv_lt {a b : Int} (ha : a ≠ 0) (hb : b ≠ 0) (h1 : b ≠ 1) (hm1 : b ≠ -1) :
    (a.tdiv b).natAbs < a.natAbs := by
  rw [Int.natAbs_tdiv]
  exact Nat.div_lt_self (by omega) (by omega)

/-- A quotient is of the type, save at the signed overflow. -/
theorem Ty.contains_tdiv {t : Ty} {a b : Int} (ha : t.contains a) (hcb : t.contains b) (hb : b ≠ 0)
    (hno : ¬(t.signed = true ∧ a = t.minOf ∧ b = -1)) : t.contains (a.tdiv b) := by
  have habs := Int.natAbs_tdiv_le_natAbs a b
  by_cases hs : t.signed = true
  · rw [Ty.minOf_of_signed hs] at hno
    rw [Ty.contains_iff, if_pos hs] at ha ⊢
    by_cases hm1 : b = -1
    · have ha' : a ≠ -(2 ^ (t.bits - 1)) := fun he => hno ⟨hs, he, hm1⟩
      rw [hm1, Int.tdiv_neg, Int.tdiv_one]
      omega
    by_cases h1 : b = 1
    · rwa [h1, Int.tdiv_one]
    by_cases ha0 : a = 0
    · rwa [ha0, Int.zero_tdiv, ← ha0]
    have hlt := natAbs_tdiv_lt ha0 hb h1 hm1
    omega
  · have hpos : 0 ≤ a ∧ 0 ≤ b := by
      rw [Ty.contains_iff, if_neg hs] at ha hcb
      exact ⟨ha.1, hcb.1⟩
    have hq := Int.tdiv_nonneg hpos.1 hpos.2
    exact Ty.contains_between ha (.inl ⟨hq, by omega⟩)

/-- A remainder is of the type of its dividend: it has its sign and no greater magnitude. -/
theorem Ty.contains_tmod {t : Ty} {a : Int} (ha : t.contains a) (b : Int) : t.contains (a.tmod b) := by
  have habs : (a.tmod b).natAbs ≤ a.natAbs := by
    rw [Int.natAbs_tmod]
    exact Nat.mod_le _ _
  refine Ty.contains_between ha ?_
  rcases lt_or_ge a 0 with hneg | hpos
  · have hr := Int.tmod_nonneg b (a := -a) (by omega)
    rw [Int.neg_tmod] at hr
    omega
  · have hr := Int.tmod_nonneg b hpos
    omega

/-- What a type reads of quotient and remainder, in the cases of R89. -/
theorem read_opDiv_opRem {m : IntMod} (h : 32 ≤ m.ty.bits) (x y : DWord) {p : Int × Int}
    (hp : divRem m.ty m.sat (m.ty.read x) (m.ty.read y) = p) (h1 : m.ty.contains p.1) (h2 : m.ty.contains p.2) :
    m.ty.read (opDiv m x y) = p.1 ∧ m.ty.read (opRem m x y) = p.2 := by
  rw [opDiv, opRem, hp]
  exact ⟨Ty.read_write_of_contains h h1, Ty.read_write_of_contains h h2⟩

/-- Settles O16: quotient and remainder are of the type in each case of R89, so that they read back as written. -/
theorem divisionRule : Obligations.DivisionRule := by
  have regs (a : Args IntMod) := a.mod.ty.regs_one_or_two
  refine ⟨fun m x y hty => ?_, fun a => yields_alu2 (regs a) rfl, fun a => yields_alu2 (regs a) rfl,
    fun a => yields_alu1 (regs a) rfl, fun a => yields_alu1 (regs a) rfl⟩
  have hbits : 32 ≤ m.ty.bits := by rcases hty with hty | hty | hty | hty <;> rw [hty] <;> decide
  have ha := m.ty.contains_read x
  intro a b q r
  refine ⟨fun hb => ?_, fun hs hamin hbm1 => ?_, fun hb hno => ?_⟩
  · have hp : divRem m.ty m.sat a b = _ := hb ▸ divRem_zero m.ty m.sat a
    obtain ⟨hq, hr⟩ := read_opDiv_opRem hbits x y hp m.ty.contains_allOnes ha
    refine ⟨hq.trans ?_, hr⟩
    split
    · rfl
    case isFalse hu => exact if_neg hu
  · rw [← Ty.minOf_of_signed hs] at hamin ⊢
    rw [← Ty.maxOf_of_signed hs]
    have hp : divRem m.ty m.sat a b = (if m.sat then m.ty.maxOf else m.ty.minOf, 0) := by
      rw [hamin, hbm1]
      exact divRem_overflow hs m.sat
    refine read_opDiv_opRem hbits x y hp ?_ m.ty.contains_zero
    dsimp only
    split
    · exact m.ty.contains_maxOf
    · exact m.ty.contains_minOf
  · have hno' : ¬(m.ty.signed = true ∧ a = m.ty.minOf ∧ b = -1) := fun ⟨hs, hamin, hbm1⟩ =>
      hno ⟨hs, hamin.trans (Ty.minOf_of_signed hs), hbm1⟩
    obtain ⟨hq, hr⟩ := read_opDiv_opRem hbits x y (divRem_truncates hb hno' m.sat)
      (Ty.contains_tdiv ha (m.ty.contains_read y) hb hno') (Ty.contains_tmod ha b)
    refine ⟨hq, hr.trans ?_⟩
    rw [Int.tmod_def, Int.mul_comm]
    exact congrArg (fun k => a - k * b) hq.symm

/-! ## Shifts (R90) -/

theorem Ty.toNat_trim {t : Ty} (h : 32 ≤ t.bits) (x : DWord) : (t.trim x).toNat = x.toNat % 2 ^ t.bits := by
  unfold Ty.trim
  rcases Ty.bits_eq_of_le h with hb | hb
  · rw [if_neg (by omega), BitVec.toNat_setWidth_of_le (by omega), BitVec.toNat_setWidth, hb]
  · rw [if_pos hb, hb, Nat.mod_eq_of_lt x.isLt]

/-- The low W bits of a value shifted left are those of its low W bits shifted left. -/
theorem Ty.toNat_trim_shiftLeft {t : Ty} (h : 32 ≤ t.bits) (x : DWord) (n : Nat) :
    (t.trim (x <<< n)).toNat = x.toNat % 2 ^ t.bits * 2 ^ n % 2 ^ t.bits := by
  have hdvd : 2 ^ t.bits ∣ 2 ^ 64 := Nat.pow_dvd_pow 2 (by rcases Ty.bits_eq_of_le h with hb | hb <;> omega)
  rw [Ty.toNat_trim h, BitVec.toNat_shiftLeft, Nat.shiftLeft_eq, Nat.mod_mod_of_dvd _ hdvd, Nat.mod_mul_mod]

/-- The two parts of a rotated word have no bit in common. -/
theorem or_eq_add_of_rotate {a w n : Nat} (ha : a < 2 ^ w) (hn : n < w) :
    a * 2 ^ n % 2 ^ w ||| a / 2 ^ (w - n) = a * 2 ^ n % 2 ^ w + a / 2 ^ (w - n) := by
  have hw : 2 ^ w = 2 ^ (w - n) * 2 ^ n := by rw [← Nat.pow_add, Nat.sub_add_cancel hn.le]
  have hlow : a / 2 ^ (w - n) < 2 ^ n := Nat.div_lt_of_lt_mul (hw ▸ ha)
  rw [hw, Nat.mul_mod_mul_right, Nat.mul_comm, Nat.two_pow_add_eq_or_of_lt hlow]

/-- An arithmetic shift leaves an integer between 0 and the one shifted. -/
theorem fdiv_two_pow_between (a : Int) (n : Nat) :
    0 ≤ a.fdiv (2 ^ n) ∧ a.fdiv (2 ^ n) ≤ a ∨ a ≤ a.fdiv (2 ^ n) ∧ a.fdiv (2 ^ n) ≤ 0 := by
  have hp : (0 : Int) < 2 ^ n := by positivity
  rw [Int.fdiv_eq_ediv_of_nonneg _ hp.le]
  rcases lt_or_ge a 0 with hneg | hpos
  · exact .inr ⟨(Int.le_ediv_iff_mul_le hp).mpr (by nlinarith), (Int.ediv_neg_of_neg_of_pos hneg hp).le⟩
  · exact .inl ⟨Int.ediv_nonneg hpos hp.le, Int.ediv_le_self _ hpos⟩

/-- A shift by W or more leaves copies of the sign (R90). -/
theorem Ty.fdiv_two_pow_bits {t : Ty} {a : Int} (h : t.contains a) :
    a.fdiv (2 ^ t.bits) = if 0 ≤ a then 0 else -1 := by
  have hp : (0 : Int) < 2 ^ t.bits := by positivity
  have h2 := t.two_pow_bits
  have hrange : -(2 ^ t.bits) ≤ a ∧ a < 2 ^ t.bits := by
    rw [Ty.contains_iff] at h
    split at h <;> omega
  rw [Int.fdiv_eq_ediv_of_nonneg _ hp.le]
  split
  · exact Int.ediv_eq_zero_of_lt ‹_› hrange.2
  · have hup : (a + 2 ^ t.bits) / 2 ^ t.bits = 0 := Int.ediv_eq_zero_of_lt (by omega) (by omega)
    rw [Int.add_ediv_of_dvd_right (dvd_refl _), Int.ediv_self hp.ne'] at hup
    omega

section

variable {m : IntMod} (h : 32 ≤ m.ty.bits) (x y : DWord)
include h

theorem toNat_opShl : (opShl m x y).toNat =
    if shiftAmount y < m.ty.bits then x.toNat % 2 ^ m.ty.bits * 2 ^ shiftAmount y % 2 ^ m.ty.bits else 0 := by
  unfold opShl
  split
  · rw [if_neg (by omega), Ty.toNat_trim_shiftLeft h]
  · rw [if_pos (by omega)]
    rfl

theorem toNat_opShr : (opShr m x y).toNat =
    if shiftAmount y < m.ty.bits then x.toNat % 2 ^ m.ty.bits / 2 ^ shiftAmount y else 0 := by
  unfold opShr
  split
  · rw [if_neg (by omega), BitVec.toNat_ushiftRight, Ty.toNat_trim h, Nat.shiftRight_eq_div_pow]
  · rw [if_pos (by omega)]
    rfl

theorem toNat_opRot : (opRot m x y).toNat =
    x.toNat % 2 ^ m.ty.bits * 2 ^ (shiftAmount y % m.ty.bits) % 2 ^ m.ty.bits
      + x.toNat % 2 ^ m.ty.bits / 2 ^ (m.ty.bits - shiftAmount y % m.ty.bits) := by
  have hn : shiftAmount y % m.ty.bits < m.ty.bits := Nat.mod_lt _ (by omega)
  have ha : x.toNat % 2 ^ m.ty.bits < 2 ^ m.ty.bits := Nat.mod_lt _ (by positivity)
  unfold opRot
  rw [BitVec.toNat_or, Ty.toNat_trim_shiftLeft h, BitVec.toNat_ushiftRight, Ty.toNat_trim h,
    Nat.shiftRight_eq_div_pow, Nat.mod_mod, or_eq_add_of_rotate ha hn]

theorem read_opSar : m.ty.read (opSar m x y) =
    if shiftAmount y < m.ty.bits then (m.ty.read x).fdiv (2 ^ shiftAmount y) else if 0 ≤ m.ty.read x then 0 else -1 := by
  have hx := m.ty.contains_read x
  have hread := Ty.read_write_of_contains h (Ty.contains_between hx (fdiv_two_pow_between (m.ty.read x)
    (if m.ty.bits ≤ shiftAmount y then m.ty.bits else shiftAmount y)))
  rw [opSar, hread]
  split
  · rw [if_neg (by omega), Ty.fdiv_two_pow_bits hx]
  · rw [if_pos (by omega)]

end

/-- Settles O17: the operand counts by its low W bits, as a number or as the integer that the type reads. -/
theorem shiftRule : Obligations.ShiftRule := by
  have regs (a : Args IntMod) := a.mod.ty.regs_one_or_two
  refine ⟨fun m x y => ⟨fun hty => ?_, fun hty => ?_⟩, fun a => yields_alu2 (regs a) rfl,
    fun a => yields_alu2 (regs a) rfl, fun a => yields_alu2 (regs a) rfl, fun a => yields_alu2 (regs a) rfl⟩
  · have hbits : 32 ≤ m.ty.bits := by rcases hty with hty | hty <;> rw [hty] <;> decide
    exact ⟨toNat_opShl hbits x y, toNat_opShr hbits x y, toNat_opRot hbits x y⟩
  · have hbits : 32 ≤ m.ty.bits := by rcases hty with hty | hty <;> rw [hty] <;> decide
    exact read_opSar hbits x y

end Sys2Proof

namespace Sys2Proof.Machine

open Sys2Proof

/-! ## Sets of lanes -/

theorem getLsbD_laneBit {i : Nat} (hi : i < 32) (j : Nat) : (laneBit j).getLsbD i = decide (i = j) := by
  refine (BitVec.getLsbD_twoPow j i).trans ?_
  by_cases hij : j = i
  · simp [hij, hi]
  · simp [hij, Ne.symm hij]

theorem getLsbD_laneSet {i : Nat} (hi : i < 32) (ls : List Nat) : (laneSet ls).getLsbD i = decide (i ∈ ls) := by
  have hfold : ∀ m : Lanes, (ls.foldl (fun m j => m ||| laneBit j) m).getLsbD i = (m.getLsbD i || decide (i ∈ ls)) := by
    induction ls with
    | nil => simp
    | cons j ls ih =>
      intro m
      simp [ih, getLsbD_laneBit hi, Bool.or_assoc]
  simpa [laneSet] using hfold 0

/-- A mask with the bits of some lanes replaced. -/
theorem getLsbD_replaceBits (old pass : Lanes) (f : Nat → Bool) {i : Nat} (hi : i < 32) :
    ((old &&& ~~~pass) ||| laneSet ((lanesOf pass).filter f)).getLsbD i
      = if pass.getLsbD i = true then f i else old.getLsbD i := by
  have hnew : i ∈ (lanesOf pass).filter f ↔ pass.getLsbD i = true ∧ f i = true := by simp [mem_lanesOf, hi]
  simp only [BitVec.getLsbD_or, BitVec.getLsbD_and, BitVec.getLsbD_not, hi, decide_true, Bool.true_and,
    getLsbD_laneSet hi, hnew]
  cases pass.getLsbD i <;> simp

/-! ## Instructions that write bits of a predicate (R93, R94, R241) -/

theorem State.begin_get1 (s : State) (x : Ins) (o : Opnd) (i : Nat) : (s.begin x).get1 x o i = s.get1 x o i :=
  s.begin_regWord x o 0 i

theorem State.begin_bitOf (s : State) (x : Ins) (o : Opnd) (i : Nat) : (s.begin x).bitOf x o i = s.bitOf x o i := by
  rw [State.bitOf, State.begin_get1]
  rfl

theorem State.begin_voters (s : State) (x : Ins) (o : Opnd) : (s.begin x).voters x o = s.voters x o := by
  rw [State.voters, State.begin_get1]
  rfl

/-- Once the instruction has advanced, its predicate holds the bits written in the passing lanes and its old bits in the
others; p7 reads all ones before and after. -/
theorem State.putBits_finish_bitsIn (s : State) (x : Ins) (o : Opnd) (f : Nat → Bool) (h : Hint) :
    s.bitsIn (((s.begin x).putBits x o f).finish x h) x o f := by
  cases o with
  | p n =>
    intro i hi
    by_cases hn : n = 7
    · subst hn
      rfl
    · have hold : (s.begin x).get1 x (.p n) 0 = (s.squad x.bid x.sq).rf.pred n.toNat := s.begin_get1 x _ 0
      have hpred := s.put_finish_holdsIn (.inl rfl) x (.p n) (fun _ => ((((s.begin x).get1 x (.p n) 0) &&& ~~~x.pass)
        ||| laneSet ((lanesOf x.pass).filter f)).setWidth 64) h rfl hn
      rw [DWord.lo_setWidth] at hpred
      refine (congrArg (BitVec.getLsbD · i) hpred).trans ?_
      simp only [hold, getLsbD_replaceBits _ _ _ hi, ne_eq, hn, not_false_iff, true_and]
  | v _ | s _ | t _ | acc _ | sp _ | bad _ => exact trivial

/-- An instruction that writes bits of a predicate with a test of its lane leaves the bits of that test on the values
that its sources held before it. -/
theorem yieldsBits_flagged {i : Instr} {h : Head} {f : Ins → State → Nat → Bool} {test : State → Ins → Nat → Bool}
    (hexec : exec i = flagged h f) (hbegin : ∀ s x k, f x (s.begin x) k = test s x k) : YieldsBits i h test := by
  intro s x hp
  have htest : f x (s.begin x) = test s x := funext (hbegin s x)
  refine ⟨_, (congrFun hexec s).trans (issue_run hp), ?_⟩
  rw [htest]
  exact s.putBits_finish_bitsIn x _ _ _

theorem exec_setp (a : Args IntMod) : exec (.setp a) = flagged (headOf a (.setp a) true) fun x s k =>
    flagSetp a.mod (s.srcA x (headOf a (.setp a)) k) (s.srcB x (headOf a (.setp a)) k) := rfl

theorem exec_setpImm (a : Args IntMod) : exec (.setpImm a) = flagged (headOf a (.setpImm a) true) fun x s k =>
    flagSetp a.mod (s.srcA x (headOf a (.setpImm a)) k) (a.mod.ty.immB a.imm) := rfl

theorem exec_plop (a : Args IntMod) : exec (.plop a) = flagged (headOf a (.plop a) true) fun x s k =>
    flagPlop a.mod (s.bitOf x a.a k) (s.bitOf x a.b k) (s.bitOf x a.c k) := rfl

theorem exec_fsetp (a : Args FpMod) : exec (.fsetp a) = flagged (headOf a (.fsetp a) true) fun x s k =>
    flagFsetp a.mod (s.srcA x (headOf a (.fsetp a)) k) (s.srcB x (headOf a (.fsetp a)) k) := rfl

theorem exec_fsetpImm (a : Args FpMod) : exec (.fsetpImm a) = flagged (headOf a (.fsetpImm a) true) fun x s k =>
    flagFsetp a.mod (s.srcA x (headOf a (.fsetpImm a)) k) (a.imm.setWidth 64) := rfl

theorem exec_voteAny (a : Args Unit) : exec (.voteAny a) = flagged (headOf a (.voteAny a) true) fun x s _ =>
    s.voters x a.a != 0 := rfl

theorem exec_voteAll (a : Args Unit) : exec (.voteAll a) = flagged (headOf a (.voteAll a) true) fun x s _ =>
    s.voters x a.a == x.pass := rfl

theorem exec_voteMask (a : Args Unit) : exec (.voteMask a) = alu (headOf a (.voteMask a) true) fun x s _ =>
    (s.voters x a.a).setWidth 64 := rfl

theorem exec_sel (a : Args IntMod) : exec (.sel a) = alu (headOf a (.sel a) true) fun x s k =>
    if s.bitOf x a.c k then s.srcA x (headOf a (.sel a)) k else s.srcB x (headOf a (.sel a)) k := rfl

/-- Settles O18: each instruction writes the bits of its test, and `vote.mask` and `sel` a register, from sources and
predicates that the beginning of the issue leaves. -/
theorem predicateResults : Obligations.PredicateResults := by
  refine ⟨fun a => yieldsBits_flagged (exec_setp a) fun s x k => ?setp,
    fun a => yieldsBits_flagged (exec_setpImm a) fun s x k => ?setpImm,
    fun a => yieldsBits_flagged (exec_plop a) fun s x k => ?plop,
    fun a => yieldsBits_flagged (exec_fsetp a) fun s x k => ?fsetp,
    fun a => yieldsBits_flagged (exec_fsetpImm a) fun s x k => ?fsetpImm,
    fun a => yieldsBits_flagged (exec_voteAny a) fun s x k => ?voteAny,
    fun a => yieldsBits_flagged (exec_voteAll a) fun s x k => ?voteAll,
    fun a => yields_alu (.inl rfl) (exec_voteMask a) fun s x => ?voteMask,
    fun a => yields_alu a.mod.ty.regs_one_or_two (exec_sel a) fun s x => ?sel⟩
  case setp | fsetp => rw [State.begin_srcA, State.begin_srcB]
  case setpImm | fsetpImm => rw [State.begin_srcA]
  case plop => simp only [State.begin_bitOf]
  case voteAny =>
    rw [State.begin_voters, bne, Bool.beq_eq_decide_eq, ← decide_not]
    rfl
  case voteAll =>
    rw [State.begin_voters]
    rfl
  case voteMask => simp only [State.begin_get1]
  case sel => simp only [State.begin_bitOf, State.begin_srcA, State.begin_srcB]

end Sys2Proof.Machine

end

section

/-!
# Floating-point, conversion, quantise and narrow results

A floating-point instruction or a conversion writes its destination with its operation on its sources, like an integer
instruction. A quantise or narrow instruction reads its source A across the lanes of the squad, where a lane whose thread
has exited reads as 0 (R109): the beginning of its issue leaves both the registers and the set of threads alive, so the
values that it reads are those before it.
-/

namespace Sys2Proof

theorem cvtRegs_one_or_two (f : Fmt) (imm : Word) : cvtRegs f imm = 1 ∨ cvtRegs f imm = 2 := by
  unfold cvtRegs
  split
  · exact .inr rfl
  · exact .inl rfl

end Sys2Proof

namespace Sys2Proof.Machine

open Sys2Proof

/-! ## Floating point and conversion (R99 to R107) -/

/-- Settles O20: each instruction writes its one destination register, of which only `cvt` to a 64-bit integer has two,
with its operation on its sources. -/
theorem floatResults : Obligations.FloatResults :=
  ⟨fun _ => yields_alu2 (.inl rfl) rfl,  -- fadd
    fun _ => yields_alu2 (.inl rfl) rfl,  -- fsub
    fun _ => yields_alu2 (.inl rfl) rfl,  -- fmul
    fun _ => yields_alu3 (.inl rfl) rfl,  -- fma
    fun _ => yields_alu2 (.inl rfl) rfl,  -- fmin
    fun _ => yields_alu2 (.inl rfl) rfl,  -- fmax
    fun _ => yields_alu1 (.inl rfl) rfl,  -- fclass
    fun _ => yields_alu1 (.inl rfl) rfl,  -- frcp
    fun _ => yields_alu1 (.inl rfl) rfl,  -- frsq
    fun _ => yields_alu1 (.inl rfl) rfl,  -- fsqrt
    fun _ => yields_alu2 (.inl rfl) rfl,  -- fdiv
    fun _ => yields_alu1 (.inl rfl) rfl,  -- fexp2
    fun _ => yields_alu1 (.inl rfl) rfl,  -- flog2
    fun _ => yields_alu1 (.inl rfl) rfl,  -- fsin
    fun _ => yields_alu1 (.inl rfl) rfl,  -- fcos
    fun _ => yields_alu1 (.inl rfl) rfl,  -- ftanh
    fun _ => yields_alu2 (.inl rfl) rfl,  -- hadd2
    fun _ => yields_alu2 (.inl rfl) rfl,  -- hmul2
    fun _ => yields_alu3 (.inl rfl) rfl,  -- hfma2
    fun a => yields_alu1 (cvtRegs_one_or_two a.mod.fmt a.imm) rfl,  -- cvt
    fun _ => yields_alu1 (.inl rfl) rfl,  -- faddImm
    fun _ => yields_alu1 (.inl rfl) rfl,  -- fsubImm
    fun _ => yields_alu1 (.inl rfl) rfl,  -- fmulImm
    fun _ => yields_alu1 (.inl rfl) rfl,  -- fminImm
    fun _ => yields_alu1 (.inl rfl) rfl⟩  -- fmaxImm

/-! ## Reads across the lanes of a squad (R108, R109) -/

/-- The beginning of an issue leaves the threads of its squad that are alive. -/
theorem State.begin_alive (s : State) (x : Ins) :
    ((s.begin x).squad x.bid x.sq).ctl.alive = (s.squad x.bid x.sq).ctl.alive := by
  simp [State.begin]

/-- The lanes of a register, as a scale register is read. -/
theorem State.begin_lanes (s : State) (x : Ins) (o : Opnd) : (s.begin x).get1 x o = s.get1 x o :=
  funext (s.begin_get1 x o)

/-- The lanes of a cross-lane source. -/
theorem State.begin_cross (s : State) (x : Ins) (o : Opnd) : (s.begin x).cross x o = s.cross x o := by
  funext k
  simp only [State.cross, State.begin_alive, State.begin_get1]

/-! ## Quantise and narrow instructions (R110 to R113) -/

theorem exec_dqblk (a : Args QMod) : exec (.dqblk a) = alu (headOf a (.dqblk a) true) fun x s i =>
    (BitVec.ofNat 32 (narrowF (Fmt.float .f32) a.mod.sat (blockValue (scaleOf (s.get1 x a.b) (slotOf a.imm))
      (elementValue a.mod.fmt (imageByte (s.cross x a.a)) i)))).setWidth 64 := rfl

theorem exec_pk4 (a : Args QMod) : exec (.pk4 a) = alu (headOf a (.pk4 a) true) fun x s i =>
    (imageWord (pk4Image a.mod.fmt (s.cross x a.a)) i).setWidth 64 := rfl

theorem exec_upk4 (a : Args QMod) : exec (.upk4 a) = alu (headOf a (.upk4 a) true) fun x s i =>
    (upk4Word a.mod.fmt (s.cross x a.a) i).setWidth 64 := rfl

theorem exec_amax (a : Args QMod) : exec (.amax a) = alu (headOf a (.amax a) true) fun x s i =>
    (amaxWith (amaxOf ((List.range 32).map (s.cross x a.a))) (s.get1 x a.b i)).setWidth 64 := rfl

/-- `qblk` writes two registers: the image, then the scale byte. -/
theorem exec_qblk (a : Args QMod) : exec (.qblk a) = issue (headOf a (.qblk a) true) fun x s =>
    let q := quantiseBlock a.mod.fmt ((List.range 32).map fun k => Fmt.value .f32 (s.cross x a.a k).toNat)
    .go ((s.put1 x a.d fun i => imageWord q.2 i).putScale x a.b (slotOf a.imm) q.1) := rfl

/-- An instruction whose issue has an effect and goes on to the next instruction completes with that effect. -/
theorem completesWith_of_go {i : Instr} {h : Head} {eff : Ins → State → State}
    (hexec : exec i = issue h fun x s => .go (eff x s)) : CompletesWith i h eff :=
  fun s _ hp => (congrFun hexec s).trans (issue_run hp)

/-- Settles O21: each instruction but `qblk` writes one register, computed from the lanes of its source A and its operand
b, which the beginning of the issue leaves; `qblk` completes with its two writes. -/
theorem quantiseResults : Obligations.QuantiseResults := by
  refine ⟨fun a => yields_alu (.inl rfl) (exec_dqblk a) fun s x => ?dqblk,
    fun a => yields_alu (.inl rfl) (exec_pk4 a) fun s x => ?pk4,
    fun a => yields_alu (.inl rfl) (exec_upk4 a) fun s x => ?upk4,
    fun a => yields_alu (.inl rfl) (exec_amax a) fun s x => ?amax,
    fun a => completesWith_of_go (exec_qblk a)⟩
  case pk4 | upk4 => rw [State.begin_cross]
  case dqblk | amax => rw [State.begin_cross, State.begin_lanes]

end Sys2Proof.Machine

end

section

/-!
# The matrix queue

An instruction whose effect lies outside the squads leaves, once its sub-group has advanced, that effect, the end of its
squad's wait in place, and nothing else. So each matrix instruction adds its command to the queue of its core, and
`rstlbl` sets RSTPC.
-/

namespace Sys2Proof.Machine

open Sys2Proof

/-! ## The frame of an instruction with an effect outside the squads -/

theorem State.sameButSquads.trans {s t u : State} (h : s.sameButSquads t) (h' : t.sameButSquads u) : s.sameButSquads u := by
  have hu := congrArg (fun v : State => { v with squads := s.squads, ctrl := s.ctrl }) h'
  exact hu.trans h

theorem State.sameButSquads_setSquad (s : State) (bid sq : Nat) (q : Squad) : s.sameButSquads (s.setSquad bid sq q) := rfl

theorem State.sameButSquads_tickStamp (s : State) : s.sameButSquads s.tickStamp := rfl

/-- The end of a wait in place does the same outside the squads to states that agree there and in the squad's wait. -/
theorem State.sameButSquads.endWait {s t : State} {bid sq : Nat} (h : s.sameButSquads t)
    (hw : (t.squad bid sq).waitsAt = (s.squad bid sq).waitsAt) : (s.endWait bid sq).sameButSquads (t.endWait bid sq) := by
  unfold State.endWait
  rw [hw]
  split
  · exact congrArg (State.dropPusher · bid sq) h
  · exact h

/-- Outside the squads, the advance of a sub-group is the end of its squad's wait in place. -/
theorem State.sameButSquads.finish {s t : State} {x : Ins} (h : s.sameButSquads t)
    (hw : (t.squad x.bid x.sq).waitsAt = (s.squad x.bid x.sq).waitsAt) (hint : Hint) :
    (s.endWait x.bid x.sq).sameButSquads (t.finish x hint) := by
  have hmove : t.sameButSquads (t.moveTo x fun _ => x.next) := State.sameButSquads_setSquad _ _ _ _
  have hwait : ((t.moveTo x fun _ => x.next).squad x.bid x.sq).waitsAt = (t.squad x.bid x.sq).waitsAt := by
    simp [State.moveTo, State.setCtl]
  exact (h.endWait hw).trans ((hmove.endWait hwait).trans
    ((State.sameButSquads_setSquad _ x.bid x.sq _).trans (State.sameButSquads_tickStamp _)))

theorem State.sameSquadsBut.finish {s t : State} {x : Ins} (h : s.sameSquadsBut t x) (hint : Hint) :
    s.sameSquadsBut (t.finish x hint) x :=
  fun b q hne => (State.finish_squad_ne t x hint hne).trans (h b q hne)

theorem Squad.sameRest.symm {q q' : Squad} (h : q.sameRest q') : q'.sameRest q := by
  simp_all [Squad.sameRest]

theorem State.begin_waitsAt (s : State) (x : Ins) :
    ((s.begin x).squad x.bid x.sq).waitsAt = (s.squad x.bid x.sq).waitsAt := by
  simp [State.begin]

/-- An instruction that has made the change from s to u outside the squads, and none to the squads but the beginning of
its issue, advances with it. -/
theorem State.advanced_finish {s u e : State} (x : Ins) (hint : Hint) (hout : u.sameButSquads e)
    (hu : u.squads = s.squads) (he : e.squads = (s.begin x).squads) : s.advanced u (e.finish x hint) x := by
  have hsquad := State.squad_of_squads he
  have hwait : (e.squad x.bid x.sq).waitsAt = (u.squad x.bid x.sq).waitsAt := by
    rw [hsquad, State.begin_waitsAt, State.squad_of_squads hu]
  have hothers : s.sameSquadsBut e x := fun b q hne => (hsquad b q).trans (s.begin_squad_ne x b q hne)
  refine ⟨hout.finish hwait hint, hothers.finish hint, ?_, ?_⟩
  · rw [State.finish_rf, hsquad, State.begin_rf]
  · exact ((e.finish_sameRest x hint).trans (by rw [hsquad]; exact s.begin_sameRest x)).symm

/-! ## The queue (R118) -/

theorem State.begin_seq (s : State) (x : Ins) :
    ((s.begin x).squad x.bid x.sq).seq = (s.squad x.bid x.sq).seq + 1 := by
  simp [State.begin]

/-- A command that passes its checks, and waits for no pooled atomic, enters a queue with room. -/
theorem matIssue_ok {x : Ins} {s : State} {op : MatOp} (hfull : s.matFull (coreOf x.bid) = false)
    (hrows : s.rowsWait x op = false) :
    matIssue x s (.ok op) = .go (s.matPush x.bid op none (some (x.sq, (s.squad x.bid x.sq).seq))) := by
  unfold matIssue
  rw [hfull, if_neg Bool.false_ne_true]
  dsimp only
  exact if_neg (ne_true_of_eq_false hrows)

/-- A command that fails a check traps where the queue has room. -/
theorem matIssue_bad {x : Ins} {s : State} {c k : Nat} (hfull : s.matFull (coreOf x.bid) = false) :
    matIssue x s (.bad c k) = .trap c k := by
  simp [matIssue, hfull]

/-- An instruction that issues its command with some checks enters the queue under them. -/
theorem matrixEnters_of_matIssue {i : Instr} {h : Head} {chk : State → Ins → MatChk}
    (hexec : exec i = issue h fun x s => matIssue x s (chk s x)) : MatrixEnters i h chk := by
  refine ⟨fun s x op hp hfull hchk hrows => ?_, fun s x c k hp hfull hchk => ?_⟩
  · have hissue := (congrFun hexec s).trans (issue_run hp)
    have hfull' : (s.begin x).matFull (coreOf x.bid) = false := hfull
    rw [hchk, matIssue_ok hfull' hrows, State.begin_seq] at hissue
    exact ⟨_, hissue, State.advanced_finish x h.hint rfl rfl rfl⟩
  · have hissue := (congrFun hexec s).trans (issue_run hp)
    have hfull' : (s.begin x).matFull (coreOf x.bid) = false := hfull
    rw [hchk, matIssue_bad hfull'] at hissue
    exact hissue

/-- Checks of operands that pass give the command that they guard. -/
theorem Kernel.matOperands_eq_ok {k : Kernel} {d a b : Opnd} {op op' : MatOp}
    (h : k.matOperands d a b (.ok op) = .ok op') : op' = op := by
  unfold Kernel.matOperands at h
  split at h
  · cases h
  · split at h
    · cases h
    · split at h <;> cases h
      rfl

/-- The state in which an `accrd` enters the queue: its destination is marked empty (R128). -/
def State.accrdMarked (s : State) (x : Ins) (d : Opnd) : State :=
  (s.begin x).setSquad x.bid x.sq { (s.begin x).squad x.bid x.sq with
    rf := ((s.begin x).squad x.bid x.sq).rf.markEmpty d 1 x.pass }

theorem State.accrdMarked_squad (s : State) (x : Ins) (d : Opnd) :
    (s.accrdMarked x d).squad x.bid x.sq = { (s.begin x).squad x.bid x.sq with
      rf := ((s.begin x).squad x.bid x.sq).rf.markEmpty d 1 x.pass } :=
  State.squad_setSquad _ _ _ _

/-- The state in which it has entered the queue. -/
def State.accrdEntered (s : State) (x : Ins) (d : Opnd) (op : MatOp) : State :=
  (s.accrdMarked x d).matPush x.bid op none (some (x.sq, (s.squad x.bid x.sq).seq + 1))

theorem State.accrdEntered_squad (s : State) (x : Ins) (d : Opnd) (op : MatOp) :
    (s.accrdEntered x d op).squad x.bid x.sq = { (s.begin x).squad x.bid x.sq with
      rf := ((s.begin x).squad x.bid x.sq).rf.markEmpty d 1 x.pass } :=
  s.accrdMarked_squad x d

theorem exec_accrd (a : Args Unit) (s : State) : exec (.accrd a) s = execAccrd a s := rfl

/-- An `accrd` whose checks pass marks its destination empty and enters a queue with room. -/
theorem exec_accrd_of_ok {a : Args Unit} {s : State} {x : Ins} {op : MatOp}
    (hp : s.prepare (headOf a (.accrd a)) = .run x) (hfull : s.matFull (coreOf x.bid) = false)
    (hchk : (s.kernel x.bid).matOperands a.d a.a a.b
      (.ok (.accrd (matIndex a.a) (accRow a.imm) x.sq (vecNum a.d) x.pass)) = .ok op) :
    exec (.accrd a) s = .next ((s.accrdEntered x a.d op).finish x a.hint) := by
  have hrows : (s.accrdMarked x a.d).rowsWait x op = false := by
    rw [Kernel.matOperands_eq_ok hchk]
    rfl
  have hfull' : (s.begin x).matFull (coreOf x.bid) = false := hfull
  have hchk' : ((s.begin x).kernel x.bid).matOperands a.d a.a a.b
      (.ok (.accrd (matIndex a.a) (accRow a.imm) x.sq (vecNum a.d) x.pass)) = .ok op := hchk
  have hseq : ((s.accrdMarked x a.d).squad x.bid x.sq).seq = (s.squad x.bid x.sq).seq + 1 := by
    rw [State.accrdMarked_squad]
    exact s.begin_seq x
  have hgo := matIssue_ok (x := x) (s := s.accrdMarked x a.d) hfull hrows
  rw [hseq] at hgo
  rw [exec_accrd, execAccrd, issue_run hp]
  simp only [hfull', hchk', Bool.false_eq_true, if_false]
  exact congrArg (fun r : Result => Host.Outcome.next (r.apply x a.hint s)) hgo

theorem exec_rstlbl (a : Args Unit) (s : State) : exec (.rstlbl a) s = execRstlbl a s := rfl

theorem State.begin_inCode (s : State) (x : Ins) (pc : Pc) : (s.begin x).inCode x pc = s.inCode x pc := rfl

/-- Settles O41: the checks are those that each instruction's issue makes, and a command that passes them stands last in
the queue; `accrd` also marks its destination, and `rstlbl` writes RSTPC alone. -/
theorem matrixInstructionsEnterTheQueue : Obligations.MatrixInstructionsEnterTheQueue := by
  refine ⟨fun a => matrixEnters_of_matIssue rfl, fun a => matrixEnters_of_matIssue rfl,
    fun a => matrixEnters_of_matIssue rfl, fun a => matrixEnters_of_matIssue rfl,
    fun a => matrixEnters_of_matIssue rfl, fun a => matrixEnters_of_matIssue rfl,
    fun a => matrixEnters_of_matIssue rfl, fun a => matrixEnters_of_matIssue rfl,
    fun a => matrixEnters_of_matIssue rfl, fun a => matrixEnters_of_matIssue rfl,
    fun a => matrixEnters_of_matIssue rfl, fun a s x op hp hfull hchk => ?accrd, fun a s x hp hcode => ?rstlbl,
    fun a s x hp hcode => ?rstlblTraps⟩
  case accrd =>
    have hsquad := s.accrdEntered_squad x a.d op
    have hwait : ((s.accrdEntered x a.d op).squad x.bid x.sq).waitsAt = (s.squad x.bid x.sq).waitsAt := by
      rw [hsquad]
      exact s.begin_waitsAt x
    have hothers : s.sameSquadsBut (s.accrdEntered x a.d op) x := fun b q hne =>
      (State.squad_setSquad_ne _ _ hne).trans (s.begin_squad_ne x b q hne)
    have hout : (s.matPush x.bid op none (some (x.sq, (s.squad x.bid x.sq).seq + 1))).sameButSquads
        (s.accrdEntered x a.d op) := rfl
    refine ⟨_, exec_accrd_of_ok hp hfull hchk, hout.finish hwait a.hint, hothers.finish a.hint, ?_⟩
    rw [State.finish_rf, hsquad, State.begin_rf]
  case rstlbl =>
    have hgo : exec (.rstlbl a) s = .next (((s.begin x).setBlock x.bid
        { s.block x.bid with rstpc := x.pc + 12 + 12 * a.imm.signExtend 64 }).finish x a.hint) := by
      rw [exec_rstlbl, execRstlbl, issue_run hp]
      simp only [Ins.label, State.begin_inCode, hcode, if_true]
      rfl
    exact ⟨_, hgo, State.advanced_finish x a.hint rfl rfl rfl⟩
  case rstlblTraps =>
    rw [exec_rstlbl, execRstlbl, issue_run hp]
    simp only [Ins.label, hcode, Bool.false_eq_true, if_false]
    rfl

end Sys2Proof.Machine

end

section

/-!
# Engine programs

A `fork` reads its program's words, is judged on them, and leaves the program with its sequencer; a `rdv` takes a program
that has ended, and raises its fault after itself. Neither touches a memory or a register.
-/

namespace Sys2Proof

theorem Table.get_of_get? {α : Type} {t : Table α} {n : Nat} {v : α} (h : t.get? n = some v) (d : α) : t.get n d = v := by
  simp [Table.get, h]

end Sys2Proof

namespace Sys2Proof.Machine

open Sys2Proof

/-! ## The fork of a program (R258) -/

/-- The instructions that fork differ in the engine alone. -/
theorem exec_fork {a : Args SMod} {p : Instr × Engine}
    (hi : p ∈ [(Instr.forkCopy a, Engine.copy), (.forkMatrix a, .matrix), (.forkMap2 a, engineOf a.mod.idx)]) :
    exec p.1 = issue (headOf a p.1) (forkBody p.2 a.imm) := by
  simp only [List.mem_cons, List.not_mem_nil, or_false] at hi
  rcases hi with rfl | rfl | rfl <;> rfl

theorem State.begin_forkInside (s : State) (x : Ins) (imm : Word) : (s.begin x).forkInside x imm = s.forkInside x imm := rfl

/-- A program outside the code segment traps before a word of it is read. -/
theorem forkBody_of_outside {s : State} {x : Ins} {imm : Word} (eng : Engine) (h : s.forkInside x imm = false) :
    forkBody eng imm x s = .trap 0x011 3 := by
  simp [forkBody, h]

/-- A program whose words can be read is judged on them. -/
theorem forkBody_of_words {s t : State} {x : Ins} {imm : Word} {is : List Instr} (eng : Engine)
    (hinside : s.forkInside x imm = true) (hread : s.forkReads x imm = (t, .words is)) :
    forkBody eng imm x s = t.forkOn x eng imm is := by
  unfold State.forkReads at hread
  simp only [forkBody, hinside, hread, Bool.not_true, Bool.false_eq_true, if_false]

section

variable {t : State} {x : Ins} {is : List Instr} (eng : Engine) (imm : Word)
  (hwaits : (t.squad x.bid x.sq).rf.forkWaits is = false) (htraps : (t.squad x.bid x.sq).rf.forkTraps is = none)
include hwaits htraps

/-- A squad with an unjoined program of the engine may not fork another. -/
theorem State.forkOn_of_unjoined (h : ∃ f ∈ (t.squad x.bid x.sq).forks, f.eng = eng) :
    t.forkOn x eng imm is = .trap 0x248 (engineCode eng) := by
  have hany : ((t.squad x.bid x.sq).forks.any fun f => f.eng == eng) = true := by simpa using h
  simp only [State.forkOn, hwaits, htraps, hany, Bool.false_eq_true, if_false, if_true]

/-- A squad without one gives its program to a sequencer with room. -/
theorem State.forkOn_of_room (h : ∀ f ∈ (t.squad x.bid x.sq).forks, f.eng ≠ eng)
    (hroom : (t.heldProgs (coreOf x.bid) eng).length < 4) : t.forkOn x eng imm is = .go (t.forked x eng imm) := by
  have hany : ((t.squad x.bid x.sq).forks.any fun f => f.eng == eng) = false := by simpa using h
  simp only [State.forkOn, hwaits, htraps, hany, Bool.false_eq_true, if_false, if_neg (Nat.not_le.mpr hroom)]

end

/-- A program in a sequencer has the squad's scalar registers, its place and its length, and its squad remembers it. -/
theorem State.forked_holds (s : State) (x : Ins) (e : Engine) (imm : Word) :
    (s.forked x e imm).mem = s.mem ∧ ((s.forked x e imm).squad x.bid x.sq).rf = (s.squad x.bid x.sq).rf
    ∧ ((s.forked x e imm).squad x.bid x.sq).forks = (s.squad x.bid x.sq).forks ++ [{ eng := e, prog := s.ctrl.nextId }]
    ∧ ∃ p, (s.forked x e imm).progs.get? s.ctrl.nextId = some p ∧ p.eng = e ∧ p.left = imm.toNat / 2 ^ 26 + 1
      ∧ p.pc = (x.forkTarget imm).toNat ∧ p.s = (s.squad x.bid x.sq).rf.s ∧ p.begun = false := by
  have hsquad : (s.forked x e imm).squad x.bid x.sq = { s.squad x.bid x.sq with
      forks := (s.squad x.bid x.sq).forks ++ [{ eng := e, prog := s.ctrl.nextId }] } := State.squad_setSquad _ _ _ _
  refine ⟨rfl, ?_, ?_, _, Table.get?_put_self _ _ _, rfl, rfl, rfl, rfl, rfl⟩
  · rw [hsquad]
  · rw [hsquad]

/-! ## The join of a program (R260) -/

/-- The instructions that join differ in the engine alone. -/
theorem exec_rdv {a : Args SMod} {p : Instr × Engine}
    (hi : p ∈ [(Instr.rdvCopy a, Engine.copy), (.rdvMatrix a, .matrix), (.rdvMap2 a, engineOf a.mod.idx)]) :
    exec p.1 = issue (headOf a p.1) (rdvBody p.2) := by
  simp only [List.mem_cons, List.not_mem_nil, or_false] at hi
  rcases hi with rfl | rfl | rfl <;> rfl

theorem State.begin_forks (s : State) (x : Ins) :
    ((s.begin x).squad x.bid x.sq).forks = (s.squad x.bid x.sq).forks := by
  simp [State.begin]

/-- The state in which a squad has joined a program. -/
def State.joined (s : State) (x : Ins) (f : ForkRef) : State :=
  { s.setSquad x.bid x.sq { s.squad x.bid x.sq with forks := (s.squad x.bid x.sq).forks.filter fun e => e != f } with
    progs := s.progs.erase f.prog }

theorem State.joined_squad (s : State) (x : Ins) (f : ForkRef) :
    (s.joined x f).squad x.bid x.sq
      = { s.squad x.bid x.sq with forks := (s.squad x.bid x.sq).forks.filter fun e => e != f } :=
  State.squad_setSquad _ _ _ _

theorem State.joined_rf (s : State) (x : Ins) (f : ForkRef) :
    (((s.begin x).joined x f).squad x.bid x.sq).rf = (s.squad x.bid x.sq).rf := by
  rw [State.joined_squad]
  exact s.begin_rf x

/-- A squad that has no program of the engine may not join one. -/
theorem rdvBody_of_none {s : State} {x : Ins} {eng : Engine}
    (h : ((s.squad x.bid x.sq).forks.find? fun f => f.eng == eng) = none) :
    rdvBody eng x s = .trap 0x249 (engineCode eng) := by
  simp only [rdvBody, h]

section

variable {s : State} {x : Ins} {eng : Engine} {f : ForkRef} {g : Prog}
  (hf : ((s.squad x.bid x.sq).forks.find? fun f => f.eng == eng) = some f) (hg : s.progs.get? f.prog = some g)
  (hdone : s.progDone f.prog g = true)
include hf hg hdone

/-- A program that has ended with all its commands, and without a fault, is joined. -/
theorem rdvBody_of_done (hfault : g.fault = none) : rdvBody eng x s = .go (s.joined x f) := by
  simp only [rdvBody, hf, Table.get_of_get? hg, hdone, if_true, hfault]
  rfl

/-- The fault of a program that has ended is raised after its join. -/
theorem rdvBody_of_fault {k : Nat} (hfault : g.fault = some k) :
    rdvBody eng x s = .after (s.joined x f) (if eng = .matrix then 0x230 else 0x231) k := by
  simp only [rdvBody, hf, Table.get_of_get? hg, hdone, if_true, hfault]
  rfl

end

/-- The advance of a sub-group leaves the programs of the engines, and those that its squad has forked. -/
theorem State.finish_programs (s : State) (x : Ins) (h : Hint) :
    (s.finish x h).progs = s.progs
    ∧ ((s.finish x h).squad x.bid x.sq).forks = (s.squad x.bid x.sq).forks := by
  obtain ⟨-, -, -, -, -, -, hprogs, -⟩ := s.finish_sameOutside x h
  obtain ⟨-, -, -, -, -, -, -, -, -, -, hforks, -⟩ := s.finish_sameRest x h
  exact ⟨hprogs.trans (s.endWait_programs _ _).1, hforks.symm⟩

/-- Settles O48: each instruction is judged on its program, and a fork and a join change the squad's list of programs and
the table of them alone; the two events replace the program of their sequencer. -/
theorem programsComplete : Obligations.ProgramsComplete := by
  refine ⟨fun a p hi s t x is hp hinside hread hwaits htraps hforks hroom => ?fork, State.forked_holds,
    fun a p hi s x f g hp hf hg hdone => ?rdv, fun a p hi s x hp hnone => ?rdvTraps,
    fun a p hi s x hp hcond => ?secondFork, fun a p hi s x hp hout => ?outside,
    fun core e s p rest hrun hheld => ?start, fun core e s p hrun hleft => ?stop⟩
  case fork =>
    have hinside' := (s.begin_forkInside x a.imm).trans hinside
    rw [exec_fork hi, issue_run hp, forkBody_of_words _ hinside' hread,
      State.forkOn_of_room p.2 a.imm hwaits htraps hforks hroom]
    rfl
  case rdv =>
    rw [← State.begin_forks] at hf
    have hissue := (congrFun (exec_rdv hi) s).trans (issue_run hp)
    refine ⟨fun hfault => ?_, fun k hfault => ?_⟩
    · rw [rdvBody_of_done hf hg hdone hfault] at hissue
      obtain ⟨hmem, -⟩ := ((s.begin x).joined x f).finish_other x a.hint
      obtain ⟨hprogs, hforks⟩ := ((s.begin x).joined x f).finish_programs x a.hint
      refine ⟨_, hissue, hmem, ?_, ?_, ?_⟩
      · exact (State.finish_rf _ _ _).trans (s.joined_rf x f)
      · refine hforks.trans ?_
        rw [State.joined_squad, State.begin_forks]
      · exact (congrArg (Table.get? · f.prog) hprogs).trans (Table.get?_erase_self _ _)
    · rw [rdvBody_of_fault hf hg hdone hfault] at hissue
      exact ⟨rfl, s.joined_rf x f, hissue⟩
  case rdvTraps =>
    rw [exec_rdv hi, issue_run hp, rdvBody_of_none hnone]
    rfl
  case secondFork =>
    obtain ⟨hinside, t, is, hread, hwaits, htraps, hunjoined⟩ := hcond
    rw [exec_fork hi, issue_run hp, forkBody_of_words _ hinside hread,
      State.forkOn_of_unjoined p.2 a.imm hwaits htraps hunjoined]
    rfl
  case outside =>
    rw [exec_fork hi, issue_run hp, forkBody_of_outside _ hout]
    rfl
  case start =>
    show execEngineProgramStart core e s = _
    simp only [execEngineProgramStart, hrun, hheld]
  case stop =>
    show execEngineProgramEnd core e s = _
    simp only [execEngineProgramEnd, hrun, hleft, if_true]

end Sys2Proof.Machine

end

section

/-!
# What the matrix engine leaves

Bytes written from an address on are read back from it on, and entries put under distinct keys stand there, whatever
their order. A transfer of rows is a list of writes by row and byte, in rising order, so that the last write to a place
stands. With these, the effect of each command on tiles, accumulators, registers and pooled space follows.
-/

namespace Sys2Proof

/-! ## Memories and tables -/

/-- Consecutive bytes written stand at their addresses. -/
theorem Memory.read_writeBytes_add (m : Memory) (a : Nat) {bs : List Byte} {k : Nat} {b : Byte} (h : bs[k]? = some b) :
    Memory.read (Memory.writeBytes m a bs) (a + k) = b := by
  induction bs generalizing m a k with
  | nil => simp at h
  | cons c r ih =>
    cases k with
    | zero =>
      obtain rfl : c = b := by simpa using h
      rw [Memory.writeBytes, Nat.add_zero a, Memory.read_writeBytes_lt _ _ (Nat.lt_add_one a), Memory.read_write_self]
    | succ k =>
      rw [Memory.writeBytes, show a + (k + 1) = a + 1 + k by omega]
      exact ih _ _ (by simpa using h)

/-- A key that a filter refuses is not listed. -/
theorem Table.get?_filter_of_refused {α : Type} (t : Table α) {p : Nat × α → Bool} {n : Nat}
    (h : ∀ v, p (n, v) = false) : Table.get? (t.filter p) n = none := by
  induction t with
  | nil => rfl
  | cons e r ih =>
    obtain ⟨k, v⟩ := e
    rw [List.filter_cons]
    split
    · rename_i hp
      have hk : k ≠ n := by
        rintro rfl
        simp [h v] at hp
      simpa [Table.get?, hk] using ih
    · exact ih

/-- A key under which no entry of a list is put keeps its value. -/
theorem Table.get_foldl_put_ne {α β : Type} (t : Table α) {key : β → Nat} {val : β → α} {l : List β} {n : Nat} (d : α)
    (h : ∀ e ∈ l, key e ≠ n) : Table.get (l.foldl (fun t e => t.put (key e) (val e)) t) n d = t.get n d := by
  induction l generalizing t with
  | nil => rfl
  | cons e r ih =>
    obtain ⟨he, hr⟩ := List.forall_mem_cons.mp h
    exact (ih _ hr).trans (Table.get_put_ne t (Ne.symm he) _ _)

/-- A key under which the entries of a list put one value only holds it. -/
theorem Table.get_foldl_put_mem {α β : Type} (t : Table α) {key : β → Nat} {val : β → α} {l : List β} {e : β} (d : α)
    (he : e ∈ l) (h : ∀ c ∈ l, key c = key e → val c = val e) :
    Table.get (l.foldl (fun t e => t.put (key e) (val e)) t) (key e) d = val e := by
  induction l using List.reverseRecOn with
  | nil => cases he
  | append_singleton l c ih =>
    rw [List.foldl_append, List.foldl_cons, List.foldl_nil]
    by_cases hc : key c = key e
    · rw [hc, Table.get_put_self, h c (by simp) hc]
    · rw [Table.get_put_ne _ (Ne.symm hc)]
      have hel : e ∈ l := by
        rcases List.mem_append.mp he with hel | hec
        · exact hel
        · exact absurd (congrArg key (List.mem_singleton.mp hec).symm) hc
      exact ih hel fun c' hc' => h c' (List.mem_append_left _ hc')

theorem mul_add_div_of_lt {n w k : Nat} (h : k < w) : (n * w + k) / w = n := by
  rw [Nat.mul_comm, Nat.mul_add_div (by omega), Nat.div_eq_of_lt h, Nat.add_zero]

/-- Rows of one length one after another are one list, by quotient and remainder of the place in it. -/
theorem flatMap_range_map {α : Type} (n w : Nat) (f : Nat → Nat → α) :
    ((List.range n).flatMap fun r => (List.range w).map (f r)) = (List.range (n * w)).map fun k => f (k / w) (k % w) := by
  induction n with
  | zero => simp
  | succ n ih =>
    rw [List.range_succ, List.flatMap_append, ih, Nat.succ_mul, List.range_add, List.map_append, List.map_map]
    congr 1
    simp only [List.flatMap_cons, List.flatMap_nil, List.append_nil]
    refine List.map_congr_left fun k hk => ?_
    have hkw := List.mem_range.mp hk
    simp only [Function.comp_apply, mul_add_div_of_lt hkw, Nat.mul_add_mod_of_lt hkw]

end Sys2Proof

namespace Sys2Proof.Machine

open Sys2Proof

theorem get_dropRange (t : Table Word) {n holder m : Nat} (d : Word) (h : m / n = holder) :
    Table.get (dropRange t n holder) m d = d := by
  rw [Table.get, dropRange, Table.get?_filter_of_refused t fun v => by simp [h]]
  rfl

theorem read_dropRange (t : Memory) {n holder m : Nat} (h : m / n = holder) :
    Memory.read (dropRange t n holder) m = 0 := by
  rw [Memory.read, Table.get, dropRange, Table.get?_filter_of_refused t fun v => by simp [h]]
  rfl

/-- Where no unit is damaged, a command meets none. -/
theorem State.hurt_of_sound {s : State} (h : s.dev.damage = []) (units : Unit → List (Nat × Nat)) : s.hurt units = none := by
  simp [State.hurt, h]

/-! ## Tiles (R126) -/

/-- A zeroed tile reads as zeros, in all its 8 KiB. -/
theorem State.tileByte_runTzero (s : State) (bid n : Nat) {k : Nat} (hk : k < 8192) : (s.runTzero bid n).tileByte bid n k = 0 := by
  have hkey : tileKey bid n k / 8192 = bid * 16 + n := by unfold tileKey; omega
  simp only [State.tileByte, State.runTzero, read_dropRange s.mem.tiles hkey]
  rfl

/-- A loaded tile holds the bytes of its rows. -/
theorem State.tileByte_runTld {s : State} (hd : s.dev.damage = []) (bid n addr pitch : Nat) (skew : Bool) (w : Word)
    {r k : Nat} (hr : r < shapeRows w) (hk : k < shapeCols w) :
    (s.runTld bid n addr pitch skew w).tileByte bid n (r * shapeCols w + k)
      = (Memory.read s.mem.pooled (s.poolKey (s.rowPlace bid addr pitch r (shapeCols w)).1
          ((s.rowPlace bid addr pitch r (shapeCols w)).2 + k) skew)).toNat := by
  have hlt : r * shapeCols w + k < shapeRows w * shapeCols w := by nlinarith
  have hkey : tileKey bid n (r * shapeCols w + k) = tileKey bid n 0 + (r * shapeCols w + k) := by
    simp [tileKey]
  simp only [State.runTld, State.hurt_of_sound hd, State.tileByte, State.repair_mem, State.tileWrite, State.poolRead,
    flatMap_range_map]
  rw [hkey, Memory.read_writeBytes_add]
  simp only [List.getElem?_map, List.getElem?_range hlt, Option.map_some, mul_add_div_of_lt hk, Nat.mul_add_mod_of_lt hk]

/-! ## Accumulators (R120, R127, R128) -/

theorem mem_cellsOf {m n i j : Nat} : (i, j) ∈ cellsOf m n ↔ i < m ∧ j < n := by
  simp [cellsOf]

/-- Elements put into an accumulator stand there, and every other element of it is as before. -/
theorem State.accElem_accPut (s : State) (bid acc : Nat) {cells : List (Nat × Nat)} (f : Nat → Nat → Word)
    (hcells : ∀ c ∈ cells, c.2 < 32) {i j : Nat} (hj : j < 32) :
    (s.accPut bid acc cells f).accElem bid acc i j = if (i, j) ∈ cells then f i j else s.accElem bid acc i j := by
  have hkey : ∀ c ∈ cells, accKey bid acc c.1 c.2 = accKey bid acc i j → c = (i, j) := by
    rintro ⟨i', j'⟩ hc heq
    have hj' := hcells _ hc
    simp only [accKey] at heq hj'
    simp only [Prod.mk.injEq]
    omega
  simp only [State.accElem, State.accPut]
  split
  · rename_i hmem
    refine Table.get_foldl_put_mem s.mem.accs (key := fun c : Nat × Nat => accKey bid acc c.1 c.2)
      (val := fun c => f c.1 c.2) (e := (i, j)) 0 hmem fun c hc heq => ?_
    rw [hkey c hc heq]
  · rename_i hmem
    exact Table.get_foldl_put_ne s.mem.accs (key := fun c : Nat × Nat => accKey bid acc c.1 c.2)
      (val := fun c => f c.1 c.2) (n := accKey bid acc i j) 0 fun c hc heq => hmem (hkey c hc heq ▸ hc)

/-- A product replaces each element of its rows and columns by its sum (R120). -/
theorem State.accElem_runMma {s : State} (hd : s.dev.damage = []) (bid acc ta tb : Nat) (f : Fmt) (trb : Bool)
    (sa sb : Word) (sc : Option (List Word × Nat × Nat)) (hn : (matDims f trb sa sb).n ≤ 32) {i j : Nat} (hj : j < 32) :
    (s.runMma bid acc ta tb f trb sa sb sc).accElem bid acc i j
      = if i < (matDims f trb sa sb).m ∧ j < (matDims f trb sa sb).n then
          BitVec.ofNat 32 (addProducts (s.accElem bid acc i j).toNat (matDims f trb sa sb).k
            (matProduct f trb sa sb sc (s.tileByte bid ta) (s.tileByte bid tb) i j))
        else s.accElem bid acc i j := by
  simp only [State.runMma, State.hurt_of_sound hd]
  rw [State.accElem_accPut _ _ _ _ (fun c hc => lt_of_lt_of_le (mem_cellsOf.mp hc).2 hn) hj]
  simp only [mem_cellsOf]

/-- A zeroed accumulator holds zeros. -/
theorem State.accElem_runAccz (s : State) (bid acc : Nat) {i j : Nat} (hi : i < 32) (hj : j < 32) :
    (s.runAccz bid acc).accElem bid acc i j = 0 := by
  have hkey : accKey bid acc i j / 1024 = bid * 8 + acc := by unfold accKey; omega
  exact get_dropRange s.mem.accs 0 hkey

/-- Every element of an accumulator is multiplied by a factor (R127). -/
theorem State.accElem_runAccmul {s : State} (hd : s.dev.damage = []) (bid acc : Nat) (e : Word) {i j : Nat} (hi : i < 32)
    (hj : j < 32) : (s.runAccmul bid acc e).accElem bid acc i j = accScaled (s.accElem bid acc i j) e := by
  simp only [State.runAccmul, State.hurt_of_sound hd]
  rw [State.accElem_accPut _ _ _ _ (fun c hc => (mem_cellsOf.mp hc).2) hj, if_pos (mem_cellsOf.mpr ⟨hi, hj⟩)]

/-- The lanes' values stand in their row (R128). -/
theorem State.accElem_runAccwr (s : State) (bid acc row : Nat) (lanes : Lanes) (vs : List Word) (i : Nat) {j : Nat}
    (hj : j < 32) :
    (s.runAccwr bid acc row lanes vs).accElem bid acc i j
      = if i = row ∧ lanes.getLsbD j = true then (vs[j]?).getD 0 else s.accElem bid acc i j := by
  have hcell : (i, j) ∈ (lanesOf lanes).map (fun j => (row, j)) ↔ i = row ∧ lanes.getLsbD j = true := by
    simp only [List.mem_map, mem_lanesOf, Prod.mk.injEq]
    constructor
    · rintro ⟨j', ⟨-, hl⟩, rfl, rfl⟩
      exact ⟨rfl, hl⟩
    · rintro ⟨rfl, hl⟩
      exact ⟨j, ⟨hj, hl⟩, rfl, rfl⟩
  have hlanes : ∀ c ∈ (lanesOf lanes).map (fun j => (row, j)), c.2 < 32 := by
    intro c hc
    obtain ⟨j', hj', rfl⟩ := List.mem_map.mp hc
    exact (mem_lanesOf.mp hj').1
  have hput := s.accElem_accPut bid acc (fun _ j => (vs[j]?).getD 0) hlanes (i := i) hj
  simp only [hcell] at hput
  rw [← hput]
  simp only [State.accElem, State.runAccwr, State.repair_mem]

/-- A row read stands in the lanes of the register that are still empty (R128). -/
theorem State.vec_runAccrd {s : State} (hd : s.dev.damage = []) (bid acc row sq reg : Nat) (lanes : Lanes) {j : Nat}
    (hj : j < 32) :
    ((s.runAccrd bid acc row sq reg lanes).squad bid sq).rf.vec reg j
      = if (lanes &&& (s.squad bid sq).rf.vE.get reg 0).getLsbD j then s.accElem bid acc row j
        else (s.squad bid sq).rf.vec reg j := by
  simp only [State.runAccrd, State.hurt_of_sound hd, State.squad_repair, State.squad_setSquad]
  refine (RegFile.vec_setVec _ _ _ _ _ _ hj).trans ?_
  simp only [true_and]

/-- The declaration of an accumulator says whether a save recomputes it (R136). -/
theorem State.accRc_runAccdecl (s : State) (bid : Nat) {acc : Nat} (h : acc < 8) (rc : Bool) :
    ((s.runAccdecl bid acc rc).block bid).accRc.getLsbD acc = rc := by
  have hbit : ((1#8) <<< acc).getLsbD acc = true := by simp [h]
  simp only [State.runAccdecl, State.block_setBlock]
  cases rc
  · simp [h]
  · simp [h]

/-! ## Transfers to pooled space (R125, R126) -/

theorem State.rowPlace_setPooled (s : State) (m : Memory) (bid addr pitch r len : Nat) :
    (s.setPooled m).rowPlace bid addr pitch r len = s.rowPlace bid addr pitch r len := rfl

/-- The key in pooled memory of byte k of row r of a transfer. -/
def State.rowKey (s : State) (bid addr pitch len : Nat) (skew : Bool) (e : Nat × Nat) : Nat :=
  s.poolKey (s.rowPlace bid addr pitch e.1 len).1 ((s.rowPlace bid addr pitch e.1 len).2 + e.2) skew

/-- Bytes written to an allocation, one after another. -/
theorem State.poolWrite_map (s : State) (m : Memory) (bid o : Nat) (skew : Bool) (n : Nat) (byte : Nat → Byte) :
    (s.setPooled m).poolWrite bid o skew ((List.range n).map byte)
      = s.setPooled (Memory.writeEach m (fun k => s.poolKey bid (o + k) skew) byte (List.range n)) := by
  have hidx : ((List.range n).map byte).zipIdx = (List.range n).map fun k => (byte k, k) := by
    apply List.ext_getElem <;> simp
  simp only [State.poolWrite, hidx, List.foldl_map]
  rfl

/-- Rows are stored byte by byte, in rising order of the rows and of the bytes within each. -/
theorem State.storeRows_eq_writeEach {s : State} (hd : s.dev.damage = []) (bid addr pitch rows len : Nat) (skew : Bool)
    (byte : Nat → Nat → Byte) :
    s.storeRows bid addr pitch len skew ((List.range rows).map fun r => (List.range len).map (byte r))
      = s.setPooled (Memory.writeEach s.mem.pooled (s.rowKey bid addr pitch len skew) (fun e => byte e.1 e.2)
          (List.range rows ×ˢ List.range len)) := by
  have hidx : ((List.range rows).map fun r => (List.range len).map (byte r)).zipIdx
      = (List.range rows).map fun r => ((List.range len).map (byte r), r) := by
    apply List.ext_getElem <;> simp
  have hrows : ∀ (l : List Nat) (m : Memory),
      l.foldl (fun (s : State) r =>
          ((s.poolWrite (s.rowPlace bid addr pitch r len).1 (s.rowPlace bid addr pitch r len).2 skew
            ((List.range len).map (byte r))).repair
              (if s.dev.damage.isEmpty then []
              else s.poolUnits (s.rowPlace bid addr pitch r len).1 (s.rowPlace bid addr pitch r len).2 len skew)))
          (s.setPooled m)
        = s.setPooled (Memory.writeEach m (s.rowKey bid addr pitch len skew) (fun e => byte e.1 e.2)
            (l ×ˢ List.range len)) := by
    intro l
    induction l with
    | nil => exact fun _ => rfl
    | cons r l ih =>
      intro m
      have hsound : ∀ m', (s.setPooled m').dev.damage = [] := fun _ => hd
      rw [List.foldl_cons, State.rowPlace_setPooled, State.poolWrite_map, State.repair_of_sound (hsound _), ih,
        List.product_cons]
      simp only [Memory.writeEach, List.foldl_append, List.foldl_map]
      rfl
  simp only [State.storeRows, hidx, List.foldl_map]
  exact hrows (List.range rows) s.mem.pooled

/-- A transfer of sound bytes stores its rows. -/
theorem State.rowsStored_storeTransfer {s : State} (hd : s.dev.damage = []) (bid addr pitch rows len : Nat) (skew : Bool)
    (reads : Unit → List (Nat × Nat)) (byte : Nat → Nat → Byte) :
    s.rowsStored (s.storeTransfer bid addr pitch len skew reads ((List.range rows).map fun r => (List.range len).map (byte r)))
      bid addr pitch rows len skew byte := by
  simp only [State.storeTransfer, State.hurt_of_sound hd, State.storeRows_eq_writeEach hd]
  have hmem : ∀ {r k : Nat}, (r, k) ∈ List.range rows ×ˢ List.range len ↔ r < rows ∧ k < len := by
    simp [List.mem_product]
  refine ⟨rfl, fun m hm => Memory.read_writeEach_ne _ ?_, fun r k hr hk hlast => ?_⟩
  · rintro ⟨r, k⟩ he
    obtain ⟨hr, hk⟩ := hmem.mp he
    exact hm r k hr hk
  · refine Memory.read_writeEach_last (e := (r, k)) _
      (pairwise_product_lex List.pairwise_lt_range List.pairwise_lt_range) (hmem.mpr ⟨hr, hk⟩) ?_
    rintro ⟨r', k'⟩ he hlt
    obtain ⟨hr', hk'⟩ := hmem.mp he
    exact hlast r' k' hr' hk' (Prod.lex_def.mp hlt)

/-- A row of a tile, as `tst` reads it. -/
theorem State.tileRow_eq (s : State) (bid n : Nat) (w : Word) {r : Nat} (hr : r < shapeRows w) :
    ((s.tileRead bid n (shapeBytes w)).drop (r * shapeCols w)).take (shapeCols w)
      = (List.range (shapeCols w)).map fun k => BitVec.ofNat 8 (s.tileByte bid n (r * shapeCols w + k)) := by
  have hlen : r * shapeCols w + shapeCols w ≤ shapeRows w * shapeCols w := by
    rw [← Nat.succ_mul]
    exact Nat.mul_le_mul_right _ hr
  apply List.ext_getElem
  · have hread : (s.tileRead bid n (shapeBytes w)).length = shapeRows w * shapeCols w := by
      simp [State.tileRead, Memory.readBytes, shapeBytes]
    simp only [List.length_take, List.length_drop, List.length_map, List.length_range, hread]
    omega
  · intro k _ _
    simp [State.tileRead, Memory.readBytes, State.tileByte, tileKey]

/-- Settles O42: each command meets no damaged unit and writes its elements, bytes or register as it computes them from
the state before it. -/
theorem matrixEngineResults : Obligations.MatrixEngineResults := by
  refine ⟨fun core s m r hq => ?queue, fun s bid n k hk => s.tileByte_runTzero bid n hk,
    fun s bid n addr pitch r k skew w hd hr hk => State.tileByte_runTld hd bid n addr pitch skew w hr hk,
    fun s bid acc ta tb i j f trb sa sb sc hd _ hn _ hj => State.accElem_runMma hd bid acc ta tb f trb sa sb sc hn hj,
    fun s bid acc i j hi hj => s.accElem_runAccz bid acc hi hj,
    fun s bid acc i j e hd hi hj => State.accElem_runAccmul hd bid acc e hi hj,
    fun s bid acc row i j lanes vs _ _ hj => s.accElem_runAccwr bid acc row lanes vs i hj,
    fun s bid acc row sq reg j lanes hd hj => State.vec_runAccrd hd bid acc row sq reg lanes hj,
    fun s bid n addr pitch skew w hd => ?tst, fun s bid acc addr pitch skew f hd => ?accst,
    fun s bid acc rc hacc => s.accRc_runAccdecl bid hacc rc⟩
  case queue =>
    show execMatrixCommandExecute core s = _
    simp only [execMatrixCommandExecute, hq]
  case tst =>
    have hrows := List.map_congr_left fun r (hr : r ∈ List.range (shapeRows w)) =>
      s.tileRow_eq bid n w (List.mem_range.mp hr)
    simp only [State.runMat, State.runTst, hrows]
    exact State.rowsStored_storeTransfer hd bid addr pitch _ _ skew _ _
  case accst =>
    simp only [State.runMat, State.runAccst, leBytes, flatMap_range_map]
    exact State.rowsStored_storeTransfer hd bid addr pitch 32 (32 * (f.width / 8)) skew _
      fun r k => BitVec.ofNat 8 (accstCode f (s.accElem bid acc r (k / (f.width / 8))) / 256 ^ (k % (f.width / 8)))

end Sys2Proof.Machine

end

section

/-!
# The life of a copy

Bytes counted into barriers change nothing but the barriers of their blocks, and a chain that closes nothing but the
chains and pooled space, so a copy that completes leaves the queues and the tags as they were but for its own entry, its
own tag and its follow-on. A landing granule is a list of writes in the order of its parts, and a granule that an engine
reads or writes in device memory meets a home without owned words as it is.
-/

namespace Sys2Proof.Machine

open Sys2Proof

/-! ## Tags (R204) -/

theorem Tag.begin_of_not_busy {t : Tag} (h : t.st ≠ .busy) : t.begin = { st := .busy, status := 0, count := 1 } :=
  if_neg h

theorem Tag.begin_of_busy {t : Tag} (h : t.st = .busy) : t.begin = { t with count := t.count + 1 } := if_pos h

/-- A tag whose operation ends keeps its first status, and is DONE with the last of its operations. -/
theorem Tag.finish_holds (t : Tag) (k : Nat) :
    (t.finish k).count = t.count - 1 ∧ (t.finish k).status = (if t.status = 0 then k else t.status)
    ∧ (t.count ≤ 1 → (t.finish k).st = TagState.done) ∧ (1 < t.count → (t.finish k).st = t.st) := by
  unfold Tag.finish
  dsimp only
  split
  · rename_i h
    exact ⟨rfl, rfl, fun _ => rfl, fun hlt => by omega⟩
  · rename_i h
    exact ⟨rfl, rfl, fun hle => by omega, fun _ => rfl⟩

/-! ## What barriers and chains leave of copies (R217, R250, R224) -/

/-- Two states have the same cores and the same tags. -/
def State.sameCopies (s t : State) : Prop := t.cores = s.cores ∧ ∀ b n, t.tag b n = s.tag b n

theorem State.sameCopies.refl (s : State) : s.sameCopies s := ⟨rfl, fun _ _ => rfl⟩

theorem State.sameCopies.trans {s t u : State} (h : s.sameCopies t) (h' : t.sameCopies u) : s.sameCopies u :=
  ⟨h'.1.trans h.1, fun b n => (h'.2 b n).trans (h.2 b n)⟩

/-- Changes made one after another that each leave the cores and the tags leave them together. -/
theorem State.sameCopies_foldl {β : Type} {f : State → β → State} (hf : ∀ (s : State) b, s.sameCopies (f s b))
    (l : List β) (s : State) : s.sameCopies (l.foldl f s) :=
  List.foldlRecOn (motive := fun t => s.sameCopies t) l f (State.sameCopies.refl s) fun t (h : s.sameCopies t) b _ =>
    h.trans (hf t b)

/-- States with the same cores and blocks have the same cores and tags. -/
theorem State.sameCopies_of_blocks {s t : State} (hc : t.cores = s.cores) (hb : t.blocks = s.blocks) : s.sameCopies t :=
  ⟨hc, fun b n => by simp only [State.tag, State.block, hb]⟩

theorem State.sameCopies_setBar (s : State) (bid n : Nat) (x : Bar) : s.sameCopies (s.setBar bid n x) := by
  refine ⟨rfl, fun b k => ?_⟩
  by_cases h : b = bid
  · subst h
    simp [State.tag, State.setBar]
  · simp [State.tag, State.setBar, State.block, Table.get_put_ne _ h]

theorem State.sameCopies_mapBars (s : State) (bids : List Nat) (n : Nat) (f : Bar → Bar) :
    s.sameCopies (s.mapBars bids n f) :=
  State.sameCopies_foldl (fun t b => t.sameCopies_setBar b n _) bids s

theorem State.sameCopies_checkLocal (s : State) (bid n : Nat) : s.sameCopies (s.checkLocal bid n) := by
  unfold State.checkLocal State.judge
  dsimp only
  split
  · exact s.sameCopies_setBar bid n _
  · refine State.sameCopies_foldl (fun t d => ?_) _ s
    split
    · exact t.sameCopies_mapBars _ n _
    · exact State.sameCopies.refl t

theorem State.sameCopies_checkWhole (s : State) (fl : Flask) (n : Nat) : s.sameCopies (s.checkWhole fl n) := by
  unfold State.checkWhole
  dsimp only
  split
  · split
    · exact (s.sameCopies_mapBars _ n _).trans (State.sameCopies_mapBars _ _ n _)
    · exact s.sameCopies_mapBars _ n _
  · exact State.sameCopies.refl s

theorem State.sameCopies_checkBar (s : State) (bid n : Nat) : s.sameCopies (s.checkBar bid n) := by
  unfold State.checkBar State.checkFlask
  dsimp only
  split
  · split
    · exact s.sameCopies_checkLocal bid n
    · exact s.sameCopies_checkWhole _ n
  · exact s.sameCopies_setBar bid n _

/-- Landed bytes that are counted leave the copies and the tags. -/
theorem State.sameCopies_countLanded (s : State) (c : CopyCmd) (n : Nat) : s.sameCopies (s.countLanded c n) := by
  unfold State.countLanded State.countBytes
  split
  · exact State.sameCopies_foldl (fun t b => State.sameCopies_foldl
      (fun u _ => (u.sameCopies_setBar b c.bar _).trans (State.sameCopies_checkBar _ b c.bar)) _ t) _ s
  · exact State.sameCopies.refl s

theorem State.sameCopies_chainDone (s : State) (id : Nat) (c : CopyCmd) : s.sameCopies (s.chainDone id c) := by
  unfold State.chainDone
  split <;> exact State.sameCopies_of_blocks rfl rfl

/-- The repair of damaged units leaves the cores and the blocks. -/
theorem State.sameCopies_repair (s : State) (us : List (Nat × Nat)) : s.sameCopies (s.repair us) := by
  obtain ⟨-, -, hblocks, -, -, hcores, -⟩ := s.repair_sameOutside us
  exact State.sameCopies_of_blocks hcores hblocks

theorem State.sameCopies_closeChain (s : State) (id : Nat) (c : CopyCmd) : s.sameCopies (s.closeChain id c).1 := by
  unfold State.closeChain
  dsimp only
  split
  · exact State.sameCopies.refl s
  · split
    · exact State.sameCopies_of_blocks rfl rfl
    · split
      · split
        · exact (State.sameCopies_of_blocks rfl rfl).trans (State.sameCopies_repair _ _)
        · exact State.sameCopies_of_blocks rfl rfl
      · exact State.sameCopies_of_blocks rfl rfl

/-- A command outside every chain reports its own status. -/
theorem State.closeChain_of_no_crc (s : State) (id : Nat) {c : CopyCmd} (h : c.crc = none) :
    (s.closeChain id c).2 = c.status := by
  simp [State.closeChain, h]

/-! ## Completion (R132, R204, R218) -/

/-- The state and the status with which a copy completes: its bytes that did not land are counted, and its chain has
learnt of it. -/
def State.chained (s : State) (id : Nat) (c : CopyCmd) : State × Nat :=
  ((if c.status ≠ 0 then s.countLanded c c.unlanded else s).chainDone id c).closeChain id c

theorem State.sameCopies_chained (s : State) (id : Nat) (c : CopyCmd) : s.sameCopies (s.chained id c).1 := by
  have hcount : s.sameCopies (if c.status ≠ 0 then s.countLanded c c.unlanded else s) := by
    split
    · exact s.sameCopies_countLanded c _
    · exact State.sameCopies.refl s
  exact hcount.trans ((State.sameCopies_chainDone _ id c).trans (State.sameCopies_closeChain _ id c))

/-- A state in which a command has left its queue. -/
def State.dropCopy (s : State) (core id : Nat) : State :=
  s.setCore core { s.core core with copies := (s.core core).copies.erase id }

/-- The follow-on of a command that completes with a status, put into the matrix queue where that is 0 (R132). -/
def State.pushFollow (s : State) (c : CopyCmd) (st : Nat) : State :=
  match c.follow with
  | some op => if st = 0 then s.matPush c.bid op none else s
  | none => s

theorem State.finishCopy_eq (s : State) (core id : Nat) (c : CopyCmd) :
    s.finishCopy core id c
      = (((s.chained id c).1.dropCopy core id).pushFollow c (s.chained id c).2).tagEnd c.bid c.tag (s.chained id c).2 := by
  unfold State.finishCopy State.pushFollow State.chained State.dropCopy
  cases c.follow <;> rfl

/-- A follow-on enters the matrix queue of its core, and changes no copy and no block. -/
theorem State.pushFollow_cases (s : State) (c : CopyCmd) (st : Nat) :
    (∃ op, c.follow = some op ∧ st = 0 ∧ s.pushFollow c st = s.matPush c.bid op none)
    ∨ ((c.follow = none ∨ st ≠ 0) ∧ s.pushFollow c st = s) := by
  unfold State.pushFollow
  cases hf : c.follow with
  | none => exact .inr ⟨.inl rfl, rfl⟩
  | some op =>
    by_cases hst : st = 0
    · exact .inl ⟨op, rfl, hst, if_pos hst⟩
    · exact .inr ⟨.inr hst, if_neg hst⟩

theorem State.core_setCore_ne (s : State) {c d : Nat} (x : Core) (h : d ≠ c) : (s.setCore c x).core d = s.core d := by
  simp [State.core, Table.get_put_ne _ h]

theorem State.matPush_copies (s : State) (bid core : Nat) (op : MatOp) :
    ((s.matPush bid op none).core core).copies = (s.core core).copies := by
  by_cases h : core = coreOf bid
  · subst h
    simp [State.matPush]
  · simp only [State.matPush, State.core_setCore_ne _ _ h]

theorem State.matPush_mq (s : State) (bid : Nat) (op : MatOp) :
    ((s.matPush bid op none).core (coreOf bid)).mq
      = (s.core (coreOf bid)).mq ++ [{ bid, op, by' := none, prog := none }] := by
  simp [State.matPush]

/-- A command that leaves its queue leaves every matrix queue. -/
theorem State.dropCopy_mq (s : State) (core id d : Nat) : ((s.dropCopy core id).core d).mq = (s.core d).mq := by
  by_cases h : d = core
  · subst h
    simp [State.dropCopy]
  · simp only [State.dropCopy, State.core_setCore_ne _ _ h]

/-- A completed command has left its queue, its tag has its status, and its follow-on, and nothing else, has entered the
matrix queue where that status is 0. -/
theorem State.finishCopy_holds (s : State) (core id : Nat) (c : CopyCmd) :
    ((s.finishCopy core id c).core core).copies.get? id = none
    ∧ (s.finishCopy core id c).tag c.bid c.tag = (s.tag c.bid c.tag).finish (s.chained id c).2
    ∧ (∀ op, c.follow = some op → (s.chained id c).2 = 0 → ((s.finishCopy core id c).core (coreOf c.bid)).mq
        = (s.core (coreOf c.bid)).mq ++ [{ bid := c.bid, op, by' := none, prog := none }])
    ∧ ((c.follow = none ∨ (s.chained id c).2 ≠ 0) →
        ((s.finishCopy core id c).core (coreOf c.bid)).mq = (s.core (coreOf c.bid)).mq) := by
  obtain ⟨hcores, htags⟩ := s.sameCopies_chained id c
  have hcore : ∀ d, (s.chained id c).1.core d = s.core d := fun d => by simp only [State.core, hcores]
  have hdropped : (((s.chained id c).1.dropCopy core id).core core).copies.get? id = none := by
    simp [State.dropCopy, Table.get?_erase_self]
  have hmq := ((s.chained id c).1.dropCopy_mq core id (coreOf c.bid)).trans (congrArg Core.mq (hcore _))
  have htag : ((s.chained id c).1.dropCopy core id).tag c.bid c.tag = s.tag c.bid c.tag := htags _ _
  have hend : ∀ u : State, (u.tagEnd c.bid c.tag (s.chained id c).2).tag c.bid c.tag
      = (u.tag c.bid c.tag).finish (s.chained id c).2 := fun u => by
    simp [State.tagEnd, State.setTag, State.tag]
  rw [State.finishCopy_eq]
  rcases ((s.chained id c).1.dropCopy core id).pushFollow_cases c (s.chained id c).2 with ⟨op, hf, hst, hpush⟩ | ⟨hno, hpush⟩
  · rw [hpush]
    refine ⟨(congrArg (Table.get? · id) (State.matPush_copies _ _ core op)).trans hdropped,
      (hend _).trans (congrArg (Tag.finish · _) htag), fun op' hf' _ => ?_,
      fun hno => by simp [hf, hst] at hno⟩
    obtain rfl : op = op' := Option.some.inj (hf.symm.trans hf')
    exact (State.matPush_mq _ c.bid op).trans (by rw [hmq])
  · rw [hpush]
    exact ⟨hdropped, (hend _).trans (congrArg (Tag.finish · _) htag), fun op hf hst => by simp [hf, hst] at hno,
      fun _ => hmq⟩

theorem exec_copyStart (core que : Nat) (s : State) : exec (.copyStart core que) s = execCopyStart core que s := rfl

theorem exec_copyLanding (core cmd n : Nat) (s : State) :
    exec (.copyLanding core cmd n) s = execCopyLanding core cmd n s := rfl

theorem exec_copyComplete (core cmd : Nat) (s : State) : exec (.copyComplete core cmd) s = execCopyComplete core cmd s := rfl

/-- A command that has moved or ended, whose chain is ready and whose follow-on has room, completes. -/
theorem exec_copyComplete_of_ready {core cmd : Nat} {s : State} {c : CopyCmd} (hc : (s.core core).copies.get? cmd = some c)
    (hstart : c.started = true) (hend : c.status ≠ 0 ∨ c.next = none) (hready : s.chainReady cmd c = true)
    (hroom : c.follow = none ∨ s.matFull (coreOf c.bid) = false) :
    exec (.copyComplete core cmd) s = .next (s.finishCopy core cmd c) := by
  have hmoving : (c.status == 0 && c.next.isSome) = false := by
    rcases hend with h | h <;> simp [h]
  have hfull : (c.follow.isSome && s.matFull (coreOf c.bid)) = false := by
    rcases hroom with h | h <;> simp [h]
  rw [exec_copyComplete]
  simp [execCopyComplete, hc, hstart, hmoving, hready, hfull]

end Sys2Proof.Machine

end

section

/-!
# The granules of a copy

The bytes that a granule lands are written one after another in the order of its parts, of their places and of their
bytes. An engine's access to device memory changes no memory but by the bytes that it writes, and where no word is owned
a load returns the bytes of memory, whatever the caches of translations hold.
-/

namespace Sys2Proof

/-! ## Writes in order -/

section

variable {β : Type} {key : β → Nat} {val : β → Byte} {l : List β}

theorem Memory.writeEach_append (m : Memory) (l l' : List β) :
    Memory.writeEach m key val (l ++ l') = Memory.writeEach (Memory.writeEach m key val l) key val l' := by
  simp only [Memory.writeEach, List.foldl_append]

/-- A key to which every write of a list brings one byte holds it. -/
theorem Memory.read_writeEach_mem (m : Memory) {e : β} (he : e ∈ l) (h : ∀ c ∈ l, key c = key e → val c = val e) :
    Memory.read (Memory.writeEach m key val l) (key e) = val e := by
  induction l using List.reverseRecOn with
  | nil => cases he
  | append_singleton l c ih =>
    rw [Memory.writeEach_append]
    by_cases hc : key c = key e
    · have hval := h c (by simp) hc
      rw [← hc, ← hval]
      exact Memory.read_write_self _ _ _
    · have hel : e ∈ l := by
        rcases List.mem_append.mp he with hel | hec
        · exact hel
        · exact absurd (congrArg key (List.mem_singleton.mp hec).symm) hc
      exact (Memory.read_write_ne _ (Ne.symm hc) _).trans (ih hel fun c' hc' => h c' (List.mem_append_left _ hc'))

end

/-- Consecutive bytes are written one after another. -/
theorem Memory.writeBytes_eq_writeEach (m : Memory) (a : Nat) (bs : List Byte) :
    Memory.writeBytes m a bs = Memory.writeEach m (fun e : Byte × Nat => a + e.2) (fun e => e.1) bs.zipIdx := by
  have hfrom : ∀ (bs : List Byte) (m : Memory) (j : Nat), Memory.writeBytes m (a + j) bs
      = Memory.writeEach m (fun e : Byte × Nat => a + e.2) (fun e => e.1) (bs.zipIdx j) := by
    intro bs
    induction bs with
    | nil => exact fun _ _ => rfl
    | cons b bs ih => exact fun m j => ih (Memory.write m (a + j) b) (j + 1)
  exact hfrom bs m 0

end Sys2Proof

namespace Sys2Proof.Machine

open Sys2Proof

/-! ## Landing (R209, R211, R212) -/

section

variable (c : CopyCmd) (m : Memories) (x y : Memory)

theorem CopyCmd.landMem_setLandMem : c.landMem (c.setLandMem m x) = x := by
  unfold CopyCmd.landMem CopyCmd.setLandMem
  cases c.tile <;> rfl

theorem CopyCmd.setLandMem_setLandMem : c.setLandMem (c.setLandMem m x) y = c.setLandMem m y := by
  unfold CopyCmd.setLandMem
  cases c.tile <;> rfl

theorem CopyCmd.setLandMem_landMem : c.setLandMem m (c.landMem m) = m := by
  unfold CopyCmd.landMem CopyCmd.setLandMem
  cases c.tile <;> rfl

end

/-- The state with another memory in which a copy lands. -/
def State.setLand (s : State) (c : CopyCmd) (m : Memory) : State := { s with mem := c.setLandMem s.mem m }

theorem State.setLand_landMem (s : State) (c : CopyCmd) : s.setLand c (c.landMem s.mem) = s := by
  rw [State.setLand, CopyCmd.setLandMem_landMem]

/-- The writes that land some bytes at a place of the flask: keys and bytes. -/
def State.placeWrites (s : State) (c : CopyCmd) (bytes : List Byte) (q : Nat × Nat) : List (Nat × Byte) :=
  bytes.zipIdx.map fun e => (s.landKey c q e.2, e.1)

/-- The writes that land a part of a row in every receiver. -/
def State.partWrites (s : State) (c : CopyCmd) (rd : Nat → Byte) (p : RowPart) : List (Nat × Byte) :=
  (s.landPlaces c p.1 p.2.1).flatMap (s.placeWrites c (c.output p rd))

theorem State.mem_partWrites {s : State} {c : CopyCmd} {rd : Nat → Byte} {p : RowPart} {n : Nat} {v : Byte} :
    (n, v) ∈ s.partWrites c rd p
      ↔ ∃ q ∈ s.landPlaces c p.1 p.2.1, ∃ k, s.landKey c q k = n ∧ (c.output p rd)[k]? = some v := by
  simp only [State.partWrites, State.placeWrites, List.mem_flatMap, List.mem_map, Prod.exists, Prod.mk.injEq,
    List.mem_zipIdx_iff_getElem?]
  constructor
  · rintro ⟨b, o, hq, w, k, hk, rfl, rfl⟩
    exact ⟨b, o, hq, k, rfl, hk⟩
  · rintro ⟨b, o, hq, k, rfl, hk⟩
    exact ⟨b, o, hq, v, k, hk, rfl, rfl⟩

/-- The memory in which a copy lands after some writes. -/
def State.landed (s : State) (c : CopyCmd) (m : Memory) (l : List (Nat × Byte)) : State :=
  s.setLand c (Memory.writeEach m (fun e : Nat × Byte => e.1) (fun e => e.2) l)

/-- Bytes landed at one place are written one after another. -/
theorem State.landAt_setLand (s : State) (c : CopyCmd) (m : Memory) (q : Nat × Nat) (bytes : List Byte) :
    (if c.tile then (s.setLand c m).tileWrite q.1 c.tnum q.2 bytes else (s.setLand c m).poolWrite q.1 q.2 c.skw bytes)
      = s.landed c m (s.placeWrites c bytes q) := by
  cases ht : c.tile with
  | true =>
    have hkey : ∀ k, tileKey q.1 c.tnum (q.2 + k) = tileKey q.1 c.tnum q.2 + k := fun k => by
      simp only [tileKey, Nat.add_assoc]
    simp [State.landed, State.placeWrites, State.setLand, State.tileWrite, State.landKey, CopyCmd.setLandMem, ht, hkey,
      Memory.writeBytes_eq_writeEach, Memory.writeEach, List.foldl_map]
  | false =>
    simp only [State.landed, State.placeWrites, State.setLand, State.poolWrite, State.landKey, CopyCmd.setLandMem, ht,
      Memory.writeEach, List.foldl_map, Bool.false_eq_true, if_false]
    rfl

/-- A part landed in every receiver. -/
theorem State.landPart_setLand (s : State) (c : CopyCmd) (m : Memory) (rd : Nat → Byte) (p : RowPart) :
    (s.setLand c m).landPart c p (c.output p rd) = s.landed c m (s.partWrites c rd p) := by
  have hplaces : ∀ (l : List (Nat × Nat)) (m : Memory),
      l.foldl (fun (s : State) q => if c.tile then s.tileWrite q.1 c.tnum q.2 (c.output p rd)
          else s.poolWrite q.1 q.2 c.skw (c.output p rd)) (s.setLand c m)
        = s.landed c m (l.flatMap (s.placeWrites c (c.output p rd))) := by
    intro l
    induction l with
    | nil => exact fun _ => rfl
    | cons q l ih =>
      intro m
      rw [List.foldl_cons, State.landAt_setLand, List.flatMap_cons]
      refine (ih _).trans ?_
      simp only [State.landed, Memory.writeEach_append]
  exact hplaces (s.landPlaces c p.1 p.2.1) m

/-- The parts of a granule are landed in their order, where no unit is damaged. -/
theorem State.landParts_eq {s : State} (hd : s.dev.damage = []) (c : CopyCmd) (ps : List RowPart) (rd : Nat → Byte) :
    s.landParts c ps rd = s.landed c (c.landMem s.mem) (ps.flatMap (s.partWrites c rd)) := by
  have hparts : ∀ (l : List RowPart) (m : Memory), l.foldl (fun s p => s.landPart c p (c.output p rd)) (s.setLand c m)
      = s.landed c m (l.flatMap (s.partWrites c rd)) := by
    intro l
    induction l with
    | nil => exact fun _ => rfl
    | cons p l ih =>
      intro m
      rw [List.foldl_cons, State.landPart_setLand, List.flatMap_cons]
      refine (ih _).trans ?_
      simp only [State.landed, Memory.writeEach_append]
  have hall := hparts ps (c.landMem s.mem)
  rw [State.setLand_landMem] at hall
  rw [State.landParts, hall]
  exact State.repair_of_sound (s := s.landed c _ _) hd _

theorem State.landMem_landed (s : State) (c : CopyCmd) (m : Memory) (l : List (Nat × Byte)) :
    c.landMem (s.landed c m l).mem = Memory.writeEach m (fun e : Nat × Byte => e.1) (fun e => e.2) l :=
  CopyCmd.landMem_setLandMem c s.mem _

/-- A key to which no part is landed keeps its byte. -/
theorem State.read_landParts_ne {s : State} (hd : s.dev.damage = []) (c : CopyCmd) {ps : List RowPart} {rd : Nat → Byte}
    {n : Nat} (h : ∀ p ∈ ps, ∀ q ∈ s.landPlaces c p.1 p.2.1, ∀ k, k < (c.output p rd).length → s.landKey c q k ≠ n) :
    Memory.read (c.landMem (s.landParts c ps rd).mem) n = Memory.read (c.landMem s.mem) n := by
  rw [State.landParts_eq hd, State.landMem_landed]
  refine Memory.read_writeEach_ne _ ?_
  rintro ⟨n', v⟩ he
  obtain ⟨p, hp, he⟩ := List.mem_flatMap.mp he
  obtain ⟨q, hq, k, rfl, hk⟩ := State.mem_partWrites.mp he
  exact h p hp q hq k (List.getElem?_eq_some_iff.mp hk).1

/-- A key to which a part lands one byte, and no later part any, holds that byte. -/
theorem State.read_landParts_last {s : State} (hd : s.dev.damage = []) (c : CopyCmd) {before after : List RowPart}
    {p : RowPart} {rd : Nat → Byte} {q : Nat × Nat} {k : Nat} {v : Byte} (hq : q ∈ s.landPlaces c p.1 p.2.1)
    (hv : (c.output p rd)[k]? = some v)
    (hafter : ∀ p' ∈ after, ∀ q' ∈ s.landPlaces c p'.1 p'.2.1, ∀ k', k' < (c.output p' rd).length →
      s.landKey c q' k' ≠ s.landKey c q k)
    (hown : ∀ q' ∈ s.landPlaces c p.1 p.2.1, ∀ k', k' < (c.output p rd).length → s.landKey c q' k' = s.landKey c q k →
      k' = k) :
    Memory.read (c.landMem (s.landParts c (before ++ p :: after) rd).mem) (s.landKey c q k) = v := by
  have hlater : ∀ e ∈ after.flatMap (s.partWrites c rd), e.1 ≠ s.landKey c q k := by
    rintro ⟨n, w⟩ he
    obtain ⟨p', hp', he⟩ := List.mem_flatMap.mp he
    obtain ⟨q', hq', k', rfl, hk'⟩ := State.mem_partWrites.mp he
    exact hafter p' hp' q' hq' k' (List.getElem?_eq_some_iff.mp hk').1
  have hpart : ∀ e ∈ s.partWrites c rd p, e.1 = s.landKey c q k → e.2 = v := by
    rintro ⟨n, w⟩ he hn
    obtain ⟨q', hq', k', rfl, hk'⟩ := State.mem_partWrites.mp he
    obtain rfl := hown q' hq' k' (List.getElem?_eq_some_iff.mp hk').1 hn
    exact Option.some.inj (hk'.symm.trans hv)
  rw [State.landParts_eq hd, State.landMem_landed, List.flatMap_append, List.flatMap_cons, Memory.writeEach_append,
    Memory.writeEach_append, Memory.read_writeEach_ne _ hlater]
  exact Memory.read_writeEach_mem _ (e := (s.landKey c q k, v)) (State.mem_partWrites.mpr ⟨q, hq, k, rfl, hv⟩) hpart

/-- The parts of a granule change no memory but the one in which they land. -/
theorem State.landParts_frame {s : State} (hd : s.dev.damage = []) (c : CopyCmd) (ps : List RowPart) (rd : Nat → Byte) :
    s.landParts c ps rd = { s with mem := c.setLandMem s.mem (c.landMem (s.landParts c ps rd).mem) } := by
  rw [State.landParts_eq hd, State.landMem_landed]
  rfl

/-- A granule whose reads are answered lands what its parts give. -/
theorem State.landGranule_of_reads {core id u : Nat} {s s1 : State} {c : CopyCmd} {bs : List Byte} {t : Table Byte}
    (hd : s1.dev.damage = [])
    (h : s.copyReads core c (((c.parts u).flatMap c.reads).flatMap fun e => cutLines e.1 e.2) [] = (s1, .bytes bs, t)) :
    s.landGranule core id c u
      = ((s1.landParts c (c.parts u) fun a => t.get a 0).setCopy core id
          (c.movedOn u ((c.parts u).flatMap fun p => c.keeps p fun a => t.get a 0))).countLanded c (partBytes (c.parts u)) := by
  simp only [State.landGranule, h, State.hurt_of_sound hd]

/-- A plain copy reads, and lands, the bytes at its row's address (R207). -/
theorem CopyCmd.plain_reads_output {c : CopyCmd} {r lo hi k : Nat} (rd : Nat → Byte) (hkind : c.kind = .cpy ∨ c.kind = .get)
    (hplain : c.fmc = .plain) (hk : k < hi - lo) :
    c.reads (r, lo, hi) = [((c.rowAddress r).toNat + lo, hi - lo)]
    ∧ (c.output (r, lo, hi) rd)[k]? = some (rd ((c.rowAddress r).toNat + lo + k)) := by
  rcases hkind with hkind | hkind <;> simp [CopyCmd.reads, CopyCmd.output, hkind, hplain, hk]

/-! ## Writing (R214) -/

/-- A granule of a `cpyo` or put whose access is answered has moved, with its signature. -/
theorem State.writeGranule_of_answer {core id u : Nat} {s t : State} {c : CopyCmd} {bs : List Byte} (hd : s.dev.damage = [])
    (h : s.copyPiece core c true (((c.parts u).map (s.writtenAt c)).map (·.1)) = (t, .bytes bs)) :
    s.writeGranule core id c u
      = (t.sign c.bid (copyEvents (((c.parts u).map (s.writtenAt c)).map (·.1)))).setCopy core id
          (c.movedOn u (((c.parts u).map (s.writtenAt c)).flatMap (·.2))) := by
  simp only [State.writeGranule, State.hurt_of_sound hd, h]

/-- A plain part writes the pooled bytes of its row. -/
theorem State.writtenAt_plain {s : State} {c : CopyCmd} {r lo hi b o : Nat} (hplain : c.fmc = .plain)
    (hat : s.poolAt c.flask (c.dst r) c.len = .at' b o) :
    (s.writtenAt c (r, lo, hi)).1
      = { va := c.side r + lo, n := hi - lo, data := s.poolRead b (o + lo) (hi - lo) c.skw } := by
  simp [State.writtenAt, State.needsAt, CopyCmd.needs, CopyCmd.written, hplain, hat]

/-! ## Device memory at a home without owned words (R172, R216) -/

/-- The state with another table of cores. -/
def State.withCores (s : State) (k : Table Core) : State := { s with cores := k }

/-- A translation of sound page tables changes the lease cache of its core alone. -/
theorem State.translateLease_eq {s : State} (hd : s.dev.damage = []) (core tag va : Nat) :
    (s.translateLease core tag va).1 = s.withCores (s.translateLease core tag va).1.cores := by
  have hwalked : ∀ w, s.walked (some (dieOfCore core)) tag va w = s := fun w => by simp [State.walked, hd]
  unfold State.translateLease
  dsimp only
  split
  · dsimp only
    split <;> rfl
  · rw [hwalked]
    split <;> rfl

section

variable {s : State} (ho : s.homes.owners = []) (hb : s.homes.backs = [])
include ho hb

theorem State.recallNow_of_no_owner (line : Nat) : s.recallNow line = s :=
  State.recallNow_of_unowned line (by simp [ho]) (by simp [hb])

/-- A byte of which no word is owned stands in memory. -/
theorem State.homeByte_of_no_owner (pa : Nat) : s.homeByte pa = Memory.read s.mem.dev (s.forward pa) := by
  simp only [State.homeByte, State.recallNow_of_no_owner ho hb]

/-- What a load returns there does not depend on the cores. -/
theorem State.valueBytes_withCores (k : Table Core) (pa n : Nat) : (s.withCores k).valueBytes pa n = s.valueBytes pa n := by
  have hbyte : ∀ pa, (s.withCores k).homeByte pa = s.homeByte pa := fun pa => by
    rw [State.homeByte_of_no_owner ho hb, State.homeByte_of_no_owner (s := s.withCores k) ho hb]
    rfl
  have hnat : ∀ pa n, (s.withCores k).homeNat pa n = s.homeNat pa n := fun pa n => by
    simp only [State.homeNat, State.homeBytes, hbyte]
  have hcombined : ∀ r e, (s.withCores k).combined r e = s.combined r e := fun r e => by
    simp only [State.combined, hnat]
    rfl
  simp only [State.valueBytes, State.valueByte, hbyte, hcombined]
  rfl

end

/-- A piece of a load that its home does not refuse returns what stands there. -/
theorem State.homePiece_load {s : State} {r : Req} {p : Piece} {own : Bool} (hd : s.dev.damage = []) (hop : r.op = .load own)
    (hf : s.frameRefused r.tag (p.addr / 64) = none) :
    s.homePiece r p = (s, .bytes (s.valueBytes p.addr p.n)) := by
  simp [State.homePiece, State.pieceDamage, hf, hop, State.readDamage_of_sound hd, State.correctValue_of_sound hd]

/-- A piece of a store that its home does not refuse writes its bytes. -/
theorem State.homePiece_store {s : State} {r : Req} {p : Piece} {own : Bool} (hd : s.dev.damage = []) (hop : r.op = .store own)
    (hf : s.frameRefused r.tag (p.addr / 64) = none) (hs : s.silent r.flask = false) :
    s.homePiece r p = ((s.devWrite p.addr p.data).repair (sectorUnits p.addr p.n), .bytes []) := by
  simp [State.homePiece, State.pieceDamage, hf, hop, State.storeDamage_of_sound hd, hs]

/-- A fill of a remote-data cache changes no memory. -/
theorem State.rdcFill_mem {s : State} (hd : s.dev.damage = []) (r : Req) : (s.rdcFill r).mem = s.mem := by
  unfold State.rdcFill
  dsimp only
  split
  · rfl
  · rw [State.correctRead_of_sound hd]
    rfl

theorem State.spoilCache_mem (s : State) (die line : Nat) : (s.spoilCache die line).mem = s.mem := by
  unfold State.spoilCache
  dsimp only
  split
  · rfl
  · split <;> rfl

/-- Nor does an access that passes one. -/
theorem State.rdcPass_mem (s : State) (r : Req) : (s.rdcPass r).mem = s.mem := by
  have hpieces : (r.pieces.foldl (fun s p => s.patchCache (dieOfBlock r.bid) p.addr p.n) s).mem = s.mem := by
    have hruns := State.patchCaches_mem (dieOfBlock r.bid) (r.pieces.map fun p => (p.addr, p.n)) s
    rwa [List.foldl_map] at hruns
  unfold State.rdcPass
  split
  · exact hpieces
  · exact hpieces
  · exact s.spoilCache_mem _ _

/-- A request of one piece that its home answers with some bytes. -/
theorem State.runPieces_single {s t : State} {r : Req} {p : Piece} {bs : List Byte}
    {f : State → Piece → State × PieceOut} (hp : r.pieces = [p]) (h : f s p = (t, .bytes bs)) :
    s.runPieces r f = (t, { r with results := r.results ++ [(p.lane, p.ofs, bs)] }) := by
  simp [State.runPieces, hp, h]

section

variable {s : State} {core pa : Nat} {c : CopyCmd} {run : CopyRun} {uco : Bool} (hm : s.homes.migration = none)
  (hd : s.dev.damage = [])
include hm hd

/-- An access of a copy that is no put and no get to device memory goes to its home as a request of one piece. -/
theorem State.copyPiece_of_device {store : Bool} (hput : c.kind ≠ .put) (hget : c.kind ≠ .get)
    (hres : s.resolve c.ctx c.uclass (if store then .store else .load) run.va (s.translateLease core c.ctx run.va).2
      = .ok .device pa uco) :
    s.copyPiece core c store [run]
      = (s.withCores (s.translateLease core c.ctx run.va).1.cores).copyDevice c store
          (s.copyReq c store uco .device run.va pa [run]) run.va pa := by
  have hres' : (s.translateLease core c.ctx run.va).1.resolve c.ctx c.uclass (if store then .store else .load) run.va
      (s.translateLease core c.ctx run.va).2 = .ok .device pa uco := by
    rw [State.translateLease_eq hd]
    exact hres
  have hforward : ((s.translateLease core c.ctx run.va).1.forward pa) = pa := by
    rw [State.translateLease_eq hd]
    exact State.forward_of_none hm pa
  have hfar : (c.kind == .put || c.kind == .get) = false := by simp [hput, hget]
  simp only [State.copyPiece, List.head?_cons, Option.elim_some, hres', hfar, hforward, Bool.false_eq_true, if_false]
  rw [State.translateLease_eq hd]
  rfl

end

/-- The piece of a copy's request for one run, at its address there. -/
def CopyRun.piece (run : CopyRun) (pa : Nat) : Piece :=
  { lane := 0, ofs := 0, va := run.va, addr := pa, n := run.n, data := run.data }

theorem State.copyReq_pieces (s : State) (c : CopyCmd) (store uco : Bool) (target : Target) (pa : Nat) (run : CopyRun) :
    (s.copyReq c store uco target run.va pa [run]).pieces = [run.piece pa] := by
  simp [State.copyReq, CopyRun.piece]

/-- A request of one piece whose home without owned words answers it, with what its answer leaves in the memories. -/
theorem State.copyHome_single {s t : State} {r : Req} {p : Piece} {bs : List Byte} (c : CopyCmd) (store : Bool)
    (va pa : Nat) (hd : s.dev.damage = []) (ho : s.homes.owners = []) (hb : s.homes.backs = []) (hp : r.pieces = [p])
    (hpiece : s.homePiece r p = (t, .bytes bs)) (ht : s.cacheable r = true → t.dev.damage = []) :
    ∃ u, s.copyHome c store r va pa = (u, { r with results := r.results ++ [(p.lane, p.ofs, bs)] }) ∧ u.mem = t.mem := by
  have hcover : (if store then { r with pieces := r.pieces ++ s.rowCover c va pa } else r) = r := by
    have hnone : s.rowCover c va pa = [] := by simp [State.rowCover, hd]
    cases store
    · rfl
    · simp only [hnone, List.append_nil, if_true]
  have hrun := State.runPieces_single (f := fun s p => s.homePiece r p) hp hpiece
  simp only [State.copyHome, hcover, State.recallNow_of_no_owner ho hb, hrun]
  refine ⟨_, rfl, ?_⟩
  split
  · rename_i hcache
    split
    · exact State.rdcFill_mem (ht hcache) r
    · rfl
  · exact t.rdcPass_mem r

/-- An access of a copy that waits for nothing, and is not served by a remote-data cache, has its home's answer. -/
theorem State.copyDevice_single {s t : State} {r : Req} {p : Piece} {bs : List Byte} {c : CopyCmd} {store : Bool}
    (va pa : Nat) (hd : s.dev.damage = []) (ho : s.homes.owners = []) (hb : s.homes.backs = []) (hp : r.pieces = [p])
    (hnew : r.bad = [] ∧ r.results = []) (hpiece : s.homePiece r p = (t, .bytes bs))
    (ht : s.cacheable r = true → t.dev.damage = []) (hwaits : s.copyWaits c r = false)
    (hload : store = false → s.loadWaits (dieOfBlock c.bid) r.line = false ∧ s.copyEntry c r = none) :
    ∃ u, s.copyDevice c store r va pa = (u, .bytes bs) ∧ u.mem = t.mem := by
  obtain ⟨u, hhome, hmem⟩ := State.copyHome_single c store va pa hd ho hb hp hpiece ht
  obtain ⟨hbad, hresults⟩ := hnew
  have hgo : s.copyDevice c store r va pa = ((s.copyHome c store r va pa).1, (s.copyHome c store r va pa).2.copyOut) := by
    cases store with
    | true => simp [State.copyDevice, hwaits]
    | false =>
      obtain ⟨hload, hentry⟩ := hload rfl
      simp [State.copyDevice, hload, hentry, hwaits]
  refine ⟨u, ?_, hmem⟩
  rw [hgo, hhome]
  simp [Req.copyOut, hbad, hresults]

section

variable {s : State} {core pa : Nat} {c : CopyCmd} {run : CopyRun} {uco : Bool} (hm : s.homes.migration = none)
  (hd : s.dev.damage = []) (ho : s.homes.owners = []) (hb : s.homes.backs = [])
  (hf : s.frameRefused (s.tagOfBlock c.bid) (pa / 64) = none)
include hm hd ho hb hf

/-- A read of a copy gives the bytes that a load returns there, and changes no memory. -/
theorem State.copyPiece_read (hput : c.kind ≠ .put) (hget : c.kind ≠ .get)
    (hres : s.resolve c.ctx c.uclass .load run.va (s.translateLease core c.ctx run.va).2 = .ok .device pa uco)
    (hload : s.loadWaits (dieOfBlock c.bid) (pa / 64) = false)
    (hentry : s.copyEntry c (s.copyReq c false uco .device run.va pa [run]) = none)
    (hwaits : s.copyWaits c (s.copyReq c false uco .device run.va pa [run]) = false) :
    ∃ t, s.copyPiece core c false [run] = (t, .bytes (s.valueBytes pa run.n)) ∧ t.mem = s.mem := by
  rw [State.copyPiece_of_device (store := false) hm hd hput hget hres]
  generalize (s.translateLease core c.ctx run.va).1.cores = k
  have hpiece := State.homePiece_load (s := s.withCores k) (r := s.copyReq c false uco .device run.va pa [run])
    (p := run.piece pa) hd rfl hf
  rw [State.valueBytes_withCores ho hb] at hpiece
  exact State.copyDevice_single (s := s.withCores k) (t := s.withCores k) run.va pa hd ho hb (s.copyReq_pieces c false uco .device pa run) ⟨rfl, rfl⟩ hpiece
    (fun _ => hd) hwaits fun _ => ⟨hload, hentry⟩

/-- A write of a copy puts its bytes there, and changes no other byte. -/
theorem State.copyPiece_write (hput : c.kind ≠ .put) (hget : c.kind ≠ .get) (hs : s.silent c.flask = false)
    (hres : s.resolve c.ctx c.uclass .store run.va (s.translateLease core c.ctx run.va).2 = .ok .device pa uco)
    (hwaits : s.copyWaits c (s.copyReq c true uco .device run.va pa [run]) = false) :
    ∃ t, s.copyPiece core c true [run] = (t, .bytes [])
      ∧ t.mem = { s.mem with dev := Memory.writeBytes s.mem.dev pa run.data } := by
  rw [State.copyPiece_of_device (store := true) hm hd hput hget hres]
  generalize (s.translateLease core c.ctx run.va).1.cores = k
  have hpiece := State.homePiece_store (s := s.withCores k) (r := s.copyReq c true uco .device run.va pa [run])
    (p := run.piece pa) hd rfl hf hs
  obtain ⟨u, hgo, hmem⟩ := State.copyDevice_single (s := s.withCores k) (store := true) run.va pa hd ho hb
    (s.copyReq_pieces c true uco .device pa run) ⟨rfl, rfl⟩ hpiece
    (fun h => by simp [State.cacheable, State.copyReq] at h) hwaits fun h => absurd h (by decide)
  refine ⟨u, hgo, hmem.trans ?_⟩
  rw [State.repair_mem, State.devWrite_mem]
  rfl

end

end Sys2Proof.Machine

namespace Sys2Proof

open Sys2Proof.Machine

/-- Settles O44: each event does to its command what its conditions say; a granule's writes, and its accesses at a home,
are those of its parts. -/
theorem copyEvents : Obligations.CopyEvents := by
  refine ⟨fun core que s e hfree => ⟨fun hque hstart => ?starts, fun hque => ?stays⟩,
    fun core cmd n s c hc => ⟨fun hmoved => ?moved, fun hstart hctx hst hmoved hgran hheld hput hbehind => ?lands⟩,
    fun core cmd s c hc hstart hend hready hroom => ?completes,
    fun t => ⟨Tag.begin_of_not_busy, Tag.begin_of_busy, t.finish_holds⟩,
    fun core id u s s1 c bs t hd h => State.landGranule_of_reads hd h,
    fun s c ps rd hd => ⟨s.landParts_frame hd c ps rd, fun m h => State.read_landParts_ne hd c h,
      fun before after p q k v hps hq hv hafter hown => ?byte⟩,
    fun c r lo hi k rd hkind hplain hk => CopyCmd.plain_reads_output rd hkind hplain hk,
    fun core id u s t c bs hd h => State.writeGranule_of_answer hd h,
    fun s c r lo hi b o hplain hat => State.writtenAt_plain hplain hat,
    fun s core va pa n c uco hput hget hres hm ho hb hd hf hload hentry hwaits =>
      State.copyPiece_read hm hd ho hb hf hput hget hres hload hentry hwaits,
    fun s core pa c run uco hkind hres hm ho hb hd hs hf hwaits =>
      State.copyPiece_write hm hd ho hb hf (by simp [hkind]) (by simp [hkind]) hs hres hwaits⟩
  case starts =>
    rw [exec_copyStart]
    simp [execCopyStart, Nat.not_le.mpr hfree, hque, hstart]
  case stays =>
    rw [exec_copyStart]
    simp [execCopyStart, hque]
  case moved =>
    rw [exec_copyLanding]
    simp only [execCopyLanding, hc, hmoved, Bool.or_true, Bool.true_or, if_true]
  case lands =>
    rw [exec_copyLanding]
    simp only [execCopyLanding, hc, hstart, hctx, hst, hmoved, hgran, hheld, hput, hbehind]
    rfl
  case completes =>
    obtain ⟨hgone, htag, hfollow, hnone⟩ := s.finishCopy_holds core cmd c
    exact ⟨_, exec_copyComplete_of_ready hc hstart hend hready hroom, hgone, htag, State.closeChain_of_no_crc _ cmd,
      hfollow, hnone⟩
  case byte =>
    subst hps
    exact State.read_landParts_last hd c hq hv hafter hown

end Sys2Proof

end

section

/-!
# The service of a request at its home

A request that reaches its home is judged by the owner state of its words, whatever its type and whatever generation its
fill request notes. What follows is a run of its pieces: in free words each is a step on device memory, in granted words
a step on the line in the owner buffer of its block. The end of the service, its stamp, memo and view, keeps memories,
records and buffers, so the request stands performed with the answers of that run.
-/

namespace Sys2Proof

/-- A test that a key fails with every value does not see what is put there. -/
theorem Table.any_put_of_refused {α : Type} (t : Table α) {p : Nat × α → Bool} {n : Nat} (h : ∀ v, p (n, v) = false) (x : α) :
    (t.put n x).any p = List.any t p := by
  induction t with
  | nil => simp [Table.put, h]
  | cons e r ih =>
    obtain ⟨k, v⟩ := e
    simp only [Table.put]
    split
    · rw [List.any_cons, ih, List.any_cons]
    · split
      · rename_i hk
        subst hk
        simp [h]
      · simp [h]

end Sys2Proof

namespace Sys2Proof.Machine

open Sys2Proof

/-! ## What the end of a request's service leaves (R160, R166, R183, R341) -/

/-- Memories, requests, owner records and owner buffers are as before. -/
def State.keepsHeld (s t : State) : Prop :=
  t.mem = s.mem ∧ t.homes.reqs = s.homes.reqs ∧ t.homes.owners = s.homes.owners ∧ ∀ c, (t.core c).owner = (s.core c).owner

theorem State.keepsHeld.refl (s : State) : s.keepsHeld s := ⟨rfl, rfl, rfl, fun _ => rfl⟩

theorem State.keepsHeld.trans {s t u : State} (h : s.keepsHeld t) (h' : t.keepsHeld u) : s.keepsHeld u := by
  obtain ⟨hmem, hreqs, howners, hcores⟩ := h
  obtain ⟨hmem', hreqs', howners', hcores'⟩ := h'
  exact ⟨hmem'.trans hmem, hreqs'.trans hreqs, howners'.trans howners, fun c => (hcores' c).trans (hcores c)⟩

theorem State.keepsHeld_memoise (s : State) (r : Req) : s.keepsHeld (s.memoise r) := by
  unfold State.memoise
  split <;> exact .refl s

theorem State.keepsHeld_ruinBlock (s : State) (bid struct key : Nat) : s.keepsHeld (s.ruinBlock bid struct key) := by
  unfold State.ruinBlock
  split <;> exact .refl s

theorem State.keepsHeld_detected (s : State) (r : Req) : s.keepsHeld (s.detected r) := by
  unfold State.detected
  induction r.bad.filter (fun e => e.2.1 == 0x300) generalizing s with
  | nil => exact .refl s
  | cons e l ih => exact (s.keepsHeld_ruinBlock _ _ _).trans (ih _)

theorem State.keepsHeld_raiseView (s : State) (f : Nat) : s.keepsHeld (s.raiseView f) := by
  unfold State.raiseView State.raiseDgen
  split <;> exact .refl s

/-- A core replaced by one with the same owner buffer. -/
theorem State.owner_setCore (s : State) {c : Nat} {x : Core} (h : x.owner = (s.core c).owner) (d : Nat) :
    ((s.setCore c x).core d).owner = (s.core d).owner := by
  by_cases hd : d = c
  · rw [hd, State.core_setCore, h]
  · rw [State.core_setCore_ne s x hd]

theorem State.keepsHeld_takeStamp (s : State) (bid : Nat) : s.keepsHeld (s.takeStamp bid).1 :=
  ⟨rfl, rfl, rfl, State.owner_setCore s rfl⟩

/-- A request that has been performed stands with its results and refusals. -/
theorem State.performed_holds (s : State) (id : Nat) (r : Req) :
    ∃ u q, s.keepsHeld u ∧ (u.setReq id q).keepsHeld (s.performed id r)
      ∧ q.status = .performed ∧ q.results = r.results ∧ q.bad = r.bad := by
  have hend : ∀ (u : State) (p : Req),
      (u.setReq id { p with status := .performed }).keepsHeld
        (let v := ((u.setReq id { p with status := .performed }).memoise p).detected p
         if p.raises then v.raiseView p.flask else v) := fun u p => by
    have hv := (State.keepsHeld_memoise (u.setReq id { p with status := .performed }) p).trans (State.keepsHeld_detected _ p)
    dsimp only
    split
    · exact hv.trans (State.keepsHeld_raiseView _ _)
    · exact hv
  unfold State.performed
  by_cases hsc : r.sc = true
  · rw [if_pos hsc]
    exact ⟨(s.takeStamp r.bid).1, { r with stamp := (s.takeStamp r.bid).2, status := .performed },
      s.keepsHeld_takeStamp r.bid, hend _ { r with stamp := (s.takeStamp r.bid).2 }, rfl, rfl, rfl⟩
  · rw [if_neg hsc]
    exact ⟨s, { r with status := .performed }, .refl s, hend s r, rfl, rfl, rfl⟩

/-- An event that performs a request serves it. -/
theorem State.serves_of_performed {s t : State} {id : Nat} {q : Req} {m : Memories}
    (h : exec (.homeRequest id) s = .next (t.performed id q)) (hm : t.mem = m) : s.serves id q.results q.bad m := by
  obtain ⟨u, q', ⟨humem, -⟩, ⟨hmem, hreqs, -⟩, hstatus, hresults, hbad⟩ := t.performed_holds id q
  refine ⟨_, q', h, ?_, hstatus, hresults, hbad, hmem.trans (humem.trans hm)⟩
  rw [hreqs]
  exact Table.get?_put_self _ _ _

/-! ## A request that reaches its home (R171, R172, R182, R347) -/

/-- Without a migration a request goes where it was sent. -/
theorem State.forwarded_of_none {s : State} (hm : s.homes.migration = none) (r : Req) : s.forwarded r = r := by
  have hline : r.line * 64 / 64 = r.line := Nat.mul_div_cancel _ (by decide)
  simp only [State.forwarded, State.forward_of_none hm, hline, State.movedEpoch, if_true, List.map_id']
  split <;> rfl

/-- A home treats a request as it is, or without its claim to ownership. -/
theorem State.effective_eq_or (s : State) (r : Req) : s.effective r = r ∨ r.owned = true ∧ s.effective r = r.plain := by
  unfold State.effective
  split
  · rename_i h
    rw [Bool.and_eq_true] at h
    exact .inr ⟨h.1, rfl⟩
  · exact .inl rfl

theorem State.combinedAhead_plain (s : State) (r : Req) : s.combinedAhead r.plain = s.combinedAhead r := by
  unfold State.combinedAhead Req.plain
  cases r.op <;> rfl

theorem State.combinedAhead_effective (s : State) (r : Req) : s.combinedAhead (s.effective r) = s.combinedAhead r := by
  rcases s.effective_eq_or r with h | ⟨-, h⟩ <;> rw [h]
  exact s.combinedAhead_plain r

theorem State.behind_effective (s : State) (id : Nat) (r : Req) : s.behind id (s.effective r) = s.behind id r := by
  rcases s.effective_eq_or r with h | ⟨-, h⟩ <;> rw [h]
  rfl

theorem exec_homeRequest (id : Nat) (s : State) : exec (.homeRequest id) s = execHomeRequest id s := rfl

/-- A request to device memory that nothing of its squad and no combined store goes before is on its way to its home. -/
theorem State.exec_homeRequest_of_reach {s : State} {id : Nat} {r : Req} (hr : s.homes.reqs.get? id = some r)
    (hstatus : r.status = .sent ∨ r.status = .held) (htarget : r.target = .device) (hm : s.homes.migration = none)
    (hbehind : s.behind id r = false) (hahead : s.combinedAhead r = false) :
    exec (.homeRequest id) s = .next (s.deviceReach id r (s.effective r)) := by
  have htarget' : (s.effective r).target = .device := by
    rcases s.effective_eq_or r with h | ⟨-, h⟩ <;> rw [h]
    · exact htarget
    · exact htarget
  have hstands : (r.status == .sent || r.status == .held) = true := by
    rcases hstatus with h | h <;> rw [h] <;> rfl
  have hclass : s.classBehind id (s.effective r) = false := by
    unfold State.classBehind
    rw [htarget']
  simp only [exec_homeRequest, execHomeRequest, hr, hstands, if_true, State.homeStep, State.forwarded_of_none hm,
    State.behind_effective, hbehind, State.combinedAhead_effective, hahead, hclass, htarget', Bool.or_self,
    Bool.false_eq_true, if_false]

/-- A load that may be served by a remote-data cache claims no ownership. -/
theorem State.not_owned_of_cacheable {s : State} {r : Req} (h : s.cacheable r = true) : r.owned = false := by
  unfold State.cacheable at h
  unfold Req.owned
  split
  · rename_i o ho
    rw [ho] at h
    cases o
    · rfl
    · simp at h
  · rename_i ho
    rw [ho] at h
    simp at h
  · rfl

theorem State.effective_of_not_owned {r : Req} (s : State) (h : r.owned = false) : s.effective r = r := by
  simp [State.effective, h]

/-- A request whose claim to ownership its home drops may fill no remote-data cache: it is an `.sc` access, or one to a
range. -/
theorem State.cacheable_effective {s : State} {id : Nat} {r : Req} (hat : s.atHome id r) :
    s.cacheable (s.effective r) = s.cacheable r := by
  obtain ⟨-, -, -, hm, -, -, -, -, -, hpieces⟩ := hat
  by_cases hc : s.cacheable r = true
  · rw [State.effective_of_not_owned s (State.not_owned_of_cacheable hc)]
  unfold State.effective
  split
  · rename_i h
    rw [Bool.eq_false_iff.mpr hc]
    have hmigrating : s.migrating r.line = false := by simp [State.migrating, hm]
    simp only [hmigrating, Bool.false_or, Bool.and_eq_true, Bool.or_eq_true, List.any_eq_true] at h
    obtain ⟨-, hsc | ⟨p, hp, hrange⟩⟩ := h
    · simp [State.cacheable, Req.plain, hsc]
    · have hin : s.inRange r.line = true := List.any_eq_true.mpr
        ⟨p.addr % 64, List.mem_range.mpr (Nat.mod_lt _ (by decide)), by rwa [← hpieces p hp, Nat.div_add_mod']⟩
      simp [State.cacheable, Req.plain, hin]
  · rfl

theorem State.seamHolds_setReq (s : State) (id : Nat) (q r : Req) : (s.setReq id q).seamHolds id r = s.seamHolds id r := by
  have hqueued : (s.setReq id q).seamQueued id r = s.seamQueued id r :=
    Table.any_put_of_refused _ (fun _ => by simp) q
  simp only [State.seamHolds, hqueued]
  rfl

theorem State.heldBefore_setReq (s : State) (id : Nat) (q r : Req) : (s.setReq id q).heldBefore id r = s.heldBefore id r :=
  Table.any_put_of_refused _ (fun _ => by simp) q

theorem State.seamHolds_effective (s : State) (id : Nat) (r : Req) : s.seamHolds id (s.effective r) = s.seamHolds id r := by
  rcases s.effective_eq_or r with h | ⟨-, h⟩ <;> rw [h]
  rfl

theorem State.left_effective (s : State) (r : Req) : (s.effective r).left = r.left := by
  rcases s.effective_eq_or r with h | ⟨-, h⟩ <;> rw [h]
  rfl

/-- A request that no copy of its die serves is judged by its home. -/
theorem State.exec_homeRequest_of_missed {s : State} {id : Nat} {r : Req} (hat : s.atHome id r)
    (hmiss : s.cacheable r = true → r.left.isSome = true ∨ s.rdcEntry r = none) :
    exec (.homeRequest id) s = .next ((s.missed id r).deviceStep id (s.fillAsked r) (s.fillAsked (s.effective r))) := by
  have hcache := State.cacheable_effective hat
  obtain ⟨hr, hstatus, htarget, hm, hbehind, hahead, hseam, -, -, -⟩ := hat
  rw [State.exec_homeRequest_of_reach hr hstatus htarget hm hbehind hahead]
  simp only [State.deviceReach, State.missed, State.fillAsked, hcache, State.left_effective]
  split
  · rename_i hfill
    obtain ⟨hc, hleft⟩ := Bool.and_eq_true_iff.mp hfill
    have hentry : s.rdcEntry r = none := (hmiss hc).resolve_left fun h => by simp [Option.isNone_iff_eq_none.mp hleft] at h
    rw [State.effective_of_not_owned s (State.not_owned_of_cacheable hc), hentry]
    simp only [State.toHome, State.seamHolds_setReq]
    exact congrArg _ (if_neg (by exact Bool.eq_false_iff.mp hseam))
  · simp only [State.toHome, State.seamHolds_effective, hseam, Bool.false_eq_true, if_false]

/-- One that no copy could serve leaves no note. -/
theorem State.exec_homeRequest_of_uncached {s : State} {id : Nat} {r : Req} (hat : s.atHome id r) (hc : s.cacheable r = false) :
    exec (.homeRequest id) s = .next (s.deviceStep id r (s.effective r)) := by
  rw [State.exec_homeRequest_of_missed hat fun h => absurd h (by simp [hc])]
  simp [State.missed, State.fillAsked, hc, State.cacheable_effective hat]

/-! ## A request as its home judges it (R174, R183) -/

/-- A request is another one but for its claim to ownership and the generation at which it left its cache. -/
def Req.treatedAs (r q : Req) : Prop := ∃ l, q = { r with left := l } ∨ q = { r.plain with left := l }

theorem Req.treatedAs_fillAsked (s : State) (r : Req) : r.treatedAs (s.fillAsked (s.effective r)) := by
  have hfill : ∀ q : Req, ∃ l, s.fillAsked q = { q with left := l } := fun q => by
    unfold State.fillAsked
    split
    · exact ⟨_, rfl⟩
    · exact ⟨q.left, rfl⟩
  obtain ⟨l, hl⟩ := hfill (s.effective r)
  rw [hl]
  rcases s.effective_eq_or r with h | ⟨-, h⟩ <;> rw [h]
  · exact ⟨l, .inl rfl⟩
  · exact ⟨l, .inr rfl⟩

theorem Req.plain_plain (r : Req) : r.plain.plain = r.plain := by
  simp only [Req.plain]
  cases r.op <;> rfl

theorem Req.treatedAs.plain {r q : Req} (h : r.treatedAs q) : r.treatedAs q.plain := by
  obtain ⟨l, rfl | rfl⟩ := h
  · exact ⟨l, .inr rfl⟩
  · exact ⟨l, .inr (congrArg (fun p : Req => { p with left := l }) r.plain_plain)⟩

section

variable {s : State} {id : Nat} {r q : Req} (h : r.treatedAs q)
include h

theorem Req.treatedAs.pieces : q.pieces = r.pieces := by
  obtain ⟨l, rfl | rfl⟩ := h <;> rfl

theorem Req.treatedAs.results : q.results = r.results := by
  obtain ⟨l, rfl | rfl⟩ := h <;> rfl

theorem Req.treatedAs.bad : q.bad = r.bad := by
  obtain ⟨l, rfl | rfl⟩ := h <;> rfl

theorem Req.treatedAs.memoOf : s.memoOf q = s.memoOf r := by
  obtain ⟨l, rfl | rfl⟩ := h
  · rfl
  · unfold State.memoOf Req.plain
    cases r.op <;> rfl

theorem Req.treatedAs.memoGone : s.memoGone q = s.memoGone r := by
  obtain ⟨l, rfl | rfl⟩ := h
  · rfl
  · unfold State.memoGone Req.plain
    cases r.op <;> rfl

theorem Req.treatedAs.heldBefore : s.heldBefore id q = s.heldBefore id r := by
  obtain ⟨l, rfl | rfl⟩ := h <;> rfl

theorem Req.treatedAs.ownerState : s.ownerState q = s.ownerState r := by
  obtain ⟨l, rfl | rfl⟩ := h <;> rfl

theorem Req.treatedAs.recordFree : s.recordFree q = s.recordFree r := by
  obtain ⟨l, rfl | rfl⟩ := h <;> rfl

theorem Req.treatedAs.askRecall : s.askRecall q = s.askRecall r := by
  obtain ⟨l, rfl | rfl⟩ := h <;> rfl

/-- A piece of it has one effect at the home. -/
theorem Req.treatedAs.homePiece (p : Piece) : s.homePiece q p = s.homePiece r p := by
  obtain ⟨l, rfl | rfl⟩ := h
  · rfl
  · unfold State.homePiece State.pieceDamage Req.plain
    cases r.op <;> rfl

end

/-- The note of a fill request changes the requests alone. -/
theorem State.missed_eq_or (s : State) (id : Nat) (r : Req) : s.missed id r = s ∨ ∃ q, s.missed id r = s.setReq id q := by
  unfold State.missed
  split
  · exact .inr ⟨_, rfl⟩
  · exact .inl rfl

theorem State.answerRetry_of_none {s : State} {r : Req} (id : Nat) (hmemo : s.memoOf r = none) (hgone : s.memoGone r = false) :
    s.answerRetry id r = none := by
  simp [State.answerRetry, hmemo, hgone]

/-- What a home judges of a request: no memo answers it, and nothing is held before it. -/
theorem State.missed_judges {s : State} {id : Nat} {r q : Req} (hdec : s.homeDecides id r) (h : r.treatedAs q) :
    (s.missed id r).answerRetry id q = none ∧ (s.missed id r).heldBefore id q = false
      ∧ (s.missed id r).ownerState q = s.ownerState r ∧ (s.missed id r).recordFree q = s.recordFree r := by
  obtain ⟨-, hmemo, hgone, hbefore⟩ := hdec
  have hretry : ∀ t : State, t.memoOf r = none → t.memoGone r = false → t.answerRetry id q = none := fun t hmemo hgone =>
    State.answerRetry_of_none id (h.memoOf.trans hmemo) (h.memoGone.trans hgone)
  rw [h.heldBefore, h.ownerState, h.recordFree]
  rcases s.missed_eq_or id r with hs | ⟨q', hs⟩ <;> rw [hs]
  · exact ⟨hretry s hmemo hgone, hbefore, rfl, rfl⟩
  · exact ⟨hretry (s.setReq id q') hmemo hgone, (s.heldBefore_setReq id q' r).trans hbefore, rfl, rfl⟩

theorem State.owned_fillAsked (s : State) (r : Req) : (s.fillAsked r).owned = r.owned := by
  unfold State.fillAsked
  split <;> rfl

section

variable {s : State} {id : Nat} {r : Req} (hat : s.atHome id r) (hdec : s.homeDecides id r)
include hat hdec

/-- A request that meets words being recalled is held. -/
theorem State.exec_homeRequest_of_pending (ho : s.ownerState r = .pending) :
    exec (.homeRequest id) s = .next ((s.missed id r).holdReq id (s.fillAsked r)) := by
  obtain ⟨hretry, hbefore, howner, -⟩ := State.missed_judges hdec (Req.treatedAs_fillAsked s r)
  rw [State.exec_homeRequest_of_missed hat hdec.1]
  simp [State.deviceStep, hretry, hbefore, howner, ho]

/-- A request that meets words of another block, or that claims none of its block's, has them recalled and is held. -/
theorem State.exec_homeRequest_of_other (ho : s.ownerState r = .other ∨ s.ownerState r = .self ∧ (s.effective r).owned = false) :
    exec (.homeRequest id) s = .next (((s.missed id r).askRecall r).holdReq id (s.fillAsked r)) := by
  have h := Req.treatedAs_fillAsked s r
  obtain ⟨hretry, hbefore, howner, -⟩ := State.missed_judges hdec h
  rw [State.exec_homeRequest_of_missed hat hdec.1]
  rcases ho with ho | ⟨ho, howned⟩
  · simp [State.deviceStep, hretry, hbefore, howner, ho, h.askRecall]
  · simp [State.deviceStep, hretry, hbefore, howner, ho, h.askRecall, State.owned_fillAsked, howned]

/-- A request to free words that is granted none is served at the home, as it is or without its claim. -/
theorem State.exec_homeRequest_of_free (ho : s.ownerState r = .free)
    (hrec : (s.effective r).owned = true → s.recordFree r = false) :
    ∃ q, r.treatedAs q ∧ exec (.homeRequest id) s = .next ((s.missed id r).serveHome id q) := by
  have h := Req.treatedAs_fillAsked s r
  obtain ⟨hretry, hbefore, howner, hfree⟩ := State.missed_judges hdec h
  rw [State.exec_homeRequest_of_missed hat hdec.1]
  by_cases howned : (s.effective r).owned = true
  · refine ⟨_, h.plain, ?_⟩
    simp [State.deviceStep, hretry, hbefore, howner, ho, State.owned_fillAsked, howned, hfree, hrec howned]
  · refine ⟨_, h, ?_⟩
    simp [State.deviceStep, hretry, hbefore, howner, ho, State.owned_fillAsked, howned]

end

/-! ## Pieces performed one after another (R190) -/

/-- What some pieces do to a store of bytes, and the results of a request after them. -/
def Req.trace {μ : Type} (r : Req) (step : μ → Piece → μ) (ans : μ → Piece → List Byte) (m : μ) :
    μ × List (Nat × Nat × List Byte) :=
  r.pieces.foldl (fun acc p => (step acc.1 p, acc.2 ++ [(p.lane, p.ofs, ans acc.1 p)])) (m, r.results)

/-- Where the answers do not depend on what the pieces before have done, the results are those of each piece. -/
theorem Req.trace_of_const {μ : Type} (r : Req) (step : μ → Piece → μ) (ans : Piece → List Byte) (m : μ) :
    r.trace step (fun _ => ans) m = (r.pieces.foldl step m, r.results ++ r.pieces.map fun p => (p.lane, p.ofs, ans p)) := by
  unfold Req.trace
  generalize r.results = res
  induction r.pieces generalizing m res with
  | nil => simp
  | cons p ps ih => simp [ih]

/-- A service whose every piece does in the state what a step does to a store of bytes leaves the state as those steps
leave the store, and answers as they do. -/
theorem State.runPieces_simulates {μ : Type} {R : State → μ → Prop} {step : μ → Piece → μ} {ans : μ → Piece → List Byte}
    {s : State} {r : Req} {f : State → Piece → State × PieceOut} {m : μ} (hs : R s m)
    (h : ∀ p ∈ r.pieces, ∀ t m, R t m → ∃ u, f t p = (u, .bytes (ans m p)) ∧ R u (step m p)) :
    ∃ t, s.runPieces r f = (t, { r with results := (r.trace step ans m).2 }) ∧ R t (r.trace step ans m).1 := by
  have hrel : (s.runPieces r f).2 = { r with results := (r.trace step ans m).2 } ∧ R (s.runPieces r f).1 (r.trace step ans m).1 := by
    refine List.foldl_rel (r := fun (a : State × Req) (b : μ × List (Nat × Nat × List Byte)) =>
      a.2 = { r with results := b.2 } ∧ R a.1 b.1) ⟨rfl, hs⟩ fun p hp a b ⟨hq, hR⟩ => ?_
    obtain ⟨u, hu, hR'⟩ := h p hp a.1 b.1 hR
    rw [hu]
    exact ⟨by rw [hq], hR'⟩
  exact ⟨_, Prod.ext rfl hrel.1, hrel.2⟩

/-- A service whose pieces leave the state as it is answers for each of them. -/
theorem State.runPieces_of_reads {s : State} {r : Req} {f : State → Piece → State × PieceOut} {ans : Piece → List Byte}
    (h : ∀ p ∈ r.pieces, f s p = (s, .bytes (ans p))) :
    s.runPieces r f = (s, { r with results := r.results ++ r.pieces.map fun p => (p.lane, p.ofs, ans p) }) := by
  obtain ⟨t, hrun, rfl⟩ := State.runPieces_simulates (R := fun t (_ : Unit) => t = s) (step := fun m _ => m)
    (ans := fun _ => ans) (m := ()) (f := f) (r := r) rfl fun p hp t m ht => ⟨s, by rw [ht, h p hp], rfl⟩
  rw [hrun, Req.trace_of_const]

/-! ## Writes to sound device memory -/

/-- The state with other contents of device memory, and other lines dirty. -/
def State.withDev (s : State) (m : Memory) (d : Table (List Byte)) : State :=
  { s with mem := { s.mem with dev := m }, homes := { s.homes with dirty := d } }

theorem State.dirtyLine_eq {s : State} (hd : s.dev.damage = []) (l : Nat) : ∃ d, s.dirtyLine l = s.withDev s.mem.dev d := by
  have hroom : ∃ d, s.l2Room l = s.withDev s.mem.dev d := by
    unfold State.l2Room
    cases s.l2Victim l with
    | none => exact ⟨s.homes.dirty, rfl⟩
    | some v =>
      have hdev : { s.dev with damage := [] } = s.dev := by rw [← hd]
      refine ⟨s.homes.dirty.filter fun e => !(e.1 == v), ?_⟩
      simp only [Option.elim_some, State.cleaned, hd, List.isEmpty_nil, if_true, hdev]
      rfl
  obtain ⟨d, hd'⟩ := hroom
  unfold State.dirtyLine
  split
  · exact ⟨s.homes.dirty, rfl⟩
  · simp only [hd']
    exact ⟨_, rfl⟩

theorem State.dirty_eq {s : State} (hd : s.dev.damage = []) (ls : List Nat) : ∃ d, s.dirty ls = s.withDev s.mem.dev d := by
  unfold State.dirty
  induction ls generalizing s with
  | nil => exact ⟨s.homes.dirty, rfl⟩
  | cons l ls ih =>
    obtain ⟨d, hl⟩ := State.dirtyLine_eq hd l
    rw [List.foldl_cons, hl]
    obtain ⟨d', hls⟩ := ih (s := s.withDev s.mem.dev d) hd
    exact ⟨d', hls⟩

/-- A write to it writes its bytes, and makes lines dirty. -/
theorem State.devWrite_eq {s : State} (hd : s.dev.damage = []) (pa : Nat) (bs : List Byte) :
    ∃ d, s.devWrite pa bs = s.withDev (Memory.writeBytes s.mem.dev pa bs) d := by
  obtain ⟨d, hdirty⟩ := State.dirty_eq hd (linesOf pa bs.length)
  refine ⟨d, ?_⟩
  unfold State.devWrite
  simp only [hdirty]
  exact if_pos (by simp [State.withDev, hd])

/-- A piece of an atomic that its home does not refuse writes its new value and returns the old one. -/
theorem State.homePiece_atom {s : State} {r : Req} {p : Piece} {op : AtomOp} {ret : Bool} (hd : s.dev.damage = [])
    (hop : r.op = .atom op ret) (hf : s.frameRefused r.tag (p.addr / 64) = none) (hs : s.silent r.flask = false) :
    let old := leNat (Memory.readBytes s.mem.dev p.addr p.n)
    s.homePiece r p = (s.devWrite p.addr (leBytes p.n (atomNew op p.n old (leNat p.data) p.cmp)), .bytes (leBytes p.n old)) := by
  simp [State.homePiece, State.pieceDamage, hf, hop, State.readDamage_of_sound hd, State.correctRead_of_sound hd, hs]

/-! ## Free words (R146, R174, R190) -/

section

variable {s : State} {id : Nat} {r : Req} (hat : s.atHome id r)
include hat

/-- A request at its home meets a frame that it may access with every piece. -/
theorem State.atHome.frames : ∀ p ∈ r.pieces, s.frameRefused r.tag (p.addr / 64) = none := by
  obtain ⟨-, -, -, -, -, -, -, hframe, -, hpieces⟩ := hat
  exact fun p hp => by rw [hpieces p hp, hframe]

/-- A request to free words whose pieces its home answers one after another is served with their answers. -/
theorem State.serves_of_free {res : List (Nat × Nat × List Byte)} {m : Memories} (hdec : s.homeDecides id r)
    (ho : s.ownerState r = .free) (hrec : (s.effective r).owned = true → s.recordFree r = false)
    (hrun : ∀ q : Req, q.pieces = r.pieces → q.results = r.results →
      ∃ t, (s.missed id r).runPieces q (fun s p => s.homePiece r p) = (t, { q with results := res })
        ∧ t.dev.damage = [] ∧ t.mem = m) :
    s.serves id res r.bad m := by
  obtain ⟨q, hq, hexec⟩ := State.exec_homeRequest_of_free hat hdec ho hrec
  obtain ⟨t, ht, hd, rfl⟩ := hrun q hq.pieces hq.results
  have hpiece : (fun (s : State) p => s.homePiece q p) = fun s p => s.homePiece r p := by
    funext s p
    exact hq.homePiece p
  simp only [State.serveHome, hpiece, ht] at hexec
  rw [← hq.bad]
  refine State.serves_of_performed hexec ?_
  split
  · split
    · exact State.rdcFill_mem hd _
    · rfl
  · exact State.rdcPass_mem t _

/-- The note of a fill request leaves what the pieces of a request meet. -/
theorem State.missed_meets : (s.missed id r).mem = s.mem ∧ (s.missed id r).dev.damage = []
    ∧ (s.missed id r).silent r.flask = s.silent r.flask
    ∧ ∀ p ∈ r.pieces, (s.missed id r).frameRefused r.tag (p.addr / 64) = none := by
  have hframes := hat.frames
  obtain ⟨-, -, -, -, -, -, -, -, hd, -⟩ := hat
  rcases s.missed_eq_or id r with hs | ⟨q, hs⟩ <;> rw [hs]
  · exact ⟨rfl, hd, rfl, hframes⟩
  · exact ⟨rfl, hd, rfl, hframes⟩

variable (hdec : s.homeDecides id r) (ho : s.ownerState r = .free)
  (hrec : (s.effective r).owned = true → s.recordFree r = false)
include hdec ho hrec

/-- A load of free words returns what stands there. -/
theorem State.serves_load {own : Bool} (hop : r.op = .load own) :
    s.serves id (r.results ++ r.pieces.map fun p => (p.lane, p.ofs, (s.missed id r).valueBytes p.addr p.n)) r.bad s.mem := by
  obtain ⟨hmem, hd, -, hframes⟩ := State.missed_meets hat
  refine State.serves_of_free hat hdec ho hrec fun q hpieces hresults => ⟨_, ?_, hd, hmem⟩
  rw [State.runPieces_of_reads fun p hp => State.homePiece_load hd hop (hframes p (hpieces ▸ hp)), hpieces, hresults]

/-- Pieces that write device memory one after another are answered with what each returns. -/
theorem State.serves_writes (step : Memory → Piece → List Byte) (ans : Memory → Piece → List Byte)
    (hpiece : ∀ t : State, t.dev.damage = [] → t.silent r.flask = s.silent r.flask →
      ∀ p ∈ r.pieces, t.frameRefused r.tag (p.addr / 64) = none →
      t.homePiece r p = (t.devWrite p.addr (step t.mem.dev p), .bytes (ans t.mem.dev p))) :
    let e := r.trace (fun m p => Memory.writeBytes m p.addr (step m p)) ans s.mem.dev
    s.serves id e.2 r.bad { s.mem with dev := e.1 } := by
  obtain ⟨hmem, hd, hsilent, hframes⟩ := State.missed_meets hat
  refine State.serves_of_free hat hdec ho hrec fun q hpieces hresults => ?_
  have htrace : q.trace (fun m p => Memory.writeBytes m p.addr (step m p)) ans s.mem.dev
      = r.trace (fun m p => Memory.writeBytes m p.addr (step m p)) ans s.mem.dev := by
    unfold Req.trace
    rw [hpieces, hresults]
  obtain ⟨t, hrun, d, rfl⟩ := State.runPieces_simulates (s := s.missed id r) (r := q) (f := fun s p => s.homePiece r p)
    (R := fun t m => ∃ d, t = (s.missed id r).withDev m d) (m := s.mem.dev)
    (step := fun m p => Memory.writeBytes m p.addr (step m p)) (ans := ans)
    ⟨(s.missed id r).homes.dirty, by rw [← hmem]; rfl⟩
    fun p hp t m ⟨d, ht⟩ => by
      subst ht
      obtain ⟨d', hwrite⟩ := State.devWrite_eq (s := (s.missed id r).withDev m d) hd p.addr (step m p)
      exact ⟨_, hpiece ((s.missed id r).withDev m d) hd hsilent p (hpieces ▸ hp) (hframes p (hpieces ▸ hp)), d', hwrite⟩
  rw [htrace] at hrun
  exact ⟨_, hrun, hd, by rw [← hmem]; rfl⟩

/-- A store to free words writes its bytes. -/
theorem State.serves_store {own : Bool} (hop : r.op = .store own) (hs : s.silent r.flask = false) :
    s.serves id (r.results ++ r.pieces.map fun p => (p.lane, p.ofs, [])) r.bad
      { s.mem with dev := r.pieces.foldl (fun m p => Memory.writeBytes m p.addr p.data) s.mem.dev } := by
  have hserves := State.serves_writes hat hdec ho hrec (fun _ p => p.data) (fun _ _ => []) fun t hd hsilent p hp hf => by
    rw [State.homePiece_store hd hop hf (hsilent.trans hs), State.repair_of_sound]
    obtain ⟨d, hwrite⟩ := State.devWrite_eq hd p.addr p.data
    rw [hwrite]
    exact hd
  rwa [Req.trace_of_const] at hserves

/-- An atomic on free words writes its new values and returns the old ones. -/
theorem State.serves_atom {op : AtomOp} {ret : Bool} (hop : r.op = .atom op ret) (hs : s.silent r.flask = false) :
    s.serves id (r.atomRun op s.mem.dev).2 r.bad { s.mem with dev := (r.atomRun op s.mem.dev).1 } :=
  State.serves_writes hat hdec ho hrec
    (fun m p => leBytes p.n (atomNew op p.n (leNat (Memory.readBytes m p.addr p.n)) (leNat p.data) p.cmp))
    (fun m p => leBytes p.n (leNat (Memory.readBytes m p.addr p.n)))
    fun _ hd hsilent _ _ hf => State.homePiece_atom hd hop hf (hsilent.trans hs)

end

/-- Bytes that no block owns and no range holds stand in device memory. -/
theorem State.valueBytes_of_unowned {s : State} {pa n : Nat} (hm : s.homes.migration = none)
    (hrange : ∀ k, k < n → s.rangeAt (pa + k) = none)
    (ho : ∀ k, k < n → ∀ o ∈ s.homes.owners, o.1 / 512 ≠ (pa + k) / 64)
    (hb : ∀ k, k < n → ∀ b ∈ s.homes.backs, b.2.line ≠ (pa + k) / 64) :
    s.valueBytes pa n = Memory.readBytes s.mem.dev pa n := by
  refine List.map_congr_left fun k hk => ?_
  have hkn := List.mem_range.mp hk
  simp only [State.valueByte, State.homeByte, State.forward_of_none hm, hrange k hkn,
    State.recallNow_of_unowned _ (ho k hkn) (hb k hkn)]

/-! ## Copies and memos (R171, R178, R183) -/

/-- A load that a copy of its die may serve returns the bytes of the copy. -/
theorem State.serves_of_copy {s : State} {id : Nat} {r : Req} {e : RdcEntry} (hr : s.homes.reqs.get? id = some r)
    (hstatus : r.status = .sent ∨ r.status = .held) (hm : s.homes.migration = none) (hbehind : s.behind id r = false)
    (hahead : s.combinedAhead r = false) (hc : s.cacheable r = true) (hleft : r.left = none) (he : s.rdcEntry r = some e) :
    s.serves id (r.pieces.map fun p => (p.lane, p.ofs, (List.range p.n).map fun k => (e.bytes[p.addr % 64 + k]?).getD 0))
      r.bad s.mem := by
  have htarget : r.target = .device := by
    simp only [State.cacheable, Bool.and_eq_true, beq_iff_eq] at hc
    obtain ⟨⟨⟨⟨-, htarget⟩, -⟩, -⟩, -⟩ := hc
    exact htarget
  have hexec := State.exec_homeRequest_of_reach hr hstatus htarget hm hbehind hahead
  rw [State.effective_of_not_owned s (State.not_owned_of_cacheable hc)] at hexec
  simp only [State.deviceReach, hc, hleft, Option.isNone_none, Bool.and_self, if_true, he] at hexec
  exact State.serves_of_performed hexec rfl

section

variable {s : State} {id : Nat} {r : Req} (hat : s.atHome id r)
include hat

/-- A request that its home answers at once stands with that answer. -/
theorem State.serves_of_answerRetry {q : Req} (hc : s.cacheable r = false) (howned : r.owned = false)
    (h : s.answerRetry id r = some (s.setReq id { q with status := .performed })) : s.serves id q.results q.bad s.mem := by
  refine ⟨s.setReq id { q with status := .performed }, { q with status := .performed }, ?_, Table.get?_put_self _ _ _,
    rfl, rfl, rfl, rfl⟩
  rw [State.exec_homeRequest_of_uncached hat hc, State.effective_of_not_owned s howned]
  simp only [State.deviceStep, h]

/-- A retried atomic is answered from its memo. -/
theorem State.serves_of_memo {m : Memo} (h : s.memoOf r = some m) : s.serves id m.result m.bad s.mem := by
  obtain ⟨op, hop⟩ : ∃ op, r.op = .atom op true := by
    unfold State.memoOf at h
    split at h
    · exact ⟨_, ‹_›⟩
    · cases h
  exact State.serves_of_answerRetry hat (q := { r with results := m.result, bad := m.bad })
    (by simp [State.cacheable, hop]) (by simp [Req.owned, hop]) (by simp [State.answerRetry, h])

/-- One whose memo is gone is told that its outcome is unknown. -/
theorem State.serves_of_memoGone (h : s.memoOf r = none) (hgone : s.memoGone r = true) :
    s.serves id r.results (r.pieces.map fun p => (p.lane, 0x30C, p.lane)) s.mem := by
  obtain ⟨op, hop⟩ : ∃ op, r.op = .atom op true := by
    unfold State.memoGone at hgone
    split at hgone
    · exact ⟨_, ‹_›⟩
    · cases hgone
  exact State.serves_of_answerRetry hat (q := r.refuse 0x30C (·.lane))
    (by simp [State.cacheable, hop]) (by simp [Req.owned, hop]) (by simp [State.answerRetry, h, hgone])

end

/-- No owner of a line is left that is not asked for the words of a request that recalls them. -/
theorem State.askRecall_asks (s : State) (r : Req) : ∀ o ∈ (s.askRecall r).homes.owners, o.1 / 512 = r.line →
    o.2.words &&& r.words &&& ~~~o.2.pending = 0 := by
  intro o ho hline
  obtain ⟨o', -, rfl⟩ := List.mem_map.mp ho
  split at hline <;> rename_i hl
  · rw [if_pos hl]
    ext k
    simp only [BitVec.getElem_and, BitVec.getElem_not, BitVec.getElem_or]
    cases o'.2.words[k] <;> cases r.words[k] <;> simp
  · exact absurd hline (by simpa using hl)

/-! ## Ranges (R149, R150, R199) -/

section

variable {s : State} (hm : s.homes.migration = none) (ho : s.homes.owners = []) (hb : s.homes.backs = [])
include hm ho hb

/-- A number of which no byte is owned stands in device memory. -/
theorem State.homeNat_of_no_owner (pa n : Nat) : s.homeNat pa n = leNat (Memory.readBytes s.mem.dev pa n) := by
  simp only [State.homeNat, State.homeBytes, State.homeByte_of_no_owner ho hb, State.forward_of_none hm, Memory.readBytes]

/-- A write of such bytes at their home writes device memory. -/
theorem State.homeWrite_eq (hd : s.dev.damage = []) (pa : Nat) (bs : List Byte) :
    ∃ d, s.homeWrite pa bs = s.withDev (Memory.writeBytes s.mem.dev pa bs) d := by
  have hrecall : s.recallLines pa bs.length = s := List.foldl_fixed' (State.recallNow_of_no_owner ho hb) _
  rw [State.homeWrite, State.forward_of_none hm, hrecall]
  exact State.devWrite_eq hd pa bs

/-- A combined value is the sum of the element and its slots there, in ascending order. -/
theorem State.combined_of_no_owner (g : Range) (e : Nat) :
    let at' := fun (a : Nat) => leNat (Memory.readBytes s.mem.dev a g.fmt.bytes)
    s.combined g e = (s.slotsOf g e).foldl (fun v a => g.fmt.plus v (at' a)) ((s.elemAt g e).elim 0 at') := by
  simp only [State.combined, State.homeNat_of_no_owner hm ho hb]

/-- A fold writes the combined value over the element and clears its slots. -/
theorem State.foldElement_eq (hd : s.dev.damage = []) (g : Range) (e : Nat) :
    ∃ d, s.foldElement g e = s.withDev
      ((s.slotsOf g e).foldl (fun m a => Memory.writeBytes m a (leBytes g.fmt.bytes 0))
        ((s.elemAt g e).elim s.mem.dev fun a => Memory.writeBytes s.mem.dev a (leBytes g.fmt.bytes (s.combined g e)))) d := by
  unfold State.foldElement
  refine List.foldl_rel (r := fun t m => ∃ d, t = s.withDev m d) ?_ fun a _ t m ⟨d, ht⟩ => ?_
  · cases s.elemAt g e with
    | none => exact ⟨s.homes.dirty, rfl⟩
    | some a => exact State.homeWrite_eq hm ho hb hd _ _
  · subst ht
    exact State.homeWrite_eq (s := s.withDev m d) hm ho hb hd a _

/-- A contribution adds its operand to a slot. -/
theorem State.addToSlot_eq (hd : s.dev.damage = []) (g : Range) (a x : Nat) :
    ∃ d, s.addToSlot g a x = s.withDev (Memory.writeBytes s.mem.dev a
      (leBytes g.fmt.bytes (g.fmt.plus (leNat (Memory.readBytes s.mem.dev a g.fmt.bytes)) x))) d := by
  rw [State.addToSlot, State.homeNat_of_no_owner hm ho hb]
  exact State.homeWrite_eq hm ho hb hd a _

end

section

variable {s : State} {r : Req} {p : Piece} {g : Range} {o : Nat} (hm : s.homes.migration = none)
  (ho : s.homes.owners = []) (hb : s.homes.backs = []) (hd : s.dev.damage = []) (hs : s.silent r.flask = false)
  (hf : s.frameRefused r.tag (p.addr / 64) = none) (hg : s.rangeAt p.addr = some (g, o)) (hn : g.fmt.bytes = p.n)
  (halign : o % p.n = 0)
include hm ho hb hd hs hf hg hn halign

/-- A contribution to an element whose slot its context may access is added to it. -/
theorem State.homePiece_cred (hop : r.op = .cred) {a : Nat} (ha : s.slotAt g (o / p.n) (s.pblk r.bid % g.slots) = some a) :
    ∃ t, s.homePiece r p = (t, .bytes []) ∧ t.dev.damage = [] ∧ t.mem = { s.mem with
      dev := Memory.writeBytes s.mem.dev a (leBytes p.n (g.fmt.plus (leNat (Memory.readBytes s.mem.dev a p.n)) (leNat p.data))) } := by
  have hnote : ∃ fl, s.noteCred r.flask g = { s with flasks := fl } := by
    unfold State.noteCred
    dsimp only
    split
    · exact ⟨s.flasks, rfl⟩
    · exact ⟨_, rfl⟩
  obtain ⟨fl, hfl⟩ := hnote
  obtain ⟨d, hadd⟩ := State.addToSlot_eq (s := { s with flasks := fl }) hm ho hb hd g a (leNat p.data)
  refine ⟨({ s with flasks := fl } : State).addToSlot g a (leNat p.data), ?_, by rw [hadd]; exact hd, by rw [hadd, ← hn]; rfl⟩
  simp [State.homePiece, State.pieceDamage, hf, hop, State.rangeOp, hg, hn, halign, hs, State.credAt, ha,
    State.damaged_of_sound hd, State.correctRead_of_sound hd, hfl]

/-- A fold of an element is performed. -/
theorem State.homePiece_crfold (hop : r.op = .crfold) :
    ∃ t, s.homePiece r p = (t, .bytes []) ∧ t.dev.damage = [] ∧ t.mem = { s.mem with
      dev := (s.slotsOf g (o / p.n)).foldl (fun m a => Memory.writeBytes m a (leBytes p.n 0))
        ((s.elemAt g (o / p.n)).elim s.mem.dev fun a => Memory.writeBytes s.mem.dev a (leBytes p.n (s.combined g (o / p.n)))) } := by
  obtain ⟨d, hfold⟩ := State.foldElement_eq hm ho hb hd g (o / p.n)
  refine ⟨s.foldElement g (o / p.n), ?_, by rw [hfold]; exact hd, by rw [hfold, hn]; rfl⟩
  simp [State.homePiece, State.pieceDamage, hf, hop, State.rangeOp, hg, hn, halign, hs, State.damaged_of_sound hd,
    State.correctElem_of_sound hd]

end

/-- A contribution or fold of one piece is served by its home where no block owns a word. -/
theorem State.serves_rangeOp {s t : State} {id : Nat} {r : Req} {p : Piece} (hat : s.atHome id r)
    (hbefore : s.heldBefore id r = false) (ho : s.homes.owners = []) (hop : r.op = .cred ∨ r.op = .crfold)
    (hp : r.pieces = [p]) (hpiece : s.homePiece r p = (t, .bytes [])) (hd : t.dev.damage = []) :
    s.serves id (r.results ++ [(p.lane, p.ofs, [])]) r.bad t.mem := by
  have hc : s.cacheable r = false := by rcases hop with hop | hop <;> simp [State.cacheable, hop]
  have howned : r.owned = false := by rcases hop with hop | hop <;> simp [Req.owned, hop]
  have hmemo : s.memoOf r = none ∧ s.memoGone r = false := by
    rcases hop with hop | hop <;> simp [State.memoOf, State.memoGone, hop]
  have hmissed : s.missed id r = s := by simp [State.missed, hc]
  refine State.serves_of_free hat ⟨fun h => absurd h (by simp [hc]), hmemo.1, hmemo.2, hbefore⟩
    (by simp [State.ownerState, ho]) (by simp [State.effective_of_not_owned s howned, howned])
    fun q hpieces hresults => ⟨t, ?_, hd, rfl⟩
  rw [hmissed, State.runPieces_single (hpieces.trans hp) hpiece, hresults]

/-! ## Words granted to a block (R173, R174) -/

/-- The line of a block that stands in the owner buffer of its core. -/
def State.lineOf (s : State) (bid line : Nat) : Option OwnerLine :=
  (s.core (coreOf bid)).owner.find? fun l => l.line == line && l.bid == bid

/-- It stands there with some bytes. -/
def State.holdsLine (s : State) (bid line : Nat) (f : Nat → Byte) : Prop :=
  ∃ l, s.lineOf bid line = some l ∧ l.bytes = (List.range 64).map f

theorem State.ownedByte_of_holdsLine {s : State} {bid line : Nat} {f : Nat → Byte} (h : s.holdsLine bid line f) {k : Nat}
    (hk : k < 64) : s.ownedByte bid line k = f k := by
  obtain ⟨l, hl, hbytes⟩ := h
  unfold State.lineOf at hl
  simp [State.ownedByte, hl, hbytes, hk]

theorem State.holdsLine_of_keepsHeld {s t : State} (hst : s.keepsHeld t) {bid line : Nat} {f : Nat → Byte}
    (h : s.holdsLine bid line f) : t.holdsLine bid line f := by
  obtain ⟨-, -, -, howner⟩ := hst
  obtain ⟨l, hl, hbytes⟩ := h
  exact ⟨l, by rw [State.lineOf, howner]; exact hl, hbytes⟩

/-- A buffer whose lines keep their names gives the line of a block changed. -/
theorem State.lineOf_setCore_map (s : State) (bid line : Nat) {x : Core} {f : OwnerLine → OwnerLine}
    (hx : x.owner = (s.core (coreOf bid)).owner.map f) (hf : ∀ l, (f l).line = l.line ∧ (f l).bid = l.bid) :
    (s.setCore (coreOf bid) x).lineOf bid line = (s.lineOf bid line).map f := by
  have hname : (fun l : OwnerLine => l.line == line && l.bid == bid) ∘ f = fun l => l.line == line && l.bid == bid := by
    funext l
    simp [hf l]
  rw [State.lineOf, State.core_setCore, hx, List.find?_map, hname]
  rfl

/-- Some bytes over those of a line. -/
def overlayBytes (ofs : Nat) (bytes : List Byte) (f : Nat → Byte) : Nat → Byte := fun k =>
  if ofs ≤ k ∧ k < ofs + bytes.length then (bytes[k - ofs]?).getD (f k) else f k

/-- A write into it puts its bytes over those of the line. -/
theorem State.holdsLine_ownedWrite {s : State} {bid line : Nat} {f : Nat → Byte} (h : s.holdsLine bid line f) (ofs : Nat)
    (bytes : List Byte) : (s.ownedWrite bid line ofs bytes).holdsLine bid line (overlayBytes ofs bytes f) := by
  obtain ⟨l, hl, hbytes⟩ := h
  have hmine : (l.line == line && l.bid == bid) = true :=
    List.find?_some (p := fun l : OwnerLine => l.line == line && l.bid == bid) hl
  unfold State.ownedWrite
  dsimp only
  rw [State.holdsLine, State.lineOf_setCore_map s bid line rfl (fun l => by split <;> exact ⟨rfl, rfl⟩), hl]
  refine ⟨_, rfl, ?_⟩
  simp only [hmine, if_true, hbytes]
  refine List.ext_getElem (by simp) fun k _ _ => ?_
  simp [overlayBytes]

theorem State.bufferRoom_of_room {s : State} {core : Nat} (h : (s.core core).owner.length < 128) : s.bufferRoom core = s :=
  if_pos h

theorem State.grantedByte_of_line {s : State} {r : Req} {l : OwnerLine} (hl : s.lineOf r.bid r.line = some l) (k : Nat) :
    s.grantedByte r k
      = if l.words.getLsbD (k / 4) then (l.bytes[k]?).getD 0 else Memory.read s.mem.dev (r.line * 64 + k) := by
  unfold State.lineOf at hl
  simp only [State.grantedByte, State.ownedWords, State.ownedByte, hl, Option.elim_some]

theorem State.grantedByte_of_no_line {s : State} {r : Req} (hl : s.lineOf r.bid r.line = none) (k : Nat) :
    s.grantedByte r k = Memory.read s.mem.dev (r.line * 64 + k) := by
  unfold State.lineOf at hl
  simp [State.grantedByte, State.ownedWords, hl]

section

variable {s : State} {r : Req}
  (hroom : (s.core (coreOf r.bid)).owner.length < 128 ∨ (s.core (coreOf r.bid)).owner.any r.ownLine = true)
include hroom

/-- Where the owner buffer has room, a grant changes it and the record alone. -/
theorem State.grant_eq : ∃ cs, s.grant r = (s.withCores cs).noteOwner r := by
  unfold State.grant
  dsimp only
  split
  · exact ⟨_, rfl⟩
  · rename_i hany
    rw [State.bufferRoom_of_room (hroom.resolve_right hany)]
    exact ⟨_, rfl⟩

/-- A granted line holds, of the words that its block owned, the bytes of its buffer, and of any other those of the
home. -/
theorem State.holdsLine_grant : (s.grant r).holdsLine r.bid r.line (s.grantedByte r) := by
  have hhome : ∀ k, k < 64 →
      ((Memory.readBytes s.mem.dev (r.line * 64) 64)[k]?).getD 0 = Memory.read s.mem.dev (r.line * 64 + k) :=
    fun k hk => by simp [Memory.readBytes, hk]
  by_cases hany : (s.core (coreOf r.bid)).owner.any r.ownLine = true
  · obtain ⟨l, hl⟩ : ∃ l, s.lineOf r.bid r.line = some l := Option.isSome_iff_exists.mp (by
      rw [State.lineOf, List.find?_isSome]
      exact List.any_eq_true.mp hany)
    have hmine : r.ownLine l = true := List.find?_some (p := r.ownLine) hl
    have hgrant : (s.grant r).lineOf r.bid r.line = some (l.grow r.words (Memory.readBytes s.mem.dev (r.line * 64) 64)) := by
      unfold State.grant
      dsimp only
      rw [if_pos hany]
      refine (State.lineOf_setCore_map s r.bid r.line (f := fun l => if r.ownLine l then l.grow r.words _ else l) rfl
        fun l => by split <;> exact ⟨rfl, rfl⟩).trans ?_
      rw [hl, Option.map_some, if_pos hmine]
    refine ⟨_, hgrant, List.map_congr_left fun k hk => ?_⟩
    rw [State.grantedByte_of_line hl, hhome k (List.mem_range.mp hk)]
  · have hl : (s.core (coreOf r.bid)).owner.find? (fun l => l.line == r.line && l.bid == r.bid) = none :=
      List.find?_eq_none.mpr fun l hl hmine => hany (List.any_eq_true.mpr ⟨l, hl, hmine⟩)
    refine ⟨{ line := r.line, bid := r.bid, tag := r.tag, words := r.words
              bytes := Memory.readBytes s.mem.dev (r.line * 64) 64 }, ?_,
      List.map_congr_left fun k _ => (State.grantedByte_of_no_line hl k).symm⟩
    unfold State.grant
    dsimp only
    rw [if_neg hany, State.bufferRoom_of_room (hroom.resolve_right hany)]
    show List.find? _ (State.core (s.setCore _ _) _).owner = _
    rw [State.core_setCore, List.find?_append, hl]
    simp

/-- A grant notes the words of the request in the record of its block. -/
theorem State.owners_grant : ∃ o, (s.grant r).homes.owners.get? (ownerKey r.line r.bid) = some o ∧ o.words &&& r.words = r.words := by
  obtain ⟨cs, hgrant⟩ := State.grant_eq hroom
  rw [hgrant]
  refine ⟨_, Table.get?_put_self _ _ _, ?_⟩
  ext k hk
  simp only [BitVec.getElem_and, BitVec.getElem_or]
  cases r.words[k] <;> simp

end

/-- The results of a request after a load of its pieces from the bytes of its line. -/
def Req.loadedFrom (r : Req) (f : Nat → Byte) : List (Nat × Nat × List Byte) :=
  r.results ++ r.pieces.map fun p => (p.lane, p.ofs, (List.range p.n).map fun k => f (p.addr % 64 + k))

theorem Req.op_of_owned {r : Req} (h : r.owned = true) : r.op = .load true ∨ r.op = .store true := by
  unfold Req.owned at h
  split at h
  case h_1 ho => exact .inl (h ▸ ho)
  case h_2 ho => exact .inr (h ▸ ho)
  case h_3 => cases h

section

variable {s : State} {r : Req} (hd : s.dev.damage = [])
include hd

theorem State.ownPiece_load (hop : r.op = .load true) (p : Piece) :
    s.ownPiece r p = (s, .bytes ((List.range p.n).map fun k => s.ownedByte r.bid r.line (p.addr % 64 + k))) := by
  simp [State.ownPiece, State.damaged_of_sound hd, hop]

theorem State.ownPiece_store (hop : r.op = .store true) (p : Piece) :
    s.ownPiece r p = (if s.silent r.flask then s else s.ownedWrite r.bid r.line (p.addr % 64) p.data, .bytes []) := by
  simp [State.ownPiece, State.damaged_of_sound hd, hop]

variable {f : Nat → Byte} (hheld : s.holdsLine r.bid r.line f)
include hheld

/-- A load of words that its block holds returns them. -/
theorem State.runPieces_ownPiece_load (hop : r.op = .load true) (hpieces : ∀ p ∈ r.pieces, p.addr % 64 + p.n ≤ 64) :
    s.runPieces r (fun s p => s.ownPiece r p) = (s, { r with results := r.loadedFrom f }) := by
  refine State.runPieces_of_reads (ans := fun p => (List.range p.n).map fun k => f (p.addr % 64 + k)) fun p hp => ?_
  have hbytes : ((List.range p.n).map fun k => s.ownedByte r.bid r.line (p.addr % 64 + k))
      = (List.range p.n).map fun k => f (p.addr % 64 + k) := List.map_congr_left fun k hk =>
    have hkn := List.mem_range.mp hk
    have hfits := hpieces p hp
    State.ownedByte_of_holdsLine hheld (by omega)
  rw [State.ownPiece_load hd hop, hbytes]

/-- A store to them writes them there. -/
theorem State.runPieces_ownPiece_store (hop : r.op = .store true) :
    ∃ cs res, s.runPieces r (fun s p => s.ownPiece r p) = (s.withCores cs, { r with results := res })
      ∧ (s.silent r.flask = false → (s.withCores cs).holdsLine r.bid r.line (r.overlay f)) := by
  by_cases hs : s.silent r.flask = true
  · refine ⟨s.cores, _, State.runPieces_of_reads (ans := fun _ => []) fun p _ => ?_, fun h => by simp [hs] at h⟩
    rw [State.ownPiece_store hd hop, if_pos hs]
  · obtain ⟨t, hrun, ⟨cs, rfl⟩, hline⟩ := State.runPieces_simulates (s := s) (r := r) (f := fun s p => s.ownPiece r p)
      (R := fun t f => (∃ cs, t = s.withCores cs) ∧ t.holdsLine r.bid r.line f) (m := f)
      (step := fun f p => overlayBytes (p.addr % 64) p.data f) (ans := fun _ _ => []) ⟨⟨s.cores, rfl⟩, hheld⟩
      fun p _ t f ⟨⟨cs, ht⟩, hf⟩ => by
        subst ht
        refine ⟨(s.withCores cs).ownedWrite r.bid r.line (p.addr % 64) p.data, ?_, ⟨_, rfl⟩,
          State.holdsLine_ownedWrite hf (p.addr % 64) p.data⟩
        rw [State.ownPiece_store (s := s.withCores cs) hd hop, if_neg (by exact hs)]
    rw [Req.trace_of_const] at hline
    exact ⟨cs, _, hrun, fun _ => hline⟩

end

/-- The pieces of an owned request, once its words are granted, are read from or written into the owner buffer of its
block alone. -/
theorem State.runPieces_grant {s : State} {r : Req} (hd : s.dev.damage = []) (howned : r.owned = true)
    (hroom : (s.core (coreOf r.bid)).owner.length < 128 ∨ (s.core (coreOf r.bid)).owner.any r.ownLine = true)
    (hpieces : ∀ p ∈ r.pieces, p.addr % 64 + p.n ≤ 64) :
    ∃ cs res, (s.grant r).runPieces r (fun s p => s.ownPiece r p) = ((s.grant r).withCores cs, { r with results := res })
      ∧ (r.op = .load true → res = r.loadedFrom (s.grantedByte r)
          ∧ ((s.grant r).withCores cs).holdsLine r.bid r.line (s.grantedByte r))
      ∧ (r.op = .store true → s.silent r.flask = false →
          ((s.grant r).withCores cs).holdsLine r.bid r.line (r.overlay (s.grantedByte r))) := by
  have hline := State.holdsLine_grant hroom
  obtain ⟨cs₀, hgrant⟩ := State.grant_eq hroom
  have hsound : (s.grant r).dev.damage = [] := by rw [hgrant]; exact hd
  have hsilent : (s.grant r).silent r.flask = s.silent r.flask := by rw [hgrant]; rfl
  rcases Req.op_of_owned howned with hop | hop
  · exact ⟨_, _, State.runPieces_ownPiece_load hsound hline hop hpieces, fun _ => ⟨rfl, hline⟩, fun h => by simp [hop] at h⟩
  · obtain ⟨cs, res, hrun, hstore⟩ := State.runPieces_ownPiece_store hsound hline hop
    exact ⟨cs, res, hrun, fun h => by simp [hop] at h, fun _ hs => hstore (hsilent.trans hs)⟩

/-- An owned request is carried out in the owner buffer of its block. -/
theorem State.serveOwned_eq {s : State} (hd : s.dev.damage = []) (id : Nat) {r : Req} (hf : s.frameRefused r.tag r.line = none) :
    s.serveOwned id r = ((s.grant r).runPieces r fun s p => s.ownPiece r p).1.performed id
      ((s.grant r).runPieces r fun s p => s.ownPiece r p).2 := by
  have hdamage : ((s.grantRuns r).findSome? fun e => s.readDamage e.1 e.2) = none :=
    List.findSome?_eq_none_iff.mpr fun e _ => State.readDamage_of_sound hd e.1 e.2
  have hcorrect : (s.grantRuns r).foldl (fun s e => s.correctRead e.1 e.2) s = s :=
    List.foldl_fixed' (fun e => State.correctRead_of_sound hd e.1 e.2) _
  simp only [State.serveOwned, hf, hdamage, hcorrect]

section

variable {s : State} {id : Nat} {r : Req} (hat : s.atHome id r) (hbefore : s.heldBefore id r = false) (howned : r.owned = true)
  (heff : s.effective r = r) (hwords : s.ownerState r = .self ∨ s.ownerState r = .free ∧ s.recordFree r = true)
include hat hbefore howned heff hwords

/-- A claim to free words, or to words of its block, is granted. -/
theorem State.exec_homeRequest_of_owned : exec (.homeRequest id) s = .next (s.serveOwned id r) := by
  have hc : s.cacheable r = false := Bool.eq_false_iff.mpr fun h => by simp [State.not_owned_of_cacheable h] at howned
  have hretry : s.answerRetry id r = none := by
    rcases Req.op_of_owned howned with hop | hop <;>
      exact State.answerRetry_of_none id (by simp [State.memoOf, hop]) (by simp [State.memoGone, hop])
  rw [State.exec_homeRequest_of_uncached hat hc, heff]
  rcases hwords with ho | ⟨ho, hfree⟩
  · simp [State.deviceStep, hretry, hbefore, ho, howned]
  · simp [State.deviceStep, hretry, hbefore, ho, howned, hfree]

/-- The words are noted in the record of the block, a load returns them from its owner buffer, and a store writes them
there alone. -/
theorem State.grants_of_owned
    (hroom : (s.core (coreOf r.bid)).owner.length < 128 ∨ (s.core (coreOf r.bid)).owner.any r.ownLine = true)
    (hpieces : ∀ p ∈ r.pieces, p.addr % 64 + p.n ≤ 64) :
    ∃ t q o, exec (.homeRequest id) s = .next t ∧ t.homes.reqs.get? id = some q ∧ q.status = .performed ∧ q.bad = r.bad
      ∧ t.mem = s.mem ∧ t.homes.owners.get? (ownerKey r.line r.bid) = some o ∧ o.words &&& r.words = r.words
      ∧ (r.op = .load true →
          q.results = r.loadedFrom (s.grantedByte r) ∧ ∀ k, k < 64 → t.ownedByte r.bid r.line k = s.grantedByte r k)
      ∧ (r.op = .store true → s.silent r.flask = false →
          ∀ k, k < 64 → t.ownedByte r.bid r.line k = r.overlay (s.grantedByte r) k) := by
  have hexec := State.exec_homeRequest_of_owned hat hbefore howned heff hwords
  obtain ⟨-, -, -, -, -, -, -, hframe, hd, -⟩ := hat
  rw [State.serveOwned_eq hd id hframe] at hexec
  obtain ⟨o, howner, howords⟩ := State.owners_grant hroom
  obtain ⟨cs₀, hgrant⟩ := State.grant_eq hroom
  have hmem : (s.grant r).mem = s.mem := by rw [hgrant]; rfl
  obtain ⟨cs, res, hrun, hload, hstore⟩ := State.runPieces_grant hd howned hroom hpieces
  rw [hrun] at hexec
  obtain ⟨u, q, hu, ht, hstatus, hresults, hbad⟩ := ((s.grant r).withCores cs).performed_holds id { r with results := res }
  have hbuffer : ∀ f, ((s.grant r).withCores cs).holdsLine r.bid r.line f → ∀ k, k < 64 →
      (((s.grant r).withCores cs).performed id { r with results := res }).ownedByte r.bid r.line k = f k :=
    fun f h k hk => State.ownedByte_of_holdsLine (State.holdsLine_of_keepsHeld ht (State.holdsLine_of_keepsHeld hu h)) hk
  obtain ⟨humem, -, huowners, -⟩ := hu
  obtain ⟨htmem, htreqs, htowners, -⟩ := ht
  refine ⟨_, q, o, hexec, ?_, hstatus, hbad, htmem.trans (humem.trans hmem), ?_, howords, fun hop => ?_, fun hop hs => ?_⟩
  · rw [htreqs]
    exact Table.get?_put_self _ _ _
  · rw [htowners]
    exact (congrArg (Table.get? · _) huowners).trans howner
  · exact ⟨hresults.trans (hload hop).1, hbuffer _ (hload hop).2⟩
  · exact hbuffer _ (hstore hop hs)

end

end Sys2Proof.Machine

namespace Sys2Proof

open Sys2Proof.Machine

/-- Settles O55: the service of a request follows the owner state of its words, and its pieces are a run of steps on
device memory or on the owner buffer of its block. -/
theorem homeServesRequests : Obligations.HomeServesRequests := by
  refine ⟨fun id s r hat hdec ho hrec => ⟨fun own hop => State.serves_load hat hdec ho hrec hop,
      fun own hop hs => State.serves_store hat hdec ho hrec hop hs,
      fun op ret hop hs => State.serves_atom hat hdec ho hrec hop hs⟩,
    fun s pa n hm hrange ho hb => State.valueBytes_of_unowned hm hrange ho hb,
    fun id s r e hr hstatus hm hbehind hahead hc hleft he =>
      State.serves_of_copy hr hstatus hm hbehind hahead hc hleft he,
    fun id s r hat hbefore howned heff hwords hroom hpieces =>
      State.grants_of_owned hat hbefore howned heff hwords hroom hpieces,
    fun id s r hat hdec => ⟨State.exec_homeRequest_of_pending hat hdec, State.exec_homeRequest_of_other hat hdec⟩,
    State.askRecall_asks,
    fun id s r hat => ⟨fun m hmemo => State.serves_of_memo hat hmemo, State.serves_of_memoGone hat⟩,
    fun s pa o g hg => ?value,
    fun s g e ho hb hm => State.combined_of_no_owner hm ho hb g e,
    fun id s r p g o hat hbefore ho hb hs hp hg hn halign => ?range⟩
  case value => simp [State.valueByte, hg]
  case range =>
    have hf := hat.frames p (by simp [hp])
    have hhome := hat
    obtain ⟨-, -, -, hm, -, -, -, -, hd, -⟩ := hhome
    refine ⟨fun a hop ha => ?_, fun hop => ?_⟩
    · obtain ⟨t, hpiece, hdt, hmem⟩ := State.homePiece_cred hm ho hb hd hs hf hg hn halign hop ha
      exact hmem ▸ State.serves_rangeOp hat hbefore ho (.inl hop) hp hpiece hdt
    · obtain ⟨t, hpiece, hdt, hmem⟩ := State.homePiece_crfold hm ho hb hd hs hf hg hn halign hop
      exact hmem ▸ State.serves_rangeOp hat hbefore ho (.inr hop) hp hpiece hdt

end Sys2Proof

end

section

/-!
# Fences and the declaration of commutative ranges

Where no word of device memory is owned or on its way back and no page migrates, the zeroing of a shadow area is a
sequence of writes of zeros to device memory: a byte that one of them reaches is zero then, and every later one leaves
it so. What a `crdecl` does depends on its length, its placement, the translation of its two areas and the registration
of the range, in this order, so each of its outcomes is that order followed to its end.
-/

namespace Sys2Proof

/-! ## Writes of zeros -/

theorem Memory.read_writeBytes_zeros (m : Memory) (a : Nat) {n j : Nat} (hj : j < n) :
    Memory.read (Memory.writeBytes m a (List.replicate n 0)) (a + j) = 0 :=
  Memory.read_writeBytes_add m a (by simp [hj])

/-- A byte that is zero stays so. -/
theorem Memory.read_writeBytes_zeros_of_zero {m : Memory} {c : Nat} (h : Memory.read m c = 0) (a n : Nat) :
    Memory.read (Memory.writeBytes m a (List.replicate n 0)) c = 0 := by
  rcases Nat.lt_or_ge c a with hlt | hle
  · rwa [Memory.read_writeBytes_lt m _ hlt]
  · obtain ⟨j, rfl⟩ := Nat.exists_eq_add_of_le hle
    rcases Nat.lt_or_ge j n with hj | hj
    · exact Memory.read_writeBytes_zeros m a hj
    · rwa [Memory.read_writeBytes_ge m _ (by simpa using hj)]

end Sys2Proof

namespace Sys2Proof.Machine

open Sys2Proof

/-! ## Device memory that nothing holds back (R172 to R176, R182) -/

/-- No word of device memory is owned or on its way back to its home, and no page migrates. -/
def State.unheld (s : State) : Prop := s.homes.owners = [] ∧ s.homes.backs = [] ∧ s.homes.migration = none

section

variable {s : State}

theorem State.unheld.dirtyLine (h : s.unheld) (line : Nat) : (s.dirtyLine line).unheld := by
  have hroom : (s.l2Room line).unheld := by
    unfold State.l2Room
    cases s.l2Victim line with
    | none => exact h
    | some v => exact h
  unfold State.dirtyLine
  split
  · exact h
  · exact hroom

theorem State.unheld.dirty (h : s.unheld) (lines : List Nat) : (s.dirty lines).unheld :=
  List.foldlRecOn (motive := State.unheld) lines State.dirtyLine h fun _ ht line _ => State.unheld.dirtyLine ht line

theorem State.unheld.repair (h : s.unheld) (us : List (Nat × Nat)) : (s.repair us).unheld := by
  unfold State.repair
  split <;> exact h

theorem State.unheld.devWrite (h : s.unheld) (pa : Nat) (bs : List Byte) : (s.devWrite pa bs).unheld := by
  have hdirty := h.dirty (linesOf pa bs.length)
  unfold State.devWrite
  dsimp only
  split
  · exact hdirty
  · refine State.unheld.repair ?_ _
    exact hdirty

theorem State.unheld.patchCache (h : s.unheld) (die pa n : Nat) : (s.patchCache die pa n).unheld := by
  unfold State.patchCache
  dsimp only
  split
  · exact h
  · split <;> exact h

/-- A store of a die to such memory writes its bytes to device memory, and holds nothing back. -/
theorem State.unheld.storeFrom (h : s.unheld) (die pa : Nat) (bs : List Byte) :
    (s.storeFrom die pa bs).unheld ∧ (s.storeFrom die pa bs).mem.dev = Memory.writeBytes s.mem.dev pa bs := by
  have hheld := h
  obtain ⟨ho, hb, hm⟩ := hheld
  have hwrite : s.homeWrite pa bs = s.devWrite pa bs := by
    have hrecall : s.recallLines pa bs.length = s := List.foldl_fixed' (State.recallNow_of_no_owner ho hb) _
    rw [State.homeWrite, State.forward_of_none hm, hrecall]
  rw [State.storeFrom, State.forward_of_none hm, hwrite]
  constructor
  · exact List.foldlRecOn (motive := State.unheld) _ _ (h.devWrite pa bs) fun _ ht e _ => ht.patchCache die e.1 e.2
  · rw [State.patchCaches_mem, State.devWrite_mem]

end

/-! ## The zeroing of a shadow area (R198) -/

/-- The zeroing of one slot of a range, in the order of the slots. -/
def State.zeroSlot (die : Nat) (r : Range) (s : State) (k : Nat) : State :=
  (mapAddr r.shadow r.shadowMap (k * r.fmt.bytes)).elim s fun pa => s.storeFrom die pa (List.replicate r.fmt.bytes 0)

theorem State.zeroShadow_eq (s : State) (die : Nat) (r : Range) :
    s.zeroShadow die r = (List.range (r.len * r.slots)).foldl (State.zeroSlot die r) s := by
  refine List.foldl_ext _ _ _ fun t k _ => ?_
  unfold State.zeroSlot
  cases mapAddr r.shadow r.shadowMap (k * r.fmt.bytes) <;> rfl

section

variable {s : State} (h : s.unheld) (die : Nat) (r : Range)
include h

theorem State.unheld.zeroSlot (k : Nat) : (s.zeroSlot die r k).unheld := by
  unfold State.zeroSlot
  cases mapAddr r.shadow r.shadowMap (k * r.fmt.bytes) with
  | none => exact h
  | some pa => exact (h.storeFrom die pa _).1

theorem State.unheld.zeroSlots (l : List Nat) : (l.foldl (State.zeroSlot die r) s).unheld :=
  List.foldlRecOn (motive := State.unheld) l _ h fun _ ht k _ => ht.zeroSlot die r k

/-- The bytes of a slot are zero once it is zeroed. -/
theorem State.unheld.read_zeroSlot {k pa j : Nat} (hpa : mapAddr r.shadow r.shadowMap (k * r.fmt.bytes) = some pa)
    (hj : j < r.fmt.bytes) : Memory.read (s.zeroSlot die r k).mem.dev (pa + j) = 0 := by
  rw [State.zeroSlot, hpa, Option.elim_some, (h.storeFrom die pa _).2]
  exact Memory.read_writeBytes_zeros _ _ hj

theorem State.unheld.read_zeroSlot_of_zero {c : Nat} (hc : Memory.read s.mem.dev c = 0) (k : Nat) :
    Memory.read (s.zeroSlot die r k).mem.dev c = 0 := by
  unfold State.zeroSlot
  cases mapAddr r.shadow r.shadowMap (k * r.fmt.bytes) with
  | none => exact hc
  | some pa =>
    rw [Option.elim_some, (h.storeFrom die pa _).2]
    exact Memory.read_writeBytes_zeros_of_zero hc _ _

theorem State.unheld.read_zeroSlots_of_zero {c : Nat} (hc : Memory.read s.mem.dev c = 0) (l : List Nat) :
    Memory.read (l.foldl (State.zeroSlot die r) s).mem.dev c = 0 := by
  induction l generalizing s with
  | nil => exact hc
  | cons k l ih => exact ih (h.zeroSlot die r k) (h.read_zeroSlot_of_zero die r hc k)

/-- The bytes of every slot of every element are zero after the zeroing of the shadow area. -/
theorem State.unheld.read_zeroShadow {e k pa j : Nat} (he : e < r.len) (hk : k < r.slots)
    (hpa : r.slotAddr e k = some pa) (hj : j < r.fmt.bytes) : Memory.read (s.zeroShadow die r).mem.dev (pa + j) = 0 := by
  have hslot : e * r.slots + k < r.len * r.slots :=
    calc e * r.slots + k < (e + 1) * r.slots := by rw [Nat.succ_mul]; omega
      _ ≤ r.len * r.slots := Nat.mul_le_mul_right _ he
  obtain ⟨before, after, hsplit⟩ := List.append_of_mem (List.mem_range.mpr hslot)
  have hbefore := h.zeroSlots die r before
  rw [State.zeroShadow_eq, hsplit, List.foldl_append, List.foldl_cons]
  exact (hbefore.zeroSlot die r _).read_zeroSlots_of_zero die r (hbefore.read_zeroSlot die r hpa hj) after

end

/-! ## Fences (R176, R200) -/

theorem exec_fence (a : Args GMod) (s : State) : exec (.fence a) s = execFence a s := rfl

theorem fence_completes (a : Args GMod) :
    CompletesWhen (.fence a) (headOf a (.fence a) false true)
      (fun x s => (isRel a.mod.ord && wideScope a.mod.sc && (s.giveBack x.bid).owing x.bid) = false)
      fun x s => s.fenced x.bid a.mod.ord a.mod.sc := by
  intro s x hp hsettled
  rw [exec_fence, execFence, issue_run hp]
  simp only [hsettled, Bool.false_eq_true, if_false]
  rfl

/-- A release at die scope or wider waits while its block's words are on their way back. -/
theorem exec_fence_of_owing {a : Args GMod} {s : State} {x : Ins}
    (hp : s.prepare (headOf a (.fence a) false true) = .run x) (hrel : isRel a.mod.ord = true)
    (hwide : wideScope a.mod.sc = true) (howing : ((s.begin x).giveBack x.bid).owing x.bid = true) :
    exec (.fence a) s = .next ((s.begin x).giveBack x.bid).notReady := by
  rw [exec_fence, execFence, issue_run hp]
  simp only [hrel, hwide, howing, Bool.and_self, if_true]
  rfl

/-! ## The declaration of a range (R198) -/

theorem exec_crdecl (a : Args GMod) (s : State) : exec (.crdecl a) s = execCrdecl a s := rfl

/-- What a `crdecl` answers once its areas are translated. -/
def State.declareAreas (s : State) (x : Ins) (a : Args GMod) : Area → Area → Result
  | .pages hm, .pages sm => s.declare (dieOfBlock x.bid) (s.silent (s.block x.bid).flask) (s.declared x a hm sm)
  | home, shadow => ((s.areaStops x false home).orElse fun _ => s.areaStops x true shadow).getD (.trap 0x107 2)

theorem State.begin_declared (s : State) (x : Ins) (a : Args GMod) (hm sm : List Nat) :
    (s.begin x).declared x a hm sm = s.declared x a hm sm := by
  unfold State.declared
  simp only [State.begin_get, State.begin_get1]
  rfl

/-- The effect of a `crdecl`, in the order of its checks. -/
def State.declareEffect (s : State) (x : Ins) (a : Args GMod) (r : Range) : Result :=
  if r.len = 0 ∨ 2 ^ 24 < r.len then .trap 0x107 3
  else if r.home % 64 ≠ 0 ∨ r.shadow % 64 ≠ 0 ∨ 2 ^ 57 < r.home + r.sizes.1 ∨ 2 ^ 57 < r.shadow + r.sizes.2 then .trap 0x107 2
  else s.declareAreas x a (s.areaPages (dieOfBlock x.bid) r.tag false (areaRegions r.home r.sizes.1))
    (s.areaPages (dieOfBlock x.bid) r.tag true (areaRegions r.shadow r.sizes.2))

/-- No check before the translation reads the pages of the range. -/
theorem exec_crdecl_of_run {a : Args GMod} {s : State} {x : Ins} (hp : s.prepare (headOf a (.crdecl a)) = .run x)
    (hm sm : List Nat) : exec (.crdecl a) s
      = .next (((s.begin x).declareEffect x a ((s.begin x).declared x a hm sm)).apply x a.hint s) := by
  rw [exec_crdecl, execCrdecl, issue_run hp]
  rfl

section

variable {s : State} {r : Range} (x : Ins) (a : Args GMod)

theorem State.declareEffect_of_length (hlen : r.len = 0 ∨ 2 ^ 24 < r.len) : s.declareEffect x a r = .trap 0x107 3 :=
  if_pos hlen

variable (hpos : 1 ≤ r.len) (hle : r.len ≤ 2 ^ 24)
include hpos hle

theorem State.declareEffect_of_not_placed (hplaced : ¬r.placed) : s.declareEffect x a r = .trap 0x107 2 := by
  rw [State.declareEffect, if_neg (by omega), if_pos]
  simpa only [Range.placed, not_and_or, not_le] using hplaced

theorem State.declareEffect_of_placed (hplaced : r.placed) : s.declareEffect x a r
    = s.declareAreas x a (s.areaPages (dieOfBlock x.bid) r.tag false (areaRegions r.home r.sizes.1))
        (s.areaPages (dieOfBlock x.bid) r.tag true (areaRegions r.shadow r.sizes.2)) := by
  rw [State.declareEffect, if_neg (by omega), if_neg]
  simpa only [Range.placed, not_or, not_not, not_lt] using hplaced

end

theorem crdecl_traps_of_length (a : Args GMod) :
    TrapsWhen (.crdecl a) (headOf a (.crdecl a))
      (fun x s => (s.get1 x a.d x.lane).toNat = 0 ∨ 2 ^ 24 < (s.get1 x a.d x.lane).toNat) 0x107 fun _ _ => 3 := by
  intro s x hp hlen
  rw [exec_crdecl_of_run hp [] [], State.declareEffect_of_length x a hlen]
  rfl

theorem crdecl_traps_of_not_placed (a : Args GMod) :
    TrapsWhen (.crdecl a) (headOf a (.crdecl a))
      (fun x s => let r := s.declared x a [] []
        1 ≤ r.len ∧ r.len ≤ 2 ^ 24 ∧ ¬r.placed) 0x107 fun _ _ => 2 := by
  rintro s x hp ⟨hpos, hle, hplaced⟩
  rw [exec_crdecl_of_run hp [] [], State.declareEffect_of_not_placed x a hpos hle hplaced]
  rfl

theorem crdecl_traps_of_elsewhere (a : Args GMod) :
    TrapsWhen (.crdecl a) (headOf a (.crdecl a))
      (fun x s => let r := s.declared x a [] []
        let home := s.areaPages (dieOfBlock x.bid) r.tag false (areaRegions r.home r.sizes.1)
        let shadow := s.areaPages (dieOfBlock x.bid) r.tag true (areaRegions r.shadow r.sizes.2)
        1 ≤ r.len ∧ r.len ≤ 2 ^ 24 ∧ r.placed ∧ (home = .elsewhere ∨ ∃ hm, home = .pages hm ∧ shadow = .elsewhere))
      0x107 fun _ _ => 2 := by
  rintro s x hp ⟨hpos, hle, hplaced, hareas⟩
  rw [exec_crdecl_of_run hp [] [], State.declareEffect_of_placed x a hpos hle hplaced]
  rcases hareas with hhome | ⟨hm, hhome, hshadow⟩
  · rw [hhome]
    rfl
  · rw [hhome, hshadow]
    rfl

/-- A range whose areas are mapped is left to its registration. -/
theorem exec_crdecl_of_pages {a : Args GMod} {s : State} {x : Ins} {hm sm : List Nat}
    (hp : s.prepare (headOf a (.crdecl a)) = .run x) :
    let u := s.begin x
    let r := s.declared x a hm sm
    1 ≤ r.len → r.len ≤ 2 ^ 24 → r.placed →
    u.areaPages (dieOfBlock x.bid) r.tag false (areaRegions r.home r.sizes.1) = .pages hm →
    u.areaPages (dieOfBlock x.bid) r.tag true (areaRegions r.shadow r.sizes.2) = .pages sm →
    exec (.crdecl a) s = .next ((u.declare (dieOfBlock x.bid) (s.silent (s.block x.bid).flask) r).apply x a.hint s) := by
  intro u r hpos hle hplaced hhome hshadow
  rw [exec_crdecl_of_run hp hm sm, State.begin_declared, State.declareEffect_of_placed x a hpos hle hplaced, hhome, hshadow,
    State.declareAreas, State.begin_declared]
  rfl

/-! ## The registration of a range (R198, R355) -/

section

variable {s : State} {die : Nat} {r : Range}

theorem State.declare_of_apart (silent : Bool) (hdie : r.oneDie = false) : s.declare die silent r = .trap 0x107 2 := by
  simp [State.declare, hdie]

variable (hdie : r.oneDie = true)
include hdie

theorem State.declare_of_replay : s.declare die true r = .go s := by
  simp [State.declare, hdie]

theorem State.declare_of_clash (hclash : (s.context r.tag).ranges.any r.clashes = true) :
    s.declare die false r = .trap 0x107 0 := by
  simp only [State.declare, hdie, hclash, Bool.not_true, Bool.false_eq_true, if_false, if_true]

theorem State.declare_of_full (hclear : (s.context r.tag).ranges.any r.clashes = false)
    (hfull : 64 ≤ (s.context r.tag).ranges.length) : s.declare die false r = .trap 0x107 1 := by
  simp only [State.declare, hdie, hclear, hfull, Bool.not_true, Bool.false_eq_true, if_false, if_true]

/-- A range that nothing refuses or holds back is registered with its shadow zeroed. -/
theorem State.declare_of_free (hclear : (s.context r.tag).ranges.any r.clashes = false)
    (hroom : (s.context r.tag).ranges.length < 64) (hopen : r.shadowMap.any (s.zeroWaits die) = false) :
    s.declare die false r =
      let w := s.pagesWalked die r.tag (areaRegions r.home r.sizes.1 ++ areaRegions r.shadow r.sizes.2)
      .go ((w.zeroShadow die r).setContext r.tag { s.context r.tag with
        ranges := (s.context r.tag).ranges ++ [{ r with id := w.ctrl.nextId }] }).dropCopies.bump := by
  simp only [State.declare, hdie, hclear, hopen, Nat.not_le.mpr hroom, Bool.not_true, Bool.false_eq_true, if_false]

end

end Sys2Proof.Machine

namespace Sys2Proof

open Sys2Proof.Machine

/-- Settles O39: the fence clauses are the two branches of its wait for owned words, and the outcomes of `crdecl` follow
the order of its checks. The model's own choices here are sub-code 2 beyond 2^57 after the check of the length (log
entry 115), that sub-code for a page outside device memory (28), a replay that declares nothing (142), and the copies of
the home area's lines that a declaration drops (143; R150). -/
theorem fenceAndDeclareComplete : Obligations.FenceAndDeclareComplete := by
  refine ⟨fence_completes, fun a s x hp => exec_fence_of_owing hp, fun a s x hm sm hp => ?declares,
    fun s die r e k pa j ho hb hm he hk hpa hj => State.unheld.read_zeroShadow ⟨ho, hb, hm⟩ die r he hk hpa hj,
    crdecl_traps_of_length, crdecl_traps_of_not_placed, crdecl_traps_of_elsewhere⟩
  case declares =>
    intro tag die r c w hpos hle hplaced hhome hshadow
    have hexec : exec (.crdecl a) s = .next (((s.begin x).declare die (s.silent (s.block x.bid).flask) r).apply x a.hint s) :=
      exec_crdecl_of_pages hp hpos hle hplaced hhome hshadow
    refine ⟨fun hdie => ?_, fun hdie hreplay => ?_, fun hdie hfirst =>
      ⟨fun hclash => ?_, fun hclear hfull => ?_, fun hclear hroom hopen => ?_⟩⟩
    · rw [hexec, State.declare_of_apart _ hdie]
      rfl
    · rw [hexec, hreplay, State.declare_of_replay hdie]
      rfl
    · rw [hexec, hfirst, State.declare_of_clash (s := s.begin x) hdie hclash]
      rfl
    · rw [hexec, hfirst, State.declare_of_full (s := s.begin x) hdie hclear hfull]
      rfl
    · rw [hexec, hfirst, State.declare_of_free (s := s.begin x) hdie hclear hroom hopen]
      rfl

end Sys2Proof

end

section

/-!
# Events of the device

What the events of recovery, of the fabric and of the host share: an event with a condition, tables mapped in place, and
what an interrupt and an error record leave alone.
-/

namespace Sys2Proof

variable {α β : Type}

/-- A map of a table that keeps every key maps the value under each. -/
theorem Table.get?_map {g : Nat × α → Nat × β} (hkey : ∀ e, (g e).1 = e.1) (t : Table α) (n : Nat) :
    Table.get? (t.map g) n = (t.get? n).map fun v => (g (n, v)).2 := by
  induction t with
  | nil => rfl
  | cons e r ih =>
    obtain ⟨k, v⟩ := e
    obtain ⟨w, hw⟩ : ∃ w, g (k, v) = (k, w) := ⟨_, Prod.ext (hkey (k, v)) rfl⟩
    rw [List.map_cons, hw, Table.get?, Table.get?]
    split
    · next h => rw [← h, Option.map_some, hw]
    · exact ih

end Sys2Proof

namespace Sys2Proof.Machine

open Sys2Proof

/-! ## Events with a condition -/

/-- An event that acts where a test of the state succeeds acts where the condition that the test decides holds. -/
theorem eventIs_of_ite {ev : Instr} {test cond : State → Prop} [DecidablePred test] {eff : State → State}
    (hexec : ∀ s, exec ev s = .next (if test s then eff s else s)) (htest : ∀ s, test s ↔ cond s) : EventIs ev cond eff := by
  refine fun s => ⟨fun h => ?_, fun h => ?_⟩
  · rw [hexec, if_pos ((htest s).mpr h)]
  · rw [hexec, if_neg (mt (htest s).mp h)]

/-! ## What an interrupt and a record leave (R339, R361) -/

/-- An interrupt changes the messages to the host and nothing else. -/
theorem State.irq_eq (s : State) (tenant : Option Nat) (vec : Nat) :
    ∃ pending irqs messages, s.irq tenant vec = { s with dev := { s.dev with pending, irqs, messages } } := by
  have hsend (i : Irq) : ∃ pending irqs messages, s.sendIrq i = { s with dev := { s.dev with pending, irqs, messages } } := by
    unfold State.sendIrq
    dsimp only
    split
    · split
      · exact ⟨_, _, _, rfl⟩
      · exact ⟨_, _, _, rfl⟩
    · exact ⟨_, _, _, rfl⟩
  unfold State.irq
  cases tenant with
  | none => exact hsend _
  | some n =>
    dsimp only
    split
    · exact hsend _
    · exact ⟨_, _, _, rfl⟩

/-- An error record changes the logs and the messages to the host and nothing else. -/
theorem State.record_eq (s : State) (r : ErrRec) :
    ∃ deviceLog tenantLogs pending irqs messages,
      s.record r = { s with dev := { s.dev with deviceLog, tenantLogs, pending, irqs, messages } } := by
  unfold State.record
  dsimp only
  split
  · exact ⟨_, _, _, _, _, rfl⟩
  · split
    · obtain ⟨_, _, _, h⟩ := State.irq_eq { s with dev := { s.dev with deviceLog := s.dev.deviceLog.push 1024 r } } none 0
      exact ⟨_, _, _, _, _, h⟩
    · obtain ⟨_, _, _, h⟩ := State.irq_eq { s with dev := { s.dev with
        deviceLog := s.dev.deviceLog.push 1024 r
        tenantLogs := s.dev.tenantLogs.put (s.tenantOf r.tag) ((s.dev.tenantLogs.get (s.tenantOf r.tag) {}).push 256 r) } }
        (some (s.tenantOf r.tag)) 0
      exact ⟨_, _, _, _, _, h⟩

@[simp] theorem State.irq_mem (s : State) (tenant : Option Nat) (vec : Nat) : (s.irq tenant vec).mem = s.mem := by
  obtain ⟨_, _, _, h⟩ := s.irq_eq tenant vec
  rw [h]

@[simp] theorem State.die_irq (s : State) (tenant : Option Nat) (vec d : Nat) : (s.irq tenant vec).die d = s.die d := by
  obtain ⟨_, _, _, h⟩ := s.irq_eq tenant vec
  rw [h]
  rfl

@[simp] theorem State.context_record (s : State) (r : ErrRec) (tag : Nat) : (s.record r).context tag = s.context tag := by
  obtain ⟨_, _, _, _, _, h⟩ := s.record_eq r
  rw [h]
  rfl

theorem State.die_setDie_ne (s : State) {d e : Nat} (h : e ≠ d) (x : Die) : (s.setDie d x).die e = s.die e := by
  simp only [State.die, State.setDie_dev, Table.get_put_ne _ h]

end Sys2Proof.Machine

end

section

/-!
# The events of the fabric

The ingress judges a peer's request against those that it holds, then by `State.ingressOne`. A link steps its key from
one state to the next, and an event of another state leaves it as it is.
-/

namespace Sys2Proof.Machine

open Sys2Proof

/-! ## The ingress (R183, R307) -/

theorem exec_fabricIngressRequest (r : PeerReq) (s : State) :
    exec (.fabricIngressRequest r) s = execFabricIngressRequest r s := rfl

theorem State.ingressOne_of_refused {s : State} {r : PeerReq} (h : s.admitted r = false ∨ peerFits r = false) :
    s.ingressOne r = (s, .answer .abort) := by
  have htest : (!s.admitted r || !peerFits r) = true := by simpa using h
  rw [State.ingressOne, if_pos htest]

section

variable {r : PeerReq} {s : State}

theorem exec_fabricIngressRequest_of_heldBack (h : ∃ e ∈ s.dev.ingressHeld, holdsBack e.req r = true) :
    exec (.fabricIngressRequest r) s
      = .next { s with dev := { s.dev with ingressHeld := s.dev.ingressHeld ++ [⟨r, []⟩] } } := by
  rw [exec_fabricIngressRequest, execFabricIngressRequest, if_pos (List.any_eq_true.mpr h)]

variable {t : State} (hfree : ∀ e ∈ s.dev.ingressHeld, holdsBack e.req r = false)
include hfree

theorem exec_fabricIngressRequest_of_answer {a : PeerAnswer} (h : s.ingressOne r = (t, .answer a)) :
    exec (.fabricIngressRequest r) s = .next (t.answered r.src a) := by
  have hnone : ¬(s.dev.ingressHeld.any fun e => holdsBack e.req r) = true := by simpa using hfree
  rw [exec_fabricIngressRequest, execFabricIngressRequest, if_neg hnone, h]

theorem exec_fabricIngressRequest_of_held {fs : List Nat} (h : s.ingressOne r = (t, .held fs)) :
    exec (.fabricIngressRequest r) s = .next { t with dev := { t.dev with ingressHeld := t.dev.ingressHeld ++ [⟨r, fs⟩] } } := by
  have hnone : ¬(s.dev.ingressHeld.any fun e => holdsBack e.req r) = true := by simpa using hfree
  rw [exec_fabricIngressRequest, execFabricIngressRequest, if_neg hnone, h]

end

theorem exec_memoEntryAged (p i : Nat) (s : State) : exec (.memoEntryAged p i) s = execMemoEntryAged p i s := rfl

theorem memoEntryAged_eventIs (p i : Nat) :
    EventIs (.memoEntryAged p i)
      (fun s => ∃ m, (s.homes.peerMemos.find? fun m => m.peer == p && m.ident == i) = some m
        ∧ m.since + microseconds (10 * s.dev.regs.retryW) ≤ s.ctrl.time)
      fun s => { s with homes := { s.homes with
        peerMemos := s.homes.peerMemos.filter fun e => !(e.peer == p && e.ident == i), aged := s.homes.aged ++ [(p, i)] } } := by
  intro s
  rw [exec_memoEntryAged, execMemoEntryAged]
  cases hmemo : s.homes.peerMemos.find? fun m => m.peer == p && m.ident == i with
  | none => exact ⟨fun ⟨m, hm, _⟩ => (nomatch hmemo.symm.trans hm), fun _ => rfl⟩
  | some m =>
    refine ⟨fun ⟨m', hm', haged⟩ => ?_, fun h => congrArg _ (if_neg fun haged => h ⟨m, hmemo, haged⟩)⟩
    obtain rfl : m = m' := Option.some.inj (hmemo.symm.trans hm')
    exact congrArg _ (if_pos haged)

/-! ## The keys of a link (R315) -/

theorem exec_uCapRelease (l : Nat) (s : State) : exec (.uCapRelease l) s = execUCapRelease l s := rfl
theorem exec_keyRolloverDue (l : Nat) (s : State) : exec (.keyRolloverDue l) s = execKeyRolloverDue l s := rfl
theorem exec_keyReady (l : Nat) (s : State) : exec (.keyReady l) s = execKeyReady l s := rfl
theorem exec_replayDrained (l : Nat) (s : State) : exec (.replayDrained l) s = execReplayDrained l s := rfl
theorem exec_retireKey (l : Nat) (s : State) : exec (.retireKey l) s = execRetireKey l s := rfl

section

variable {l : Nat} {s : State} {i : Bool}

theorem exec_keyRolloverDue_of_due (hkey : (s.link l).key = .steady i) (hgone : (s.link l).holds (!i) = false)
    (hdue : 2 ^ (s.link l).limLog ≤ (s.link l).flits ∨ (s.link l).keySince + microseconds ((s.link l).limSec * 1000000) ≤ s.ctrl.time) :
    exec (.keyRolloverDue l) s = .next (s.setLink l { (s.link l).setKey (!i) true with key := .wait i }) := by
  simp only [exec_keyRolloverDue, execKeyRolloverDue, hkey, hgone, hdue, Bool.not_false, decide_true, Bool.and_self, if_true]

theorem exec_keyRolloverDue_of_wait (hkey : (s.link l).key = .wait i) : exec (.keyRolloverDue l) s = .next s := by
  simp only [exec_keyRolloverDue, execKeyRolloverDue, hkey]

theorem exec_keyReady_of_steady (hkey : (s.link l).key = .steady i) : exec (.keyReady l) s = .next s := by
  simp only [exec_keyReady, execKeyReady, hkey]

theorem exec_keyReady_of_wait (hkey : (s.link l).key = .wait i) :
    exec (.keyReady l) s = .next (s.setLink l { s.link l with
      key := .drain i, flits := 0, keySince := s.ctrl.time, limLog := s.dev.regs.rkLog2, limSec := s.dev.regs.rkSec }) := by
  simp only [exec_keyReady, execKeyReady, hkey]

theorem exec_replayDrained_of_steady (hkey : (s.link l).key = .steady i) : exec (.replayDrained l) s = .next s := by
  simp only [exec_replayDrained, execReplayDrained, hkey]

theorem exec_replayDrained_of_drain (hkey : (s.link l).key = .drain i) :
    exec (.replayDrained l) s
      = .next (if (s.link l).replay.contains i then s else s.setLink l { s.link l with key := .steady (!i) }) := by
  simp only [exec_replayDrained, execReplayDrained, hkey]

theorem exec_retireKey_of_steady (hkey : (s.link l).key = .steady i) :
    exec (.retireKey l) s = .next (s.setLink l ((s.link l).setKey (!i) false)) := by
  simp only [exec_retireKey, execRetireKey, hkey]

/-- The receiver erases no key while the sender rolls over. -/
theorem exec_retireKey_of_not_steady (hkey : ∀ i, (s.link l).key ≠ .steady i) : exec (.retireKey l) s = .next s := by
  rw [exec_retireKey, execRetireKey]
  cases h : (s.link l).key with
  | steady i => exact absurd h (hkey i)
  | wait i => rfl
  | drain i => rfl

end

/-! ## Retraining (R315, R369) -/

theorem exec_linkIntegrityFailure (l : Nat) (s : State) : exec (.linkIntegrityFailure l) s = execLinkIntegrityFailure l s := rfl
theorem exec_laneLoss (l : Nat) (s : State) : exec (.laneLoss l) s = execLaneLoss l s := rfl
theorem exec_flitCheckFailure (l : Nat) (s : State) : exec (.flitCheckFailure l) s = execFlitCheckFailure l s := rfl
theorem exec_linkRetrained (l : Nat) (s : State) : exec (.linkRetrained l) s = execLinkRetrained l s := rfl
theorem exec_retrainTimeout (l : Nat) (s : State) : exec (.retrainTimeout l) s = execRetrainTimeout l s := rfl

theorem retrain_eventIs {ev : Instr} {l : Nat} (hexec : ∀ s, exec ev s = .next (s.retrain l)) :
    EventIs ev (fun s => (s.link l).phase = .up)
      fun s => s.setLink l { s.link l with phase := .retraining, since := s.ctrl.time } :=
  eventIs_of_ite (test := fun s => ((s.link l).phase == .up) = true) hexec fun _ => beq_iff_eq

theorem flitCheckFailure_eventIs (l : Nat) :
    EventIs (.flitCheckFailure l)
      (fun s => (s.link l).phase = .up ∧ ∃ i ∈ (s.link l).replay, (s.link l).holds i = false)
      fun s => s.setLink l { s.link l with phase := .retraining, since := s.ctrl.time } := by
  refine eventIs_of_ite (test := fun s => ((s.link l).replay.any fun i => !(s.link l).holds i) = true
    ∧ ((s.link l).phase == .up) = true) (fun s => ?_) fun s => ?_
  · rw [exec_flitCheckFailure, execFlitCheckFailure, State.retrain, ite_and]
  · simp only [List.any_eq_true, Bool.not_eq_true', beq_iff_eq, and_comm]

theorem linkRetrained_eventIs (l : Nat) :
    EventIs (.linkRetrained l) (fun s => (s.link l).phase = .retraining ∧ s.ctrl.time ≤ (s.link l).since + microseconds 100)
      fun s => s.setLink l { s.link l with phase := .up } :=
  eventIs_of_ite (exec_linkRetrained l) fun s => by simp only [Bool.and_eq_true, beq_iff_eq, decide_eq_true_eq]

theorem retrainTimeout_eventIs (l : Nat) :
    EventIs (.retrainTimeout l)
      (fun s => (s.link l).phase = .retraining ∧ (s.link l).since + microseconds 100 < s.ctrl.time)
      fun s => s.failLink l .failed :=
  eventIs_of_ite (exec_retrainTimeout l) fun s => by simp only [Bool.and_eq_true, beq_iff_eq, decide_eq_true_eq]

end Sys2Proof.Machine

namespace Sys2Proof

open Sys2Proof.Machine

/-- Settles O59: the outcomes of an ingress request follow the order of its judgement, and each event of a link is judged
by the state of its key or the phase of its training. The model's own choices here are the one list of held requests
(log entry 66) and the messages of class U that leave a port's log 10 µs after they were sent (49). -/
theorem fabricEvents : Obligations.FabricEvents := by
  refine ⟨fun r s hfree h => exec_fabricIngressRequest_of_answer hfree (State.ingressOne_of_refused h),
    fun r s h => exec_fabricIngressRequest_of_heldBack h,
    fun r s t fs hfree h => exec_fabricIngressRequest_of_held hfree h,
    fun r s t a hfree h => exec_fabricIngressRequest_of_answer hfree h,
    memoEntryAged_eventIs, exec_uCapRelease, fun l s i hkey => ?steady, fun l s i hkey => ?wait, fun l s i hkey => ?drain,
    fun l ev hev => ?retrains, flitCheckFailure_eventIs, linkRetrained_eventIs, retrainTimeout_eventIs⟩
  case steady =>
    exact ⟨exec_keyRolloverDue_of_due hkey, exec_retireKey_of_steady hkey, exec_keyReady_of_steady hkey,
      exec_replayDrained_of_steady hkey⟩
  case wait =>
    refine ⟨⟨_, exec_keyReady_of_wait hkey, ?_⟩, exec_keyRolloverDue_of_wait hkey, exec_retireKey_of_not_steady (by simp [hkey])⟩
    rw [State.link_setLink]
    exact ⟨rfl, rfl, rfl, rfl⟩
  case drain =>
    refine ⟨fun h => ?_, fun h => ?_, exec_retireKey_of_not_steady (by simp [hkey])⟩
    · rw [exec_replayDrained_of_drain hkey, h, if_neg Bool.false_ne_true]
    · rw [exec_replayDrained_of_drain hkey, h, if_pos rfl]
  case retrains =>
    rcases List.mem_pair.mp hev with rfl | rfl
    · exact retrain_eventIs (exec_linkIntegrityFailure l)
    · exact retrain_eventIs (exec_laneLoss l)

end Sys2Proof

end

section

/-!
# The events of recovery

A forced fence maps the commands and requests that it cuts off in place, and loses each dirty line by itself. The other
events act on one die, one cache or one flask, where the case that they meet is the statement's hypothesis.
-/

namespace Sys2Proof.Machine

open Sys2Proof

/-! ## The fence of a die (R347, R348) -/

theorem exec_seamFence (d : Nat) (s : State) : exec (.seamFence d) s = execSeamFence d s := rfl
theorem exec_quiesceDeadline (d : Nat) (s : State) : exec (.quiesceDeadline d) s = execQuiesceDeadline d s := rfl

theorem State.homesIdle_iff (s : State) (d : Nat) : s.homesIdle d = true ↔
    (∀ e ∈ s.homes.reqs, ¬((e.2.status = .held ∨ e.2.status = .performed) ∧ e.2.target = .device ∧ homeDie (e.2.line * 64) = d))
    ∧ (∀ b ∈ s.homes.backs, ¬(homeDie (b.2.line * 64) = d ∧ dieOfBlock b.2.bid = d))
    ∧ ∀ e ∈ s.homes.dirty, homeDie (e.1 * 64) ≠ d := by
  simp only [State.homesIdle, Bool.and_eq_true, Bool.not_eq_true', List.any_eq_false, Bool.or_eq_true, beq_iff_eq, and_assoc, ne_eq]

theorem seamFence_eventIs (d : Nat) :
    EventIs (.seamFence d)
      (fun s => (s.die d).phase = .quiescing
        ∧ (∀ e ∈ s.homes.reqs, ¬((e.2.status = .held ∨ e.2.status = .performed) ∧ e.2.target = .device
            ∧ homeDie (e.2.line * 64) = d))
        ∧ (∀ b ∈ s.homes.backs, ¬(homeDie (b.2.line * 64) = d ∧ dieOfBlock b.2.bid = d))
        ∧ ∀ e ∈ s.homes.dirty, homeDie (e.1 * 64) ≠ d)
      fun s => s.setDie d { s.die d with phase := .fenced } :=
  eventIs_of_ite (exec_seamFence d) fun s => by rw [Bool.and_eq_true, beq_iff_eq, State.homesIdle_iff]

theorem quiesceDeadline_eventIs (d : Nat) :
    EventIs (.quiesceDeadline d) (fun s => (s.die d).phase = .quiescing ∧ (s.die d).deadline ≤ s.ctrl.time) fun s =>
      let s := (s.setDie d { s.die d with phase := .fenced, epoch := (s.die d).epoch + 1 }).loseCopies d
      let s := { s with homes := { s.homes with reqs := s.homes.reqs.map (loseCrossing d) } }
      (s.homes.dirty.filter fun e => homeDie (e.1 * 64) == d).foldl State.loseLine s :=
  eventIs_of_ite (exec_quiesceDeadline d) fun s => by rw [Bool.and_eq_true, beq_iff_eq, decide_eq_true_eq]

/-- The state in which HBM's bytes stand for a lost line, before its context is ended. -/
def State.lineStands (s : State) (e : Nat × List Byte) : State :=
  let s := (s.withoutDamage fun u => u.1 == 0x10 && u.2 / 2 == e.1).cleaned (· == e.1)
  { s with mem := { s.mem with dev := Memory.writeBytes s.mem.dev (e.1 * 64) e.2 } }

section

variable {s : State} {l : Nat} {bs : List Byte}

theorem State.loseLine_eq (s : State) (e : Nat × List Byte) :
    s.loseLine e = (s.lineStands e).ruinContext (s.ownerTag (e.1 * 64)) 0x10 (2 * e.1) := rfl

theorem State.loseLine_of_disabled (h : (s.context (s.ownerTag (l * 64))).en = false) :
    s.loseLine (l, bs) = s.lineStands (l, bs) := by
  have hoff : ¬((s.lineStands (l, bs)).context (s.ownerTag (l * 64))).en = true := by
    rw [show (s.lineStands (l, bs)).context (s.ownerTag (l * 64)) = s.context (s.ownerTag (l * 64)) from rfl, h]
    exact Bool.false_ne_true
  rw [State.loseLine_eq, State.ruinContext, if_neg hoff]

theorem State.read_lineStands (hlen : bs.length = 64) :
    (∀ k, k < 64 → Memory.read (s.lineStands (l, bs)).mem.dev (l * 64 + k) = (bs[k]?).getD 0)
    ∧ ∀ a, a / 64 ≠ l → Memory.read (s.lineStands (l, bs)).mem.dev a = Memory.read s.mem.dev a := by
  refine ⟨fun k hk => ?_, fun a ha => ?_⟩
  · obtain ⟨b, hb⟩ : ∃ b, bs[k]? = some b := ⟨_, List.getElem?_eq_getElem (hlen ▸ hk)⟩
    rw [hb, Option.getD_some]
    exact Memory.read_writeBytes_add s.mem.dev (l * 64) hb
  · rcases Nat.lt_or_ge a (l * 64) with hlt | hge
    · exact Memory.read_writeBytes_lt s.mem.dev bs hlt
    · exact Memory.read_writeBytes_ge s.mem.dev bs (by omega)

theorem State.endContext_context (s : State) (tag : Nat) :
    ((s.endContext tag).context tag).en = false ∧ ((s.endContext tag).context tag).ranges = [] := by
  unfold State.endContext
  rw [State.context_setContext]
  exact ⟨rfl, rfl⟩

theorem State.context_loseLine (h : (s.context (s.ownerTag (l * 64))).en = true) :
    ((s.loseLine (l, bs)).context (s.ownerTag (l * 64))).en = false
    ∧ ((s.loseLine (l, bs)).context (s.ownerTag (l * 64))).ranges = [] := by
  have hon : ((s.lineStands (l, bs)).context (s.ownerTag (l * 64))).en = true := h
  rw [State.loseLine_eq, State.ruinContext, if_pos hon, State.context_record]
  exact State.endContext_context _ _

end

/-- A forced fence ends a copy that has a granule left to move at the homes of its die. -/
def State.cutCopy (s : State) (d : Nat) (x : CopyCmd) : CopyCmd := if s.copyCrosses d x then { x with status := 6 } else x

theorem State.loseCopies_copy {s : State} {c k : Nat} {x : CopyCmd} (d : Nat) (h : (s.core c).copies.get? k = some x) :
    ((s.loseCopies d).core c).copies.get? k = some (s.cutCopy d x) := by
  have hcore : ((s.loseCopies d).core c).copies
      = (s.core c).copies.map fun y => if s.copyCrosses d y.2 then (y.1, { y.2 with status := 6 }) else y := by
    unfold State.core State.loseCopies Table.get
    dsimp only
    rw [Table.get?_map]
    · cases s.cores.get? c with
      | none => rfl
      | some _ => rfl
    · exact fun _ => rfl
  rw [hcore, Table.get?_map, h, Option.map_some, State.cutCopy]
  · split <;> rfl
  · exact fun _ => by split <;> rfl

/-! ## The reset and the rejoin of a die (R180, R347) -/

theorem exec_dieRejoin (d : Nat) (s : State) : exec (.dieRejoin d) s = execDieRejoin d s := rfl

theorem exec_remoteDataCacheClearEnd (s : State) : exec .remoteDataCacheClearEnd s = execRemoteDataCacheClearEnd s := rfl

section

variable {s : State} {d : Nat}

theorem exec_dieRejoin_of_fenced (h : (s.die d).phase = .fenced) : exec (.dieRejoin d) s = .next (s.resetDie d) := by
  simp only [exec_dieRejoin, execDieRejoin, h]

theorem exec_dieRejoin_of_altered (h : (s.die d).phase = .reset) (ha : s.dev.altered.contains d = true) :
    exec (.dieRejoin d) s = .next (s.deviceReset d) := by
  simp only [exec_dieRejoin, execDieRejoin, h, ha, if_true]

theorem exec_dieRejoin_of_reset (h : (s.die d).phase = .reset) (ha : s.dev.altered.contains d = false) :
    exec (.dieRejoin d) s = .next (s.raiseDgen.clearCaches.setDie d
      { s.raiseDgen.clearCaches.die d with phase := .rejoining, clkBase := s.raiseDgen.clearCaches.ctrl.now }) := by
  simp only [exec_dieRejoin, execDieRejoin, h, ha, Bool.false_eq_true, if_false]

theorem State.raiseDgen_ctrl (s : State) : s.raiseDgen.ctrl = s.ctrl := by
  unfold State.raiseDgen
  split
  · rfl
  · rfl

theorem exec_dieRejoin_of_rejoining (h : (s.die d).phase = .rejoining) (hclear : (s.die d).clearing = false) :
    exec (.dieRejoin d) s = .next ((s.setDie d { s.die d with phase := .running }).irq none 0) := by
  simp only [exec_dieRejoin, execDieRejoin, h, hclear, Bool.false_eq_true, if_false]

theorem exec_dieRejoin_of_running_or_held (h : (s.die d).phase = .running ∨ (s.die d).phase = .held) :
    exec (.dieRejoin d) s = .next s := by
  rcases h with h | h
  · simp only [exec_dieRejoin, execDieRejoin, h]
  · simp only [exec_dieRejoin, execDieRejoin, h]

/-- The die after its reset. -/
theorem State.resetDie_die (s : State) (d : Nat) :
    (s.resetDie d).die d = { s.die d with phase := .reset, epoch := (s.die d).epoch + 1, rdc := [], scrub := 0, scrubQ := [] } :=
  State.die_setDie (s.withoutDamage (s.resetUnit d)) d _

/-- A core of the die after its reset: it keeps only what the PF has set. -/
theorem State.resetDie_core {c : Nat} (hc : dieOfCore c = d) :
    (s.resetDie d).core c = { reserved := (s.core c).reserved, retired := (s.core c).retired } := by
  unfold State.core State.resetDie Table.get
  dsimp only
  rw [Table.get?_map]
  · simp only [hc, beq_self_eq_true, if_true, State.setDie_cores, State.withoutDamage]
    cases s.cores.get? c with
    | none => rfl
    | some _ => rfl
  · exact fun _ => by split <;> rfl

/-- The clear of a die's remote-data cache ends where its time has come. -/
def State.endClear (s : State) (d : Nat) : State :=
  if (s.die d).clearing && decide ((s.die d).clearEnd ≤ s.ctrl.now) then s.setDie d { s.die d with clearing := false } else s

theorem exec_remoteDataCacheClearEnd_eq (s : State) : exec .remoteDataCacheClearEnd s = .next ((s.endClear 0).endClear 1) := rfl

theorem State.endClear_mem (s : State) (d : Nat) : (s.endClear d).mem = s.mem := by
  unfold State.endClear
  split
  · rfl
  · rfl

theorem State.endClear_ctrl (s : State) (d : Nat) : (s.endClear d).ctrl = s.ctrl := by
  unfold State.endClear
  split
  · rfl
  · rfl

theorem State.die_endClear_ne (s : State) {d e : Nat} (h : e ≠ d) : (s.endClear d).die e = s.die e := by
  unfold State.endClear
  split
  · exact State.die_setDie_ne s h _
  · rfl

theorem State.die_endClear_of_due (hclear : (s.die d).clearing = true) (hend : (s.die d).clearEnd ≤ s.ctrl.now) :
    ((s.endClear d).die d).clearing = false := by
  rw [State.endClear, if_pos (by simp [hclear, hend]), State.die_setDie]

/-- Each die whose clear has come to its end is no longer clearing. -/
theorem State.die_endClears (hd : d < 2) (hclear : (s.die d).clearing = true) (hend : (s.die d).clearEnd ≤ s.ctrl.now) :
    (((s.endClear 0).endClear 1).die d).clearing = false := by
  obtain rfl | rfl : d = 0 ∨ d = 1 := by omega
  · rw [State.die_endClear_ne _ Nat.zero_ne_one]
    exact State.die_endClear_of_due hclear hend
  · have hdie : (s.endClear 0).die 1 = s.die 1 := s.die_endClear_ne Nat.one_ne_zero
    exact State.die_endClear_of_due (hdie ▸ hclear) (hdie ▸ s.endClear_ctrl 0 ▸ hend)

end

/-! ## The scrubber and leases (R310, R350, R351) -/

theorem exec_scrubRead (d : Nat) (s : State) : exec (.scrubRead d) s = execScrubRead d s := rfl
theorem exec_scrubWriteback (d : Nat) (s : State) : exec (.scrubWriteback d) s = execScrubWriteback d s := rfl
theorem exec_leaseExpiry (c i : Nat) (s : State) : exec (.leaseExpiry c i) s = execLeaseExpiry c i s := rfl

section

variable {s : State}

theorem exec_scrubRead_of_sound {d : Nat} (hrun : (s.die d).phase = .running) (hsound : s.dev.damage = []) :
    exec (.scrubRead d) s = .next (s.setDie d { s.die d with scrub := ((s.die d).scrub + 1) % (288 * 10 ^ 9 / 64) }) := by
  simp [exec_scrubRead, execScrubRead, hrun, hsound, hbmLines, State.correctRead]

theorem State.repair_damage (s : State) (us : List (Nat × Nat)) {u : Nat × Nat} (hu : u ∈ us) : u ∉ (s.repair us).dev.damage := by
  unfold State.repair
  split
  · next h => rw [List.isEmpty_iff.mp h]; exact List.not_mem_nil
  · simp [hu]

theorem State.repair_keeps (s : State) (us : List (Nat × Nat)) : (s.repair us).mem = s.mem ∧ (s.repair us).dev.dies = s.dev.dies := by
  unfold State.repair
  split
  · exact ⟨rfl, rfl⟩
  · exact ⟨rfl, rfl⟩

theorem exec_scrubWriteback_of_queued {d q : Nat} {r : List Nat} (h : (s.die d).scrubQ = q :: r) :
    exec (.scrubWriteback d) s = .next ((s.setDie d { s.die d with scrubQ := r }).repair [(0x111, q)]) := by
  simp only [exec_scrubWriteback, execScrubWriteback, h]

theorem exec_leaseExpiry_of_core {c i : Nat} {e : TlbEntry} (hc : c < 240) (he : (s.core c).leases[i]? = some e)
    (hend : e.expires ≤ s.ctrl.time) :
    exec (.leaseExpiry c i) s = .next (s.setCore c { s.core c with leases := (s.core c).leases.eraseIdx i }) := by
  simp only [exec_leaseExpiry, execLeaseExpiry, hc, he, hend, if_true]

theorem exec_leaseExpiry_of_ingress {c i : Nat} {e : TlbEntry} (hc : 240 ≤ c) (he : s.dev.ingress[i]? = some e)
    (hend : e.expires ≤ s.ctrl.time) :
    exec (.leaseExpiry c i) s = .next { s with dev := { s.dev with ingress := s.dev.ingress.eraseIdx i } } := by
  simp only [exec_leaseExpiry, execLeaseExpiry, Nat.not_lt.mpr hc, he, hend, if_true, if_false]

end

/-! ## The fettler (R354 to R357) -/

theorem exec_fettlerReplayStart (f : Nat) (s : State) : exec (.fettlerReplayStart f) s = execFettlerReplayStart f s := rfl
theorem exec_fettlerSkip (f : Nat) (s : State) : exec (.fettlerSkip f) s = execFettlerSkip f s := rfl
theorem exec_replayEnd (f : Nat) (s : State) : exec (.replayEnd f) s = execReplayEnd f s := rfl

theorem State.readRecord_of_sound {s : State} (h : s.dev.damage = []) (r : Nat) : s.readRecord r = s := by
  simp [State.readRecord, h]

section

variable {s : State} {f : Nat} {r : AuditRun}

theorem exec_fettlerReplayStart_of_slots {x : Slots} (hrun : s.auditRun f = some r)
    (hslots : s.auditSlots (s.flask f) r.avoid = some x) (hmade : r.made = false)
    (hen : s.enabled (s.pour (s.flask f).pour).tag = true) (hsound : s.dev.damage = []) :
    exec (.fettlerReplayStart f) s
      = .next (s.startFlask r.key { (s.flask f).audit r.run s.ctrl.now with status := .resident } x) := by
  have hstart : s.startAudit f r x = s.startFlask r.key { (s.flask f).audit r.run s.ctrl.now with status := .resident } x := by
    simp only [State.startAudit, hmade, Bool.false_eq_true, if_false, State.readRecord_of_sound hsound]
    rfl
  simp only [exec_fettlerReplayStart, execFettlerReplayStart, hrun, hen, hslots, hstart, Bool.not_true, Bool.false_eq_true, if_false]

theorem exec_fettlerReplayStart_of_disabled (hen : s.enabled (s.pour (s.flask f).pour).tag = false) :
    exec (.fettlerReplayStart f) s = .next s := by
  rw [exec_fettlerReplayStart, execFettlerReplayStart]
  cases s.auditRun f with
  | none => rfl
  | some r => simp only [hen, Bool.not_false, if_true]

theorem exec_fettlerSkip_of_late (hrun : s.auditRun f = some r) (hslots : s.auditSlots (s.flask f) r.avoid = none)
    (hmade : r.made = false) (hlate : (s.flask f).waitFrom + 2 ^ 24 ≤ s.ctrl.now) :
    exec (.fettlerSkip f) s
      = .next { s.endAudit (s.runKey f .first) with dev := { s.dev with skipped := s.dev.skipped + 1 } } := by
  simp only [exec_fettlerSkip, execFettlerSkip, hrun, hslots, hmade, hlate, Bool.false_eq_true, if_false, decide_true,
    Option.isNone_none, Bool.and_self, if_true]

/-- Two runs have ended and no third has been made: their signatures decide. -/
theorem exec_replayEnd_of_two (hchosen : (s.flask f).chosen = true) (hend : (s.flask (s.runKey f .replay)).status = .retired)
    (hthird : s.flasks.has (s.runKey f .third) = false) :
    exec (.replayEnd f) s = .next (if (s.differing (s.flask f) (s.flask (s.runKey f .replay))).isEmpty then s.endAudit f
      else s.setFlask (s.runKey f .third) ((s.flask f).audit .third s.ctrl.now)) := by
  simp only [exec_replayEnd, execReplayEnd, hchosen, hend, hthird, Bool.not_true, bne_self_eq_false, Bool.or_self,
    Bool.false_eq_true, if_false]

end

end Sys2Proof.Machine

namespace Sys2Proof

open Sys2Proof.Machine

/-- Settles O58: each event is followed through the case that the statement names. The model's own choices here are the
bytes of HBM for a lost dirty line and status 6 of the copies that a forced fence cuts off (log entry 52), the phases of
`DIE_REJOIN` (53), and the mark 0x111 of a sector to be written back (55). -/
theorem recoveryEvents : Obligations.RecoveryEvents := by
  refine ⟨seamFence_eventIs, quiesceDeadline_eventIs, fun s l bs hlen hoff => ?stands, fun s l bs hon => State.context_loseLine hon,
    fun s c k x d hx hcross => ⟨_, State.loseCopies_copy d hx, if_pos hcross⟩, fun s c k x d hx hcross => ?stays,
    fun d s => ⟨exec_dieRejoin_of_fenced, exec_dieRejoin_of_altered, fun h ha => ?resets, fun h hclear => ?rejoins,
      exec_dieRejoin_of_running_or_held⟩,
    fun s d => ?reset, fun s d hd hclear hend => ?clears, fun d s hrun hsound => exec_scrubRead_of_sound hrun hsound,
    fun d s q r hq => ?writesBack, fun c i s e hc he hend => exec_leaseExpiry_of_core hc he hend,
    fun c i s e hc he hend => exec_leaseExpiry_of_ingress hc he hend,
    fun f s r x hrun hslots hmade hen hsound => exec_fettlerReplayStart_of_slots hrun hslots hmade hen hsound,
    fun f s hen => exec_fettlerReplayStart_of_disabled hen,
    fun f s r hrun hslots hmade hlate => ⟨_, exec_fettlerSkip_of_late hrun hslots hmade hlate, rfl⟩,
    fun f s hchosen hend hthird => ?judges⟩
  case stands =>
    rw [State.loseLine_of_disabled hoff]
    exact State.read_lineStands hlen
  case stays =>
    have hkept : s.cutCopy d x = x := if_neg (hcross ▸ Bool.false_ne_true)
    rw [State.loseCopies_copy d hx, hkept]
  case resets =>
    refine ⟨_, exec_dieRejoin_of_reset h ha, ?_⟩
    rw [State.die_setDie]
    exact ⟨rfl, congrArg Ctrl.now s.raiseDgen_ctrl⟩
  case rejoins =>
    refine ⟨_, exec_dieRejoin_of_rejoining h hclear, ?_⟩
    rw [State.die_irq, State.die_setDie]
  case reset =>
    rw [State.resetDie_die]
    refine ⟨rfl, rfl, rfl, rfl, fun c hc => ?_⟩
    rw [State.resetDie_core hc]
    exact ⟨rfl, rfl, rfl, rfl⟩
  case clears =>
    refine ⟨_, exec_remoteDataCacheClearEnd_eq s, State.die_endClears hd hclear hend, ?_⟩
    rw [State.endClear_mem, State.endClear_mem]
  case writesBack =>
    obtain ⟨hmem, hdies⟩ := (s.setDie d { s.die d with scrubQ := r }).repair_keeps [(0x111, q)]
    refine ⟨_, exec_scrubWriteback_of_queued hq, ?_, State.repair_damage _ _ (List.mem_singleton_self _), hmem⟩
    rw [State.die, hdies]
    exact congrArg Die.scrubQ (s.die_setDie d _)
  case judges =>
    refine ⟨fun h => ?_, fun h => ⟨_, (exec_replayEnd_of_two hchosen hend hthird).trans
      (congrArg _ (if_neg (mt List.isEmpty_iff.mp h))), ?_⟩⟩
    · rw [exec_replayEnd_of_two hchosen hend hthird, h]
      rfl
    · rw [State.flask_setFlask]
      exact ⟨rfl, rfl⟩

end Sys2Proof

end

section

/-!
# A store that overlaps itself

The statement on global stores speaks of every state, also of one whose TLB maps two neighbouring pages of a context
to places that overlap. There one lane's store of eight bytes, across the border of the two pages, reaches a place twice:
its combined store keeps the later byte, and the earlier one is nowhere on its way.
-/

namespace Sys2Proof.Machine

open Sys2Proof

/-! ## The machine -/

/-- A store of 64 bits that may combine: the pair v4 to the address in the pair v6. -/
def overlapStore : Args GMod := { d := .v 4, a := .v 6, mod := { sz := .b64, rq := .si } }

/-- The pages of addresses 0 and 2^16, at 2^39 and, two bytes below the end of the first, at 2^39 + 65534. -/
def overlapPage (base addr : Nat) : TlbEntry :=
  { tag := 1, base, size := 2 ^ 16, leaf := { addr, r := true, w := true } }

/-- A squad of one lane, with the address 65532 and the value 1 in the upper word of the data. -/
def overlapSquad : Squad :=
  { ctl := { groups := [{ lanes := 1, pc := 0 }] }, rf := { v := [(5 * 32, 1), (6 * 32, 65532)] } }

/-- The machine of the tests with that squad and these pages in the TLB of its core. -/
def overlapState : State :=
  (Tests.mach overlapSquad).setCore 0 { tlb := [overlapPage 0 (2 ^ 39), overlapPage (2 ^ 16) (2 ^ 39 + 65534)] }

/-- The issue of its lane. -/
def overlapIns : Ins := { bid := 0, sq := 0, grp := 0, lanes := 1, pass := 1, pc := 0 }

/-- What the coalescer finds of the store. -/
def overlapCoal : Coal :=
  (overlapState.begin overlapIns).coalesce overlapIns overlapIns.pass (overlapState.globalAddr overlapIns overlapStore.a overlapStore.imm)
    overlapStore.mod.sz.bytes .store

/-- The state after the store. -/
def overlapNext : State := Tests.nextOr (exec (.stg overlapStore) overlapState) overlapState

/-! ## What it does -/

theorem overlapState_prepare :
    overlapState.prepare (headOf overlapStore (.stg overlapStore) false (overlapStore.mod.ord != .relaxed)) = .run overlapIns := by
  decide

theorem overlapState_address : overlapState.globalAddr overlapIns overlapStore.a overlapStore.imm 0 = 65532 := by decide

theorem overlapState_passes :
    globalCause overlapIns (overlapState.globalAddr overlapIns overlapStore.a overlapStore.imm) overlapStore.mod.sz.bytes false = none := by
  decide

theorem overlapCoal_finds :
    overlapCoal.waits = false ∧ overlapCoal.trap = none ∧ overlapCoal.parked = 0 ∧ overlapCoal.absent = []
    ∧ overlapCoal.made overlapIns.pass (overlapState.globalAddr overlapIns overlapStore.a overlapStore.imm)
        overlapStore.mod.sz.bytes = overlapIns.pass := by
  decide

/-- Byte 2 of the store, which is zero, lies in device memory at 2^39 + 65534. -/
theorem overlapCoal_place : overlapCoal.place 65534 = (.device, 2 ^ 39 + 65534) := by decide

theorem overlapNext_reqs : overlapNext.homes.reqs.isEmpty = true := by decide

/-- The combined stores hold byte 4 of the store, which is one, at that place. -/
theorem overlapNext_combine :
    ((overlapNext.squad 0 0).combine.all fun c => c.bytes.get? (2 ^ 39 + 65534 - c.line * 64) == some 1) = true := by
  decide

theorem overlapNext_of_exec {t : State} (h : exec (.stg overlapStore) overlapState = .next t) : t = overlapNext := by
  rw [overlapNext, h]
  rfl

/-- Byte 2 of the lane is on its way nowhere, and no higher lane stores to its place. -/
theorem overlapNext_not_storesGo (joins : Bool) :
    ¬overlapNext.storesGo overlapIns overlapCoal.place (overlapState.globalAddr overlapIns overlapStore.a overlapStore.imm)
      overlapStore.mod.sz.bytes (overlapState.regNat 0 0 overlapStore.d overlapStore.mod.sz.regs) joins := by
  intro hgo
  have hbyte := hgo 0 2 (by decide) (by decide) (by decide)
  rw [overlapState_address, overlapCoal_place] at hbyte
  rcases hbyte with ⟨e, he, -⟩ | ⟨-, c, hc, -, -, hget⟩ | ⟨j, l, hj, hj32, hpass, -⟩
  · exact absurd he (List.isEmpty_iff.mp overlapNext_reqs ▸ List.not_mem_nil)
  · have hone := List.all_eq_true.mp overlapNext_combine c hc
    rw [beq_iff_eq.mp hone] at hget
    exact absurd (Option.some.inj hget) (by decide)
  · have honly : ∀ j, j < 32 → 0 < j → overlapIns.pass.getLsbD j = false := by decide
    rw [honly j hj32 hj] at hpass
    cases hpass

end Sys2Proof.Machine

namespace Sys2Proof

open Sys2Proof.Machine

/-- Refutes O38: a core's TLB that maps two neighbouring pages to overlapping places, which the statement does not exclude,
lets a lane's store of eight bytes reach one place with two of its bytes; the combined store of the lane and line (R171)
keeps the later one, and the earlier one is in no request and no combined store. No walk puts such a page into a TLB:
R303 aligns the address of a leaf to its page. -/
theorem not_globalStoreSends : ¬Obligations.GlobalStoreSends := by
  intro h
  obtain ⟨hwaits, htrap, hparked, habsent, hmade⟩ := overlapCoal_finds
  obtain ⟨t, hexec, -, -, -, -, hgo⟩ := h overlapStore overlapState overlapIns overlapState_prepare rfl overlapState_passes
    hwaits htrap hparked habsent hmade
  rw [overlapNext_of_exec hexec] at hgo
  exact overlapNext_not_storesGo _ hgo

end Sys2Proof

end

section

/-!
# Requests of the host

A doorbell, an access through BAR2 and a request to arm a sprue are taken up by one operation: it puts a request behind
those of its function that wait, and otherwise tries it, and holds it where the try has to wait.
-/

namespace Sys2Proof.Machine

open Sys2Proof

theorem exec_doorbell (n q : Nat) (d w : DWord) (s : State) : exec (.doorbell n q d w) s = execDoorbell n q d w s := rfl
theorem exec_bar2Access (n ofs : Nat) (write : Option (List Byte)) (len : Nat) (s : State) :
    exec (.bar2Access n ofs write len) s = execBar2Access n ofs write len s := rfl
theorem exec_sparmreq (n : Nat) (d w : DWord) (s : State) : exec (.sparmreq n d w) s = execSparmreq n d w s := rfl

/-! ## Requests that wait (R365, R378) -/

/-- A request put behind those that wait. -/
def State.hostHolds (s : State) (r : HostReq) : State := { s with dev := { s.dev with hostHeld := s.dev.hostHeld ++ [r] } }

section

variable {s : State} {r : HostReq}

theorem State.hostAccept_of_behind (h : ∃ e ∈ s.dev.hostHeld, e.tenant = r.tenant) : s.hostAccept r = s.hostHolds r :=
  if_pos (List.any_eq_true.mpr (by simpa only [beq_iff_eq] using h))

theorem State.hostAccept_of_first (h : ∀ e ∈ s.dev.hostHeld, e.tenant ≠ r.tenant) :
    s.hostAccept r = (s.hostTry r).getD (s.hostHolds r) :=
  if_neg (by simpa only [List.any_eq_true, beq_iff_eq, not_exists, not_and] using h)

theorem State.hostAccept_of_done {t : State} (h : ∀ e ∈ s.dev.hostHeld, e.tenant ≠ r.tenant) (ht : s.hostTry r = some t) :
    s.hostAccept r = t := by
  rw [State.hostAccept_of_first h, ht, Option.getD_some]

theorem State.hostAccept_of_wait (h : ∀ e ∈ s.dev.hostHeld, e.tenant ≠ r.tenant) (ht : s.hostTry r = none) :
    s.hostAccept r = s.hostHolds r := by
  rw [State.hostAccept_of_first h, ht, Option.getD_none]

end

theorem State.lt_of_vf {s : State} {n : Nat} (h : s.vf n = true) : n < 64 := by
  simp only [State.vf, Bool.and_eq_true, decide_eq_true_eq] at h
  exact h.1.2

/-! ## Doorbells (R365) -/

section

variable {s : State} {n q : Nat} {d w : DWord}

theorem exec_doorbell_of_ignored (h : s.vf n = false ∨ 16 ≤ q) : exec (.doorbell n q d w) s = .next s :=
  congrArg _ (if_pos (by simpa using h))

theorem exec_doorbell_of_vf (hvf : s.vf n = true) (hq : q < 16) :
    exec (.doorbell n q d w) s = .next (s.hostAccept (.doorbell n q d w)) :=
  congrArg _ (if_neg (by simp [hvf, hq]))

theorem State.hostTry_doorbell (s : State) (n q : Nat) (d w : DWord) : s.hostTry (.doorbell n q d w)
    = (s.ring n q d w).map fun e => e.1.setTenant n { e.1.tenant n with results := (e.1.tenant n).results.put q e.2 } := rfl

theorem exec_doorbell_of_behind (hvf : s.vf n = true) (hq : q < 16) (hbehind : ∃ e ∈ s.dev.hostHeld, e.tenant = n) :
    exec (.doorbell n q d w) s = .next (s.hostHolds (.doorbell n q d w)) := by
  rw [exec_doorbell_of_vf hvf hq, State.hostAccept_of_behind hbehind]

theorem exec_doorbell_of_ring {t : State} {r : Word} (hvf : s.vf n = true) (hq : q < 16)
    (hfirst : ∀ e ∈ s.dev.hostHeld, e.tenant ≠ n) (hring : s.ring n q d w = some (t, r)) :
    exec (.doorbell n q d w) s = .next (t.setTenant n { t.tenant n with results := (t.tenant n).results.put q r }) := by
  rw [exec_doorbell_of_vf hvf hq, State.hostAccept_of_done hfirst (by rw [State.hostTry_doorbell, hring, Option.map_some])]

theorem exec_doorbell_of_ring_waits (hvf : s.vf n = true) (hq : q < 16) (hfirst : ∀ e ∈ s.dev.hostHeld, e.tenant ≠ n)
    (hring : s.ring n q d w = none) : exec (.doorbell n q d w) s = .next (s.hostHolds (.doorbell n q d w)) := by
  rw [exec_doorbell_of_vf hvf hq, State.hostAccept_of_wait hfirst (by rw [State.hostTry_doorbell, hring, Option.map_none])]

theorem State.ring_of_unnamed (h : s.namesContext n w = false) : s.ring n q d w = some (s, 0x80000006) := by
  rw [State.ring, h]
  rfl

theorem State.ring_of_misaligned (h : s.namesContext n w = true) (hd : d.toNat % 128 ≠ 0) :
    s.ring n q d w = some (s, 0x80000002) := by
  rw [State.ring, h, if_neg (by simp), if_pos hd]

end

/-! ## BAR2 (R361, R366) -/

section

variable {s : State} {n ofs len : Nat} {write : Option (List Byte)}

theorem exec_bar2Access_of_beyond (h : s.bar2Size n < ofs + bar2Bytes write len) :
    exec (.bar2Access n ofs write len) s = .next (s.bar2Answer write len .abort) :=
  congrArg _ (if_pos h)

theorem exec_bar2Access_of_absent (hn : n ≠ 64) (hvf : s.vf n = false) :
    exec (.bar2Access n ofs write len) s = .next (s.bar2Answer write len .abort) := by
  rw [exec_bar2Access, execBar2Access, if_neg hn, hvf, if_neg Bool.false_ne_true, ite_self]

theorem exec_bar2Access_of_pf (hfit : ofs + bar2Bytes write len ≤ s.bar2Size 64) :
    exec (.bar2Access 64 ofs write len) s
      = .next (s.bar2Answer write len (if s.vfs then .bytes (List.replicate len 0) else .abort)) := by
  rw [exec_bar2Access, execBar2Access, if_neg (Nat.not_lt.mpr hfit), if_pos rfl]

theorem exec_bar2Access_of_pf_read (hvfs : s.vfs = true) (hfit : ofs + len ≤ s.bar2Size 64) :
    exec (.bar2Access 64 ofs none len) s = .next (s.hostReturns (List.replicate len 0)) := by
  rw [exec_bar2Access_of_pf (write := none) hfit, if_pos hvfs]
  rfl

theorem exec_bar2Access_of_no_vfs (hvfs : s.vfs = false) :
    exec (.bar2Access 64 ofs none len) s = .next (s.bar2Answer none len .abort) := by
  rcases Nat.lt_or_ge (s.bar2Size 64) (ofs + bar2Bytes none len) with hbeyond | hfit
  · exact exec_bar2Access_of_beyond hbeyond
  · rw [exec_bar2Access_of_pf hfit, hvfs, if_neg Bool.false_ne_true]

/-- The PF ignores writes through its BAR2. -/
theorem exec_bar2Access_of_pf_write (bs : List Byte) : exec (.bar2Access 64 ofs (some bs) len) s = .next s := by
  rcases Nat.lt_or_ge (s.bar2Size 64) (ofs + bar2Bytes (some bs) len) with hbeyond | hfit
  · exact exec_bar2Access_of_beyond hbeyond
  · exact exec_bar2Access_of_pf hfit

section

variable (hvf : s.vf n = true)
include hvf

theorem exec_bar2Access_of_vf (hfit : ofs + bar2Bytes write len ≤ s.bar2Size n) :
    exec (.bar2Access n ofs write len) s = .next (s.hostAccept (.bar2 n (s.tenant n).aperture ofs write len)) := by
  have hlt := State.lt_of_vf hvf
  rw [exec_bar2Access, execBar2Access, if_neg (Nat.not_lt.mpr hfit), if_neg (by omega), if_pos hvf]

variable (hfirst : ∀ e ∈ s.dev.hostHeld, e.tenant ≠ n)
include hfirst

theorem exec_bar2Access_of_answer {t : State} {a : PeerAnswer} (hfit : ofs + bar2Bytes write len ≤ s.bar2Size n)
    (h : s.throughAperture n (s.tenant n).aperture ofs write len = (t, .answer a)) :
    exec (.bar2Access n ofs write len) s = .next (t.bar2Answer write len a) := by
  have htry : s.hostTry (.bar2 n (s.tenant n).aperture ofs write len) = some (t.bar2Answer write len a) := by
    simp only [State.hostTry, h]
  rw [exec_bar2Access_of_vf hvf hfit, State.hostAccept_of_done hfirst htry]

theorem exec_bar2Access_of_held {t : State} {fs : List Nat} (hfit : ofs + bar2Bytes write len ≤ s.bar2Size n)
    (h : s.throughAperture n (s.tenant n).aperture ofs write len = (t, .held fs)) :
    exec (.bar2Access n ofs write len) s = .next (s.hostHolds (.bar2 n (s.tenant n).aperture ofs write len)) := by
  have htry : s.hostTry (.bar2 n (s.tenant n).aperture ofs write len) = none := by
    simp only [State.hostTry, h]
  rw [exec_bar2Access_of_vf hvf hfit, State.hostAccept_of_wait hfirst htry]

/-- An aperture that names no context of the tenant reaches nothing. -/
theorem exec_bar2Access_of_unnamed (h : s.namesContext n (BitVec.ofNat 64 ((s.tenant n).aperture % 256)) = false) :
    exec (.bar2Access n ofs write len) s = .next (s.bar2Answer write len .abort) := by
  rcases Nat.lt_or_ge (s.bar2Size n) (ofs + bar2Bytes write len) with hbeyond | hfit
  · exact exec_bar2Access_of_beyond hbeyond
  · exact exec_bar2Access_of_answer hvf hfirst hfit (if_neg (h ▸ Bool.false_ne_true))

end

section

variable {ap : Nat} (h : s.namesContext n (BitVec.ofNat 64 (ap % 256)) = true)
include h

theorem State.throughAperture_read :
    s.throughAperture n ap ofs none len = s.hostAccess (ap % 256) (fieldBits ap 56 30 * 2 ^ 30 + ofs) (.read len) :=
  if_pos h

theorem State.throughAperture_write (bs : List Byte) : s.throughAperture n ap ofs (some bs) len
    = s.hostAccess (ap % 256) (fieldBits ap 56 30 * 2 ^ 30 + ofs) (.write bs false false) :=
  if_pos h

end

end

/-! ## Sprues (R378) -/

section

variable {s : State} {n : Nat} {d w : DWord}

theorem exec_sparmreq_of_no_vf (h : s.vf n = false) : exec (.sparmreq n d w) s = .next s :=
  congrArg _ (if_neg (h ▸ Bool.false_ne_true))

theorem exec_sparmreq_of_vf (h : s.vf n = true) : exec (.sparmreq n d w) s = .next (s.hostAccept (.sparmreq n d w)) :=
  congrArg _ (if_pos h)

theorem State.hostTry_sparmreq (s : State) (n : Nat) (d w : DWord) : s.hostTry (.sparmreq n d w)
    = (s.armRequest n d w).map fun e => e.1.setTenant n { e.1.tenant n with spRes := e.2 } := rfl

theorem exec_sparmreq_of_arm {t : State} {r : Word} (hvf : s.vf n = true) (hfirst : ∀ e ∈ s.dev.hostHeld, e.tenant ≠ n)
    (harm : s.armRequest n d w = some (t, r)) :
    exec (.sparmreq n d w) s = .next (t.setTenant n { t.tenant n with spRes := r }) := by
  rw [exec_sparmreq_of_vf hvf, State.hostAccept_of_done hfirst (by rw [State.hostTry_sparmreq, harm, Option.map_some])]

theorem exec_sparmreq_of_arm_waits (hvf : s.vf n = true) (hfirst : ∀ e ∈ s.dev.hostHeld, e.tenant ≠ n)
    (harm : s.armRequest n d w = none) : exec (.sparmreq n d w) s = .next (s.hostHolds (.sparmreq n d w)) := by
  rw [exec_sparmreq_of_vf hvf, State.hostAccept_of_wait hfirst (by rw [State.hostTry_sparmreq, harm, Option.map_none])]

theorem State.armRequest_of_unnamed (h : s.namesContext n w = false) : s.armRequest n d w = some (s, 0x80000006) := by
  rw [State.armRequest, h]
  rfl

theorem State.armRequest_of_misaligned (h : s.namesContext n w = true) (hd : d.toNat % 64 ≠ 0) :
    s.armRequest n d w = some (s, 0x80000002) := by
  rw [State.armRequest, h, if_neg (by simp), if_pos hd]

theorem State.armRequest_of_bytes (h : s.namesContext n w = true) (hd : d.toNat % 64 = 0) {p bs ld : List Byte} {i : Image}
    (hread : s.readSprue none (w.toNat % 256) d.toNat = (.bytes p, bs, ld, i)) :
    s.armRequest n d w
      = some ((s.readsMade none (w.toNat % 256) (sprueReads d.toNat bs i)).armSprue (w.toNat % 256) bs ld i) := by
  rw [State.armRequest, h, if_neg (by simp), if_neg (not_not.mpr hd), hread]

end

end Sys2Proof.Machine

end

section

/-!
# Registers that the host writes

A write of a register is judged on the fields of its value, and then puts them into the state, or changes nothing. A
read of a register returns its bytes: the registers of a function follow one another, so that every byte of one is found
in it.
-/

namespace Sys2Proof.Machine

open Sys2Proof

/-- An event that acts where no test refuses it acts where the condition that the test excludes holds. -/
theorem eventIs_of_refusal {ev : Instr} {test cond : State → Prop} [DecidablePred test] {eff : State → State}
    (hexec : ∀ s, exec ev s = .next (if test s then s else eff s)) (htest : ∀ s, ¬test s ↔ cond s) : EventIs ev cond eff := by
  refine eventIs_of_ite (test := fun s => ¬test s) (fun s => ?_) htest
  rw [hexec, ite_not]

/-! ## Queues, tenants and contexts (R265, R296, R297) -/

theorem exec_launchQueueConfigWrite (n q : Nat) (v : BitVec 512) (s : State) :
    exec (.launchQueueConfigWrite n q v) s = execLaunchQueueConfigWrite n q v s := rfl
theorem exec_tenantWordWrite (n : Nat) (v : DWord) (s : State) :
    exec (.tenantWordWrite n v) s = execTenantWordWrite n v s := rfl
theorem exec_contextEntryWrite (tag : Nat) (v : BitVec 128) (s : State) :
    exec (.contextEntryWrite tag v) s = execContextEntryWrite tag v s := rfl
theorem exec_contextKeyLoaded (tag : Nat) (s : State) : exec (.contextKeyLoaded tag) s = execContextKeyLoaded tag s := rfl

/-- A queue with the fields of a configuration block (R265). -/
def State.configured (s : State) (old : Queue) (v : BitVec 512) : Queue :=
  { old with
    en := v.toNat.testBit 255, cls := fieldBits v.toNat 249 248, depthM1 := fieldBits v.toNat 247 240
    ovfBase := fieldBits v.toNat 312 256, ovfQuota := fieldBits v.toNat 351 336
    mask := v.setWidth 240 &&& coreMask fun c => !(s.core c).retired }

/-- Whether R265 lets a configuration block be written. -/
def State.configLegal (s : State) (n q : Nat) (v : BitVec 512) : Prop :=
  let old := (s.tenant n).queues.get q {}
  let same := fieldBits v.toNat 249 248 = old.cls ∧ fieldBits v.toNat 247 240 = old.depthM1
    ∧ fieldBits v.toNat 312 256 = old.ovfBase ∧ fieldBits v.toNat 351 336 = old.ovfQuota
  s.vf n = true ∧ q < (s.tenant n).nq ∧ (fieldBits v.toNat 249 248 ≠ 0 ∨ (s.tenant n).urt = true)
    ∧ fieldBits v.toNat 312 256 % 4096 = 0 ∧ (old.locked = false ∨ same)

theorem launchQueueConfigWrite_eventIs (n q : Nat) (v : BitVec 512) :
    EventIs (.launchQueueConfigWrite n q v) (fun s => s.configLegal n q v) fun s =>
      s.setTenant n { s.tenant n with
        queues := (s.tenant n).queues.put q (s.configured ((s.tenant n).queues.get q {}) v) } := by
  refine eventIs_of_refusal (exec_launchQueueConfigWrite n q v) fun s => ?_
  simp only [State.configLegal, Bool.or_eq_true, Bool.and_eq_true, Bool.not_eq_true', decide_eq_true_eq, beq_iff_eq, bne_iff_ne]
  grind

theorem tenantWordWrite_eventIs (n : Nat) (v : DWord) :
    EventIs (.tenantWordWrite n v)
      (fun s => n < 64 ∧ fieldBits v.toNat 52 44 ≤ 256 ∧ fieldBits v.toNat 43 37 ≤ 64
        ∧ (fieldBits v.toNat 36 30 = 0 ∨ 4 ≤ fieldBits v.toNat 36 30) ∧ fieldBits v.toNat 36 30 ≤ 64
        ∧ fieldBits v.toNat 29 25 ≤ 16
        ∧ ((s.tenant n).en = false ∨ (v.toNat.testBit 62 = (s.tenant n).urt ∧ fieldBits v.toNat 52 44 = (s.tenant n).nwin
            ∧ fieldBits v.toNat 43 37 = (s.tenant n).ninb ∧ fieldBits v.toNat 36 30 = (s.tenant n).nvec
            ∧ fieldBits v.toNat 29 25 = (s.tenant n).nq ∧ fieldBits v.toNat 24 9 = (s.tenant n).nsave)))
      fun s => s.setTenant n { s.tenant n with
        en := v.toNat.testBit 63, urt := v.toNat.testBit 62, nwin := fieldBits v.toNat 52 44, ninb := fieldBits v.toNat 43 37
        nvec := fieldBits v.toNat 36 30, nq := fieldBits v.toNat 29 25, nsave := fieldBits v.toNat 24 9 } := by
  refine eventIs_of_refusal (exec_tenantWordWrite n v) fun s => ?_
  simp only [Bool.or_eq_true, Bool.and_eq_true, Bool.not_eq_true', decide_eq_true_eq, decide_eq_false_iff_not]
  grind

/-- Whether R297 and R314 let a context's entry be written. -/
def State.entryLegal (s : State) (tag : Nat) (v : BitVec 128) : Prop :=
  let c := s.context tag
  let used := c.en = true ∨ c.loading = true
  0 < tag ∧ tag < 256 ∧ (s.tenant (fieldBits v.toNat 125 120)).en = true ∧ fieldBits v.toNat 115 64 % 4096 = 0
    ∧ (used → v.toNat.testBit 126 = c.priv ∧ fieldBits v.toNat 125 120 = c.tenant)
    ∧ (v.toNat.testBit 127 = true → c.stale = [])

/-- What a write of a context's entry that is let through does: an entry that is enabled anew begins to load its key, and
an enabled one that is disabled ends its context. -/
def State.entryWritten (s : State) (tag : Nat) (v : BitVec 128) : State :=
  let c := s.context tag
  let en := v.toNat.testBit 127
  let priv := v.toNat.testBit 126
  let tenant := fieldBits v.toNat 125 120
  let root := fieldBits v.toNat 115 64
  if en && !c.en && !c.loading then
    (s.clearTlbs tag).setContext tag { priv, tenant, root, loading := true, hentry := c.hentry }
  else
    let s := if c.en && !en then s.endContext tag else s
    s.setContext tag { s.context tag with loading := c.loading && en, priv, tenant, root }

theorem contextEntryWrite_eventIs (tag : Nat) (v : BitVec 128) :
    EventIs (.contextEntryWrite tag v) (fun s => s.entryLegal tag v) fun s => s.entryWritten tag v := by
  refine eventIs_of_refusal (exec_contextEntryWrite tag v) fun s => ?_
  simp only [State.entryLegal, Bool.or_eq_true, Bool.and_eq_true, Bool.not_eq_true', decide_eq_true_eq, bne_iff_ne,
    List.isEmpty_eq_false_iff]
  grind

section

variable {s : State} {tag : Nat} {v : BitVec 128}

theorem State.entryWritten_of_new (hen : v.toNat.testBit 127 = true)
    (hused : ¬((s.context tag).en = true ∨ (s.context tag).loading = true)) :
    s.entryWritten tag v = (s.clearTlbs tag).setContext tag
      { priv := v.toNat.testBit 126, tenant := fieldBits v.toNat 125 120, root := fieldBits v.toNat 115 64, loading := true
        hentry := (s.context tag).hentry } := by
  rw [State.entryWritten, if_pos (by simpa [hen] using hused)]

/-- The entry of a context in use keeps its privilege and tenant, and takes the new root. -/
theorem State.entryWritten_of_used (hlegal : s.entryLegal tag v) (hen : v.toNat.testBit 127 = true)
    (hused : (s.context tag).en = true ∨ (s.context tag).loading = true) :
    s.entryWritten tag v = s.setContext tag { s.context tag with root := fieldBits v.toNat 115 64 } := by
  obtain ⟨-, -, -, -, hkept, -⟩ := hlegal
  obtain ⟨hpriv, htenant⟩ := hkept hused
  have hnew : ¬(v.toNat.testBit 127 && !(s.context tag).en && !(s.context tag).loading) = true := by
    rcases hused with h | h
    · simp [h]
    · simp [h]
  rw [State.entryWritten, if_neg hnew]
  simp only [hen, hpriv, htenant, Bool.not_true, Bool.and_false, Bool.false_eq_true, if_false, Bool.and_true]

theorem State.entryWritten_of_off (hen : v.toNat.testBit 127 = false) :
    ((s.entryWritten tag v).context tag).en = false ∧ ((s.entryWritten tag v).context tag).loading = false
    ∧ ((s.context tag).en = true → ((s.entryWritten tag v).context tag).ranges = []) := by
  rw [State.entryWritten, if_neg (by simp [hen])]
  simp only [hen, Bool.and_false, Bool.not_false, Bool.and_true, State.context_setContext]
  cases hon : (s.context tag).en with
  | false => exact ⟨hon, trivial, fun h => nomatch h⟩
  | true =>
    obtain ⟨hoff, hranges⟩ := s.endContext_context tag
    exact ⟨hoff, trivial, fun _ => hranges⟩

end

theorem contextKeyLoaded_eventIs (k : Nat) :
    EventIs (.contextKeyLoaded k) (fun s => (s.context k).loading = true)
      fun s => s.setContext k { s.context k with en := true, loading := false, tables := [(0, .map3)], dtsel := 0 } :=
  eventIs_of_ite (exec_contextKeyLoaded k) fun _ => Iff.rfl

/-! ## Registers of the device (R352, R364) -/

theorem exec_fabcfgWrite (v : DWord) (s : State) : exec (.fabcfgWrite v) s = execFabcfgWrite v s := rfl
theorem exec_memcfgWrite (v : DWord) (s : State) : exec (.memcfgWrite v) s = execMemcfgWrite v s := rfl
theorem exec_linkcfgWrite (v : DWord) (s : State) : exec (.linkcfgWrite v) s = execLinkcfgWrite v s := rfl
theorem exec_contcfgWrite (v : DWord) (s : State) : exec (.contcfgWrite v) s = execContcfgWrite v s := rfl

theorem fabcfgWrite_eventIs (v : DWord) :
    EventIs (.fabcfgWrite v)
      (fun s => (fieldBits v.toNat 57 40 < fieldBits v.toNat 39 22 ∨ fieldBits v.toNat 57 40 - fieldBits v.toNat 39 22 < 1024)
        ∧ (fieldBits v.toNat 17 0 = s.dev.regs.epid ∨ s.portsDown = true))
      fun s => s.setRegs { s.dev.regs with
        podHi := fieldBits v.toNat 57 40, podLo := fieldBits v.toNat 39 22, epid := fieldBits v.toNat 17 0 } := by
  refine eventIs_of_refusal (exec_fabcfgWrite v) fun s => ?_
  simp only [Bool.or_eq_true, Bool.and_eq_true, Bool.not_eq_true', decide_eq_true_eq, bne_iff_ne]
  grind

/-- The registers and remote-data caches after a write of MEMCFG. -/
def State.memcfgWritten (s : State) (lease retryW z0 z1 : Nat) : State :=
  let t := (s.resized 0 z0).resized 1 z1
  let t := { t with dev := { t.dev with leaseMax := t.dev.leaseMax ++ [(t.ctrl.time, s.dev.regs.lease)] } }
  t.setRegs { t.dev.regs with lease, retryW, rdcSz0 := z0, rdcSz1 := z1 }

theorem memcfgWrite_eventIs (v : DWord) :
    EventIs (.memcfgWrite v)
      (fun s => (1 ≤ fieldBits v.toNat 49 40 ∧ fieldBits v.toNat 49 40 ≤ 1000)
        ∧ (1 ≤ fieldBits v.toNat 39 30 ∧ fieldBits v.toNat 39 30 ≤ 100) ∧ s.sizeOk 0 (fieldBits v.toNat 6 0) = true
        ∧ s.sizeOk 1 (fieldBits v.toNat 13 7) = true)
      fun s => s.memcfgWritten (fieldBits v.toNat 49 40) (fieldBits v.toNat 39 30) (fieldBits v.toNat 6 0)
        (fieldBits v.toNat 13 7) := by
  refine eventIs_of_ite (exec_memcfgWrite v) fun s => ?_
  simp only [Bool.and_eq_true, decide_eq_true_eq, and_assoc]

theorem State.resized_keeps (s : State) (d z : Nat) : (s.resized d z).mem = s.mem ∧ (s.resized d z).dev.regs = s.dev.regs := by
  unfold State.resized
  split
  · exact ⟨rfl, rfl⟩
  · exact ⟨rfl, rfl⟩

theorem State.memcfgWritten_keeps (s : State) (lease retryW z0 z1 : Nat) :
    (s.memcfgWritten lease retryW z0 z1).mem = s.mem
    ∧ (s.memcfgWritten lease retryW z0 z1).dev.regs = { s.dev.regs with lease, retryW, rdcSz0 := z0, rdcSz1 := z1 } := by
  obtain ⟨hmem, hregs⟩ := s.resized_keeps 0 z0
  obtain ⟨hmem', hregs'⟩ := (s.resized 0 z0).resized_keeps 1 z1
  exact ⟨hmem'.trans hmem, congrArg (fun g : Regs => { g with lease, retryW, rdcSz0 := z0, rdcSz1 := z1 }) (hregs'.trans hregs)⟩

theorem linkcfgWrite_eventIs (v : DWord) :
    EventIs (.linkcfgWrite v)
      (fun _ => 24 ≤ fieldBits v.toNat 55 50 ∧ fieldBits v.toNat 55 50 ≤ 48 ∧ 1 ≤ fieldBits v.toNat 17 0)
      fun s => s.setRegs { s.dev.regs with rkLog2 := fieldBits v.toNat 55 50, rkSec := fieldBits v.toNat 17 0 } :=
  eventIs_of_ite (exec_linkcfgWrite v) fun _ => Iff.rfl

theorem contcfgWrite_eventIs (v : DWord) :
    EventIs (.contcfgWrite v)
      (fun _ => 1 ≤ fieldBits v.toNat 35 28 ∧ 10 ≤ fieldBits v.toNat 9 0 ∧ fieldBits v.toNat 9 0 ≤ 1000)
      fun s => s.setRegs { s.dev.regs with
        fetEn := v.toNat.testBit 63, ceThr := fieldBits v.toNat 51 36, scrubH := fieldBits v.toNat 35 28
        qdl := fieldBits v.toNat 9 0 } :=
  eventIs_of_refusal (exec_contcfgWrite v) fun _ => by omega

/-! ## The other registers (R306, R307, R325, R363, R366, R375) -/

section

variable {s : State} {v : BitVec 512}

theorem exec_registerWrite_hentry {tag : Nat} (h : 0 < tag) (hlt : tag < 256) :
    exec (.registerWrite (.hentry tag) v) s
      = .next (s.setContext tag { s.context tag with hentry := fieldBits v.toNat 56 6 * 2 ^ 6 }) :=
  congrArg Host.Outcome.next (if_neg (by omega))

theorem exec_registerWrite_hentry_zero : exec (.registerWrite (.hentry 0) v) s = .next s := congrArg Host.Outcome.next (if_pos (.inl rfl))

theorem exec_registerWrite_aperture {n : Nat} (h : s.vf n = true) :
    exec (.registerWrite (.aperture n) v) s
      = .next (s.setTenant n { s.tenant n with aperture := fieldBits v.toNat 56 30 * 2 ^ 30 + v.toNat % 256 }) :=
  congrArg Host.Outcome.next (if_pos h)

theorem exec_registerWrite_aperture_of_no_vf {n : Nat} (h : s.vf n = false) :
    exec (.registerWrite (.aperture n) v) s = .next s :=
  congrArg Host.Outcome.next (if_neg (h ▸ Bool.false_ne_true))

theorem exec_registerWrite_mailboxCmd : exec (.registerWrite .mailboxCmd v) s = .next (s.setCommand v) := rfl

theorem exec_registerWrite_outWindow {n i : Nat} (hn : n < 64) (hi : i < 256) (htag : (outWindowOf v.toNat).ptag ≠ 0) :
    exec (.registerWrite (.outWindow n i) v) s
      = .next (s.setTenant n { s.tenant n with windows := (s.tenant n).windows.put i (outWindowOf v.toNat) }) :=
  congrArg Host.Outcome.next (if_neg (by omega))

theorem exec_registerWrite_outWindow_of_no_tag {n i : Nat} (htag : (outWindowOf v.toNat).ptag = 0) :
    exec (.registerWrite (.outWindow n i) v) s = .next s :=
  congrArg Host.Outcome.next (if_pos (.inr (.inr htag)))

theorem registerWrite_inWindow_eventIs (v : BitVec 512) (tag i : Nat) :
    EventIs (.registerWrite (.inWindow tag i) v)
      (fun s => s.enabled tag = true ∧ (s.context tag).priv = true ∧ i < 64 ∧ (inWindowOf v.toNat).dtag ≠ 0
        ∧ ((s.context (inWindowOf v.toNat).dtag).en = true ∨ (s.context (inWindowOf v.toNat).dtag).loading = true)
        ∧ (s.context (inWindowOf v.toNat).dtag).tenant = (s.context tag).tenant)
      fun s => s.setTenant (s.context tag).tenant { s.tenant (s.context tag).tenant with
        inbound := (s.tenant (s.context tag).tenant).inbound.put i (inWindowOf v.toNat) } := by
  refine eventIs_of_refusal (test := fun s => (!s.enabled tag || !(s.context tag).priv || decide (64 ≤ i)
    || (inWindowOf v.toNat).dtag == 0
    || !((s.context (inWindowOf v.toNat).dtag).en || (s.context (inWindowOf v.toNat).dtag).loading)
    || (s.context (inWindowOf v.toNat).dtag).tenant != (s.context tag).tenant) = true) (fun s => rfl) fun s => ?_
  simp only [Bool.or_eq_true, Bool.not_eq_true', decide_eq_true_eq, beq_iff_eq, bne_iff_ne]
  grind

theorem exec_registerWrite_other_of_none {ofs : Nat} (h : regAt 64 ofs = none) :
    exec (.registerWrite (.other ofs) v) s = .next s := by
  show Host.Outcome.next (match regAt 64 ofs with
    | some r => if r.base = ofs then s.pfWrites r.kind r.ix (v.toNat % 2 ^ (8 * r.width)) else s
    | none => s) = _
  rw [h]

end

/-! ## Reads through BAR0 (R363) -/

/-- The registers of one row end where those of a later row begin, or before. -/
theorem rowsOf_pairwise (fn : Nat) : (rowsOf fn).Pairwise fun a b => a.base + a.count * a.width ≤ b.base := by
  unfold rowsOf
  split
  · decide
  · decide

/-- The bytes from the beginning of a place to its end lie in it, where places of a width follow one another. -/
theorem add_div_of_place {ofs base count width k : Nat} (hin : base ≤ ofs ∧ ofs < base + count * width)
    (hplace : base + (ofs - base) / width * width = ofs) (hk : k < width) :
    ofs + k < base + count * width ∧ (ofs + k - base) / width = (ofs - base) / width := by
  generalize (ofs - base) / width = i at hplace ⊢
  have hi : i < count := Nat.lt_of_mul_lt_mul_right (a := width) (by omega)
  have hend : (i + 1) * width ≤ count * width := Nat.mul_le_mul_right width hi
  rw [Nat.succ_mul] at hend
  refine ⟨by omega, ?_⟩
  rw [show ofs + k - base = i * width + k by omega, mul_add_div_of_lt hk]

/-- Every byte of a register is found in it. -/
theorem regAt_add {fn ofs k : Nat} {r : BarReg} (h : regAt fn ofs = some r) (hbase : r.base = ofs) (hk : k < r.width) :
    regAt fn (ofs + k) = some r := by
  obtain ⟨row, hrow, rfl⟩ := Option.map_eq_some_iff.mp h
  dsimp only at hbase hk
  obtain ⟨hin, before, after, hsplit, hbefore⟩ := List.find?_eq_some_iff_append.mp hrow
  rw [decide_eq_true_eq] at hin
  obtain ⟨hend, hplace⟩ := add_div_of_place hin hbase hk
  have hfind : (rowsOf fn).find? (fun a => decide (a.base ≤ ofs + k ∧ ofs + k < a.base + a.count * a.width)) = some row := by
    refine List.find?_eq_some_iff_append.mpr ⟨decide_eq_true ⟨by omega, hend⟩, before, after, hsplit, fun a ha => ?_⟩
    have hrows := rowsOf_pairwise fn
    rw [hsplit, List.pairwise_append] at hrows
    have hle := hrows.2.2 a ha row List.mem_cons_self
    rw [Bool.not_eq_true', decide_eq_false_iff_not]
    omega
  rw [regAt, hfind, Option.map_some, hplace]

theorem State.bar0Read_of_absent {s : State} {fn : Nat} (h : s.function fn = false) (ofs len : Nat) :
    s.bar0Read fn ofs len = s.hostReturns (List.replicate len 0xFF) := by
  simp [State.bar0Read, h]

theorem State.bar0Read_of_reg {s : State} {fn ofs : Nat} {r : BarReg} (h : s.function fn = true) (hr : regAt fn ofs = some r)
    (hbase : r.base = ofs) : s.bar0Read fn ofs r.width = s.hostReturns (leBytes r.width (s.regReads fn r)) := by
  refine congrArg s.hostReturns (List.map_congr_left fun k hk => ?_)
  have hbyte : regAt fn (ofs + k) = some r := regAt_add hr hbase (List.mem_range.mp hk)
  have hpow : 2 ^ (8 * (ofs + k - r.base)) = 256 ^ k := by
    rw [hbase, Nat.add_sub_cancel_left, Nat.pow_mul]
  rw [if_pos h, State.bar0Byte, hbyte, Option.elim_some, hpow]

end Sys2Proof.Machine

end

section

/-!
# The firmware mailbox and page migration

A command that is accepted acts on the state, refused or not, and is in progress then; while one is in progress every
other is ignored. A migration goes from step to step, each when its wait is over.
-/

namespace Sys2Proof.Machine

open Sys2Proof

/-! ## Operations that leave memory and the tenants' state -/

/-- Memory and the state of the tenants are as before. -/
def State.keepsTenants (s t : State) : Prop := t.mem = s.mem ∧ t.tenants = s.tenants

namespace State.keepsTenants

variable {s t u : State}

theorem refl (s : State) : s.keepsTenants s := ⟨rfl, rfl⟩

theorem ite {c : Prop} {_ : Decidable c} (ht : s.keepsTenants t) (hu : s.keepsTenants u) :
    s.keepsTenants (if c then t else u) := by
  split
  · exact ht
  · exact hu

theorem foldl {β : Type} {f : State → β → State} {l : List β} (h : s.keepsTenants t)
    (hf : ∀ (t : State) b, s.keepsTenants t → s.keepsTenants (f t b)) : s.keepsTenants (l.foldl f t) :=
  List.foldlRecOn l f h fun t ht b _ => hf t b ht

variable (h : s.keepsTenants t)
include h

/-- A state made of the memories and tenants of another and of any other fields. -/
theorem update {c : Ctrl} {q : Table Squad} {b : Table Block} {f : Table Flask} {p : Table Pour} {co : Table Core}
    {pr : Table Prog} {ch : Table Chain} {tk : Table TkReq} {ho : Homes} {cx : Table Context} {dv : Device} :
    s.keepsTenants (State.mk c q b f p co pr ch tk t.mem ho cx t.tenants dv) := h

theorem irq {tenant : Option Nat} {vec : Nat} : s.keepsTenants (t.irq tenant vec) := by
  obtain ⟨_, _, _, heq⟩ := t.irq_eq tenant vec
  exact heq ▸ h

theorem record {r : ErrRec} : s.keepsTenants (t.record r) := by
  obtain ⟨_, _, _, _, _, heq⟩ := t.record_eq r
  exact heq ▸ h

theorem corrected {tag struct key : Nat} : s.keepsTenants (t.corrected tag struct key) := by
  unfold State.corrected
  exact .ite (.irq (.record (.update h))) (.record (.update h))

theorem correctRead {pa n : Nat} : s.keepsTenants (t.correctRead pa n) := by
  unfold State.correctRead
  exact .ite h (.foldl h fun _ _ ht => .ite (.corrected (.update ht)) ht)

theorem correctValue {pa n : Nat} : s.keepsTenants (t.correctValue pa n) := by
  unfold State.correctValue
  exact .ite h (.foldl h fun _ _ ht => .correctRead ht)

theorem ruinTag {tag struct key : Nat} : s.keepsTenants (t.ruinTag tag struct key) := by
  unfold State.ruinTag
  exact .ite h (.update h)

theorem walked {die : Option Nat} {tag va : Nat} {w : Walk} : s.keepsTenants (t.walked die tag va w) := by
  unfold State.walked
  refine .ite h ?_
  cases w with
  | damaged k => exact .ruinTag (.foldl h fun _ _ ht => .correctValue ht)
  | leaf | absent | malformed | refused | unbacked | waits => exact .foldl h fun _ _ ht => .correctValue ht

theorem sendLines {bid sq : Nat} {lines : List Nat} : s.keepsTenants (t.sendLines bid sq lines) :=
  .foldl h fun _ _ ht => .update ht

theorem sendFrame {frame : Nat} : s.keepsTenants (t.sendFrame frame) := .foldl h fun _ _ ht => .sendLines ht

theorem raiseAsgen {tag : Nat} : s.keepsTenants (t.raiseAsgen tag) := by
  unfold State.raiseAsgen
  exact .ite (.update h) (.update h)

end State.keepsTenants

/-! ## Commands (R375) -/

theorem exec_mailboxDone (s : State) : exec .mailboxDone s = execMailboxDone s := rfl

section

variable {s : State}

theorem State.command_of_busy (h : s.dev.mailbox.busy.isSome = true) (r : Nat) (t : State) : s.command r t = s := if_pos h

theorem State.cmdRetire_of_busy (h : s.dev.mailbox.busy.isSome = true) (k d i : Nat) : s.cmdRetire k d i = s := by
  unfold State.cmdRetire
  split
  · exact State.command_of_busy h _ _
  · exact State.command_of_busy h _ _

theorem State.cmdMigrate_of_busy (h : s.dev.mailbox.busy.isSome = true) (k va fr : Nat) : s.cmdMigrate k va fr = s := if_pos h

/-- While a command is in progress every other one is ignored. -/
theorem exec_command_of_busy (h : s.dev.mailbox.busy.isSome = true) (f : Nat) (e : BitVec 16) (m : BitVec 240)
    (a b c tag : Nat) (va fr : DWord) (ip : BitVec 128) (on : Bool) (w : Nat) :
    ∀ ev ∈ [Instr.frameOwner f e, .reservedSlots m, .retireUnit a b c, .migratePage tag va fr, .endpointMap a ip on,
      .releaseHeld tag b, .powerLimit w], exec ev s = .next s := by
  simp only [List.forall_mem_cons, List.not_mem_nil, false_imp_iff, implies_true, and_true]
  exact ⟨congrArg Host.Outcome.next (State.command_of_busy h _ _), congrArg Host.Outcome.next (State.command_of_busy h _ _),
    congrArg _ (State.cmdRetire_of_busy h _ _ _), congrArg _ (State.cmdMigrate_of_busy h _ _ _),
    congrArg Host.Outcome.next (State.command_of_busy h _ _), congrArg Host.Outcome.next (State.command_of_busy h _ _),
    congrArg Host.Outcome.next (State.command_of_busy h _ _)⟩

variable (hidle : s.dev.mailbox.busy = none)
include hidle

theorem State.command_of_idle (r : Nat) (t : State) :
    s.command r t = (if r = 0 then t else s).setBusy (some { result := r }) :=
  if_neg (by rw [hidle]; exact Bool.false_ne_true)

theorem State.command_accepted {r : Nat} (hr : r = 0) (t : State) : s.command r t = t.setBusy (some {}) := by
  rw [State.command_of_idle hidle, hr, if_pos rfl]

theorem State.command_refused {r : Nat} (hr : r = 1) (t : State) : s.command r t = s.setBusy (some { result := 1 }) := by
  rw [State.command_of_idle hidle, hr, if_neg Nat.one_ne_zero]

end

/-! ## The owner of a frame (R300, R301) -/

theorem State.read_zeroBytes {s : State} {pa n a : Nat} (h : pa ≤ a ∧ a < pa + n) :
    Memory.read (s.zeroBytes pa n).mem.dev a = 0 := by
  have hnone : (s.zeroBytes pa n).mem.dev.get? a = none := Table.get?_filter_of_refused _ fun _ => by simp [h]
  rw [Memory.read, Table.get, hnone, Option.getD_none]

/-- A frame zeroed and given to the owner of an entry. -/
def State.frameGiven (s : State) (f : Nat) (e : BitVec 16) : State :=
  let old := s.homes.frames.get f 0
  let tag := (old.setWidth 8 : BitVec 8)
  let t := if tag = ((e &&& 0xC0FF).setWidth 8 : BitVec 8) then s
    else (s.zeroFrame f).setContext tag.toNat ((s.context tag.toNat).reassign f)
  { t with homes := { t.homes with
      frames := if e &&& 0xC0FF = 0 then t.homes.frames.erase f else t.homes.frames.put f (e &&& 0xC0FF) } }

theorem State.frameGiven_entry (s : State) (f : Nat) (e : BitVec 16) :
    (s.frameGiven f e).homes.frames.get f 0 = e &&& 0xC0FF := by
  have hget (t : Table (BitVec 16)) :
      (if e &&& 0xC0FF = 0 then t.erase f else t.put f (e &&& 0xC0FF)).get f 0 = e &&& 0xC0FF := by
    split
    · next h => rw [h, Table.get, Table.get?_erase_self, Option.getD_none]
    · exact Table.get_put_self _ _ _ _
  exact hget _

/-- The bits of an entry that are kept are those of its owner, and bits 14 and 15. -/
theorem setWidth_frameBits (e : BitVec 16) : ((e &&& 0xC0FF).setWidth 8 : BitVec 8) = e.setWidth 8 := by
  rw [BitVec.setWidth_and]
  exact BitVec.and_allOnes

theorem State.frameGiven_zero {s : State} {f : Nat} {e : BitVec 16}
    (h : (s.homes.frames.get f 0).setWidth 8 ≠ (e.setWidth 8 : BitVec 8)) {a : Nat} (ha : a / 2 ^ 16 = f) :
    Memory.read (s.frameGiven f e).mem.dev a = 0 := by
  unfold State.frameGiven
  dsimp only
  rw [setWidth_frameBits, if_neg h]
  exact State.read_zeroBytes (by omega)

section

variable {s : State} (hidle : s.dev.mailbox.busy = none) {f : Nat} (e : BitVec 16)
include hidle

theorem exec_frameOwner_accepted (hin : installed (f * 2 ^ 16) = true) (hmem : s.contextMemory (f * 2 ^ 16) = true) :
    exec (.frameOwner f e) s = .next ((s.frameGiven f e).setBusy (some {})) :=
  congrArg Host.Outcome.next (State.command_accepted hidle (if_pos (by rw [hin, hmem]; rfl)) _)

theorem exec_frameOwner_refused (hout : installed (f * 2 ^ 16) = false) :
    exec (.frameOwner f e) s = .next (s.setBusy (some { result := 1 })) :=
  congrArg Host.Outcome.next (State.command_refused hidle (if_neg (by rw [hout]; exact Bool.false_ne_true)) _)

end

/-! ## Reserved cores (R271) -/

/-- A core reserved, or not. -/
def State.reserve (m : BitVec 240) (s : State) (c : Nat) : State :=
  if (s.core c).reserved == m.getLsbD c then s else s.setCore c { s.core c with reserved := m.getLsbD c }

theorem State.reserve_self (m : BitVec 240) (s : State) (c : Nat) : ((s.reserve m c).core c).reserved = m.getLsbD c := by
  unfold State.reserve
  split
  · next h => exact beq_iff_eq.mp h
  · rw [State.core_setCore]

theorem State.reserve_keeps {m : BitVec 240} {s : State} {c : Nat} (h : (s.core c).reserved = m.getLsbD c) (d : Nat) :
    ((s.reserve m d).core c).reserved = m.getLsbD c := by
  by_cases hd : c = d
  · rw [hd, State.reserve_self]
  · unfold State.reserve
    split
    · exact h
    · rw [State.core, State.setCore_cores, Table.get_put_ne _ hd]
      exact h

theorem State.foldl_reserve {m : BitVec 240} {c : Nat} {l : List Nat} (hc : c ∈ l) (s : State) :
    ((l.foldl (State.reserve m) s).core c).reserved = m.getLsbD c := by
  obtain ⟨before, after, rfl⟩ := List.append_of_mem hc
  rw [List.foldl_append, List.foldl_cons]
  exact List.foldlRecOn (motive := fun t : State => (t.core c).reserved = m.getLsbD c) after _ (State.reserve_self m _ c)
    fun _ ht d _ => State.reserve_keeps ht d

theorem exec_reservedSlots_accepted {s : State} (hidle : s.dev.mailbox.busy = none) (m : BitVec 240) :
    ∃ t, exec (.reservedSlots m) s = .next t ∧ t.dev.mailbox.busy = some {}
      ∧ ∀ c, c < 240 → (t.core c).reserved = m.getLsbD c := by
  have hreserved : ∀ c, c < 240 → (((List.range 240).foldl (State.reserve m) s).core c).reserved = m.getLsbD c :=
    fun _ hc => State.foldl_reserve (List.mem_range.mpr hc) s
  have hcommand : s.cmdReserved m = ((List.range 240).foldl (State.reserve m) s).setBusy (some {}) :=
    State.command_accepted hidle rfl _
  generalize (List.range 240).foldl (State.reserve m) s = t at hcommand hreserved
  exact ⟨_, congrArg Host.Outcome.next hcommand, rfl, hreserved⟩

/-! ## Retired units, endpoints, held flasks and power (R352, R358, R368, R374) -/

theorem State.failLink_link (s : State) (l : Nat) (ph : LinkPhase) : (s.failLink l ph).link l = { phase := ph } :=
  Table.get_put_self _ _ _ _

theorem State.unitRetired_port (s : State) (l : Nat) :
    (s.unitRetired none).link l = s.link l ∧ (s.unitRetired none).dev.regs.repReq = true := by
  obtain ⟨_, _, _, h⟩ := (s.setRegs { s.dev.regs with
    repReq := true, slices := s.dev.regs.slices ++ [], nLink := s.dev.regs.nLink + 1 }).irq_eq none 0
  have heq : s.unitRetired none = _ := h
  rw [heq]
  exact ⟨rfl, rfl⟩

section

variable {s : State} (hidle : s.dev.mailbox.busy = none)
include hidle

/-- A port of die 0 is retired, and the PF is asked to replace it. -/
theorem exec_retireUnit_port {i : Nat} (hi : i < 10) (hup : (s.link i).phase ≠ .retired) :
    ∃ t, exec (.retireUnit 1 0 i) s = .next t ∧ t.dev.mailbox.busy = some {} ∧ (t.link i).phase = .retired
      ∧ t.dev.regs.repReq = true := by
  have hcode : (if 2 ≤ 1 ∨ 2 ≤ 0 ∨ 10 ≤ i then 1 else if (s.link i).phase = .retired then 2 else 0) = 0 := by
    rw [if_neg (by omega), if_neg hup]
  have hretire : s.cmdRetire 1 0 i = ((s.failLink i .retired).unitRetired none).setBusy (some {}) := by
    rw [State.cmdRetire, if_neg Nat.one_ne_zero, Nat.zero_mul, Nat.zero_add, State.command_accepted hidle hcode]
  obtain ⟨hlink, hreq⟩ := (s.failLink i .retired).unitRetired_port i
  exact ⟨_, congrArg Host.Outcome.next hretire, rfl, congrArg Link.phase (hlink.trans (s.failLink_link i .retired)), hreq⟩

theorem exec_endpointMap_accepted {ep : Nat} (hep : ep < 2 ^ 18) (ip : BitVec 128) :
    exec (.endpointMap ep ip true) s
      = .next (({ s with dev := { s.dev with endpoints := s.dev.endpoints.put ep ip } } : State).setBusy (some {})) :=
  congrArg Host.Outcome.next (State.command_accepted hidle (if_pos hep) _)

theorem exec_powerLimit_accepted {w : Nat} (hlo : 800 ≤ w) (hhi : w ≤ 2200) :
    exec (.powerLimit w) s = .next ((s.setRegs { s.dev.regs with power := w }).setBusy (some {})) :=
  congrArg Host.Outcome.next (State.command_accepted hidle (if_pos ⟨hlo, hhi⟩) _)

theorem exec_powerLimit_refused {w : Nat} (h : w < 800 ∨ 2200 < w) :
    exec (.powerLimit w) s = .next (s.setBusy (some { result := 1 })) :=
  congrArg Host.Outcome.next (State.command_refused hidle (if_neg (by omega)) _)

theorem exec_migratePage_of_idle (k : Nat) (va fr : DWord) :
    exec (.migratePage k va fr) s = .next ((s.startMigration k va.toNat fr.toNat).1.setBusy
      (some { result := (s.startMigration k va.toNat fr.toNat).2, migrating := (s.startMigration k va.toNat fr.toNat).2 == 0 })) :=
  congrArg Host.Outcome.next (if_neg (by rw [hidle]; exact Bool.false_ne_true))

end

/-- A flask that a release names is no longer held. -/
def State.released (s : State) (k p : Nat) (f : Nat × Flask) : Nat × Flask :=
  if (s.pour f.2.pour).tag == k && (p == 0 || (s.pour f.2.pour).num == p) then (f.1, { f.2 with hold := false }) else f

theorem State.released_hold {s : State} {k p : Nat} {f : Nat × Flask} (htag : (s.pour (s.released k p f).2.pour).tag = k)
    (hnum : p = 0 ∨ (s.pour (s.released k p f).2.pour).num = p) : (s.released k p f).2.hold = false := by
  unfold State.released at htag hnum ⊢
  split at htag
  · next h => rw [if_pos h]
  · next h =>
    rw [if_neg h] at hnum
    exact absurd (by simpa using ⟨htag, hnum⟩) h

theorem exec_releaseHeld_accepted {s : State} (hidle : s.dev.mailbox.busy = none) {k : Nat} (hen : (s.context k).en = true) (p : Nat) :
    ∃ t, exec (.releaseHeld k p) s = .next t ∧ t.dev.mailbox.busy = some {}
      ∧ ∀ e ∈ t.flasks, (s.pour e.2.pour).tag = k → (p = 0 ∨ (s.pour e.2.pour).num = p) → e.2.hold = false := by
  have hrelease : s.cmdRelease k p = ({ s with flasks := s.flasks.map (s.released k p) } : State).setBusy (some {}) :=
    State.command_accepted hidle (if_pos hen) _
  refine ⟨_, congrArg Host.Outcome.next hrelease, rfl, fun e he htag hnum => ?_⟩
  obtain ⟨f, -, rfl⟩ := List.mem_map.mp he
  exact State.released_hold htag hnum

/-! ## Migration (R181) -/

theorem State.raiseAsgen_homes (s : State) (tag : Nat) : (s.raiseAsgen tag).homes = s.homes := by
  unfold State.raiseAsgen
  dsimp only
  split
  · rfl
  · rfl

/-- The start of a migration writes no memory, and one that is accepted is under way. -/
theorem State.startMigration_spec (s : State) (k va fr : Nat) :
    (s.startMigration k va fr).1.mem = s.mem
    ∧ ((s.startMigration k va fr).2 = 0 → (s.startMigration k va fr).1.homes.migration.isSome = true) := by
  have hwalked : s.keepsTenants (s.walked none k va (s.walk none k va)) := .walked (.refl s)
  unfold State.startMigration
  split
  · exact ⟨rfl, fun h => nomatch h⟩
  · split
    · exact ⟨rfl, fun h => nomatch h⟩
    · split
      · exact ⟨hwalked.1, fun h => nomatch h⟩
      · dsimp only
        split
        · exact ⟨hwalked.1, fun h => nomatch h⟩
        · refine ⟨(State.keepsTenants.raiseAsgen (.update (.sendFrame hwalked))).1, fun _ => ?_⟩
          rw [State.raiseAsgen_homes]
          rfl

theorem exec_migrationLeaseWaitEnd (s : State) : exec .migrationLeaseWaitEnd s = execMigrationLeaseWaitEnd s := rfl
theorem exec_migrationHandover (s : State) : exec .migrationHandover s = execMigrationHandover s := rfl
theorem exec_migrationForwardingEnd (s : State) : exec .migrationForwardingEnd s = execMigrationForwardingEnd s := rfl

section

variable {s : State} {m : Migration} (hm : s.homes.migration = some m)
include hm

theorem exec_migrationLeaseWaitEnd_of_early (h : s.ctrl.time < m.until') : exec .migrationLeaseWaitEnd s = .next s := by
  simp only [exec_migrationLeaseWaitEnd, execMigrationLeaseWaitEnd, hm, h, if_true]

theorem exec_migrationLeaseWaitEnd_of_marked (hstep : m.step = .marked) (h : m.until' ≤ s.ctrl.time) :
    exec .migrationLeaseWaitEnd s = .next { s with homes := { s.homes with
      migration := some { m with step := .recalled }, owners := s.homes.owners.map (recallIn m.old) } } := by
  simp only [exec_migrationLeaseWaitEnd, execMigrationLeaseWaitEnd, hm, Nat.not_lt.mpr h, if_false, hstep]
  rfl

theorem exec_migrationLeaseWaitEnd_of_switched (hstep : m.step = .switched) (h : m.until' ≤ s.ctrl.time) :
    exec .migrationLeaseWaitEnd s = .next (s.setMigration (some { m with step := .forwarding })) := by
  simp only [exec_migrationLeaseWaitEnd, execMigrationLeaseWaitEnd, hm, Nat.not_lt.mpr h, if_false, hstep]

theorem exec_migrationHandover_of_ready (hstep : m.step = .recalled) (h : s.handoverWaits m = false) :
    exec .migrationHandover s = .next (s.handOver m) := by
  simp only [exec_migrationHandover, execMigrationHandover, hm, hstep, h, bne_self_eq_false, Bool.or_self, Bool.false_eq_true,
    if_false]

theorem exec_migrationHandover_of_waits (h : m.step ≠ .recalled ∨ s.handoverWaits m = true) :
    exec .migrationHandover s = .next s := by
  have htest : (m.step != .recalled || s.handoverWaits m) = true := by simpa using h
  simp only [exec_migrationHandover, execMigrationHandover, hm, htest, if_true]

/-- The end of the forwarding waits until its drain has been idle for 1,400 cycles. -/
theorem exec_migrationForwardingEnd_of_idle {since : Nat} (hidle : s.migrationIdle m = true) (hsince : m.since = some since) :
    exec .migrationForwardingEnd s = .next (if s.ctrl.now < since + 1400 then s else { s.raiseDgen with
      homes := { s.raiseDgen.homes with
        migration := none, retired := s.raiseDgen.homes.retired ++ [m.old / 2 ^ 16] }
      dev := { s.raiseDgen.dev with mailbox := { s.raiseDgen.dev.mailbox with
        busy := s.raiseDgen.dev.mailbox.busy.map fun c => { c with migrating := false } } } }) := by
  simp only [exec_migrationForwardingEnd, execMigrationForwardingEnd, hm, hidle, hsince, Bool.not_true, Bool.false_or,
    Option.elim_some, decide_eq_true_eq]

theorem exec_migrationForwardingEnd_of_early {since : Nat} (hidle : s.migrationIdle m = true) (hsince : m.since = some since)
    (h : s.ctrl.now < since + 1400) : exec .migrationForwardingEnd s = .next s := by
  rw [exec_migrationForwardingEnd_of_idle hm hidle hsince, if_pos h]

/-- The old frame is retired with the end of the forwarding. -/
theorem exec_migrationForwardingEnd_of_drained {since : Nat} (hidle : s.migrationIdle m = true) (hsince : m.since = some since)
    (h : since + 1400 ≤ s.ctrl.now) :
    ∃ t, exec .migrationForwardingEnd s = .next t ∧ t.homes.migration = none
      ∧ t.homes.retired = s.homes.retired ++ [m.old / 2 ^ 16] ∧ t.mem = s.mem := by
  have hdgen : s.raiseDgen.mem = s.mem ∧ s.raiseDgen.homes.retired = s.homes.retired := by
    unfold State.raiseDgen
    split
    · exact ⟨rfl, rfl⟩
    · exact ⟨rfl, rfl⟩
  obtain ⟨hmem, hretired⟩ := hdgen
  rw [exec_migrationForwardingEnd_of_idle hm hidle hsince, if_neg (Nat.not_lt.mpr h)]
  exact ⟨_, rfl, rfl, congrArg (· ++ [m.old / 2 ^ 16]) hretired, hmem⟩

end

/-! ## The end of a command (R375) -/

/-- The command in progress goes on with the flasks that it still awaits, none where it awaits none. -/
theorem State.advanceMail_busy (s : State) (c : MailCmd) :
    ∃ flasks todo, (s.advanceMail c).dev.mailbox.busy = some { c with flasks, todo } ∧ (c.flasks = [] → flasks = []) :=
  ⟨_, _, rfl, fun h => by rw [h]; rfl⟩

@[simp] theorem State.mailbox_irq (s : State) (tenant : Option Nat) (vec : Nat) :
    (s.irq tenant vec).dev.mailbox = s.dev.mailbox := by
  obtain ⟨_, _, _, h⟩ := s.irq_eq tenant vec
  rw [h]

theorem exec_mailboxDone_of_done {s : State} {c : MailCmd} (hbusy : s.dev.mailbox.busy = some c) (hflasks : c.flasks = [])
    (hmig : c.migrating = false) :
    ∃ t, exec .mailboxDone s = .next t ∧ t.dev.mailbox.busy = none ∧ t.dev.mailbox.result = c.result := by
  obtain ⟨flasks, todo, hnext, hempty⟩ := s.advanceMail_busy c
  have hexec : exec .mailboxDone s = .next (({ s.advanceMail c with dev := { (s.advanceMail c).dev with
      mailbox := { (s.advanceMail c).dev.mailbox with busy := none, result := c.result } } } : State).irq none 0) := by
    simp only [exec_mailboxDone, execMailboxDone, hbusy, hnext, hempty hflasks, hmig, List.isEmpty_nil, Bool.not_false,
      Bool.and_self, if_true]
  refine ⟨_, hexec, ?_⟩
  rw [State.mailbox_irq]
  exact ⟨rfl, rfl⟩

end Sys2Proof.Machine

end

section

/-!
# Answers to page faults, and the events of the firmware

The answer to a declined fault, and the end of requests held at the ingress, leave the tenants' queues as the event itself
has set them. The steps of the boot touch one die each, or the generation of the dies.
-/

namespace Sys2Proof.Machine

open Sys2Proof

/-! ## What the answer to a declined fault leaves (R315, R376) -/

namespace State.keepsTenants

variable {s t : State} (h : s.keepsTenants t)
include h

theorem defer {bid sq : Nat} {byHandler : Bool} {w : Word} : s.keepsTenants (t.defer bid sq byHandler w) := by
  unfold State.defer
  exact .ite (.update h) (.update h)

theorem answerSpillsOf_decline {bid sq fid : Nat} : s.keepsTenants (t.answerSpillsOf bid sq fid true) := by
  unfold State.answerSpillsOf
  refine .foldl (.update h) fun u p hu => ?_
  cases p.spill with
  | none => exact hu
  | some e => exact .defer hu

theorem answerSpills_decline {fid : Nat} : s.keepsTenants (t.answerSpills fid true) :=
  .foldl h fun _ _ hu => .answerSpillsOf_decline hu

theorem answered {src : Nat} {a : PeerAnswer} : s.keepsTenants (t.answered src a) := by
  unfold State.answered
  dsimp only
  split
  · exact .update h
  · exact .update h

theorem abortHeld {which : HeldReq → Bool} : s.keepsTenants (t.abortHeld which) :=
  .foldl (.update h) fun _ _ hu => .answered hu

theorem tenant (n : Nat) : t.tenant n = s.tenant n := by
  rw [State.tenant, h.2, State.tenant]

end State.keepsTenants

/-! ## Page faults (R233, R376, R377) -/

theorem exec_pfrespServe (n f : Nat) (s : State) : exec (.pfrespServe n f) s = execPfrespServe n f s := rfl
theorem exec_pfrespDecline (n f : Nat) (s : State) : exec (.pfrespDecline n f) s = execPfrespDecline n f s := rfl
theorem exec_pageFaultEnqueue (n : Nat) (s : State) : exec (.pageFaultEnqueue n) s = execPageFaultEnqueue n s := rfl
theorem exec_lostClear (log : Option Nat) (s : State) : exec (.lostClear log) s = execLostClear log s := rfl

theorem pfrespServe_eventIs (n f : Nat) :
    EventIs (.pfrespServe n f) (fun s => s.vf n = true ∧ (s.slot n f).isSome = true) fun s => s.answerFault n f false :=
  eventIs_of_ite (exec_pfrespServe n f) fun _ => Bool.and_eq_true _ _ ▸ Iff.rfl

theorem pfrespDecline_eventIs (n f : Nat) :
    EventIs (.pfrespDecline n f) (fun s => s.vf n = true ∧ (s.slot n f).isSome = true) fun s =>
      (s.answerFault n f true).abortHeld fun h => s.tenantOf h.req.ptag == n && h.faults.contains f :=
  eventIs_of_ite (exec_pfrespDecline n f) fun _ => Bool.and_eq_true _ _ ▸ Iff.rfl

/-- The answer to a declined fault frees its slot, and touches no memory and no other part of a tenant. -/
theorem State.answerFault_decline (s : State) (n f : Nat) :
    (s.setTenant n { s.tenant n with faults := (s.tenant n).faults.erase f }).keepsTenants (s.answerFault n f true) :=
  .answerSpills_decline (.update (.refl _))

section

variable {s : State} {n : Nat}

theorem exec_pageFaultEnqueue_of_free {f : Nat × PageFault} {k : Nat}
    (hf : (s.tenant n).faults.find? (fun f => f.2.slot.isNone) = some f) (hk : (s.tenant n).freeSlot = some k) :
    exec (.pageFaultEnqueue n) s = .next ((s.setTenant n { s.tenant n with
      faults := (s.tenant n).faults.put f.1 { f.2 with slot := some k } }).irq (some n) 1) := by
  simp only [exec_pageFaultEnqueue, execPageFaultEnqueue, hf, hk]

theorem exec_pageFaultEnqueue_of_none (h : (∀ f ∈ (s.tenant n).faults, f.2.slot ≠ none) ∨ (s.tenant n).freeSlot = none) :
    exec (.pageFaultEnqueue n) s = .next s := by
  rw [exec_pageFaultEnqueue, execPageFaultEnqueue]
  rcases h with hall | hfull
  · have hfind : (s.tenant n).faults.find? (fun f => f.2.slot.isNone) = none := by
      simpa only [List.find?_eq_none, Option.isNone_iff_eq_none] using hall
    simp only [hfind]
  · cases hfind : (s.tenant n).faults.find? (fun f => f.2.slot.isNone) with
    | none => rfl
    | some f => simp only [hfull]

theorem exec_lostClear_of_vf (h : s.vf n = true) : exec (.lostClear (some n)) s = .next { s with dev := { s.dev with
    tenantLogs := s.dev.tenantLogs.put n { s.dev.tenantLogs.get n {} with lost := 0 } } } := by
  simp only [exec_lostClear, execLostClear, h, Bool.not_true, Bool.false_eq_true, if_false]

theorem exec_lostClear_of_no_vf (h : s.vf n = false) : exec (.lostClear (some n)) s = .next s := by
  simp only [exec_lostClear, execLostClear, h, Bool.not_false, if_true]

end

/-! ## The disarming of a sprue (R378) -/

theorem exec_spdis (n : Nat) (v : DWord) (s : State) : exec (.spdis n v) s = execSpdis n v s := rfl

theorem exec_spdis_of_no_vf {s : State} {n : Nat} (h : s.vf n = false) (v : DWord) : exec (.spdis n v) s = .next s := by
  simp only [exec_spdis, execSpdis, h, Bool.not_false, if_true]

/-- A sprue gone from its tenant, with the requests to its buffers that the ingress holds. -/
def State.disarmed (s : State) (n h : Nat) (x : Sprue) : State :=
  (s.setTenant n { s.tenant n with sprues := (s.tenant n).sprues.erase h }).abortHeld fun e => x.takes e.req

theorem exec_spdis_of_named {s : State} {n : Nat} {v : DWord} {x : Sprue} (hvf : s.vf n = true)
    (hctx : s.namesContext n (BitVec.ofNat 64 (fieldBits v.toNat 39 32)) = true) (hhigh : fieldBits v.toNat 63 40 = 0)
    (hbit : v.toNat.testBit 31 = false) (hx : (s.tenant n).sprues.get? (v.toNat % 2 ^ 31) = some x)
    (htag : x.tag = fieldBits v.toNat 39 32) :
    exec (.spdis n v) s = .next ((s.disarmed n (v.toNat % 2 ^ 31) x).setTenant n
      { (s.disarmed n (v.toNat % 2 ^ 31) x).tenant n with spdisRes := 0 }) := by
  simp only [exec_spdis, execSpdis, hvf, hctx, hhigh, hbit, hx, htag, Bool.not_true, bne_self_eq_false, Bool.or_self,
    Bool.false_eq_true, if_false, if_true]
  rfl

theorem State.disarmed_sprues (s : State) (n h : Nat) (x : Sprue) :
    ((s.disarmed n h x).tenant n).sprues = (s.tenant n).sprues.erase h := by
  have hkeeps : (s.setTenant n { s.tenant n with sprues := (s.tenant n).sprues.erase h }).keepsTenants (s.disarmed n h x) :=
    .abortHeld (.refl _)
  rw [hkeeps.tenant, State.tenant_setTenant]

/-! ## Translations of the host (R362) -/

/-- A core whose caches hold no translation that an invalidation covers. -/
def Core.invalidated (c : Core) (va len : Nat) : Core :=
  { c with tlb := c.tlb.map (·.invalidated va len), leases := c.leases.map (·.invalidated va len) }

theorem exec_invalidateRequest (va len : Nat) (s : State) :
    exec (.invalidateRequest va len) s = .next { s with
      cores := s.cores.map fun c => (c.1, c.2.invalidated va len)
      dev := { s.dev with
        ingress := s.dev.ingress.map (·.invalidated va len), invalidating := s.dev.invalidating ++ [s.hostFlight] } } := rfl

theorem exec_invalidateCompletion (s : State) : exec .invalidateCompletion s = execInvalidateCompletion s := rfl

/-- No entry of an invalidated cache holds a translation that the invalidation covers. -/
theorem not_covered_of_invalidated {es : List TlbEntry} {va len : Nat} :
    ∀ e ∈ es.map (·.invalidated va len), ∀ p ∈ e.ats, ¬(p * 2 ^ 16 < va + len ∧ va < (p + 1) * 2 ^ 16) := by
  intro e he p hp
  obtain ⟨e, -, rfl⟩ := List.mem_map.mp he
  exact of_decide_eq_false ((Bool.not_eq_true' _).mp (List.mem_filter.mp hp).2)

theorem get_cores_invalidated (cores : Table Core) (va len c : Nat) :
    Table.get (cores.map fun c => (c.1, c.2.invalidated va len)) c {} = (cores.get c {}).invalidated va len := by
  unfold Table.get
  rw [Table.get?_map]
  · cases cores.get? c with
    | none => rfl
    | some _ => rfl
  · exact fun _ => rfl

section

variable {s : State} {ids : List Nat} (hids : s.dev.invalidating = [ids])
include hids

theorem exec_invalidateCompletion_of_done (h : ∀ i ∈ ids, i ∉ s.hostFlight) :
    exec .invalidateCompletion s = .next { s with dev := { s.dev with invalidating := [] } } := by
  have hnone : ids.any s.hostFlight.contains = false := by simpa using h
  simp only [exec_invalidateCompletion, execInvalidateCompletion, hids, List.find?_singleton, hnone, Bool.not_false, if_true,
    List.erase_cons_head]

theorem exec_invalidateCompletion_of_waits (h : ∃ i ∈ ids, i ∈ s.hostFlight) : exec .invalidateCompletion s = .next s := by
  have hsome : ids.any s.hostFlight.contains = true := by simpa using h
  simp only [exec_invalidateCompletion, execInvalidateCompletion, hids, List.find?_singleton, hsome, Bool.not_true,
    Bool.false_eq_true, if_false]

end

/-! ## Measurements, the boot and the clock (R370 to R372, R374) -/

theorem exec_getMeasurements (f k : Nat) (s : State) : exec (.getMeasurements f k) s = execGetMeasurements f k s := rfl
theorem exec_clockThrottle (s : State) : exec .clockThrottle s = execClockThrottle s := rfl
theorem exec_clockRestore (s : State) : exec .clockRestore s = execClockRestore s := rfl

theorem getMeasurements_eventIs (f k : Nat) :
    EventIs (.getMeasurements f k) (fun s => s.dev.regs.bootStep = 7 ∧ 1 ≤ k ∧ k ≤ 6 ∧ f ≤ 64)
      fun s => { s with dev := { s.dev with measured := s.dev.measured ++
        [Config.measurement k (if k = 6 then coreMask fun c => (s.core c).retired else 0)] } } :=
  eventIs_of_ite (exec_getMeasurements f k) fun _ => Iff.rfl

theorem clockThrottle_eventIs :
    EventIs .clockThrottle (fun s => s.hot = true ∧ 1600 < s.dev.regs.mhz)
      fun s => s.setRegs { s.dev.regs with mhz := s.dev.regs.mhz - 100 } :=
  eventIs_of_ite exec_clockThrottle fun _ => Iff.rfl

theorem clockRestore_eventIs :
    EventIs .clockRestore (fun s => s.hot = false ∧ s.dev.regs.mhz < 3300)
      fun s => s.setRegs { s.dev.regs with mhz := s.dev.regs.mhz + 100 } :=
  eventIs_of_ite exec_clockRestore fun _ => Iff.rfl

section

variable {s : State}

theorem exec_boot_of_over (h : 7 ≤ s.dev.regs.bootStep ∨ s.dev.regs.bootFail ≠ 0) : exec .boot s = .next s :=
  congrArg _ (if_pos (by omega))

/-- The state with the boot one step further, before what the step does. -/
def State.bootAdvanced (s : State) : State := s.setRegs { s.dev.regs with bootStep := s.dev.regs.bootStep + 1 }

theorem exec_boot_of_step (hstep : s.dev.regs.bootStep < 7) (hfail : s.dev.regs.bootFail = 0) :
    exec .boot s = .next (s.bootAdvanced.bootEffect (s.dev.regs.bootStep + 1)) :=
  congrArg _ (if_neg (by omega))

theorem State.releaseDie_other {d e : Nat} (h : e ≠ d) : (s.releaseDie d).die e = s.die e :=
  State.die_setDie_ne _ h _

theorem State.releaseDie_self (d : Nat) : ((s.releaseDie d).die d).phase = .running
    ∧ ((s.releaseDie d).die d).clkBase = if d = 0 then s.ctrl.now else (s.die 0).clkBase := by
  unfold State.releaseDie
  rw [State.die_setDie]
  exact ⟨rfl, rfl⟩

/-- What no step of the boot touches. -/
theorem State.bootEffect_keeps (step : Nat) :
    (s.bootEffect step).dev.regs = s.dev.regs ∧ (s.bootEffect step).mem = s.mem := by
  unfold State.bootEffect
  split
  · exact ⟨rfl, rfl⟩
  · exact ⟨rfl, rfl⟩
  · exact ⟨rfl, rfl⟩
  · exact ⟨rfl, rfl⟩

theorem State.bootEffect_other {step : Nat} (h : step ≠ 3 ∧ step ≠ 4 ∧ step ≠ 6) : s.bootEffect step = s := by
  obtain ⟨h3, h4, h6⟩ := h
  unfold State.bootEffect
  split
  · exact absurd rfl h3
  · exact absurd rfl h4
  · exact absurd rfl h6
  · rfl

end

end Sys2Proof.Machine

end

section

namespace Sys2Proof

open Sys2Proof.Machine

/-- Settles O60: each event of the host and of the firmware is followed through the case that the statement names, on the
rules of the requests that wait, of the registers, of the mailbox and of the answers to faults. The model's own choices
here are the log entries 5, 54, 68, 69, 71, 74, 87, 99, 108, 113, 124, 131, 133, 153 and 154, as the statement names them. -/
theorem hostEvents : Obligations.HostEvents := by
  refine ⟨fun n q d w s => ⟨exec_doorbell_of_ignored, fun hvf hq hfirst =>
      ⟨fun t r hring => exec_doorbell_of_ring hvf hq hfirst hring, exec_doorbell_of_ring_waits hvf hq hfirst⟩, exec_doorbell_of_behind, State.ring_of_unnamed, State.ring_of_misaligned⟩,
    fun n ofs len ws s hn hvf => ⟨exec_bar2Access_of_absent hn hvf, exec_bar2Access_of_absent hn hvf⟩,
    fun n ofs len ws s => ⟨fun h => exec_bar2Access_of_beyond (write := none) h,
      fun h => exec_bar2Access_of_beyond (write := some ws) h⟩,
    fun ofs len ws s => ⟨exec_bar2Access_of_pf_read, exec_bar2Access_of_no_vfs, exec_bar2Access_of_pf_write ws⟩,
    fun n ofs len ws s hvf hfirst => ⟨fun h => ⟨exec_bar2Access_of_unnamed hvf hfirst h, exec_bar2Access_of_unnamed hvf hfirst h⟩,
      fun h => ⟨fun hfit => ⟨fun t bs ht => ?readsBytes, fun t ht => ?readsAbort, fun t fs ht => ?readWaits⟩,
        fun hfit => ⟨fun t a ht => ?writes, fun t fs ht => ?writeWaits⟩⟩⟩,
    fun n q v s => ⟨fun hlegal => ?configures, (launchQueueConfigWrite_eventIs n q v s).2⟩, tenantWordWrite_eventIs,
    fun tag v s => ⟨(contextEntryWrite_eventIs tag v s).2, fun hlegal hen hused => ?entryNew, fun hlegal hen hused => ?entryUsed,
      fun hlegal hen => ⟨_, (contextEntryWrite_eventIs tag v s).1 hlegal, State.entryWritten_of_off hen⟩⟩,
    contextKeyLoaded_eventIs, fabcfgWrite_eventIs,
    fun v s => ⟨fun hlegal => ⟨_, (memcfgWrite_eventIs v s).1 hlegal, s.memcfgWritten_keeps _ _ _ _⟩, (memcfgWrite_eventIs v s).2⟩,
    linkcfgWrite_eventIs, contcfgWrite_eventIs,
    fun v s => ⟨fun k hk hlt => ⟨_, exec_registerWrite_hentry hk hlt, ?hentry⟩, exec_registerWrite_hentry_zero,
      fun n hvf => ⟨_, exec_registerWrite_aperture hvf, ?aperture⟩, fun n hvf => exec_registerWrite_aperture_of_no_vf hvf,
      fun n i hn hi htag => ⟨_, exec_registerWrite_outWindow hn hi htag, ?outWindow, rfl⟩,
      fun n i htag => exec_registerWrite_outWindow_of_no_tag htag,
      fun tag i => ⟨fun hlegal => ⟨_, (registerWrite_inWindow_eventIs v tag i s).1 hlegal, ?inWindow, rfl⟩,
        (registerWrite_inWindow_eventIs v tag i s).2⟩,
      ⟨_, exec_registerWrite_mailboxCmd, rfl, rfl⟩, fun ofs h => exec_registerWrite_other_of_none h⟩,
    fun s fn ofs len r => ⟨fun h => State.bar0Read_of_absent h ofs len, fun h hr hbase => State.bar0Read_of_reg h hr hbase⟩,
    fun s hidle => ⟨fun f e hin hmem => ?frameOwner, exec_reservedSlots_accepted hidle,
      fun i hi hup => exec_retireUnit_port hidle hi hup,
      fun k va fr => ⟨_, exec_migratePage_of_idle hidle k va fr, rfl, s.startMigration_spec k va.toNat fr.toNat⟩,
      fun ep ip hep => ⟨_, exec_endpointMap_accepted hidle hep ip, Table.get?_put_self _ _ _⟩,
      fun k p hen => exec_releaseHeld_accepted hidle hen p, fun w hlo hhi => ⟨_, exec_powerLimit_accepted hidle hlo hhi, rfl⟩,
      fun f e w => ⟨exec_frameOwner_refused hidle e, exec_powerLimit_refused hidle⟩⟩,
    fun s hbusy f e m a b c tag va fr ip on w => exec_command_of_busy hbusy f e m a b c tag va fr ip on w,
    fun s c hbusy hflasks hmig => exec_mailboxDone_of_done hbusy hflasks hmig,
    fun s m hm => ⟨fun hstep h => ⟨_, exec_migrationLeaseWaitEnd_of_marked hm hstep h, rfl, rfl⟩,
      exec_migrationLeaseWaitEnd_of_early hm, exec_migrationHandover_of_ready hm, exec_migrationHandover_of_waits hm,
      exec_migrationLeaseWaitEnd_of_switched hm, fun since hidle hsince => ⟨exec_migrationForwardingEnd_of_early hm hidle hsince,
        exec_migrationForwardingEnd_of_drained hm hidle hsince⟩⟩,
    pfrespServe_eventIs,
    fun n f s => ⟨fun hvf hslot => ⟨_, (pfrespDecline_eventIs n f s).1 ⟨hvf, hslot⟩, ?declined⟩, fun h => ?notDeclined⟩,
    fun n s f k hf hk => ⟨_, exec_pageFaultEnqueue_of_free hf hk, ?enqueued⟩, fun n s h => exec_pageFaultEnqueue_of_none h,
    fun s => ⟨⟨_, exec_lostClear none s, rfl⟩, fun n => ⟨fun hvf => ⟨_, exec_lostClear_of_vf hvf, ?lostCleared⟩,
      exec_lostClear_of_no_vf⟩⟩,
    fun n d w s => ⟨exec_sparmreq_of_no_vf, fun hvf hfirst => ⟨fun t r harm => exec_sparmreq_of_arm hvf hfirst harm,
      exec_sparmreq_of_arm_waits hvf hfirst⟩,
      State.armRequest_of_unnamed, State.armRequest_of_misaligned, fun p bs ld i h hd hread => State.armRequest_of_bytes h hd hread⟩,
    fun n v s x hvf hctx hhigh hbit hx htag => ⟨_, exec_spdis_of_named hvf hctx hhigh hbit hx htag, ?disarmed⟩,
    fun n v s hvf => exec_spdis_of_no_vf hvf v,
    fun va len s => ⟨_, exec_invalidateRequest va len s, rfl, not_covered_of_invalidated, fun c => ?coreInvalidated⟩,
    fun s ids hids => ⟨exec_invalidateCompletion_of_done hids, exec_invalidateCompletion_of_waits hids⟩,
    getMeasurements_eventIs,
    fun s => ⟨exec_boot_of_over, fun hstep hfail => ⟨_, exec_boot_of_step hstep hfail, ?boots⟩⟩,
    clockThrottle_eventIs, clockRestore_eventIs⟩
  case readsBytes => exact exec_bar2Access_of_answer hvf hfirst hfit ((State.throughAperture_read h).trans ht)
  case readsAbort => exact exec_bar2Access_of_answer hvf hfirst hfit ((State.throughAperture_read h).trans ht)
  case readWaits => exact exec_bar2Access_of_held hvf hfirst hfit ((State.throughAperture_read h).trans ht)
  case writes => exact exec_bar2Access_of_answer hvf hfirst hfit ((State.throughAperture_write h ws).trans ht)
  case writeWaits => exact exec_bar2Access_of_held hvf hfirst hfit ((State.throughAperture_write h ws).trans ht)
  case configures =>
    refine ⟨_, s.configured ((s.tenant n).queues.get q {}) v, (launchQueueConfigWrite_eventIs n q v s).1 hlegal, ?_,
      rfl, rfl, rfl, rfl, rfl, rfl, rfl, rfl, rfl, rfl⟩
    rw [State.tenant_setTenant]
    exact Table.get?_put_self _ _ _
  case entryNew =>
    refine ⟨_, ((contextEntryWrite_eventIs tag v s).1 hlegal).trans (congrArg _ (State.entryWritten_of_new hen hused)), ?_⟩
    rw [State.context_setContext]
    exact ⟨rfl, rfl, rfl, rfl, rfl, rfl⟩
  case entryUsed =>
    exact ((contextEntryWrite_eventIs tag v s).1 hlegal).trans (congrArg _ (State.entryWritten_of_used hlegal hen hused))
  case hentry =>
    rw [State.context_setContext]
    exact ⟨rfl, rfl⟩
  case aperture =>
    rw [State.tenant_setTenant]
    exact ⟨rfl, rfl⟩
  case outWindow =>
    rw [State.tenant_setTenant]
    exact Table.get?_put_self _ _ _
  case inWindow =>
    rw [State.tenant_setTenant]
    exact Table.get?_put_self _ _ _
  case frameOwner =>
    exact ⟨_, exec_frameOwner_accepted hidle e hin hmem, rfl, s.frameGiven_entry f e, fun h a ha => State.frameGiven_zero h ha⟩
  case declined =>
    have hkeeps := (s.answerFault_decline n f).abortHeld (which := fun h => s.tenantOf h.req.ptag == n && h.faults.contains f)
    refine ⟨?_, hkeeps.1⟩
    rw [hkeeps.tenant, State.tenant_setTenant]
    exact Table.get?_erase_self _ _
  case notDeclined =>
    refine (pfrespDecline_eventIs n f s).2 fun ⟨hvf, hslot⟩ => ?_
    rcases h with h | h
    · exact absurd hvf (h ▸ Bool.false_ne_true)
    · exact absurd hslot (h ▸ Bool.false_ne_true)
  case enqueued =>
    rw [(State.keepsTenants.irq (.refl _)).tenant, State.tenant_setTenant]
    exact Table.get?_put_self _ _ _
  case lostCleared => exact congrArg ErrLog.lost (Table.get_put_self _ _ _ _)
  case disarmed =>
    rw [State.tenant_setTenant]
    refine ⟨rfl, ?_⟩
    rw [State.disarmed_sprues]
    exact Table.get?_erase_self _ _
  case coreInvalidated =>
    rw [State.core, get_cores_invalidated]
    exact ⟨not_covered_of_invalidated, not_covered_of_invalidated⟩
  case boots =>
    obtain ⟨hregs, hmem⟩ := s.bootAdvanced.bootEffect_keeps (s.dev.regs.bootStep + 1)
    refine ⟨hregs, hmem, fun h => ?_, fun h => ?_, fun h => ?_, fun h => State.bootEffect_other (by simpa using h)⟩
    · rw [h]
      obtain ⟨hphase, hbase⟩ := s.bootAdvanced.releaseDie_self 0
      exact ⟨hphase, hbase, State.releaseDie_other Nat.one_ne_zero⟩
    · rw [h]
      obtain ⟨hphase, hbase⟩ := s.bootAdvanced.releaseDie_self 1
      exact ⟨hphase, hbase, State.releaseDie_other Nat.zero_ne_one⟩
    · rw [h]
      exact ⟨rfl, rfl⟩

end Sys2Proof

end

section

/-!
# The checks of a pooled access

A pooled access is judged over its passing lanes, one check after another: alignment, the blocks of its flask, the
allocation. Each check names the lowest lane that fails it, which is the first in the order of the lanes.
-/

namespace Sys2Proof.Machine

open Sys2Proof

/-! ## The first lane that fails a check -/

/-- The lowest passing lane with a property is the first. -/
theorem Ins.firstLane_eq_some {x : Ins} {p : Nat → Bool} {i : Nat} (hi : i < 32) (hpass : x.pass.getLsbD i = true)
    (hp : p i = true) (hlow : ∀ j, j < i → x.pass.getLsbD j = true → p j = false) : x.firstLane p = some i := by
  rw [Ins.firstLane, lanesOf, List.find?_filter, List.find?_range_eq_some]
  refine ⟨by simp [hpass, hp], List.mem_range.mpr hi, fun j hj => ?_⟩
  cases hl : x.pass.getLsbD j with
  | false => simp
  | true => simp [hlow j hj hl]

/-- No lane is first where none passing has the property. -/
theorem Ins.firstLane_eq_none {x : Ins} {p : Nat → Bool}
    (h : ∀ j, j < 32 → x.pass.getLsbD j = true → p j = false) : x.firstLane p = none :=
  List.find?_eq_none.mpr fun j hj => by
    obtain ⟨hlt, hpass⟩ := mem_lanesOf.mp hj
    simp [h j hlt hpass]

/-- Some lane is first where one passing has the property. -/
theorem Ins.firstLane_isSome {x : Ins} {p : Nat → Bool} {i : Nat} (hi : i < 32) (hpass : x.pass.getLsbD i = true)
    (hp : p i = true) : (x.firstLane p).isSome = true :=
  List.find?_isSome.mpr ⟨i, mem_lanesOf.mpr ⟨hi, hpass⟩, hp⟩

/-! ## The checks of a pooled access -/

theorem exec_lds_of_poolCause {a : Args PMod} {s : State} {x : Ins} {c : Nat × Nat}
    (hp : s.prepare (headOf a (.lds a) (a.mod.ord != .sc) (a.mod.ord != .relaxed)) = .run x)
    (hc : s.poolCause x (s.poolAddr x a) a.mod.sz.bytes false a.mod.skew = some c) :
    exec (.lds a) s = .next (s.trapAt x c.1 c.2) := by
  rw [exec_lds]
  refine (issue_run hp).trans ?_
  simp only [State.begin_poolAddr, State.begin_poolCause, hc]
  rfl

theorem exec_sts_of_poolCause {a : Args PMod} {s : State} {x : Ins} {c : Nat × Nat}
    (hp : s.prepare (headOf a (.sts a) false (a.mod.ord != .relaxed)) = .run x)
    (hc : s.poolCause x (s.poolAddr x a) a.mod.sz.bytes false a.mod.skew = some c) :
    exec (.sts a) s = .next (s.trapAt x c.1 c.2) := by
  rw [exec_sts]
  refine (issue_run hp).trans ?_
  simp only [State.begin_poolAddr, State.begin_poolCause, hc]
  rfl

section

variable {s : State} {x : Ins} {addr : Nat → Nat} {n i : Nat} {atom skew : Bool}

theorem State.poolCause_of_misaligned (hi : i < 32) (hpass : x.pass.getLsbD i = true)
    (hmis : s.poolMisaligned (s.block x.bid).flask (addr i) n atom skew = true) :
    s.poolCause x addr n atom skew = some (0x122, 0) :=
  if_pos (Ins.firstLane_isSome (p := fun i => s.poolMisaligned (s.block x.bid).flask (addr i) n atom skew) hi hpass hmis)

variable (hi : i < 32) (hpass : x.pass.getLsbD i = true)
  (haligned : ∀ j, j < 32 → x.pass.getLsbD j = true → s.poolMisaligned (s.block x.bid).flask (addr j) n atom skew = false)
include hi hpass haligned

theorem State.poolCause_of_outside (hat : s.poolAt (s.block x.bid).flask (addr i) n = .cause 0x120)
    (hlow : ∀ j, j < i → x.pass.getLsbD j = true → s.poolAt (s.block x.bid).flask (addr j) n ≠ .cause 0x120) :
    s.poolCause x addr n atom skew = some (0x120, i) := by
  have hout : x.firstLane (fun i => s.poolAt (s.block x.bid).flask (addr i) n == .cause 0x120) = some i :=
    Ins.firstLane_eq_some hi hpass (by simp [hat]) fun j hj hl => by simpa using hlow j hj hl
  simp [State.poolCause, Ins.firstLane_eq_none haligned, hout]

theorem State.poolCause_of_beyond (hat : s.poolAt (s.block x.bid).flask (addr i) n = .cause 0x121)
    (hinside : ∀ j, j < 32 → x.pass.getLsbD j = true → s.poolAt (s.block x.bid).flask (addr j) n ≠ .cause 0x120)
    (hlow : ∀ j, j < i → x.pass.getLsbD j = true → s.poolAt (s.block x.bid).flask (addr j) n ≠ .cause 0x121) :
    s.poolCause x addr n atom skew = some (0x121, i) := by
  have hout : x.firstLane (fun i => s.poolAt (s.block x.bid).flask (addr i) n == .cause 0x120) = none :=
    Ins.firstLane_eq_none fun j hj hl => by simpa using hinside j hj hl
  have hbeyond : x.firstLane (fun i => s.poolAt (s.block x.bid).flask (addr i) n == .cause 0x121) = some i :=
    Ins.firstLane_eq_some hi hpass (by simp [hat]) fun j hj hl => by simpa using hlow j hj hl
  simp [State.poolCause, Ins.firstLane_eq_none haligned, hout, hbeyond]

end

/-- Settles O34: the three checks look for the lowest passing lane that fails them, each where those before it have found
none. -/
theorem pooledChecksTrap : Obligations.PooledChecksTrap :=
  ⟨fun _ _ _ _ hp hc => exec_lds_of_poolCause hp hc, fun _ _ _ _ hp hc => exec_sts_of_poolCause hp hc,
    fun _ _ _ _ _ _ =>
      ⟨fun ⟨_, hi, hpass, hmis⟩ => State.poolCause_of_misaligned hi hpass hmis,
        fun _ hi hpass haligned => ⟨State.poolCause_of_outside hi hpass haligned, State.poolCause_of_beyond hi hpass haligned⟩⟩⟩

end Sys2Proof.Machine

end

section

/-!
# Posted operations

A posted operation finds its pages, signs its writes in an audited pour, registers itself with its squad and sends its
requests. The translation of its addresses touches the homes, the cores and the device alone, the signature the flasks,
and the requests the homes and the combined stores of the squad that go ahead of them. So what stands elsewhere is as
before, and the last request sent is on its way.
-/

namespace Sys2Proof

/-- A table lists what it gives. -/
theorem Table.mem_of_get? {α : Type} {t : Table α} {n : Nat} {v : α} (h : t.get? n = some v) : (n, v) ∈ t := by
  induction t with
  | nil => cases h
  | cons e r ih =>
    obtain ⟨k, w⟩ := e
    simp only [Table.get?] at h
    split at h
    · rename_i hk
      subst hk
      cases h
      exact List.mem_cons_self
    · exact List.mem_cons_of_mem _ (ih h)

end Sys2Proof

namespace Sys2Proof.Machine

open Sys2Proof

/-! ## What a translation and a signature leave (R305, R308, R350, R355) -/

/-- Outside the flasks, the homes, the cores and the device, a state is this one. -/
def State.sameButService (s t : State) : Prop := { t with homes := s.homes, cores := s.cores, dev := s.dev, flasks := s.flasks } = s

namespace State.sameButService

variable {s t u : State}

theorem refl (s : State) : s.sameButService s := rfl

theorem trans (h : s.sameButService t) (h' : t.sameButService u) : s.sameButService u := by
  have hu := congrArg (fun v : State => { v with homes := s.homes, cores := s.cores, dev := s.dev, flasks := s.flasks }) h'
  exact hu.trans h

theorem foldl {β : Type} {f : State → β → State} (l : List β) (hf : ∀ (t : State) b, t.sameButService (f t b)) :
    s.sameButService (l.foldl f s) :=
  List.foldlRecOn l f (refl s) fun _ ht b _ => ht.trans (hf _ b)

theorem frame (h : s.sameButService t) : t.mem = s.mem ∧ t.squads = s.squads ∧ t.blocks = s.blocks
    ∧ t.contexts = s.contexts ∧ t.tenants = s.tenants := by
  have heq : { t with homes := s.homes, cores := s.cores, dev := s.dev, flasks := s.flasks } = s := h
  rw [← heq]
  exact ⟨rfl, rfl, rfl, rfl, rfl⟩

end State.sameButService

theorem State.sameButService_irq (s : State) (tenant : Option Nat) (vec : Nat) : s.sameButService (s.irq tenant vec) := by
  obtain ⟨_, _, _, h⟩ := s.irq_eq tenant vec
  rw [h]
  rfl

theorem State.sameButService_record (s : State) (r : ErrRec) : s.sameButService (s.record r) := by
  obtain ⟨_, _, _, _, _, h⟩ := s.record_eq r
  rw [h]
  rfl

theorem State.sameButService_corrected (s : State) (tag struct key : Nat) : s.sameButService (s.corrected tag struct key) := by
  have hcounted (c : Table (Nat × Nat)) (r : ErrRec) :
      s.sameButService ({ s with dev := { s.dev with corrected := c } }.record r) := by
    refine .trans ?_ (State.sameButService_record _ _)
    rfl
  unfold State.corrected
  extract_lets
  split
  · exact (hcounted _ _).trans (State.sameButService_irq _ _ _)
  · exact hcounted _ _

theorem State.sameButService_correctRead (s : State) (pa n : Nat) : s.sameButService (s.correctRead pa n) := by
  unfold State.correctRead
  split
  · rfl
  · refine .foldl _ fun t u => ?_
    dsimp only
    split
    · refine .trans ?_ (State.sameButService_corrected _ _ _ _)
      rfl
    · rfl

theorem State.sameButService_correctValue (s : State) (pa n : Nat) : s.sameButService (s.correctValue pa n) := by
  unfold State.correctValue
  split
  · rfl
  · exact .foldl _ fun t e => t.sameButService_correctRead e.1 e.2

theorem State.sameButService_ruinTag (s : State) (tag struct key : Nat) : s.sameButService (s.ruinTag tag struct key) := by
  unfold State.ruinTag
  split <;> rfl

theorem State.sameButService_walked (s : State) (die : Option Nat) (tag va : Nat) (w : Walk) :
    s.sameButService (s.walked die tag va w) := by
  unfold State.walked
  split
  · rfl
  · have hreads (l : List Nat) : s.sameButService (l.foldl (fun t a => t.correctValue (s.forward a) 8) s) :=
      .foldl l fun t a => t.sameButService_correctValue _ _
    cases w with
    | damaged k => exact (hreads _).trans (State.sameButService_ruinTag _ _ _ _)
    | leaf | absent | malformed | refused | unbacked | waits => exact hreads _

/-- The translation of an address, whether cached or walked. -/
theorem State.sameButService_translate (s : State) (core tag va : Nat) : s.sameButService (s.translate core tag va).1 := by
  unfold State.translate
  dsimp only
  split
  · split <;> rfl
  · split <;> exact State.sameButService_walked _ _ _ _ _

theorem Coal.sameButService_region (c : Coal) (x : Ins) (k : AccKind) (declined : Table Lanes) (region : Nat) (on : Lanes) :
    c.s.sameButService (c.region x k declined region on).s := by
  unfold Coal.region
  split
  · rfl
  · have hfound := c.s.sameButService_translate (coreOf x.bid) (c.s.tagOfBlock x.bid) (region * 2 ^ 16)
    dsimp only
    split
    case h_4 => exact hfound.trans (State.sameButService_ruinTag _ _ _ _)
    case h_5 => exact hfound
    all_goals split <;> exact hfound

/-- The pages of an instruction found. -/
theorem State.sameButService_coalesce (s : State) (x : Ins) (lanes : Lanes) (addr : Nat → Nat) (n : Nat) (k : AccKind) :
    s.sameButService (s.coalesce x lanes addr n k).s :=
  List.foldlRecOn (motive := fun c : Coal => s.sameButService c.s) _ _ (.refl s) fun c hc _ _ =>
    hc.trans (c.sameButService_region _ _ _ _ _)

/-- The signature of an audited pour's writes is kept with its flask. -/
theorem State.sameButService_sign (s : State) (bid : Nat) (recs : List (List Byte)) : s.sameButService (s.sign bid recs) := by
  unfold State.sign
  split <;> rfl

/-! ## What the sending of requests leaves -/

/-- A squad has sent requests, and nothing else that its instructions see has changed: memory, the blocks, the contexts,
the tenants, and every squad but for its own combined stores are as before. -/
def State.hasSent (s t : State) (x : Ins) : Prop :=
  t.mem = s.mem ∧ t.blocks = s.blocks ∧ t.contexts = s.contexts ∧ t.tenants = s.tenants ∧ s.sameSquadsBut t x
  ∧ ∃ cs, t.squad x.bid x.sq = { s.squad x.bid x.sq with combine := cs }

namespace State.hasSent

variable {s t u : State} {x : Ins}

theorem refl (s : State) (x : Ins) : s.hasSent s x := ⟨rfl, rfl, rfl, rfl, fun _ _ _ => rfl, _, rfl⟩

theorem trans (h : s.hasSent t x) (h' : t.hasSent u x) : s.hasSent u x := by
  obtain ⟨hmem, hblocks, hcontexts, htenants, hothers, cs, hsquad⟩ := h
  obtain ⟨hmem', hblocks', hcontexts', htenants', hothers', cs', hsquad'⟩ := h'
  exact ⟨hmem'.trans hmem, hblocks'.trans hblocks, hcontexts'.trans hcontexts, htenants'.trans htenants,
    fun b q hne => (hothers' b q hne).trans (hothers b q hne), cs', by rw [hsquad', hsquad]⟩

theorem foldl {β : Type} {f : State → β → State} (l : List β) (hf : ∀ (t : State) b, t.hasSent (f t b) x) :
    s.hasSent (l.foldl f s) x :=
  List.foldlRecOn (motive := fun t => s.hasSent t x) l f (refl s x) fun _ ht b _ => ht.trans (hf _ b)

end State.hasSent

theorem State.hasSent_sendCombine (s : State) (x : Ins) (c : Combine) : s.hasSent (s.sendCombine x.bid x.sq c) x :=
  ⟨rfl, rfl, rfl, rfl, fun _ _ hne => State.squad_setSquad_ne _ _ hne, _, State.squad_setSquad _ _ _ _⟩

theorem State.hasSent_makeReqs (s : State) (x : Ins) (k : ReqKind) (rs : List Routed) : s.hasSent (s.makeReqs x k rs) x :=
  .trans (.foldl _ fun t c => t.hasSent_sendCombine x c) (.foldl _ fun t _ => .refl t x)

/-! ## The requests of a posted operation (R197, R199) -/

/-- An operation that a home performs in the form in which it was issued, whatever the page. -/
def ReqOp.plain : ReqOp → Bool
  | .load _ | .store _ => false
  | .atom _ _ | .cred | .crfold => true

/-- A request of a squad for an instruction, with an operation, is on its way. -/
def State.onItsWay (t : State) (x : Ins) (inst : Nat) (op : ReqOp) : Prop :=
  ∃ e ∈ t.homes.reqs, e.2.inst = inst ∧ e.2.bid = x.bid ∧ e.2.sq = x.sq ∧ e.2.status = .sent ∧ e.2.op = op

theorem State.makeReq_onItsWay (s : State) (x : Ins) {k : ReqKind} (hop : k.op.plain = true) (e : Routed × List Piece) :
    (s.makeReq x k e).onItsWay x k.inst k.op := by
  refine ⟨_, Table.mem_of_get? (Table.get?_put_self _ s.ctrl.nextId _), rfl, rfl, rfl, rfl, ?_⟩
  dsimp only
  split
  · split <;> simp_all [ReqOp.plain]
  · rfl

theorem gather_ne_nil {rs : List Routed} (h : rs ≠ []) : gather rs ≠ [] := by
  cases rs with
  | nil => exact absurd rfl h
  | cons r rest =>
    rw [gather]
    dsimp only
    split <;> exact List.cons_ne_nil _ _

/-- Of the requests of an instruction that makes an access, the last is on its way. -/
theorem State.makeReqs_onItsWay (s : State) (x : Ins) {k : ReqKind} (hop : k.op.plain = true) {rs : List Routed}
    (hrs : rs ≠ []) : (s.makeReqs x k rs).onItsWay x k.inst k.op := by
  have hgather : gather (rs.map k.routed) ≠ [] := gather_ne_nil (mt List.map_eq_nil_iff.mp hrs)
  rw [State.makeReqs, ← List.dropLast_concat_getLast hgather, List.foldl_concat]
  exact State.makeReq_onItsWay _ x hop _

/-- A posted operation other than a store does not combine: it registers itself and sends its pieces. -/
theorem State.post_eq_makeReqs (s : State) (x : Ins) {op : ReqOp} (hop : op.plain = true) (ord : MemOrd)
    (sc : Option Scope) (rs : List Routed) :
    s.post x (fun id => { op, ord, sc, inst := id }) rs
      = (s.addPosted x.bid x.sq (laneSet (rs.map fun r => r.piece.lane))).1.makeReqs x
          { op, ord, sc, inst := s.ctrl.nextId } rs := by
  have hpieces : ReqKind.pieces { op, ord, sc, inst := 0 } rs = rs := by
    cases op with
    | store own => cases hop
    | load _ | atom _ _ | cred | crfold => rfl
  have hjoins (r : Routed) : s.combines x { op, ord, sc, inst := 0 } r = false := rfl
  simp only [State.post, hpieces, hjoins, List.filter_false, List.foldl_nil, Bool.not_false, List.filter_true]
  rfl

/-- What a posted operation leaves before its sub-group advances: it stands last among its squad's posted instructions,
a request for it is on its way, and nothing else but the squad's combined stores has changed. -/
theorem State.post_sends (s : State) (x : Ins) {op : ReqOp} (hop : op.plain = true) (ord : MemOrd) (sc : Option Scope)
    {rs : List Routed} (hrs : rs ≠ []) :
    let t := s.post x (fun id => { op, ord, sc, inst := id }) rs
    t.mem = s.mem ∧ t.blocks = s.blocks ∧ t.contexts = s.contexts ∧ t.tenants = s.tenants ∧ s.sameSquadsBut t x
    ∧ ∃ p cs, t.squad x.bid x.sq
        = { s.squad x.bid x.sq with posted := (s.squad x.bid x.sq).posted ++ [p], combine := cs }
      ∧ t.onItsWay x p.id op := by
  rw [s.post_eq_makeReqs x hop]
  obtain ⟨p, hposted, hid⟩ : ∃ p, (s.addPosted x.bid x.sq (laneSet (rs.map fun r => r.piece.lane))).1.squad x.bid x.sq
      = { s.squad x.bid x.sq with posted := (s.squad x.bid x.sq).posted ++ [p] } ∧ p.id = s.ctrl.nextId :=
    ⟨_, State.squad_setSquad s x.bid x.sq _, rfl⟩
  obtain ⟨hmem, hblocks, hcontexts, htenants, hothers, cs, hsquad⟩ := State.hasSent_makeReqs
    (s.addPosted x.bid x.sq (laneSet (rs.map fun r => r.piece.lane))).1 x { op, ord, sc, inst := s.ctrl.nextId } rs
  refine ⟨hmem, hblocks, hcontexts, htenants, fun b q hne => (hothers b q hne).trans (State.squad_setSquad_ne _ _ hne),
    p, cs, by rw [hsquad, hposted], ?_⟩
  rw [hid]
  exact State.makeReqs_onItsWay _ x hop hrs

/-! ## The issue of a posted operation -/

theorem lanesOf_ne_nil {m : Lanes} (h : m ≠ 0) : lanesOf m ≠ [] := by
  intro hnil
  refine h (BitVec.eq_of_getLsbD_eq fun i hi => ?_)
  have hnot : i ∉ lanesOf m := hnil ▸ List.not_mem_nil
  simpa [mem_lanesOf, hi] using hnot

/-- A lane that makes its access makes it in one piece or more. -/
theorem Coal.pieces_ne_nil (c : Coal) (lane va n : Nat) (data : List Byte) (cmp : Nat) : c.pieces lane va n data cmp ≠ [] := by
  unfold Coal.pieces lineParts
  dsimp only
  split <;> exact List.cons_ne_nil _ _

theorem Coal.faults_of_none {c : Coal} (h : c.absent = []) (x : Ins) (kind : Nat) : c.faults x kind = (c.s, []) := by
  simp [Coal.faults, h]

/-- The lanes of a sub-group at an issue are not none. -/
theorem State.lanes_ne_zero_of_prepare {s : State} {h : Head} {x : Ins} (hp : s.prepare h = .run x) : x.lanes ≠ 0 := by
  obtain ⟨hat, hpass, -⟩ := State.prepare_run hp
  rintro hlanes
  unfold State.insAt at hat
  dsimp only at hat
  split at hat
  · split at hat
    · cases hat
      simp_all [RegFile.passing]
    · cases hat
  · cases hat

/-- A memory access in which no lane parks and none traps completes at the next instruction. -/
theorem Result.apply_mem_of_made {x : Ins} (hlanes : x.lanes ≠ 0) (t : State) (done : Lanes) (h : Hint) (s : State) :
    (Result.mem t 0 [] done none).apply x h s = t.finish x h := by
  have hgoing : x.lanes &&& ~~~(0 : Lanes) = x.lanes := BitVec.and_allOnes
  simp only [Result.apply, State.parkLanes, hgoing, hlanes, if_true, if_false, Bool.false_eq_true]
  rfl

theorem State.begin_globalAddr (s : State) (x : Ins) (o : Opnd) (imm : Word) :
    (s.begin x).globalAddr x o imm = s.globalAddr x o imm := by
  funext i
  simp only [State.globalAddr, State.begin_get]

/-- A posted operation whose lanes all make their access is signed and sent, and completes. -/
theorem exec_of_postedOp {i : Instr} {op : ReqOp} {kind code : Nat} {h : Head} {a : Args GMod}
    {opd : Ins → State → Nat → Nat} (hexec : exec i = postedOp op kind code h a opd) {s : State} {x : Ins}
    (hp : s.prepare h = .run x) (hcause : globalCause x (s.globalAddr x a.a a.imm) a.mod.sz.bytes true = none) {c : Coal}
    (hc : (s.begin x).coalesce x x.pass (s.globalAddr x a.a a.imm) a.mod.sz.bytes .rmw = c)
    (hwaits : c.waits = false) (htrap : c.trap = none) (hparked : c.parked = 0) (habsent : c.absent = [])
    (hmade : c.made x.pass (s.globalAddr x a.a a.imm) a.mod.sz.bytes = x.pass) :
    ∃ recs rs, rs ≠ [] ∧ exec i s = .next (((c.s.sign x.bid recs).post x
      (fun id => { op, ord := a.mod.ord, sc := a.mod.sc, inst := id }) rs).finish x h.hint) := by
  obtain ⟨-, hpass, -⟩ := State.prepare_run hp
  have hlanes := State.lanes_ne_zero_of_prepare hp
  have hsome : ((lanesOf x.pass).flatMap fun i => c.pieces i (s.globalAddr x a.a a.imm i) a.mod.sz.bytes
      (leBytes a.mod.sz.bytes (opd x (s.begin x) i)) 0) ≠ [] := by
    obtain ⟨i, l, hl⟩ := List.exists_cons_of_ne_nil (lanesOf_ne_nil hpass)
    simp [hl, c.pieces_ne_nil]
  have hissue := (congrFun hexec s).trans (issue_run hp)
  simp only [State.begin_globalAddr, hcause, hc, hwaits, htrap, hparked, hmade, Coal.faults_of_none habsent,
    Bool.false_eq_true, if_false, hpass, Result.apply_mem_of_made hlanes] at hissue
  exact ⟨_, _, hsome, hissue⟩

/-- An access that has changed nothing but what one on its way changes leaves the rest alone when its sub-group
advances. -/
theorem State.accessFrame_finish {s e : State} {x : Ins} (hint : Hint) (hothers : s.sameSquadsBut e x)
    (hblocks : e.blocks = s.blocks) (hcontexts : e.contexts = s.contexts) (htenants : e.tenants = s.tenants)
    (hrf : (e.squad x.bid x.sq).rf = (s.squad x.bid x.sq).rf)
    (hcause : (e.squad x.bid x.sq).cause = (s.squad x.bid x.sq).cause)
    (hpc : (e.squad x.bid x.sq).trapPc = (s.squad x.bid x.sq).trapPc) : s.accessFrame (e.finish x hint) x := by
  obtain ⟨-, -, hfblocks, -, -, hfcontexts, hftenants, -⟩ := e.finish_other x hint
  obtain ⟨hfcause, hfpc, -⟩ := e.finish_sameRest x hint
  have hfrf := (e.finish_rf x hint).trans hrf
  exact ⟨hothers.finish hint, hfblocks.trans hblocks, hfcontexts.trans hcontexts, hftenants.trans htenants,
    congrArg RegFile.v hfrf, congrArg RegFile.s hfrf, congrArg RegFile.p hfrf, hfcause.symm.trans hcause,
    hfpc.symm.trans hpc⟩

/-- Every posted operation of a home is sent. -/
theorem postedSends_of_postedOp {i : Instr} {op : ReqOp} (hop : op.plain = true) {kind code : Nat} {a : Args GMod}
    {opd : Ins → State → Nat → Nat}
    (hexec : exec i = postedOp op kind code (orderedHead a i (a.mod.ord != .relaxed)) a opd) : PostedSends op i a := by
  intro s x hp hcause c hwaits htrap hparked habsent hmade
  obtain ⟨recs, rs, hrs, hnext⟩ := exec_of_postedOp (c := c) hexec hp hcause rfl hwaits htrap hparked habsent hmade
  have hfound : (s.begin x).sameButService (c.s.sign x.bid recs) :=
    ((s.begin x).sameButService_coalesce _ _ _ _ _).trans (c.s.sameButService_sign _ _)
  obtain ⟨hmem, hsquads, hblocks, hcontexts, htenants⟩ := hfound.frame
  obtain ⟨hpmem, hpblocks, hpcontexts, hptenants, hothers, p, cs, hsquad, hway⟩ :=
    (c.s.sign x.bid recs).post_sends x hop a.mod.ord a.mod.sc hrs
  rw [State.squad_of_squads hsquads] at hsquad
  generalize (c.s.sign x.bid recs).post x (fun id => { op, ord := a.mod.ord, sc := a.mod.sc, inst := id }) rs = u at *
  obtain ⟨hfmem, hfhomes, -⟩ := u.finish_other x a.hint
  have hfway : (u.finish x a.hint).onItsWay x p.id op := by
    rw [State.onItsWay, hfhomes]
    exact hway
  obtain ⟨hbcause, hbpc, -, -, hbposted, -⟩ := s.begin_sameRest x
  refine ⟨_, hnext, hfmem.trans (hpmem.trans hmem), ?_, ?_, p, ?_, hfway⟩
  · rw [State.finish_rf, hsquad]
    exact s.begin_rf x
  · refine State.accessFrame_finish _ (fun b q hne => ?_) (hpblocks.trans hblocks) (hpcontexts.trans hcontexts)
      (hptenants.trans htenants) ?_ ?_ ?_
    · exact (hothers b q hne).trans ((State.squad_of_squads hsquads b q).trans (s.begin_squad_ne x b q hne))
    · rw [hsquad]
      exact s.begin_rf x
    · rw [hsquad]
      exact hbcause.symm
    · rw [hsquad]
      exact hbpc.symm
  · obtain ⟨-, -, -, -, hposted, -⟩ := u.finish_sameRest x a.hint
    refine hposted.symm.trans ?_
    rw [hsquad, hbposted]

theorem reductionSends_of_globalReduction {i : Instr} {op : AtomOp} {a : Args GMod}
    (hexec : exec i = globalReduction op (orderedHead a i (a.mod.ord != .relaxed)) a) : ReductionSends op i a :=
  postedSends_of_postedOp rfl hexec

theorem exec_cred (a : Args GMod) : exec (.cred a) = postedOp .cred 2 0 (orderedHead a (.cred a) (a.mod.ord != .relaxed)) a
    fun x s i => (s.get1 x a.b i).toNat % 2 ^ (8 * a.mod.sz.bytes) := rfl

theorem exec_crfold (a : Args GMod) :
    exec (.crfold a) = postedOp .crfold 3 0 (orderedHead a (.crfold a) (a.mod.ord != .relaxed)) a fun _ _ _ => 0 := rfl

/-- Settles O37: each instruction is a posted operation of its own kind, which signs, registers itself and sends its
requests before its sub-group advances. -/
theorem postedOperationsSend : Obligations.PostedOperationsSend :=
  ⟨fun _ => reductionSends_of_globalReduction rfl,  -- redg.add
    fun _ => reductionSends_of_globalReduction rfl,  -- redg.min
    fun _ => reductionSends_of_globalReduction rfl,  -- redg.max
    fun _ => reductionSends_of_globalReduction rfl,  -- redg.and
    fun _ => reductionSends_of_globalReduction rfl,  -- redg.or
    fun _ => reductionSends_of_globalReduction rfl,  -- redg.xor
    fun _ => reductionSends_of_globalReduction rfl,  -- redg.inc
    fun _ => reductionSends_of_globalReduction rfl,  -- redg.dec
    fun _ => reductionSends_of_globalReduction rfl,  -- redg.fadd
    fun _ => reductionSends_of_globalReduction rfl,  -- redg.fmin
    fun _ => reductionSends_of_globalReduction rfl,  -- redg.fmax
    fun a => postedSends_of_postedOp rfl (exec_cred a),
    fun a => postedSends_of_postedOp rfl (exec_crfold a)⟩

end Sys2Proof.Machine

end

section

/-!
# The lines of a stack cache

A line that is made the most recently used, and a byte written into a line, leave every other byte of a squad's stack.
So a squad may be followed through a run of either by what it keeps: the lines that it held, in a cache that is no fuller,
and everything but its registers, their log and its stack cache.
-/

namespace Sys2Proof.Machine

open Sys2Proof

/-! ## Lanes -/

theorem lanesOf_laneBit : ∀ i, i < 32 → lanesOf (laneBit i) = [i] := by decide

theorem lowestLane_mem {m : Lanes} (h : m ≠ 0) : lowestLane m ∈ lanesOf m := by
  obtain ⟨i, l, hl⟩ := List.exists_cons_of_ne_nil (lanesOf_ne_nil h)
  simp [lowestLane, hl]

theorem laneSet_lanesOf (m : Lanes) : laneSet (lanesOf m) = m := by
  refine BitVec.eq_of_getLsbD_eq fun i hi => ?_
  rw [getLsbD_laneSet hi]
  simp [mem_lanesOf, hi]

/-- The lanes that make their access are among those that pass. -/
theorem mem_lanesOf_onceOf {d : Opnd} {m : Lanes} {i : Nat} (h : i ∈ lanesOf (onceOf d m)) : i ∈ lanesOf m := by
  unfold onceOf at h
  split at h
  · rename_i hc
    have hm : m ≠ 0 := by simp_all
    have hlow := lowestLane_mem hm
    rw [lanesOf_laneBit _ (mem_lanesOf.mp hlow).1, List.mem_singleton] at h
    exact h ▸ hlow
  · exact h

/-! ## The lines of a squad's stack cache -/

/-- The line of a key among some lines. -/
theorem Squad.stackLine_def (q : Squad) (k : Nat) : q.stackLine k = q.stack.find? fun l => l.key == k := rfl

/-- The byte of a lane at an offset, in a line that is present. -/
def Squad.stackByte (q : Squad) (lane o : Nat) : Byte :=
  match q.stackLine (o / 4) with
  | some l => (l.bytes[lane * 4 + o % 4]?).getD 0
  | none => 0

theorem State.stackByte_eq (s : State) (bid sq lane o : Nat) :
    s.stackByte bid sq lane o = (s.squad bid sq).stackByte lane o := rfl

/-- A squad holds the lines that another holds, in a cache that is no fuller, and differs from it in its registers and
their log besides. -/
def Squad.holdsLines (q q' : Squad) (r : RegFile) : Prop :=
  ∃ ls log, q' = { q with rf := r, log := log, stack := ls } ∧ ls.length ≤ q.stack.length
    ∧ (∀ k, (q.stackLine k).isSome = true → (q'.stackLine k).isSome = true)
    ∧ ((∀ l ∈ q.stack, l.bytes.length = 128) → ∀ l ∈ ls, l.bytes.length = 128)

theorem Squad.holdsLines.trans {q q' q'' : Squad} {r r' : RegFile} (h : q.holdsLines q' r) (h' : q'.holdsLines q'' r') :
    q.holdsLines q'' r' := by
  obtain ⟨ls, log, rfl, hlen, hlines, hbytes⟩ := h
  obtain ⟨ls', log', rfl, hlen', hlines', hbytes'⟩ := h'
  exact ⟨ls', log', rfl, hlen'.trans hlen, fun k hk => hlines' k (hlines k hk), fun hall => hbytes' (hbytes hall)⟩

theorem Squad.holdsLines_refl (q : Squad) : q.holdsLines q q.rf := ⟨_, _, rfl, le_rfl, fun _ h => h, fun h => h⟩

/-- The squad with a line made the most recently used. -/
def Squad.touched (q : Squad) (l : StackLine) : Squad := { q with stack := (q.stack.filter fun e => e.key != l.key) ++ [l] }

theorem Squad.stackLine_touched {q : Squad} {l : StackLine} (hl : q.stackLine l.key = some l) (k : Nat) :
    (q.touched l).stackLine k = q.stackLine k := by
  simp only [Squad.stackLine_def, Squad.touched, List.find?_append] at hl ⊢
  by_cases hk : k = l.key
  · subst hk
    have hnone : ((q.stack.filter fun e => e.key != l.key).find? fun e => e.key == l.key) = none :=
      List.find?_eq_none.mpr fun e he => by simpa using (List.mem_filter.mp he).2
    simp [hnone, hl]
  · have hsame : ((q.stack.filter fun e => e.key != l.key).find? fun e => e.key == k)
        = q.stack.find? fun e => e.key == k := by
      rw [List.find?_filter]
      congr 1
      funext e
      by_cases he : e.key = k
      · simp [he, hk]
      · simp [he]
    simp [hsame, Ne.symm hk]

theorem Squad.stackByte_touched {q : Squad} {l : StackLine} (hl : q.stackLine l.key = some l) (lane o : Nat) :
    (q.touched l).stackByte lane o = q.stackByte lane o := by
  simp only [Squad.stackByte, Squad.stackLine_touched hl]

theorem Squad.holdsLines_touched {q : Squad} {l : StackLine} (hl : q.stackLine l.key = some l) :
    q.holdsLines (q.touched l) q.rf := by
  have hmem : l ∈ q.stack := List.mem_of_find?_eq_some hl
  refine ⟨_, q.log, rfl, ?_, fun k hk => by rwa [Squad.stackLine_touched hl], fun hall e he => ?_⟩
  · have hlt : (q.stack.filter fun e => e.key != l.key).length < q.stack.length :=
      List.length_filter_lt_length_iff_exists.mpr ⟨l, hmem, by simp⟩
    simpa using hlt
  · rcases List.mem_append.mp he with he | he
    · exact hall e (List.mem_of_mem_filter he)
    · exact List.mem_singleton.mp he ▸ hall l hmem

/-! ## The bytes of a line -/

/-- A line with one byte written. -/
def StackLine.setByte (l : StackLine) (lane o : Nat) (b : Byte) : StackLine :=
  if l.key == o / 4 then { l with bytes := l.bytes.set (lane * 4 + o % 4) b, dirty := true } else l

@[simp] theorem StackLine.key_setByte (l : StackLine) (lane o : Nat) (b : Byte) : (l.setByte lane o b).key = l.key := by
  unfold StackLine.setByte
  split <;> rfl

@[simp] theorem StackLine.length_setByte (l : StackLine) (lane o : Nat) (b : Byte) :
    (l.setByte lane o b).bytes.length = l.bytes.length := by
  unfold StackLine.setByte
  split
  · exact List.length_set
  · rfl

/-- The squad with a byte of its stack written. -/
def Squad.setStackByte (q : Squad) (lane o : Nat) (b : Byte) : Squad :=
  { q with stack := q.stack.map fun l => l.setByte lane o b }

theorem State.setStackByte_eq (s : State) (bid sq lane o : Nat) (b : Byte) :
    s.setStackByte bid sq lane o b = s.setSquad bid sq ((s.squad bid sq).setStackByte lane o b) := rfl

theorem Squad.stackLine_setStackByte (q : Squad) (lane o : Nat) (b : Byte) (k : Nat) :
    (q.setStackByte lane o b).stackLine k = (q.stackLine k).map fun l => l.setByte lane o b := by
  simp [Squad.stackLine_def, Squad.setStackByte, List.find?_map]

theorem Squad.holdsLines_setStackByte (q : Squad) (lane o : Nat) (b : Byte) :
    q.holdsLines (q.setStackByte lane o b) q.rf := by
  refine ⟨_, q.log, rfl, by simp, fun k hk => ?_, fun hall l hl => ?_⟩
  · rw [Squad.stackLine_setStackByte, Option.isSome_map]
    exact hk
  · obtain ⟨e, he, rfl⟩ := List.mem_map.mp hl
    simpa using hall e he

/-- The byte written is read back. -/
theorem Squad.stackByte_setStackByte_self {q : Squad} {lane o : Nat} (b : Byte) (hlane : lane < 32)
    (hline : (q.stackLine (o / 4)).isSome = true) (hbytes : ∀ l ∈ q.stack, l.bytes.length = 128) :
    (q.setStackByte lane o b).stackByte lane o = b := by
  obtain ⟨l, hl⟩ := Option.isSome_iff_exists.mp hline
  have hkey : l.key = o / 4 := by simpa using List.find?_some hl
  have hlt : lane * 4 + o % 4 < l.bytes.length := by
    rw [hbytes l (List.mem_of_find?_eq_some hl)]
    omega
  simp [Squad.stackByte, Squad.stackLine_setStackByte, hl, StackLine.setByte, hkey, hlt]

/-- Every other byte, of this lane and of the others, is as before. -/
theorem Squad.stackByte_setStackByte_ne (q : Squad) {lane o lane' o' : Nat} (b : Byte) (h : lane' ≠ lane ∨ o' ≠ o) :
    (q.setStackByte lane o b).stackByte lane' o' = q.stackByte lane' o' := by
  rw [Squad.stackByte, Squad.stackByte, Squad.stackLine_setStackByte]
  cases hl : q.stackLine (o' / 4) with
  | none => rfl
  | some l =>
    have hkey : l.key = o' / 4 := by simpa using List.find?_some hl
    by_cases hk : o' / 4 = o / 4
    · have hne : lane * 4 + o % 4 ≠ lane' * 4 + o' % 4 := by omega
      simp [StackLine.setByte, hkey, hk, List.getElem?_set_ne hne]
    · simp [StackLine.setByte, hkey, hk]

/-! ## A squad alone at its stack -/

/-- A state differs from another in one squad alone. -/
def State.sameButSquad (s t : State) (x : Ins) : Prop := t = { s with squads := t.squads } ∧ s.sameSquadsBut t x

theorem State.sameButSquad_refl (s : State) (x : Ins) : s.sameButSquad s x := ⟨rfl, fun _ _ _ => rfl⟩

theorem State.sameButSquad.trans {s t u : State} {x : Ins} (h : s.sameButSquad t x) (h' : t.sameButSquad u x) :
    s.sameButSquad u x := by
  obtain ⟨heq, hothers⟩ := h
  obtain ⟨heq', hothers'⟩ := h'
  refine ⟨heq'.trans ?_, fun b q hne => (hothers' b q hne).trans (hothers b q hne)⟩
  rw [heq]

theorem State.sameButSquad_setSquad (s : State) (x : Ins) (q : Squad) : s.sameButSquad (s.setSquad x.bid x.sq q) x :=
  ⟨rfl, fun _ _ hne => State.squad_setSquad_ne _ _ hne⟩

theorem State.sameButSquad.frame {s t : State} {x : Ins} (h : s.sameButSquad t x) : t.mem = s.mem ∧ t.blocks = s.blocks
    ∧ t.contexts = s.contexts ∧ t.tenants = s.tenants ∧ t.dev = s.dev := by
  rw [h.1]
  exact ⟨rfl, rfl, rfl, rfl, rfl⟩

/-- The register values of the squad are those of its register file and of the state outside the squads. -/
theorem State.sameButSquad.regNat {s t : State} {x : Ins} (h : s.sameButSquad t x)
    (hrf : (t.squad x.bid x.sq).rf = (s.squad x.bid x.sq).rf) (o : Opnd) (w i : Nat) :
    t.regNat x.bid x.sq o w i = s.regNat x.bid x.sq o w i := by
  have hword : ∀ k, t.regWord x.bid x.sq o k i = s.regWord x.bid x.sq o k i := by
    intro k
    cases o with
    | sp y =>
      rw [h.1]
      rfl
    | v _ | s _ | p _ => simp only [State.regWord, hrf]
    | t _ | acc _ | bad _ => rfl
  simp only [State.regNat, hword]

/-- A state in which the squad holds the lines that it held, and nothing but the squad has changed. -/
def State.holdsLines (s t : State) (x : Ins) (r : RegFile) : Prop :=
  s.sameButSquad t x ∧ (s.squad x.bid x.sq).holdsLines (t.squad x.bid x.sq) r

theorem State.holdsLines_refl (s : State) (x : Ins) : s.holdsLines s x (s.squad x.bid x.sq).rf :=
  ⟨s.sameButSquad_refl x, Squad.holdsLines_refl _⟩

theorem State.holdsLines.trans {s t u : State} {x : Ins} {r r' : RegFile} (h : s.holdsLines t x r)
    (h' : t.holdsLines u x r') : s.holdsLines u x r' := by
  obtain ⟨hsame, hlines⟩ := h
  obtain ⟨hsame', hlines'⟩ := h'
  exact ⟨hsame.trans hsame', hlines.trans hlines'⟩

theorem State.holdsLines_setSquad {s : State} {x : Ins} {q : Squad} {r : RegFile}
    (h : (s.squad x.bid x.sq).holdsLines q r) : s.holdsLines (s.setSquad x.bid x.sq q) x r :=
  ⟨s.sameButSquad_setSquad x q, by rwa [State.squad_setSquad]⟩

theorem Squad.holdsLines.rf {q q' : Squad} {r : RegFile} (h : q.holdsLines q' r) : q'.rf = r := by
  obtain ⟨_, _, rfl, -⟩ := h
  rfl

theorem Squad.holdsLines.line {q q' : Squad} {r : RegFile} (h : q.holdsLines q' r) {k : Nat}
    (hk : (q.stackLine k).isSome = true) : (q'.stackLine k).isSome = true := by
  obtain ⟨_, _, -, -, hlines, -⟩ := h
  exact hlines k hk

theorem Squad.holdsLines.full {q q' : Squad} {r : RegFile} (h : q.holdsLines q' r)
    (hfull : ∀ l ∈ q.stack, l.bytes.length = 128) : ∀ l ∈ q'.stack, l.bytes.length = 128 := by
  obtain ⟨_, _, rfl, -, -, hbytes⟩ := h
  exact hbytes hfull

/-! ## The lines of a lane (R196) -/

/-- A line that is present becomes the most recently used. -/
theorem State.touchStack_of_line {s : State} {bid sq key : Nat} {l : StackLine}
    (hl : (s.squad bid sq).stackLine key = some l) :
    s.touchStack bid sq key = s.setSquad bid sq ((s.squad bid sq).touched l) := by
  have hkey : l.key = key := by simpa using List.find?_some hl
  simp only [State.touchStack, hl, Squad.touched, hkey]

theorem State.holdsLines_touchStack {s : State} {x : Ins} {key : Nat}
    (h : ((s.squad x.bid x.sq).stackLine key).isSome = true) :
    s.holdsLines (s.touchStack x.bid x.sq key) x (s.squad x.bid x.sq).rf
    ∧ ∀ lane o, ((s.touchStack x.bid x.sq key).squad x.bid x.sq).stackByte lane o
        = (s.squad x.bid x.sq).stackByte lane o := by
  obtain ⟨l, hl⟩ := Option.isSome_iff_exists.mp h
  have hkey : l.key = key := by simpa using List.find?_some hl
  have hself : (s.squad x.bid x.sq).stackLine l.key = some l := by rwa [hkey]
  rw [State.touchStack_of_line hl, State.squad_setSquad]
  exact ⟨State.holdsLines_setSquad (Squad.holdsLines_touched hself), Squad.stackByte_touched hself⟩

/-- The lines of a lane that are present are made the most recently used, with their bytes as they are. -/
theorem State.holdsLines_touchAll {s : State} {x : Ins} {o n : Nat}
    (h : ∀ k ∈ stackKeys o n, ((s.squad x.bid x.sq).stackLine k).isSome = true) :
    s.holdsLines (s.touchAll x.bid x.sq o n) x (s.squad x.bid x.sq).rf
    ∧ ∀ lane o', ((s.touchAll x.bid x.sq o n).squad x.bid x.sq).stackByte lane o'
        = (s.squad x.bid x.sq).stackByte lane o' := by
  refine List.foldlRecOn (motive := fun t : State => s.holdsLines t x (s.squad x.bid x.sq).rf
    ∧ ∀ lane o', (t.squad x.bid x.sq).stackByte lane o' = (s.squad x.bid x.sq).stackByte lane o') _ _
    ⟨s.holdsLines_refl x, fun _ _ => rfl⟩ fun t ⟨ht, hbytes⟩ k hk => ?_
  obtain ⟨htouch, hsame⟩ := State.holdsLines_touchStack (ht.2.line (h k hk))
  rw [ht.2.rf] at htouch
  exact ⟨ht.trans htouch, fun lane o' => (hsame lane o').trans (hbytes lane o')⟩

/-- The line of each byte of an access is among those that it touches. -/
theorem mem_stackKeys {o n k : Nat} (hk : k < n) : (o + k) / 4 ∈ stackKeys o n := by
  refine List.mem_map.mpr ⟨(o + k) / 4 - o / 4, List.mem_range.mpr ?_, ?_⟩ <;> omega

end Sys2Proof.Machine

end

section

/-!
# Stack loads and stores

A stack access whose lines are in the stack cache fills none: each lane makes its lines the most recently used and is
performed, a load on the registers and a store on the bytes of the lines. The line that is then filled ahead is a new one
in a cache with room, behind those that it holds.
-/

namespace Sys2Proof.Machine

open Sys2Proof

/-! ## An access whose lines are present -/

/-- No unit is damaged, and the lines of every passing lane are present. -/
def State.stackReady (s : State) (x : Ins) (ofs : Nat → Nat) (n : Nat) : Prop :=
  s.dev.damage = [] ∧ ∀ i ∈ lanesOf x.pass, s.stackFills x ofs n i = []

theorem State.stackFills_eq_nil {s : State} {x : Ins} {ofs : Nat → Nat} {n i : Nat} :
    s.stackFills x ofs n i = [] ↔ ∀ k ∈ stackKeys (ofs i) n, ((s.squad x.bid x.sq).stackLine k).isSome = true := by
  simp [State.stackFills, List.filter_eq_nil_iff, Option.isSome_iff_ne_none]

theorem State.stackReady.of_holdsLines {s t : State} {x : Ins} {ofs : Nat → Nat} {n : Nat} {r : RegFile}
    (h : s.stackReady x ofs n) (ht : s.holdsLines t x r) : t.stackReady x ofs n := by
  obtain ⟨hd, hfills⟩ := h
  obtain ⟨-, -, -, -, hdev⟩ := ht.1.frame
  refine ⟨by rw [hdev, hd], fun i hi => State.stackFills_eq_nil.mpr fun k hk => ?_⟩
  exact ht.2.line (State.stackFills_eq_nil.mp (hfills i hi) k hk)

section

variable {s : State} {x : Ins} {ofs : Nat → Nat} {n : Nat} (h : ∀ i ∈ lanesOf x.pass, s.stackFills x ofs n i = [])
include h

/-- No page is looked up. -/
theorem State.stackPages_of_present : s.stackPages x ofs n = { s } := by
  have hregions : (lanesOf x.pass).foldl (fun t i => (s.stackFills x ofs n i).foldl
      (fun (t : Table Unit) k => t.put (s.stackLineAddr x.bid x.sq k / 2 ^ 16) ()) t) [] = [] :=
    List.foldlRecOn (motive := fun t : Table Unit => t = []) _ _ rfl fun t ht i hi => by rw [h i hi]; exact ht
  simp only [State.stackPages, hregions, List.foldl_nil]

/-- Every passing lane is made. -/
theorem State.stackMade_of_present : s.stackMade x { s } ofs n = x.pass := by
  have hall : (lanesOf x.pass).filter (fun i => (s.stackFills x ofs n i).all fun k =>
      Table.has ([] : Table (Target × Nat × Bool)) (s.stackLineAddr x.bid x.sq k / 2 ^ 16)) = lanesOf x.pass :=
    List.filter_eq_self.mpr fun i hi => by simp [h i hi]
  have hnone : x.pass &&& ~~~(0 : Lanes) = x.pass := BitVec.and_allOnes
  simp only [State.stackMade, hnone, hall, laneSet_lanesOf]

theorem State.stackRefused_of_present (c : Coal) : s.stackRefused x c x.pass ofs n = none :=
  List.findSome?_eq_none_iff.mpr fun i hi => by rw [h i hi]; rfl

theorem State.fillDamage_of_present (c : Coal) : s.fillDamage x c x.pass ofs n = none :=
  List.findSome?_eq_none_iff.mpr fun i hi => by rw [h i hi]; rfl

end

/-- A lane whose lines are present is performed with its lines the most recently used. -/
theorem StackRun.lane_of_present {r : StackRun} {x : Ins} {ofs : Nat → Nat} {n i : Nat} (perform : State → State)
    (hi : i < 32) (hfills : r.s.stackFills x ofs n i = []) (hwaits : r.waits = false) (htrap : r.trap = none)
    (hdead : r.dead = none) :
    r.lane x ofs n perform i
      = { r with s := perform (r.s.touchAll x.bid x.sq (ofs i) n), done := r.done ||| laneBit i } := by
  have hone : ∀ j ∈ lanesOf ({ x with pass := laneBit i } : Ins).pass,
      r.s.stackFills { x with pass := laneBit i } ofs n j = [] := by
    intro j hj
    rw [lanesOf_laneBit i hi, List.mem_singleton] at hj
    exact hj ▸ hfills
  have hpages := State.stackPages_of_present hone
  have hmade := State.stackMade_of_present hone
  have hrefused := State.stackRefused_of_present hone { s := r.s }
  have hdamage := State.fillDamage_of_present hone { s := r.s }
  simp only at hmade hrefused hdamage
  simp only [StackRun.lane, hpages, hmade, hrefused, hdamage, hfills, hwaits, htrap, hdead, Option.isSome_none,
    Bool.or_false, List.any_nil, bne_self_eq_false, Bool.false_eq_true, if_false]

/-! ## The run over the lanes -/

/-- The lanes of a stack access performed one after another, each with its lines the most recently used. -/
def State.stackRun (s : State) (x : Ins) (ofs : Nat → Nat) (n : Nat) (lane : Ins → State → Nat → Nat → State)
    (l : List Nat) : State :=
  l.foldl (fun t i => lane x (t.touchAll x.bid x.sq (ofs i) n) (ofs i) i) s

theorem State.stackRun_concat (s : State) (x : Ins) (ofs : Nat → Nat) (n : Nat)
    (lane : Ins → State → Nat → Nat → State) (l : List Nat) (i : Nat) :
    s.stackRun x ofs n lane (l ++ [i])
      = lane x ((s.stackRun x ofs n lane l).touchAll x.bid x.sq (ofs i) n) (ofs i) i :=
  List.foldl_concat _ _ _ _

/-- What one lane does leaves the lines of every lane present. -/
def StackKeeps (x : Ins) (ofs : Nat → Nat) (n : Nat) (lane : Ins → State → Nat → Nat → State) : Prop :=
  ∀ (t : State) (i : Nat), t.stackReady x ofs n → i ∈ lanesOf x.pass →
    (lane x (t.touchAll x.bid x.sq (ofs i) n) (ofs i) i).stackReady x ofs n

section

variable {x : Ins} {ofs : Nat → Nat} {n : Nat} {lane : Ins → State → Nat → Nat → State}
  (hkeeps : StackKeeps x ofs n lane) {l : List Nat} (hl : ∀ i ∈ l, i ∈ lanesOf x.pass) {s : State}
  (hready : s.stackReady x ofs n)
include hkeeps hl hready

theorem State.stackReady_stackRun : (s.stackRun x ofs n lane l).stackReady x ofs n :=
  List.foldlRecOn (motive := fun t : State => t.stackReady x ofs n) l _ hready fun t ht i hi => hkeeps t i ht (hl i hi)

/-- A run in which the lines stay present performs every lane and meets nothing. -/
theorem StackRun.foldl_lane_of_ready : l.foldl (fun (r : StackRun) i => r.lane x ofs n (fun t => lane x t (ofs i) i) i) { s }
    = { s := s.stackRun x ofs n lane l, done := laneSet l } := by
  induction l using List.reverseRecOn with
  | nil => rfl
  | append_singleton l i ih =>
    obtain ⟨hl', hi⟩ := List.forall_mem_append.mp hl
    have hpass := hi i List.mem_cons_self
    obtain ⟨-, hfills⟩ := State.stackReady_stackRun hkeeps hl' hready
    rw [List.foldl_concat, ih hl', State.stackRun_concat]
    refine (StackRun.lane_of_present _ (mem_lanesOf.mp hpass).1 (hfills i hpass) rfl rfl rfl).trans ?_
    simp [laneSet]

end

/-! ## The issue of a stack access -/

theorem State.begin_stackOfs (s : State) (x : Ins) (a : Args PMod) : (s.begin x).stackOfs x a = s.stackOfs x a := by
  funext i
  simp only [State.stackOfs, State.begin_get1]

theorem State.begin_stackCause (s : State) (x : Ins) (ofs : Nat → Nat) (n : Nat) :
    (s.begin x).stackCause x ofs n = s.stackCause x ofs n := rfl

theorem State.begin_stackFills (s : State) (x : Ins) (ofs : Nat → Nat) (n i : Nat) :
    (s.begin x).stackFills x ofs n i = s.stackFills x ofs n i := by
  simp [State.stackFills, State.begin, Squad.stackLine]

theorem State.begin_stackReady {s : State} {x : Ins} {ofs : Nat → Nat} {n : Nat} (hd : s.dev.damage = [])
    (h : ∀ i, i < 32 → x.pass.getLsbD i = true → s.stackFills x ofs n i = []) : (s.begin x).stackReady x ofs n :=
  ⟨hd, fun i hi => (s.begin_stackFills x ofs n i).trans (h i (mem_lanesOf.mp hi).1 (mem_lanesOf.mp hi).2)⟩

/-- The line above the lowest of some lanes, filled ahead. -/
def State.filledAhead (t : State) (x : Ins) (ofs : Nat → Nat) (l : List Nat) : State :=
  (lowestKey ofs l).elim t (t.fillAhead x)

/-- The lanes that a stack access performs. -/
def Ins.stackLanes (x : Ins) (store : Bool) (d : Opnd) : List Nat := lanesOf (if store then x.pass else onceOf d x.pass)

theorem Ins.mem_stackLanes {x : Ins} {store : Bool} {d : Opnd} {i : Nat} (h : i ∈ x.stackLanes store d) :
    i ∈ lanesOf x.pass := by
  cases store with
  | true => exact h
  | false => exact mem_lanesOf_onceOf h

/-- A stack access that passes its checks, and whose lines are present, performs its lanes, fills ahead and completes. -/
theorem exec_of_stackAccess {i : Instr} {h : Head} {a : Args PMod} {store : Bool} {lane : Ins → State → Nat → Nat → State}
    (hexec : exec i = stackAccess h a store lane) {s : State} {x : Ins} (hp : s.prepare h = .run x)
    (hcause : s.stackCause x (s.stackOfs x a) a.mod.sz.bytes = none)
    (hready : (s.begin x).stackReady x (s.stackOfs x a) a.mod.sz.bytes)
    (hkeeps : StackKeeps x (s.stackOfs x a) a.mod.sz.bytes lane) :
    exec i s = .next ((((s.begin x).stackRun x (s.stackOfs x a) a.mod.sz.bytes lane (x.stackLanes store a.d)).filledAhead x
      (s.stackOfs x a) (x.stackLanes store a.d)).finish x h.hint) := by
  have hlanes := State.lanes_ne_zero_of_prepare hp
  obtain ⟨hd, hfills⟩ := id hready
  have hnone : (lanesOf x.pass).any (fun i => ((s.begin x).stackFills x (s.stackOfs x a) a.mod.sz.bytes i).any fun k =>
      ((s.begin x).squad x.bid x.sq).spilling k) = false :=
    List.any_eq_false.mpr fun i hi => by simp [hfills i hi]
  have hrun := StackRun.foldl_lane_of_ready hkeeps (l := x.stackLanes store a.d) (fun _ => Ins.mem_stackLanes) hready
  have hfold : lanesOf (if store then x.pass else onceOf a.d x.pass) = x.stackLanes store a.d := rfl
  have hdone : lanesOf (laneSet (x.stackLanes store a.d)) = x.stackLanes store a.d := congrArg lanesOf (laneSet_lanesOf _)
  have hissue := (congrFun hexec s).trans (issue_run hp)
  simp only [State.begin_stackOfs, State.begin_stackCause, hcause, State.poolDamage_of_sound hd,
    State.stackPages_of_present hfills, State.stackMade_of_present hfills, State.stackRefused_of_present hfills, hnone,
    hfold, hrun, hdone] at hissue
  exact hissue.trans (congrArg _ (Result.apply_mem_of_made hlanes _ _ _ _))

/-! ## The line filled ahead (R196) -/

theorem State.evictStack_of_room {s : State} {bid sq : Nat} (h : (s.squad bid sq).stack.length < 32) :
    s.evictStack bid sq = s := by
  unfold State.evictStack
  dsimp only
  split
  · rfl
  · exact if_pos h

/-- A line that is not present, and need not be read back, is put behind those of a cache with room. -/
theorem State.touchStack_of_room {s : State} {bid sq key : Nat} (hd : s.dev.damage = [])
    (hline : (s.squad bid sq).stackLine key = none) (hroom : (s.squad bid sq).stack.length < 32)
    (hback : (s.squad bid sq).readsBack key = false) :
    ∃ l, s.touchStack bid sq key = s.setSquad bid sq { s.squad bid sq with stack := (s.squad bid sq).stack ++ [l] } := by
  have hbacking : s.backing bid sq key = (s, ((s.squad bid sq).sentLine key).getD (List.replicate 128 0)) := by
    simp [State.backing, hback]
  simp only [State.touchStack, hline, hbacking, State.evictStack_of_room hroom, State.repair_of_sound hd]
  exact ⟨_, rfl⟩

/-- Nothing has changed but the squad's stack cache, where every line that it held is as it was. -/
def State.fillsBehind (t u : State) (x : Ins) : Prop :=
  t.sameButSquad u x ∧ ∃ ls, u.squad x.bid x.sq = { t.squad x.bid x.sq with stack := ls }
    ∧ ∀ k, ((t.squad x.bid x.sq).stackLine k).isSome = true →
      (u.squad x.bid x.sq).stackLine k = (t.squad x.bid x.sq).stackLine k

theorem State.fillsBehind_refl (t : State) (x : Ins) : t.fillsBehind t x :=
  ⟨t.sameButSquad_refl x, _, rfl, fun _ _ => rfl⟩

/-- A squad holds a line, or can fill it into a cache with room without reading it back. -/
def Squad.roomFor (q : Squad) (k : Nat) : Prop :=
  (q.stack.length < 32 ∧ q.readsBack k = false) ∨ (q.stackLine k).isSome = true

theorem Squad.holdsLines.roomFor {q q' : Squad} {r : RegFile} (h : q.holdsLines q' r) {k : Nat} (hk : q.roomFor k) :
    q'.roomFor k := by
  rcases hk with ⟨hlen, hback⟩ | hline
  · obtain ⟨ls, log, rfl, hle, -⟩ := h
    exact .inl ⟨hle.trans_lt hlen, hback⟩
  · exact .inr (h.line hline)

theorem State.fillsBehind_fillAhead {t : State} {x : Ins} {lowest : Nat} (hd : t.dev.damage = [])
    (hroom : (t.squad x.bid x.sq).roomFor (lowest + 1)) : t.fillsBehind (t.fillAhead x lowest) x := by
  unfold State.fillAhead
  extract_lets k q fills
  split
  · exact t.fillsBehind_refl x
  · rename_i hfill
    have hline : q.stackLine k = none := by simp_all
    obtain ⟨hlen, hback⟩ := hroom.resolve_right (Option.isSome_iff_ne_none.not_left.mpr hline)
    obtain ⟨l, htouch⟩ := State.touchStack_of_room hd hline hlen hback
    rw [htouch, State.fillsBehind, State.squad_setSquad]
    refine ⟨t.sameButSquad_setSquad x _, _, rfl, fun m hm => ?_⟩
    obtain ⟨e, he⟩ := Option.isSome_iff_exists.mp hm
    rw [Squad.stackLine_def] at he ⊢
    rw [Squad.stackLine_def, he]
    simp [List.find?_append, he]

/-- The line above the lowest of some lanes that have room for the lines above theirs. -/
theorem State.fillsBehind_filledAhead {t : State} {x : Ins} {ofs : Nat → Nat} {l : List Nat} (hd : t.dev.damage = [])
    (hroom : ∀ i ∈ l, (t.squad x.bid x.sq).roomFor (ofs i / 4 + 1)) : t.fillsBehind (t.filledAhead x ofs l) x := by
  unfold State.filledAhead
  cases hlow : lowestKey ofs l with
  | none => exact t.fillsBehind_refl x
  | some k =>
    obtain ⟨i, hi, rfl⟩ := List.mem_map.mp (List.min?_mem hlow)
    exact State.fillsBehind_fillAhead hd (hroom i hi)

theorem State.begin_roomFor {s : State} {x : Ins} {a : Args PMod} (h : s.stackRoom x a) {i : Nat}
    (hi : i ∈ lanesOf x.pass) : ((s.begin x).squad x.bid x.sq).roomFor (s.stackOfs x a i / 4 + 1) := by
  obtain ⟨hlt, hpass⟩ := mem_lanesOf.mp hi
  rw [State.begin, State.squad_setSquad]
  rcases h with ⟨hlen, hback⟩ | hline
  · exact .inl ⟨hlen, hback i hlt hpass⟩
  · exact .inr (hline i hlt hpass)

/-! ## What a stack access leaves -/

/-- The lines that a stack access fills ahead leave every byte of the lines that are present. -/
theorem State.fillsBehind.stackByte {t u : State} {x : Ins} (h : t.fillsBehind u x) {o : Nat}
    (ho : ((t.squad x.bid x.sq).stackLine (o / 4)).isSome = true) (lane : Nat) :
    (u.squad x.bid x.sq).stackByte lane o = (t.squad x.bid x.sq).stackByte lane o := by
  obtain ⟨-, ls, -, hlines⟩ := h
  simp only [Squad.stackByte, hlines _ ho]

/-- A stack access whose lanes leave the registers r completes with them, and has changed nothing else outside its squad's
log and stack cache, where the bytes that its lanes left stand. -/
theorem exec_of_stackRun {i : Instr} {h : Head} {a : Args PMod} {store : Bool} {lane : Ins → State → Nat → Nat → State}
    (hexec : exec i = stackAccess h a store lane) {s : State} {x : Ins} (hp : s.prepare h = .run x)
    (hroom : s.stackRoom x a) (hcause : s.stackCause x (s.stackOfs x a) a.mod.sz.bytes = none)
    (hready : (s.begin x).stackReady x (s.stackOfs x a) a.mod.sz.bytes)
    (hkeeps : StackKeeps x (s.stackOfs x a) a.mod.sz.bytes lane) {t : State} {r : RegFile}
    (ht : (s.begin x).stackRun x (s.stackOfs x a) a.mod.sz.bytes lane (x.stackLanes store a.d) = t)
    (hrun : (s.begin x).holdsLines t x r) :
    ∃ u, exec i s = .next (u.finish x h.hint) ∧ s.sameButSquad u x ∧ (u.squad x.bid x.sq).rf = r
      ∧ (u.squad x.bid x.sq).cause = (s.squad x.bid x.sq).cause
      ∧ (u.squad x.bid x.sq).trapPc = (s.squad x.bid x.sq).trapPc
      ∧ ∀ lane o, ((t.squad x.bid x.sq).stackLine (o / 4)).isSome = true →
          (u.squad x.bid x.sq).stackByte lane o = (t.squad x.bid x.sq).stackByte lane o := by
  have hnext := exec_of_stackAccess hexec hp hcause hready hkeeps
  rw [ht] at hnext
  obtain ⟨hd, -⟩ := hready.of_holdsLines hrun
  have hfilled : t.fillsBehind (t.filledAhead x (s.stackOfs x a) (x.stackLanes store a.d)) x :=
    State.fillsBehind_filledAhead hd fun i hi => hrun.2.roomFor (State.begin_roomFor hroom (Ins.mem_stackLanes hi))
  obtain ⟨hsame, ls, log, hsquad, -⟩ := hrun
  obtain ⟨hsame', ls', hsquad', -⟩ := id hfilled
  obtain ⟨hbcause, hbpc, -⟩ := s.begin_sameRest x
  refine ⟨_, hnext, (s.sameButSquad_setSquad x _).trans (hsame.trans hsame'), ?_, ?_, ?_,
    fun lane o ho => hfilled.stackByte ho lane⟩
  · rw [hsquad', hsquad]
  · rw [hsquad', hsquad]
    exact hbcause.symm
  · rw [hsquad', hsquad]
    exact hbpc.symm

/-! ## The stack load -/

theorem RegFile.agreeBut.mono {r r' : RegFile} {o : Opnd} {w : Nat} {lanes lanes' : Lanes} (h : r.agreeBut r' o w lanes)
    (hle : ∀ i, i < 32 → lanes.getLsbD i = true → lanes'.getLsbD i = true) : r.agreeBut r' o w lanes' := by
  obtain ⟨hv, hrest⟩ := h
  refine ⟨fun n i hi hc => hv n i hi ?_, hrest⟩
  cases hl : lanes.getLsbD i with
  | false => exact Bool.and_false _
  | true => rwa [hle i hi hl] at hc

/-- The register file with the w registers of an operand written from a number in each of some lanes, one after
another. -/
def RegFile.loadLanes (r : RegFile) (o : Opnd) (w : Nat) (f : Nat → Nat) (l : List Nat) : RegFile :=
  l.foldl (fun r i => r.writeNat o w (laneBit i) fun _ => f i) r

theorem RegFile.loadLanes_concat (r : RegFile) (o : Opnd) (w : Nat) (f : Nat → Nat) (l : List Nat) (i : Nat) :
    r.loadLanes o w f (l ++ [i]) = (r.loadLanes o w f l).writeNat o w (laneBit i) fun _ => f i :=
  List.foldl_concat _ _ _ _

theorem RegFile.loadLanes_agreeBut (r : RegFile) (o : Opnd) (w : Nat) (f : Nat → Nat) {l : List Nat} {lanes : Lanes}
    (hl : ∀ i ∈ l, lanes.getLsbD i = true) : r.agreeBut (r.loadLanes o w f l) o w lanes :=
  List.foldlRecOn (motive := fun r' => r.agreeBut r' o w lanes) l _ (r.agreeBut_refl o w lanes) fun r' h i hi =>
    h.trans ((r'.writeNat_agreeBut o w (laneBit i) _).mono fun j hj hbit => by
      rw [getLsbD_laneBit hj, decide_eq_true_iff] at hbit
      exact hbit ▸ hl i hi)

/-- A vector register written lane by lane holds each lane's word. -/
theorem RegFile.vec_loadLanes (r : RegFile) (n : BitVec 8) {k w i : Nat} (hk : k < w) (hi : i < 32) (f : Nat → Nat)
    {l : List Nat} (hl : i ∈ l) :
    (r.loadLanes (.v n) w f l).vec (n.toNat + k) i = BitVec.ofNat 32 (f i / 2 ^ (32 * k)) := by
  induction l using List.reverseRecOn with
  | nil => cases hl
  | append_singleton l j ih =>
    rw [RegFile.loadLanes_concat]
    by_cases hij : i = j
    · subst hij
      exact RegFile.vec_writeNat _ n hk hi (by simp [getLsbD_laneBit hi]) _
    · obtain ⟨hvec, -⟩ := (r.loadLanes (.v n) w f l).writeNat_agreeBut (.v n) w (laneBit j) fun _ => f j
      rw [hvec _ i hi (by simp [getLsbD_laneBit hi, hij])]
      exact ih (by simpa [hij] using hl)

/-- A destination written in each lane that makes its access holds their words. -/
theorem State.wordsIn_of_loadLanes {t : State} {x : Ins} {o : Opnd} {w : Nat} {f : Nat → Nat} {r : RegFile}
    (hpass : x.pass ≠ 0) (h : (t.squad x.bid x.sq).rf = r.loadLanes o w f (lanesOf (onceOf o x.pass))) :
    t.wordsIn x o w f := by
  intro k hk
  cases o with
  | v n =>
    intro i hi hl
    rw [State.regWord, h]
    exact r.vec_loadLanes n hk hi f (mem_lanesOf.mpr ⟨hi, hl⟩)
  | s n =>
    intro i
    have hlow := (mem_lanesOf.mp (lowestLane_mem hpass)).1
    have honce : onceOf (.s n) x.pass = laneBit x.lane := if_pos (by simpa [Opnd.uniformDst] using hpass)
    rw [State.regWord, h, honce, lanesOf_laneBit x.lane hlow]
    exact r.scalar_writeNat n hk (laneBit x.lane) _
  | t _ | acc _ | p _ | sp _ | bad _ => exact trivial

theorem Squad.holdsLines_writeNat (q : Squad) (o : Opnd) (w : Nat) (lanes : Lanes) (f : Nat → Nat) :
    q.holdsLines (q.writeNat o w lanes f) (q.rf.writeNat o w lanes f) := by
  rw [Squad.writeNat_eq]
  exact ⟨q.stack, _, rfl, le_rfl, fun _ h => h, fun h => h⟩

theorem Squad.stackByte_writeNat (q : Squad) (o : Opnd) (w : Nat) (lanes : Lanes) (f : Nat → Nat) :
    (q.writeNat o w lanes f).stackByte = q.stackByte := by
  rw [Squad.writeNat_eq]
  rfl

/-- The number that a stack load brings to a lane: the bytes at its offset, extended (R191). -/
def Squad.stackLoaded (q : Squad) (a : Args PMod) (o i : Nat) : Nat :=
  extendLoad a.mod.sz.bytes a.mod.sx (leNat ((List.range a.mod.sz.bytes).map fun k => q.stackByte i (o + k)))

theorem Squad.stackLoaded_congr {q q' : Squad} (h : ∀ lane o, q'.stackByte lane o = q.stackByte lane o) (a : Args PMod)
    (o i : Nat) : q'.stackLoaded a o i = q.stackLoaded a o i := by
  simp only [Squad.stackLoaded, h]

/-- One lane of `ldk`, its lines being present. -/
def ldkLane (a : Args PMod) (x : Ins) (s : State) (o i : Nat) : State :=
  let t := s.repair (operandUnits x.bid x.sq a.d a.mod.sz.regs (laneBit i))
  t.setSquad x.bid x.sq ((t.squad x.bid x.sq).writeNat a.d a.mod.sz.regs (laneBit i) fun _ =>
    (s.squad x.bid x.sq).stackLoaded a o i)

theorem exec_ldk (a : Args PMod) : exec (.ldk a) = stackAccess (headOf a (.ldk a) true) a false (ldkLane a) := rfl

section

variable {a : Args PMod} {x : Ins} {ofs : Nat → Nat}

/-- A lane of a load writes its number, and leaves the lines and their bytes. -/
theorem State.ldkLane_holdsLines {t : State} {i : Nat} (ht : t.stackReady x ofs a.mod.sz.bytes)
    (hi : i ∈ lanesOf x.pass) :
    let u := ldkLane a x (t.touchAll x.bid x.sq (ofs i) a.mod.sz.bytes) (ofs i) i
    t.holdsLines u x ((t.squad x.bid x.sq).rf.writeNat a.d a.mod.sz.regs (laneBit i) fun _ =>
        (t.squad x.bid x.sq).stackLoaded a (ofs i) i)
    ∧ ∀ lane o, (u.squad x.bid x.sq).stackByte lane o = (t.squad x.bid x.sq).stackByte lane o := by
  intro u
  obtain ⟨htouch, hbytes⟩ := State.holdsLines_touchAll (State.stackFills_eq_nil.mp (ht.2 i hi))
  obtain ⟨hd, -⟩ := ht.of_holdsLines htouch
  have hu : u = (t.touchAll x.bid x.sq (ofs i) a.mod.sz.bytes).setSquad x.bid x.sq
      (((t.touchAll x.bid x.sq (ofs i) a.mod.sz.bytes).squad x.bid x.sq).writeNat a.d a.mod.sz.regs (laneBit i) fun _ =>
        (t.squad x.bid x.sq).stackLoaded a (ofs i) i) := by
    simp only [u, ldkLane, State.repair_of_sound hd, Squad.stackLoaded_congr hbytes]
  rw [hu, State.squad_setSquad, Squad.stackByte_writeNat]
  refine ⟨htouch.trans ?_, hbytes⟩
  rw [← htouch.2.rf]
  exact State.holdsLines_setSquad (Squad.holdsLines_writeNat _ _ _ _ _)

theorem stackKeeps_ldkLane : StackKeeps x ofs a.mod.sz.bytes (ldkLane a) := fun _ _ ht hi =>
  ht.of_holdsLines (State.ldkLane_holdsLines ht hi).1

/-- The lanes of a load write the numbers of the lines as they were. -/
theorem State.stackRun_ldkLane {s : State} (hs : s.stackReady x ofs a.mod.sz.bytes) {l : List Nat}
    (hl : ∀ i ∈ l, i ∈ lanesOf x.pass) :
    s.holdsLines (s.stackRun x ofs a.mod.sz.bytes (ldkLane a) l) x ((s.squad x.bid x.sq).rf.loadLanes a.d a.mod.sz.regs
        (fun i => (s.squad x.bid x.sq).stackLoaded a (ofs i) i) l)
    ∧ ∀ lane o, ((s.stackRun x ofs a.mod.sz.bytes (ldkLane a) l).squad x.bid x.sq).stackByte lane o
        = (s.squad x.bid x.sq).stackByte lane o := by
  induction l using List.reverseRecOn with
  | nil => exact ⟨s.holdsLines_refl x, fun _ _ => rfl⟩
  | append_singleton l i ih =>
    obtain ⟨hl', hi⟩ := List.forall_mem_append.mp hl
    obtain ⟨hrun, hbytes⟩ := ih hl'
    obtain ⟨hlane, hlanebytes⟩ := State.ldkLane_holdsLines (hs.of_holdsLines hrun) (hi i List.mem_cons_self)
    rw [hrun.2.rf, Squad.stackLoaded_congr hbytes] at hlane
    rw [State.stackRun_concat, RegFile.loadLanes_concat]
    exact ⟨hrun.trans hlane, fun lane o => (hlanebytes lane o).trans (hbytes lane o)⟩

end

theorem State.begin_stackByte (s : State) (x : Ins) :
    ((s.begin x).squad x.bid x.sq).stackByte = (s.squad x.bid x.sq).stackByte := by
  rw [State.begin, State.squad_setSquad]
  rfl

/-- `ldk` completes with its registers loaded. -/
theorem stackLoadCompletes {a : Args PMod} {s : State} {x : Ins} (hp : s.prepare (headOf a (.ldk a) true) = .run x)
    (hroom : s.stackRoom x a) (hcause : s.stackCause x (s.stackOfs x a) a.mod.sz.bytes = none) (hd : s.dev.damage = [])
    (hfills : ∀ i, i < 32 → x.pass.getLsbD i = true → s.stackFills x (s.stackOfs x a) a.mod.sz.bytes i = []) :
    ∃ t, exec (.ldk a) s = .next t ∧ t.mem = s.mem
      ∧ (t.wordsIn x a.d a.mod.sz.regs fun i => (s.squad x.bid x.sq).stackLoaded a (s.stackOfs x a i) i)
      ∧ s.loadFrame t x a.d a.mod.sz.regs := by
  obtain ⟨-, hpass, -⟩ := State.prepare_run hp
  have hready := State.begin_stackReady hd hfills
  obtain ⟨hrun, -⟩ := State.stackRun_ldkLane hready fun _ => Ins.mem_stackLanes (store := false) (d := a.d)
  obtain ⟨u, hnext, hsame, hrf, hsquadcause, hpc, -⟩ :=
    exec_of_stackRun (exec_ldk a) hp hroom hcause hready stackKeeps_ldkLane rfl hrun
  simp only [State.begin_rf, Squad.stackLoaded_congr fun lane o => congrFun₂ (s.begin_stackByte x) lane o] at hrf
  obtain ⟨hmem, hblocks, -⟩ := hsame.frame
  obtain ⟨hfmem, -, hfblocks, -⟩ := u.finish_other x a.hint
  obtain ⟨hfcause, hfpc, -⟩ := u.finish_sameRest x a.hint
  have hfrf := (u.finish_rf x a.hint).trans hrf
  refine ⟨u.finish x a.hint, hnext, hfmem.trans hmem, State.wordsIn_of_loadLanes hpass hfrf, ?_, hsame.2.finish a.hint,
    hfblocks.trans hblocks, hfcause.symm.trans hsquadcause, hfpc.symm.trans hpc⟩
  rw [hfrf]
  exact RegFile.loadLanes_agreeBut _ _ _ _ fun i hi => (mem_lanesOf.mp (Ins.mem_stackLanes hi)).2

/-! ## The stack store -/

theorem zipIdx_leBytes (n v : Nat) : (leBytes n v).zipIdx = (List.range n).map fun k => (BitVec.ofNat 8 (v / 256 ^ k), k) := by
  apply List.ext_getElem <;> simp [leBytes]

/-- Bytes of a lane written from an offset on, one after another, in lines that are present: they stand there, and every
byte of another lane is as before. -/
theorem State.holdsLines_setStackBytes (t : State) (x : Ins) {i : Nat} (hi : i < 32) (o : Nat) (b : Nat → Byte) (n : Nat)
    (hlines : ∀ k, k < n → ((t.squad x.bid x.sq).stackLine ((o + k) / 4)).isSome = true) :
    let u := (List.range n).foldl (fun u k => u.setStackByte x.bid x.sq i (o + k) (b k)) t
    t.holdsLines u x (t.squad x.bid x.sq).rf
    ∧ (∀ lane o', lane ≠ i → (u.squad x.bid x.sq).stackByte lane o' = (t.squad x.bid x.sq).stackByte lane o')
    ∧ ((∀ l ∈ (t.squad x.bid x.sq).stack, l.bytes.length = 128) →
        ∀ k, k < n → (u.squad x.bid x.sq).stackByte i (o + k) = b k) := by
  induction n with
  | zero => exact ⟨t.holdsLines_refl x, fun _ _ _ => rfl, fun _ k hk => absurd hk k.not_lt_zero⟩
  | succ n ih =>
    obtain ⟨hrun, hothers, hbytes⟩ := ih fun k hk => hlines k (hk.trans n.lt_succ_self)
    rw [List.range_succ, List.foldl_concat, State.setStackByte_eq]
    generalize (List.range n).foldl _ t = v at hrun hothers hbytes
    have hset := State.holdsLines_setSquad (x := x) ((v.squad x.bid x.sq).holdsLines_setStackByte i (o + n) (b n))
    rw [hrun.2.rf] at hset
    intro u
    simp only [u, State.squad_setSquad]
    refine ⟨hrun.trans hset, fun lane o' hne => ?_, fun hfull k hk => ?_⟩
    · exact (Squad.stackByte_setStackByte_ne _ _ (.inl hne)).trans (hothers lane o' hne)
    · rcases Nat.lt_succ_iff_lt_or_eq.mp hk with hlt | rfl
      · exact (Squad.stackByte_setStackByte_ne _ _ (.inr (by omega))).trans (hbytes hfull k hlt)
      · exact Squad.stackByte_setStackByte_self _ hi (hrun.2.line (hlines k hk)) (hrun.2.full hfull)

/-- The byte that a stack store puts at a place of its data in a lane. -/
def State.stackData (s : State) (x : Ins) (a : Args PMod) (i k : Nat) : Byte :=
  BitVec.ofNat 8 (s.regNat x.bid x.sq a.d a.mod.sz.regs i / 256 ^ k)

/-- One lane of `stk`, its lines being present. -/
def stkLane (a : Args PMod) (x : Ins) (s : State) (o i : Nat) : State :=
  (leBytes a.mod.sz.bytes (s.regNat x.bid x.sq a.d a.mod.sz.regs i)).zipIdx.foldl
    (fun s b => s.setStackByte x.bid x.sq i (o + b.2) b.1) (s.repair (stackUnits x.bid x.sq i o a.mod.sz.bytes))

theorem exec_stk (a : Args PMod) : exec (.stk a) = stackAccess (headOf a (.stk a)) a true (stkLane a) := rfl

section

variable {a : Args PMod} {x : Ins} {ofs : Nat → Nat}

/-- A lane of a store leaves the registers, the lines and the bytes of every other lane, and puts its bytes. -/
theorem State.stkLane_holdsLines {t : State} {i : Nat} (ht : t.stackReady x ofs a.mod.sz.bytes)
    (hi : i ∈ lanesOf x.pass) :
    let u := stkLane a x (t.touchAll x.bid x.sq (ofs i) a.mod.sz.bytes) (ofs i) i
    t.holdsLines u x (t.squad x.bid x.sq).rf
    ∧ (∀ lane o, lane ≠ i → (u.squad x.bid x.sq).stackByte lane o = (t.squad x.bid x.sq).stackByte lane o)
    ∧ ((∀ l ∈ (t.squad x.bid x.sq).stack, l.bytes.length = 128) →
        ∀ k, k < a.mod.sz.bytes → (u.squad x.bid x.sq).stackByte i (ofs i + k) = t.stackData x a i k) := by
  have hlines := State.stackFills_eq_nil.mp (ht.2 i hi)
  obtain ⟨htouch, hbytes⟩ := State.holdsLines_touchAll hlines
  obtain ⟨hd, -⟩ := ht.of_holdsLines htouch
  rw [stkLane, htouch.1.regNat htouch.2.rf, zipIdx_leBytes, State.repair_of_sound hd, List.foldl_map]
  obtain ⟨hrun, hothers, hdata⟩ := State.holdsLines_setStackBytes (t.touchAll x.bid x.sq (ofs i) a.mod.sz.bytes) x
    (mem_lanesOf.mp hi).1 (ofs i) (t.stackData x a i) a.mod.sz.bytes
    fun k hk => htouch.2.line (hlines _ (mem_stackKeys hk))
  rw [htouch.2.rf] at hrun
  exact ⟨htouch.trans hrun, fun lane o hne => (hothers lane o hne).trans (hbytes lane o),
    fun hfull => hdata (htouch.2.full hfull)⟩

theorem stackKeeps_stkLane : StackKeeps x ofs a.mod.sz.bytes (stkLane a) := fun _ _ ht hi =>
  ht.of_holdsLines (State.stkLane_holdsLines ht hi).1

/-- The lanes of a store put their bytes, each in its own words of the lines. -/
theorem State.stackRun_stkLane {s : State} (hs : s.stackReady x ofs a.mod.sz.bytes)
    (hfull : ∀ l ∈ (s.squad x.bid x.sq).stack, l.bytes.length = 128) {l : List Nat} (hl : ∀ i ∈ l, i ∈ lanesOf x.pass)
    (hnodup : l.Nodup) :
    let t := s.stackRun x ofs a.mod.sz.bytes (stkLane a) l
    s.holdsLines t x (s.squad x.bid x.sq).rf
    ∧ ∀ i ∈ l, ∀ k, k < a.mod.sz.bytes → (t.squad x.bid x.sq).stackByte i (ofs i + k) = s.stackData x a i k := by
  induction l using List.reverseRecOn with
  | nil => exact ⟨s.holdsLines_refl x, fun i hi => absurd hi List.not_mem_nil⟩
  | append_singleton l j ih =>
    obtain ⟨hl', hj⟩ := List.forall_mem_append.mp hl
    obtain ⟨hnodup', -, hdisjoint⟩ := List.nodup_append.mp hnodup
    obtain ⟨hrun, hbytes⟩ := ih hl' hnodup'
    obtain ⟨hlane, hothers, hdata⟩ := State.stkLane_holdsLines (hs.of_holdsLines hrun) (hj j List.mem_cons_self)
    rw [hrun.2.rf] at hlane
    rw [State.stackRun_concat]
    refine ⟨hrun.trans hlane, fun i hi k hk => ?_⟩
    rcases List.mem_append.mp hi with hi | hi
    · have hne : i ≠ j := hdisjoint i hi j List.mem_cons_self
      exact (hothers i _ hne).trans (hbytes i hi k hk)
    · obtain rfl := List.mem_singleton.mp hi
      rw [hdata (hrun.2.full hfull) k hk, State.stackData, State.stackData, hrun.1.regNat hrun.2.rf]

end

theorem State.finish_stackByte (s : State) (x : Ins) (h : Hint) (lane o : Nat) :
    (s.finish x h).stackByte x.bid x.sq lane o = (s.squad x.bid x.sq).stackByte lane o := by
  obtain ⟨-, -, -, -, -, -, -, -, -, -, -, -, -, hstack, -⟩ := s.finish_sameRest x h
  rw [State.stackByte_eq, Squad.stackByte, Squad.stackByte, Squad.stackLine_def, Squad.stackLine_def, hstack]

/-- `stk` completes with the bytes of its lanes in the stack cache. -/
theorem stackStoreCompletes {a : Args PMod} {s : State} {x : Ins} (hp : s.prepare (headOf a (.stk a)) = .run x)
    (hroom : s.stackRoom x a) (hcause : s.stackCause x (s.stackOfs x a) a.mod.sz.bytes = none) (hd : s.dev.damage = [])
    (hfills : ∀ i, i < 32 → x.pass.getLsbD i = true → s.stackFills x (s.stackOfs x a) a.mod.sz.bytes i = [])
    (hfull : ∀ l ∈ (s.squad x.bid x.sq).stack, l.bytes.length = 128) :
    ∃ t, exec (.stk a) s = .next t ∧ t.mem = s.mem ∧ (t.squad x.bid x.sq).rf = (s.squad x.bid x.sq).rf ∧ s.accessFrame t x
      ∧ ∀ i k, i < 32 → x.pass.getLsbD i = true → k < a.mod.sz.bytes →
          t.stackByte x.bid x.sq i (s.stackOfs x a i + k) = s.stackData x a i k := by
  have hready := State.begin_stackReady hd hfills
  have hbfull : ∀ l ∈ ((s.begin x).squad x.bid x.sq).stack, l.bytes.length = 128 := by
    rw [State.begin, State.squad_setSquad]
    exact hfull
  obtain ⟨hrun, hbytes⟩ := State.stackRun_stkLane hready hbfull
    (fun _ => Ins.mem_stackLanes (store := true) (d := a.d)) ((pairwise_lanesOf x.pass).imp Nat.ne_of_lt)
  obtain ⟨u, hnext, hsame, hrf, hsquadcause, hpc, hkept⟩ :=
    exec_of_stackRun (exec_stk a) hp hroom hcause hready stackKeeps_stkLane rfl hrun
  rw [State.begin_rf] at hrf
  obtain ⟨hmem, hblocks, hcontexts, htenants, -⟩ := hsame.frame
  obtain ⟨hfmem, -⟩ := u.finish_other x a.hint
  refine ⟨_, hnext, hfmem.trans hmem, (u.finish_rf x _).trans hrf,
    State.accessFrame_finish _ hsame.2 hblocks hcontexts htenants hrf hsquadcause hpc, fun i k hi hl hk => ?_⟩
  have hi' : i ∈ lanesOf x.pass := mem_lanesOf.mpr ⟨hi, hl⟩
  have hline := hrun.2.line (State.stackFills_eq_nil.mp (hready.2 i hi') _ (mem_stackKeys hk))
  calc (u.finish x a.hint).stackByte x.bid x.sq i (s.stackOfs x a i + k)
      = (u.squad x.bid x.sq).stackByte i (s.stackOfs x a i + k) := u.finish_stackByte x a.hint i _
    _ = _ := hkept i _ hline
    _ = (s.begin x).stackData x a i k := hbytes i hi' k hk
    _ = s.stackData x a i k := by rw [State.stackData, State.stackData, State.begin_regNat]

/-- Settles O35: the lines of a lane are present at every point of the run, so that a load reads them and a store writes
them as they stand; what is filled ahead then is a line that was not there. -/
theorem stackAccessesComplete : Obligations.StackAccessesComplete :=
  ⟨fun _ _ _ hp hroom hcause hd hfills => stackLoadCompletes hp hroom hcause hd hfills,
    fun _ _ _ hp hroom hcause hd hfills hfull => stackStoreCompletes hp hroom hcause hd hfills hfull⟩

end Sys2Proof.Machine

end

section
/-!
# Control flow

A sub-group that moves is taken out of the partition of its squad and its lanes arrive at their targets. The releases that
follow change nothing where no lane has a meeting in front of it and a lane of the squad runs.
-/

namespace Sys2Proof.Machine

open Sys2Proof

/-! ## Reset -/

/-- Settles O8: the fields of the state after reset, read off one after another; every table of it is empty. -/
theorem resetState : Obligations.ResetState :=
  ⟨fun _ => ⟨rfl, rfl, rfl, rfl, rfl, rfl⟩, rfl, rfl, rfl, rfl, rfl, rfl, rfl, rfl, rfl, rfl, fun _ => ⟨rfl, rfl⟩,
    rfl, rfl, rfl, rfl, rfl, rfl, rfl, rfl, rfl, rfl, rfl, rfl, rfl, rfl, rfl⟩

/-! ## Sets of lanes -/

/-- The union of the lanes of the sub-groups that a test selects. -/
theorem getLsbD_foldl_lanes (p : Group → Bool) (gs : List Group) (i : Nat) :
    (gs.foldl (fun m g => if p g then m ||| g.lanes else m) (0 : Lanes)).getLsbD i
      = gs.any fun g => p g && g.lanes.getLsbD i := by
  have hfold : ∀ m : Lanes, (gs.foldl (fun m g => if p g then m ||| g.lanes else m) m).getLsbD i
      = (m.getLsbD i || gs.any fun g => p g && g.lanes.getLsbD i) := by
    induction gs with
    | nil => simp
    | cons g gs ih =>
      intro m
      rw [List.foldl_cons, ih]
      cases hp : p g <;> simp [hp, Bool.or_assoc]
  simpa using hfold 0

theorem Ctl.getLsbD_alive (c : Ctl) (i : Nat) : c.alive.getLsbD i = c.groups.any fun g => g.lanes.getLsbD i := by
  simpa [Ctl.alive] using getLsbD_foldl_lanes (fun _ => true) c.groups i

theorem Ctl.getLsbD_rejoinAt (c : Ctl) (pc : Pc) (i : Nat) :
    (c.rejoinAt pc).getLsbD i = c.groups.any fun g => (g.atRejoin && g.pc == pc) && g.lanes.getLsbD i :=
  getLsbD_foldl_lanes (fun g => g.atRejoin && g.pc == pc) c.groups i

theorem Ctl.getLsbD_meetAt (c : Ctl) (pc : Pc) (i : Nat) :
    (c.meetAt pc).getLsbD i = c.groups.any fun g => (g.atMeet && g.pc == pc) && g.lanes.getLsbD i :=
  getLsbD_foldl_lanes (fun g => g.atMeet && g.pc == pc) c.groups i

theorem Ctl.getLsbD_meeting (c : Ctl) (lanes : Lanes) (pc : Pc) {i : Nat} (hi : i < 32) :
    (c.meeting lanes pc).getLsbD i = (lanes.getLsbD i && (c.mr.get? i == some pc)) := by
  rw [Ctl.meeting, getLsbD_laneSet hi, Bool.eq_iff_iff]
  simp [mem_lanesOf, hi]

/-- A set of lanes with a member is not empty. -/
theorem lanes_ne_zero {m : Lanes} {i : Nat} (h : m.getLsbD i = true) : m ≠ 0 := by
  rintro rfl
  simp at h

/-- The table without the keys of some lanes. -/
theorem get?_eraseLanes {α : Type} (t : Table α) (lanes : Lanes) {i : Nat} (hi : i < 32) :
    (eraseLanes t lanes).get? i = if lanes.getLsbD i = true then none else t.get? i := by
  have hfold : ∀ (l : List Nat) (t : Table α), (l.foldl Table.erase t).get? i = if i ∈ l then none else t.get? i := by
    intro l
    induction l with
    | nil => simp
    | cons j l ih =>
      intro t
      rw [List.foldl_cons, ih]
      by_cases hij : i = j
      · subst hij
        simp [Table.get?_erase_self]
      · simp [hij, Table.get?_erase_ne t hij]
  rw [eraseLanes, hfold]
  simp [mem_lanesOf, hi]

/-! ## Arrival (R230) -/

section

variable (c : Ctl) (stamp : Nat) (pc : Pc) (lanes : Lanes)

theorem Ctl.arrive_mr : (c.arrive stamp pc lanes).mr = c.mr := by
  unfold Ctl.arrive
  dsimp only
  split <;> split <;> rfl

theorem Ctl.arrive_aw : (c.arrive stamp pc lanes).aw = c.aw := by
  unfold Ctl.arrive
  dsimp only
  split <;> split <;> rfl

/-- The lanes that meet at the address stand in a held sub-group of it and the others in a running one, where there are
any; the other sub-groups are as before. -/
theorem Ctl.arrive_groups : (c.arrive stamp pc lanes).groups = c.groups
    ++ (if lanes &&& ~~~c.meeting lanes pc = 0 then []
        else [{ lanes := lanes &&& ~~~c.meeting lanes pc, pc, issued := stamp }])
    ++ (if c.meeting lanes pc = 0 then [] else [{ lanes := c.meeting lanes pc, pc, kind := .meet, issued := stamp }]) := by
  unfold Ctl.arrive
  dsimp only
  split <;> split <;> simp

theorem Ctl.mem_arrive {g : Group} (h : g ∈ c.groups) : g ∈ (c.arrive stamp pc lanes).groups := by
  rw [Ctl.arrive_groups]
  simp [h]

end

section

variable {c : Ctl} (stamp : Nat) {pc : Pc} {lanes : Lanes} {i : Nat} (hi : i < 32) (hl : lanes.getLsbD i = true)
include hi hl

/-- A lane that reaches the address of its meeting register is held there. -/
theorem Ctl.arrive_heldAt (h : c.mr.get? i = some pc) : (c.arrive stamp pc lanes).heldAt .meet i pc := by
  have hm : (c.meeting lanes pc).getLsbD i = true := by simp [c.getLsbD_meeting lanes pc hi, hl, h]
  refine ⟨{ lanes := c.meeting lanes pc, pc, kind := .meet, issued := stamp }, ?_, rfl, hm, rfl⟩
  rw [Ctl.arrive_groups, if_neg (lanes_ne_zero hm)]
  simp

/-- Any other lane runs on. -/
theorem Ctl.arrive_runsAt (h : c.mr.get? i ≠ some pc) : (c.arrive stamp pc lanes).runsAt i pc := by
  have hm : (lanes &&& ~~~c.meeting lanes pc).getLsbD i = true := by
    simp only [BitVec.getLsbD_and, BitVec.getLsbD_not, c.getLsbD_meeting lanes pc hi, hl, hi]
    simpa using h
  refine ⟨{ lanes := lanes &&& ~~~c.meeting lanes pc, pc, issued := stamp }, ?_, rfl, hm, rfl⟩
  rw [Ctl.arrive_groups, if_neg (lanes_ne_zero hm)]
  simp

/-- Either way it has gone there. -/
theorem Ctl.arrive_goneTo : (c.arrive stamp pc lanes).goneTo i pc := by
  by_cases h : c.mr.get? i = some pc
  · obtain ⟨g, hg, hkind, hrest⟩ := Ctl.arrive_heldAt stamp hi hl h
    exact ⟨g, hg, .inr hkind, hrest⟩
  · obtain ⟨g, hg, hkind, hrest⟩ := Ctl.arrive_runsAt stamp hi hl h
    exact ⟨g, hg, .inl hkind, hrest⟩

end

/-! ## Lanes gone to their next addresses (R228) -/

/-- Every lane of a list stands in the set that is found under its next address. -/
theorem find?_byTarget (next : Nat → Pc) {l : List Nat} {i : Nat} (hi : i < 32) (hmem : i ∈ l) :
    ∃ e, (byTarget next l).find? (fun e => e.1 == next i) = some e ∧ e.2.getLsbD i = true := by
  induction l with
  | nil => cases hmem
  | cons j r ih =>
    have hbit : (laneBit j).getLsbD i = decide (i = j) := getLsbD_laneBit hi j
    rw [byTarget]
    by_cases hsame : next j = next i
    · cases hf : (byTarget next r).find? fun x => x.1 == next j with
      | none =>
        rcases List.mem_cons.mp hmem with rfl | hr
        · exact ⟨(next i, laneBit i), by simp, by simp [hbit]⟩
        · obtain ⟨e, he, -⟩ := ih hr
          rw [hsame, he] at hf
          cases hf
      | some y =>
        refine ⟨(next j, y.2 ||| laneBit j), by simp [hsame], ?_⟩
        rcases List.mem_cons.mp hmem with rfl | hr
        · simp [hbit]
        · obtain ⟨e, he, hl⟩ := ih hr
          rw [hsame, he, Option.some.injEq] at hf
          subst hf
          simp [hl]
    · have hr : i ∈ r := (List.mem_cons.mp hmem).resolve_left fun e => hsame (by rw [e])
      obtain ⟨e, he, hl⟩ := ih hr
      cases hf : (byTarget next r).find? fun x => x.1 == next j with
      | none => exact ⟨e, by simpa [hsame] using he, hl⟩
      | some y =>
        refine ⟨e, ?_, hl⟩
        have hskip : (fun a : Pc × Lanes => decide ((a.1 != next j) = true ∧ (a.1 == next i) = true))
            = fun a => a.1 == next i := by
          funext a
          by_cases ha : a.1 = next i
          · simp [ha, Ne.symm hsame]
          · simp [ha]
        dsimp only
        rw [List.find?_cons_of_neg (by simpa using hsame), List.find?_filter, hskip, he]

section

variable (stamp : Nat) (next : Nat → Pc) {i : Nat} {pc : Pc}

/-- Lanes that arrive one set after another leave every sub-group and every meeting register. -/
theorem Ctl.foldl_arrive (l : List (Pc × Lanes)) (c : Ctl) :
    (l.foldl (fun c e => c.arrive stamp e.1 e.2) c).mr = c.mr
    ∧ ∀ g ∈ c.groups, g ∈ (l.foldl (fun c e => c.arrive stamp e.1 e.2) c).groups := by
  induction l generalizing c with
  | nil => exact ⟨rfl, fun _ hg => hg⟩
  | cons e l ih =>
    obtain ⟨hmr, hgroups⟩ := ih (c.arrive stamp e.1 e.2)
    exact ⟨hmr.trans (c.arrive_mr stamp e.1 e.2), fun g hg => hgroups g (c.mem_arrive stamp e.1 e.2 hg)⟩

theorem Ctl.scatter_mr (c : Ctl) (lanes : Lanes) : (c.scatter stamp lanes next).mr = c.mr :=
  (Ctl.foldl_arrive stamp (byTarget next (lanesOf lanes)) c).1

/-- Where no lane has a meeting in front of it, every lane of a scattered set runs at its next address. -/
theorem Ctl.scatter_runsAt {c : Ctl} (hmr : c.mr = []) {lanes : Lanes} (hi : i < 32) (hl : lanes.getLsbD i = true) :
    (c.scatter stamp lanes next).runsAt i (next i) := by
  obtain ⟨e, he, hbit⟩ := find?_byTarget next hi (mem_lanesOf.mpr ⟨hi, hl⟩)
  have hpc : e.1 = next i := by simpa using List.find?_some he
  obtain ⟨l, r, hsplit⟩ := List.append_of_mem (List.mem_of_find?_eq_some he)
  rw [Ctl.scatter, hsplit, List.foldl_append, List.foldl_cons]
  have hmr' := (Ctl.foldl_arrive stamp l c).1.trans hmr
  obtain ⟨g, hg, hrest⟩ := Ctl.arrive_runsAt stamp hi hbit (pc := e.1) (by rw [hmr']; exact nofun)
  exact ⟨g, (Ctl.foldl_arrive stamp r _).2 g hg, hpc ▸ hrest⟩

end

/-! ## Releases that change nothing (R230, R232) -/

section

variable {c : Ctl} (hmr : c.mr = [])
include hmr

/-- No meeting is released where no lane has one in front of it. -/
theorem Ctl.releaseMeet_of_no_meeting (stamp : Nat) (pc : Pc) : c.releaseMeet stamp pc = c := by
  have hnone : c.meeting c.alive pc = 0 := by simp [Ctl.meeting, hmr, Table.get?, laneSet]
  refine if_neg fun h => ?_
  rw [hnone, Bool.and_eq_true, bne_iff_ne, beq_iff_eq] at h
  exact h.1 h.2.symm

theorem Ctl.releaseMeets_of_no_meeting (stamp : Nat) : c.releaseMeets stamp = c := by
  rw [Ctl.releaseMeets]
  generalize (c.groups.filter Group.atMeet).map (·.pc) = l
  induction l with
  | nil => rfl
  | cons pc l ih => rw [List.foldl_cons, Ctl.releaseMeet_of_no_meeting hmr, ih]

/-- Nothing is due in a squad in which a lane runs and none has a meeting in front of it. -/
theorem Ctl.settle_of_runsAt {i : Nat} {pc : Pc} (h : c.runsAt i pc) (stamp fuel : Nat) :
    Ctl.settle stamp false fuel c = c := by
  obtain ⟨g, hg, hkind, -⟩ := h
  have hstalled : c.stalled = false := by
    have hheld : (g.atMeet || g.atRejoin) = false := by simp [Group.atMeet, Group.atRejoin, hkind]
    rw [Ctl.stalled, Bool.and_eq_false_iff]
    exact .inr (List.all_eq_false.mpr ⟨g, hg, by simp [hheld]⟩)
  cases fuel with
  | zero => rfl
  | succ n => simp [Ctl.settle, Ctl.releaseMeets_of_no_meeting hmr, hstalled]

end

/-! ## Where control goes (R235, R236, R240) -/

section

variable {s : State} {x : Ins} (hmr : (s.squad x.bid x.sq).ctl.mr = [])
include hmr

/-- The lanes of a sub-group that moves run at their next addresses, where no lane of the squad has a meeting in front of
it. -/
theorem State.moveTo_issued_runsAt (target : Nat → Pc) (h : Hint) {k : Nat} (hk : k < 32) (hl : x.lanes.getLsbD k = true) :
    (((s.moveTo x target).issued x h).squad x.bid x.sq).ctl.runsAt k (target k) := by
  have hrun := Ctl.scatter_runsAt s.ctrl.stamp target (c := (s.squad x.bid x.sq).ctl.removeGroup x.grp) hmr hk hl
  have hctl : (((s.moveTo x target).issued x h).squad x.bid x.sq).ctl
      = ((s.squad x.bid x.sq).ctl.removeGroup x.grp).scatter s.ctrl.stamp x.lanes target := by
    have hmr' := (Ctl.scatter_mr s.ctrl.stamp target ((s.squad x.bid x.sq).ctl.removeGroup x.grp) x.lanes).trans hmr
    rw [← Ctl.settle_of_runsAt hmr' hrun s.ctrl.stamp 64]
    simp [State.issued, State.moveTo, State.setCtl, State.squad]
  rw [hctl]
  exact hrun

theorem State.finish_runsAt (h : Hint) {k : Nat} (hk : k < 32) (hl : x.lanes.getLsbD k = true) :
    ((s.finish x h).squad x.bid x.sq).ctl.runsAt k x.next := State.moveTo_issued_runsAt hmr (fun _ => x.next) h hk hl

end

/-- The beginning of an issue leaves the control state of its squad. -/
theorem State.begin_ctl (s : State) (x : Ins) : ((s.begin x).squad x.bid x.sq).ctl = (s.squad x.bid x.sq).ctl := by
  simp [State.begin]

/-- The write of an operand leaves it too. -/
theorem State.put_ctl (s : State) (x : Ins) (o : Opnd) {w : Nat} (hw : w = 1 ∨ w = 2) (f : Nat → DWord) :
    ((s.put x o w f).squad x.bid x.sq).ctl = (s.squad x.bid x.sq).ctl := by
  rw [State.put_squad hw, Squad.writeNat_eq]

/-- An instruction whose effect leaves the control state alone, and that goes to the next instruction. -/
theorem goesTo_next {i : Instr} {h h' : Head} {f : Ins → State → State} (hexec : exec i = issue h' fun x s => .go (f x s))
    (hprep : ∀ s : State, s.prepare h' = s.prepare h) (hctl : ∀ (s : State) x, ((f x s).squad x.bid x.sq).ctl = (s.squad x.bid x.sq).ctl) :
    GoesTo i h fun _ x _ => x.pc + 12 := by
  intro s x hp hmr
  rw [← hprep] at hp
  refine ⟨_, (congrFun hexec s).trans (issue_run hp), fun k hk hl => State.finish_runsAt ?_ h'.hint hk hl⟩
  rw [hctl, State.begin_ctl, hmr]

/-- An instruction whose effect leaves the control state alone, and that sends its passing lanes to targets read as its
issue begins. -/
theorem goesTo_jump {i : Instr} {h : Head} {f : Ins → State → State} {target : State → Ins → Nat → Pc}
    (hexec : exec i = issue h fun x s => .jump (f x s) (target s x))
    (hctl : ∀ (s : State) x, ((f x s).squad x.bid x.sq).ctl = (s.squad x.bid x.sq).ctl)
    (hbegin : ∀ (s : State) x, target (s.begin x) x = target s x) :
    GoesTo i h fun s x k => if x.pass.getLsbD k then target s x k else x.pc + 12 := by
  intro s x hp hmr
  refine ⟨_, (congrFun hexec s).trans (issue_run hp), fun k hk hl => ?_⟩
  have hmr' : ((f x (s.begin x)).squad x.bid x.sq).ctl.mr = [] := by rw [hctl, State.begin_ctl, hmr]
  rw [hbegin]
  exact State.moveTo_issued_runsAt hmr' (x.after (target s x)) h.hint hk hl

/-- The registers of a squad stay as its sub-group moves. -/
theorem State.moveTo_issued_rf (s : State) (x : Ins) (target : Nat → Pc) (h : Hint) :
    (((s.moveTo x target).issued x h).squad x.bid x.sq).rf = (s.squad x.bid x.sq).rf := by
  simp [State.issued, State.moveTo, State.setCtl, State.squad]

/-- A call leaves the address of the next instruction in its pair. -/
theorem yields_call {i : Instr} {h : Head} {target : State → Ins → Nat → Pc} (hw : h.shape.d.width = 2)
    (hexec : exec i = issue h fun x s => .jump (s.put x h.ops.d 2 fun _ => x.next) (target s x)) :
    Yields i h fun _ x _ => x.pc + 12 := by
  intro s x hp
  refine ⟨_, (congrFun hexec s).trans (issue_run hp), ?_⟩
  rw [hw]
  refine State.holdsIn_of_writeNat (.inr rfl) (r := (s.squad x.bid x.sq).rf) ?_
  refine (State.moveTo_issued_rf _ x _ h.hint).trans ?_
  rw [State.put_squad (.inr rfl), Squad.writeNat_eq, State.begin_rf]
  rfl

/-- Settles O22: the sub-group is scattered over targets that are read as its issue begins, and no release is due after
it. -/
theorem controlTargets : Obligations.ControlTargets := by
  have hput (o : Opnd) (f : Nat → DWord) (s : State) (x : Ins) := s.put_ctl x o (.inr rfl) f
  have hget (o : Opnd) (s : State) (x : Ins) : (s.begin x).get x o 2 = s.get x o 2 := funext fun k => s.begin_get x o 2 k
  refine ⟨fun a => goesTo_next (f := fun _ s => s) rfl (fun _ => rfl) fun _ _ => rfl,
    fun a => goesTo_next (f := fun _ s => s)
      (h' := { headOf a (.yield a) true with hint := { a.hint with cede := 3 } }) rfl (fun _ => rfl) fun _ _ => rfl,
    fun a => goesTo_jump (f := fun _ s => s) (target := fun _ x _ => x.label a.imm) rfl (fun _ _ => rfl) fun _ _ => rfl,
    fun a => goesTo_jump (f := fun _ s => s) (target := fun s x k =>
      x.pc + 12 + 12 * (a.imm.signExtend 64 + (s.get1 x a.a k).signExtend 64)) rfl (fun _ _ => rfl) fun s x => ?brx,
    fun a => goesTo_jump (f := fun x s => s.put x a.d 2 fun _ => x.next) (target := fun _ x _ => x.label a.imm) rfl
      (fun s x => hput a.d _ s x) fun _ _ => rfl,
    fun a => goesTo_jump (f := fun x s => s.put x a.d 2 fun _ => x.next) (target := fun s x => s.get x a.a 2) rfl
      (fun s x => hput a.d _ s x) (hget a.a),
    fun a => goesTo_jump (f := fun _ s => s) (target := fun s x => s.get x a.a 2) rfl (fun _ _ => rfl) (hget a.a),
    fun a => yields_call (target := fun _ x _ => x.label a.imm) rfl rfl,
    fun a => yields_call (target := fun s x => s.get x a.a 2) rfl rfl, fun a s x hp => ?yield⟩
  case brx =>
    funext k
    rw [State.begin_get1]
  case yield =>
    have hexec : exec (.yield a) s = execYield a s := rfl
    exact ⟨_, hexec.trans (issue_run (h := { headOf a (.yield a) true with hint := { a.hint with cede := 3 } }) hp),
      by simp [Result.apply, State.finish, State.issued, State.squad]⟩

/-! ## Completion and traps under a condition -/

section

variable {i : Instr} {h : Head} {body : Ins → State → Result} {cond : Ins → State → Prop} (hexec : exec i = issue h body)
include hexec

/-- An instruction that is let run does what its body answers. -/
theorem exec_of_body {s : State} {x : Ins} {r : Result} (hp : s.prepare h = .run x) (hbody : body x (s.begin x) = r) :
    exec i s = .next (r.apply x h.hint s) := by
  rw [hexec, issue_run hp, hbody]

/-- An instruction completes where its body goes on. -/
theorem completesWhen_of_go {eff : Ins → State → State} (hbody : ∀ x s, cond x s → body x s = .go (eff x s)) :
    CompletesWhen i h cond eff :=
  fun _ x hp hc => exec_of_body hexec hp (hbody x _ hc)

/-- It traps where its body does. -/
theorem trapsWhen_of_trap {code : Nat} {sub : Ins → State → Nat}
    (hbody : ∀ x s, cond x s → body x s = .trap code (sub x s)) : TrapsWhen i h cond code sub :=
  fun _ x hp hc => exec_of_body hexec hp (hbody x _ hc)

end

/-! ## Meetings (R237) -/

/-- The meeting registers of the passing lanes after they have been set. -/
theorem State.get?_setMeet (s : State) (x : Ins) (pc : Pc) {k : Nat} (hk : k < 32) :
    ((s.setMeet x pc).squad x.bid x.sq).ctl.mr.get? k
      = if x.pass.getLsbD k then some pc else (s.squad x.bid x.sq).ctl.mr.get? k := by
  have hfold : ∀ (l : List Nat) (t : Table Pc),
      (l.foldl (fun t i => t.put i pc) t).get? k = if k ∈ l then some pc else t.get? k := by
    intro l
    induction l with
    | nil => simp
    | cons j l ih =>
      intro t
      rw [List.foldl_cons, ih]
      by_cases hkj : k = j
      · subst hkj
        simp [Table.get?_put_self]
      · simp [hkj, Table.get?_put_ne t hkj]
  rw [State.setMeet, State.squad_setSquad, hfold]
  simp [mem_lanesOf, hk]

theorem exec_meet (a : Args Unit) : exec (.meet a) = issue (headOf a (.meet a) true) fun x s =>
    if s.inCode x (x.label a.imm) then .go (s.setMeet x (x.label a.imm)) else .trap 0x011 2 := rfl

theorem exec_meetSave (a : Args Unit) : exec (.meetSave a) = issue (headOf a (.meetSave a) true) fun x s =>
    if s.inCode x (x.label a.imm) then
      .go ((s.put x a.d 2 fun i => (s.squad x.bid x.sq).ctl.mr.get i 0xFFFFFFFFFFFFFFFF).setMeet x (x.label a.imm))
    else .trap 0x011 2 := rfl

/-- Settles O23: a target is judged before anything is written. -/
theorem meetSetsOrTraps : Obligations.MeetSetsOrTraps :=
  ⟨fun a => completesWhen_of_go (exec_meet a) fun _ _ hin => if_pos hin,
    fun a => trapsWhen_of_trap (exec_meet a) fun _ _ hout => if_neg (ne_true_of_eq_false hout),
    fun a => completesWhen_of_go (exec_meetSave a) fun _ _ hin => if_pos hin,
    fun a => trapsWhen_of_trap (exec_meetSave a) fun _ _ hout => if_neg (ne_true_of_eq_false hout),
    fun s x pc _ hk => s.get?_setMeet x pc hk⟩

/-! ## Rejoins (R231, R238) -/

section

variable (c : Ctl) (stamp : Nat) (pc : Pc) (lanes others : Lanes) (rest : List (Nat × Pc))

/-- The lanes of a set whose companions are all among those that have exited, are held at the address or issue the
rejoin. -/
def Ctl.goingOn (among : Lanes) : Lanes :=
  laneSet ((lanesOf among).filter (c.satisfied (~~~c.alive ||| c.rejoinAt pc ||| lanes ||| others)))

theorem Ctl.getLsbD_goingOn (among : Lanes) {k : Nat} (hk : k < 32) : (c.goingOn pc lanes others among).getLsbD k = true
    ↔ among.getLsbD k = true
      ∧ c.aw.get k 0 &&& ~~~(~~~c.alive ||| c.rejoinAt pc ||| lanes ||| others) = 0 := by
  rw [Ctl.goingOn, getLsbD_laneSet hk, decide_eq_true_eq, List.mem_filter, mem_lanesOf, Ctl.satisfied, beq_iff_eq]
  exact and_congr_left fun _ => and_iff_right hk

/-- The control state of a rejoin before its lanes go on: the held lanes that it satisfies have left, and the lanes of the
issue that it does not satisfy are held. -/
def Ctl.rejoined : Ctl :=
  let on := c.goingOn pc lanes others lanes
  let freed := c.goingOn pc lanes others (c.rejoinAt pc)
  let stay := lanes &&& ~~~on
  let d := c.dropHeld pc freed
  let e : Ctl := if stay = 0 then d else
    { d with groups := d.groups ++ [{ lanes := stay, pc, kind := .rejoin, issued := stamp
                                      rest := rest.filter fun x => stay.getLsbD x.1 }] }
  (({ e with aw := eraseLanes e.aw (on ||| freed) } : Ctl).takeRest (c.restAt pc) freed).takeRest rest on

theorem Ctl.rejoin_eq_arrive : c.rejoin stamp pc lanes others rest
    = (c.rejoined stamp pc lanes others rest).arrive stamp (pc + 12)
        (c.goingOn pc lanes others lanes ||| c.goingOn pc lanes others (c.rejoinAt pc) ||| others) := rfl

theorem Ctl.rejoined_aw : (c.rejoined stamp pc lanes others rest).aw
    = eraseLanes c.aw (c.goingOn pc lanes others lanes ||| c.goingOn pc lanes others (c.rejoinAt pc)) := by
  unfold Ctl.rejoined
  dsimp only
  split <;> rfl

theorem Ctl.rejoin_aw : (c.rejoin stamp pc lanes others rest).aw
    = eraseLanes c.aw (c.goingOn pc lanes others lanes ||| c.goingOn pc lanes others (c.rejoinAt pc)) := by
  rw [Ctl.rejoin_eq_arrive, Ctl.arrive_aw, Ctl.rejoined_aw]

/-- No values are held where no thread is held at a rejoin. -/
theorem Ctl.restAt_of_none_held (hheld : ∀ g ∈ c.groups, g.kind ≠ .rejoin) : c.restAt pc = [] := by
  unfold Ctl.restAt
  revert hheld
  induction c.groups with
  | nil => exact fun _ => rfl
  | cons g gs ih =>
    intro hheld
    have hg : g.atRejoin = false := by simpa [Group.atRejoin] using hheld g List.mem_cons_self
    rw [List.foldl_cons, hg]
    exact ih fun g hg => hheld g (List.mem_cons_of_mem _ hg)

/-- No meeting register is set by a rejoin without values in a squad without held values. -/
theorem Ctl.rejoined_mr (hrest : c.restAt pc = []) : (c.rejoined stamp pc lanes others []).mr = c.mr := by
  unfold Ctl.rejoined
  dsimp only
  rw [hrest]
  split <;> rfl

end

section

variable {c : Ctl} {pc : Pc} {lanes others : Lanes} {k : Nat} (hk : k < 32) (stamp : Nat) (rest : List (Nat × Pc))
include hk

/-- A lane of the issue, or held at its address, goes on where its companions let it, and has none any more. -/
theorem Ctl.rejoin_goneTo (hl : (lanes ||| c.rejoinAt pc).getLsbD k = true)
    (hsat : c.aw.get k 0 &&& ~~~(~~~c.alive ||| c.rejoinAt pc ||| lanes ||| others) = 0) :
    (c.rejoin stamp pc lanes others rest).goneTo k (pc + 12) ∧ (c.rejoin stamp pc lanes others rest).aw.get? k = none := by
  have hgo : (c.goingOn pc lanes others lanes ||| c.goingOn pc lanes others (c.rejoinAt pc)).getLsbD k = true := by
    have hon (among : Lanes) (h : among.getLsbD k = true) :=
      (c.getLsbD_goingOn pc lanes others among hk).mpr ⟨h, hsat⟩
    rw [BitVec.getLsbD_or, Bool.or_eq_true] at hl ⊢
    exact hl.imp (hon lanes) (hon (c.rejoinAt pc))
  refine ⟨?_, ?_⟩
  · rw [Ctl.rejoin_eq_arrive]
    exact Ctl.arrive_goneTo stamp hk (by rw [BitVec.getLsbD_or, hgo, Bool.true_or])
  · rw [Ctl.rejoin_aw, get?_eraseLanes _ _ hk, if_pos hgo]

/-- Any other lane of the issue is held with its companions. -/
theorem Ctl.rejoin_heldAt (hl : lanes.getLsbD k = true)
    (hsat : ¬c.aw.get k 0 &&& ~~~(~~~c.alive ||| c.rejoinAt pc ||| lanes ||| others) = 0) :
    (c.rejoin stamp pc lanes others rest).heldAt .rejoin k pc
    ∧ (c.rejoin stamp pc lanes others rest).aw.get? k = c.aw.get? k := by
  have hno (among : Lanes) : ¬(c.goingOn pc lanes others among).getLsbD k = true := by
    rw [Ctl.getLsbD_goingOn c pc lanes others among hk]
    exact fun h => hsat h.2
  refine ⟨?_, ?_⟩
  · have hstay : (lanes &&& ~~~c.goingOn pc lanes others lanes).getLsbD k = true := by
      rw [BitVec.getLsbD_and, BitVec.getLsbD_not, hl, Bool.eq_false_of_not_eq_true (hno lanes)]
      simp [hk]
    refine ⟨{ lanes := lanes &&& ~~~c.goingOn pc lanes others lanes, pc, kind := .rejoin, issued := stamp
              rest := rest.filter fun x => (lanes &&& ~~~c.goingOn pc lanes others lanes).getLsbD x.1 }, ?_, rfl, hstay, rfl⟩
    rw [Ctl.rejoin_eq_arrive]
    refine Ctl.mem_arrive _ _ _ _ ?_
    unfold Ctl.rejoined
    dsimp only
    rw [if_neg (lanes_ne_zero hstay)]
    exact List.mem_append_right _ List.mem_cons_self
  · rw [Ctl.rejoin_aw, get?_eraseLanes _ _ hk, BitVec.getLsbD_or, if_neg]
    rw [Bool.or_eq_true]
    exact not_or.mpr ⟨hno lanes, hno (c.rejoinAt pc)⟩

end

/-- Without companions, and with no thread held at a rejoin or before a meeting, every lane of the sub-group goes on. -/
theorem Ctl.rejoin_runsAt {c : Ctl} (hmr : c.mr = []) (haw : c.aw = []) (hheld : ∀ g ∈ c.groups, g.kind ≠ .rejoin)
    (stamp : Nat) (pc : Pc) {lanes others : Lanes} {k : Nat} (hk : k < 32) (hl : (lanes ||| others).getLsbD k = true) :
    (c.rejoin stamp pc lanes others []).mr = [] ∧ (c.rejoin stamp pc lanes others []).runsAt k (pc + 12) := by
  have hgone : (c.goingOn pc lanes others lanes ||| c.goingOn pc lanes others (c.rejoinAt pc) ||| others).getLsbD k
      = true := by
    rw [BitVec.getLsbD_or, BitVec.getLsbD_or, Bool.or_eq_true, Bool.or_eq_true]
    rw [BitVec.getLsbD_or, Bool.or_eq_true] at hl
    exact hl.imp_left fun h => .inl ((c.getLsbD_goingOn pc lanes others lanes hk).mpr ⟨h, by simp [haw, Table.get, Table.get?]⟩)
  have hmr' := (c.rejoined_mr stamp pc lanes others (c.restAt_of_none_held pc hheld)).trans hmr
  rw [Ctl.rejoin_eq_arrive]
  exact ⟨(Ctl.arrive_mr _ _ _ _).trans hmr', Ctl.arrive_runsAt stamp hk hgone (by rw [hmr']; exact nofun)⟩

/-! ## The release of a meeting (R230) -/

/-- Once every thread that meets at an address is held there, they go on as one sub-group with no meeting in front of
them. -/
theorem Ctl.releaseMeet_holds {c : Ctl} (stamp : Nat) {pc : Pc} (hne : c.meetAt pc ≠ 0)
    (hall : c.meeting c.alive pc = c.meetAt pc) :
    (∃ g ∈ (c.releaseMeet stamp pc).groups, g.kind = .running ∧ g.lanes = c.meetAt pc ∧ g.pc = pc)
    ∧ (∀ k, ¬(c.releaseMeet stamp pc).heldAt .meet k pc)
    ∧ ∀ k, k < 32 → (c.meetAt pc).getLsbD k = true → (c.releaseMeet stamp pc).mr.get? k = none := by
  have heq : c.releaseMeet stamp pc = { c with
      groups := (c.groups.filter fun g => !(g.atMeet && g.pc == pc)) ++ [{ lanes := c.meetAt pc, pc, issued := stamp }]
      mr := eraseLanes c.mr (c.meetAt pc) } :=
    if_pos (by rw [hall, Bool.and_eq_true]; exact ⟨bne_iff_ne.mpr hne, beq_self_eq_true _⟩)
  rw [heq]
  refine ⟨⟨_, List.mem_append_right _ List.mem_cons_self, rfl, rfl, rfl⟩, ?_, fun k hk hl => ?_⟩
  · rintro k ⟨g, hg, hkind, -, hpc⟩
    rcases List.mem_append.mp hg with hg | hg
    · simp [Group.atMeet, hkind, hpc] at hg
    · rw [List.mem_singleton.mp hg] at hkind
      cases hkind
  · rw [get?_eraseLanes _ _ hk, if_pos hl]

theorem exec_rejoin (a : Args Unit) :
    exec (.rejoin a) = issue (headOf a (.rejoin a) true) fun x s => .placed (s.rejoin x []) := rfl

theorem exec_rejoinRest (a : Args Unit) : exec (.rejoinRest a) = issue (headOf a (.rejoinRest a) true) fun x s =>
    if (lanesOf x.pass).all fun i => let v := s.get x a.a 2 i
        v == 0xFFFFFFFFFFFFFFFF || (decide (v.toNat < 2 ^ 57) && s.inCode x v) then
      .placed (s.rejoin x ((lanesOf x.pass).map fun i => (i, s.get x a.a 2 i)))
    else .trap 0x011 2 := rfl

/-- Settles O24: a rejoin holds back the lanes whose companions have not come and lets the others arrive at the next
instruction, and an arrival and a release of a meeting are judged on the meeting registers. -/
theorem rejoinCompletes : Obligations.RejoinCompletes := by
  refine ⟨fun a s x hp => (congrFun (exec_rejoin a) s).trans (issue_run hp), fun a s x hp hok => ?rest,
    fun s x hmr haw hheld hpass k hk hl => ?on,
    fun c stamp k pc lanes others rest hk => ⟨Ctl.rejoin_goneTo hk stamp rest, Ctl.rejoin_heldAt hk stamp rest⟩,
    fun c stamp k pc lanes hk hl => ⟨Ctl.arrive_heldAt stamp hk hl, Ctl.arrive_runsAt stamp hk hl⟩,
    fun c stamp pc => ⟨Ctl.releaseMeet_holds stamp, fun hne => if_neg fun h => hne ?stays⟩⟩
  case rest =>
    have hget : (s.begin x).get x a.a 2 = s.get x a.a 2 := funext fun i => s.begin_get x a.a 2 i
    refine exec_of_body (r := .placed ((s.begin x).rejoin x ((lanesOf x.pass).map fun i => (i, s.get x a.a 2 i))))
      (exec_rejoinRest a) hp ?_
    rw [hget]
    exact if_pos hok
  case on =>
    have hmem : ∀ g ∈ ((s.squad x.bid x.sq).ctl.removeGroup x.grp).groups, g.kind ≠ .rejoin :=
      fun g hg => hheld g (List.mem_of_mem_eraseIdx hg)
    have hgoes : (x.pass ||| (x.lanes &&& ~~~x.pass)).getLsbD k = true := by
      rw [BitVec.getLsbD_or, BitVec.getLsbD_and, BitVec.getLsbD_not, hl]
      cases x.pass.getLsbD k <;> simp [hk]
    obtain ⟨hmr', hrun⟩ := Ctl.rejoin_runsAt (c := (s.squad x.bid x.sq).ctl.removeGroup x.grp) hmr haw hmem s.ctrl.stamp
      x.pc (lanes := x.pass) (others := x.lanes &&& ~~~x.pass) hk hgoes
    rw [State.rejoin, State.setCtl, State.squad_setSquad]
    dsimp only
    rw [Ctl.settle_of_runsAt hmr' hrun]
    exact hrun
  case stays =>
    rw [Bool.and_eq_true, beq_iff_eq] at h
    exact h.2

/-! ## Threads that have ended (R239) -/

/-- A lane stands in no sub-group. -/
def Ctl.ended (c : Ctl) (i : Nat) : Prop := ∀ g ∈ c.groups, g.lanes.getLsbD i = false

theorem Ctl.ended_iff (c : Ctl) (i : Nat) : c.ended i ↔ c.alive.getLsbD i = false := by
  simp [Ctl.ended, Ctl.getLsbD_alive]

section

variable {c : Ctl} {i : Nat} (h : c.ended i) (stamp : Nat) (pc : Pc)
include h

theorem Ctl.ended.rejoinAt : (c.rejoinAt pc).getLsbD i = false := by
  rw [Ctl.getLsbD_rejoinAt, List.any_eq_false]
  intro g hg
  simp [h g hg]

theorem Ctl.ended.meetAt : (c.meetAt pc).getLsbD i = false := by
  rw [Ctl.getLsbD_meetAt, List.any_eq_false]
  intro g hg
  simp [h g hg]

/-- An ended lane comes back with no arrival of others. -/
theorem Ctl.ended.arrive (hi : i < 32) {lanes : Lanes} (hl : lanes.getLsbD i = false) : (c.arrive stamp pc lanes).ended i := by
  intro g hg
  rw [Ctl.arrive_groups, List.append_assoc] at hg
  rcases List.mem_append.mp hg with hg | hg
  · exact h g hg
  · have hmet : (c.meeting lanes pc).getLsbD i = false := by rw [Ctl.getLsbD_meeting _ _ _ hi, hl, Bool.false_and]
    rcases List.mem_append.mp hg with hg | hg
    · split at hg
      · cases hg
      · rw [List.mem_singleton.mp hg]
        exact (BitVec.getLsbD_and ..).trans (by rw [hl, Bool.false_and])
    · split at hg
      · cases hg
      · rw [List.mem_singleton.mp hg]
        exact hmet

theorem Ctl.ended.releaseMeet : (c.releaseMeet stamp pc).ended i := by
  unfold Ctl.releaseMeet
  dsimp only
  split
  · intro g hg
    rcases List.mem_append.mp hg with hg | hg
    · exact h g (List.mem_of_mem_filter hg)
    · rw [List.mem_singleton.mp hg]
      exact h.meetAt pc
  · exact h

theorem Ctl.ended.releaseMeets : (c.releaseMeets stamp).ended i :=
  List.foldlRecOn (motive := fun c : Ctl => c.ended i) _ _ h fun _ hc pc _ => hc.releaseMeet stamp pc

theorem Ctl.ended.dropHeld (lanes : Lanes) : (c.dropHeld pc lanes).ended i := by
  intro g hg
  obtain ⟨e, he, rfl⟩ := List.mem_map.mp (List.mem_of_mem_filter hg)
  split
  · exact (BitVec.getLsbD_and ..).trans (by rw [h e he, Bool.false_and])
  · exact h e he

theorem Ctl.ended.freeRejoin (hi : i < 32) {lanes : Lanes} (hl : lanes.getLsbD i = false) :
    (c.freeRejoin stamp pc lanes).ended i :=
  Ctl.ended.arrive (c := Ctl.takeRest { c.dropHeld pc lanes with aw := eraseLanes c.aw lanes } (c.restAt pc) lanes)
    (h.dropHeld pc lanes) stamp (pc + 12) hi hl

variable (hi : i < 32)
include hi

theorem Ctl.ended.releaseRejoin : (c.releaseRejoin stamp pc).ended i := by
  unfold Ctl.releaseRejoin
  dsimp only
  split
  · exact h
  · refine h.freeRejoin stamp pc hi ?_
    rw [getLsbD_laneSet hi]
    simp [mem_lanesOf, h.rejoinAt pc]

theorem Ctl.ended.releaseRejoins : (c.releaseRejoins stamp).ended i :=
  List.foldlRecOn (motive := fun c : Ctl => c.ended i) _ _ h fun _ hc pc _ => hc.releaseRejoin stamp pc hi

theorem Ctl.ended.stallRelease : (c.stallRelease stamp).ended i := by
  unfold Ctl.stallRelease
  dsimp only
  split
  · intro g hg
    rcases List.mem_append.mp hg with hg | hg
    · exact h g (List.mem_of_mem_filter hg)
    · rw [List.mem_singleton.mp hg]
      exact h.meetAt _
  · exact h.freeRejoin stamp _ hi (h.rejoinAt _)

end

/-- No release brings an ended lane back. -/
theorem Ctl.ended.settle {c : Ctl} {i : Nat} (h : c.ended i) (hi : i < 32) (stamp : Nat) (exited : Bool) (fuel : Nat) :
    (Ctl.settle stamp exited fuel c).ended i := by
  induction fuel generalizing c with
  | zero => exact h
  | succ n ih =>
    have hmeets := h.releaseMeets stamp
    have hexits : (if exited then ((c.releaseMeets stamp).releaseRejoins stamp).releaseMeets stamp
        else c.releaseMeets stamp).ended i := by
      split
      · exact (hmeets.releaseRejoins stamp hi).releaseMeets stamp
      · exact hmeets
    rw [Ctl.settle]
    generalize (if exited then ((c.releaseMeets stamp).releaseRejoins stamp).releaseMeets stamp
      else c.releaseMeets stamp) = d at hexits ⊢
    split
    · exact ih (hexits.stallRelease stamp hi)
    · exact hexits

theorem Ctl.endThreads_ended (c : Ctl) {lanes : Lanes} {i : Nat} (hl : lanes.getLsbD i = true) : (c.endThreads lanes).ended i := by
  intro g hg
  obtain ⟨e, -, rfl⟩ := List.mem_map.mp (List.mem_of_mem_filter hg)
  simp [Group.without, hl]

/-- The threads that end leave their squad. -/
theorem Squad.alive_endLanes (q : Squad) (lanes : Lanes) (stamp : Nat) : (q.endLanes lanes stamp).ctl.alive &&& lanes = 0 := by
  refine BitVec.eq_of_getLsbD_eq fun i hi => ?_
  rw [BitVec.getLsbD_and]
  by_cases hl : lanes.getLsbD i = true
  · have hended := (q.ctl.endThreads_ended hl).settle hi stamp true 64
    rw [Ctl.ended_iff] at hended
    rw [Squad.endLanes, hended]
    simp
  · simp [hl]

end Sys2Proof.Machine

end

section
/-!
# Barriers and the end of threads

Every check of a barrier (R250 to R254) is made of changes of single instances: none of them enrols a thread or gives one
its second arrival, and none touches anything but the blocks. So a thread that is withdrawn stays withdrawn, and a lane that
has not arrived in both phases can arrive.
-/

namespace Sys2Proof.Machine

open Sys2Proof

/-! ## Changes of one barrier's record -/

/-- A barrier's record goes over into one that enrols no thread and gives no thread its second arrival. -/
def Bar.advances (b c : Bar) : Prop :=
  ∀ j, (b.enr.getLsbD j = false → c.enr.getLsbD j = false)
    ∧ ((b.arr0 &&& b.arr1).getLsbD j = false → (c.arr0 &&& c.arr1).getLsbD j = false)

theorem Bar.advances.refl (b : Bar) : b.advances b := fun _ => ⟨id, id⟩

theorem Bar.advances.trans {b c d : Bar} (h : b.advances c) (h' : c.advances d) : b.advances d :=
  fun j => ⟨fun hb => (h' j).1 ((h j).1 hb), fun hb => (h' j).2 ((h j).2 hb)⟩

/-- A phase that completes leaves the arrivals of the next one alone. -/
theorem Bar.advances_complete (b : Bar) : b.advances b.complete := fun j => ⟨id, fun _ => by simp [Bar.complete]⟩

theorem Bar.advances_checkBlock (b : Bar) : b.advances b.checkBlock := by
  unfold Bar.checkBlock
  dsimp only
  split
  · split
    · exact b.advances_complete.trans b.complete.advances_complete
    · exact b.advances_complete
  · exact Bar.advances.refl b

theorem Bar.advances_withdraw (b : Bar) (ts : BitVec 1024) : b.advances (b.withdraw ts) := fun j => by
  simp only [Bar.withdraw, BitVec.getLsbD_and]
  exact ⟨fun h => by simp [h], fun h => by
    rcases Bool.and_eq_false_iff.mp h with h | h <;> simp [h]⟩

/-! ## Changes of the barriers of a block -/

/-- A state goes over into another that differs in instances that have advanced. -/
def State.barsAdvance (s t : State) : Prop :=
  t = { s with blocks := t.blocks } ∧ (∀ b n, (s.block b).bars.has n = true → (t.block b).bars.has n = true)
  ∧ ∀ b n, (s.bar b n).advances (t.bar b n)

theorem State.barsAdvance.refl (s : State) : s.barsAdvance s := ⟨rfl, fun _ _ => id, fun _ _ => Bar.advances.refl _⟩

theorem State.barsAdvance.trans {s t u : State} (h : s.barsAdvance t) (h' : t.barsAdvance u) : s.barsAdvance u := by
  obtain ⟨hst, hhas, hbars⟩ := h
  obtain ⟨htu, hhas', hbars'⟩ := h'
  exact ⟨by rw [htu, hst], fun b n hn => hhas' b n (hhas b n hn), fun b n => (hbars b n).trans (hbars' b n)⟩

theorem State.barsAdvance_foldl {β : Type} {f : State → β → State} (hf : ∀ (s : State) b, s.barsAdvance (f s b))
    (l : List β) (s : State) : s.barsAdvance (l.foldl f s) := by
  induction l generalizing s with
  | nil => exact State.barsAdvance.refl s
  | cons b l ih => exact (hf s b).trans (ih _)

/-- One barrier's record replaced, and no other. -/
theorem State.bar_setBar (s : State) (bid n b m : Nat) (x : Bar) :
    (s.setBar bid n x).bar b m = if b = bid ∧ m = n then x else s.bar b m := by
  unfold State.bar State.setBar State.block
  by_cases hb : b = bid
  · subst hb
    by_cases hm : m = n
    · subst hm
      simp
    · simp [hm, Table.get_put_ne _ hm]
  · simp [hb, Table.get_put_ne _ hb]

theorem State.barsAdvance_setBar {s : State} {bid n : Nat} {x : Bar} (h : (s.bar bid n).advances x) :
    s.barsAdvance (s.setBar bid n x) := by
  refine ⟨rfl, fun b m hm => ?_, fun b m => ?_⟩
  · unfold State.setBar
    by_cases hb : b = bid
    · subst hb
      rw [State.block_setBlock]
      by_cases hmn : m = n
      · subst hmn
        exact Table.has_put_self _ _ _
      · rwa [Table.has, Table.get?_put_ne _ hmn]
    · rwa [State.block, State.setBlock_blocks, Table.get_put_ne _ hb]
  · rw [State.bar_setBar]
    split
    · rename_i hbm
      rw [hbm.1, hbm.2]
      exact h
    · exact Bar.advances.refl _

section

variable (s : State) (bid n : Nat)

theorem State.barsAdvance_mapBars (bids : List Nat) {f : Bar → Bar} (hf : ∀ b : Bar, b.advances (f b)) :
    s.barsAdvance (s.mapBars bids n f) :=
  State.barsAdvance_foldl (fun _ _ => State.barsAdvance_setBar (hf _)) bids s

theorem State.barsAdvance_judge (fl : Flask) (guard : Bar → Bool) : s.barsAdvance (s.judge fl n guard) := by
  refine State.barsAdvance_foldl (fun t d => ?_) _ s
  dsimp only
  split
  · exact t.barsAdvance_mapBars n _ fun b => Bar.advances.refl b
  · exact State.barsAdvance.refl t

/-- The check of R251 and R254 after an event at a barrier. -/
theorem State.barsAdvance_checkBar : s.barsAdvance (s.checkBar bid n) := by
  unfold State.checkBar State.checkFlask
  dsimp only
  split
  · split
    · unfold State.checkLocal
      dsimp only
      split
      · exact State.barsAdvance_setBar (Bar.advances.refl (s.bar bid n))
      · exact s.barsAdvance_judge n _ _
    · unfold State.checkWhole
      dsimp only
      split
      · split
        · exact (s.barsAdvance_mapBars n _ Bar.advances_complete).trans (State.barsAdvance_mapBars _ n _ Bar.advances_complete)
        · exact s.barsAdvance_mapBars n _ Bar.advances_complete
      · exact State.barsAdvance.refl s
  · exact State.barsAdvance_setBar (s.bar bid n).advances_checkBlock

end

/-! ## Threads withdrawn (R253) -/

theorem getLsbD_threadBit_self {sq lane : Nat} (h : sq * 32 + lane < 1024) :
    (threadBit sq lane).getLsbD (sq * 32 + lane) = true := by
  simp [threadBit, h]

theorem getLsbD_threadSet (sq : Nat) (lanes : Lanes) (j : Nat) : (threadSet sq lanes).getLsbD j
    = (decide (j < 1024) && decide (sq * 32 ≤ j) && lanes.getLsbD (j - sq * 32)) := by
  rw [threadSet, BitVec.getLsbD_shiftLeft]
  by_cases hj : j < 1024
  · by_cases hsq : sq * 32 ≤ j
    · simp [hj, hsq, show j - sq * 32 < 1024 by omega]
    · simp [hj, hsq, show j < sq * 32 by omega]
  · simp [hj]

/-- A thread withdrawn from a barrier, and the check after it, leave it not enrolled. -/
theorem State.withdraw_bar (s : State) (bid sq lane n : Nat) :
    (((s.setBar bid n ((s.bar bid n).withdraw (threadBit sq lane))).checkBar bid n).bar bid n).enr.getLsbD (sq * 32 + lane)
      = false := by
  obtain ⟨-, -, hbars⟩ := (s.setBar bid n ((s.bar bid n).withdraw (threadBit sq lane))).barsAdvance_checkBar bid n
  refine (hbars bid n _).1 ?_
  rw [State.bar_setBar, if_pos ⟨rfl, rfl⟩, Bar.withdraw]
  by_cases h : sq * 32 + lane < 1024
  · simp [getLsbD_threadBit_self h]
  · exact BitVec.getLsbD_of_ge _ _ (by omega)

/-- One thread withdrawn from some barriers of its block. -/
def State.withdrawFrom (s : State) (bid sq lane : Nat) (bars : Table Bar) : State :=
  bars.foldl (fun s e => (s.setBar bid e.1 ((s.bar bid e.1).withdraw (threadBit sq lane))).checkBar bid e.1) s

theorem State.barsAdvance_withdrawFrom (s : State) (bid sq lane : Nat) (bars : Table Bar) :
    s.barsAdvance (s.withdrawFrom bid sq lane bars) := by
  refine State.barsAdvance_foldl (fun t e => ?_) bars s
  exact (State.barsAdvance_setBar ((t.bar bid e.1).advances_withdraw (threadBit sq lane))).trans
    (State.barsAdvance_checkBar _ bid e.1)

theorem State.withdrawFrom_enr (s : State) (bid sq lane : Nat) {bars : Table Bar} {n : Nat} (hn : n ∈ bars.map (·.1)) :
    ((s.withdrawFrom bid sq lane bars).bar bid n).enr.getLsbD (sq * 32 + lane) = false := by
  induction bars generalizing s with
  | nil => cases hn
  | cons e bars ih =>
    rw [List.map_cons, List.mem_cons] at hn
    by_cases hrest : n ∈ bars.map (·.1)
    · exact ih _ hrest
    · obtain rfl := hn.resolve_right hrest
      exact ((State.barsAdvance_withdrawFrom _ bid sq lane bars).2.2 bid e.1 _).1 (s.withdraw_bar bid sq lane e.1)

theorem Table.mem_keys_of_has {α : Type} {t : Table α} {n : Nat} (h : t.has n = true) : n ∈ t.map (·.1) := by
  induction t with
  | nil => cases h
  | cons e t ih =>
    by_cases he : e.1 = n
    · simp [he]
    · exact List.mem_cons_of_mem _ (ih (by simpa [Table.has, Table.get?, he] using h))

theorem State.withdraw_eq (s : State) (bid sq : Nat) (lanes : Lanes) : s.withdraw bid sq lanes
    = (lanesOf lanes).foldl (fun s lane => s.withdrawFrom bid sq lane (s.block bid).bars) s := rfl

theorem State.barsAdvance_withdraw (s : State) (bid sq : Nat) (lanes : Lanes) : s.barsAdvance (s.withdraw bid sq lanes) :=
  State.barsAdvance_foldl (fun t lane => t.barsAdvance_withdrawFrom bid sq lane _) _ s

/-- Threads that have ended are enrolled in no barrier of their block. -/
theorem State.withdraw_enr (s : State) (bid sq : Nat) (lanes : Lanes) {n : Nat} (hn : (s.block bid).bars.has n = true) :
    ((s.withdraw bid sq lanes).bar bid n).enr &&& threadSet sq lanes = 0 := by
  have hlane : ∀ (l : List Nat) (s : State), (s.block bid).bars.has n = true → ∀ i ∈ l,
      ((l.foldl (fun s lane => s.withdrawFrom bid sq lane (s.block bid).bars) s).bar bid n).enr.getLsbD (sq * 32 + i)
        = false := by
    intro l
    induction l with
    | nil => exact fun _ _ _ hi => nomatch hi
    | cons j l ih =>
      intro s hn i hi
      have hstep := s.barsAdvance_withdrawFrom bid sq j (s.block bid).bars
      by_cases hrest : i ∈ l
      · exact ih _ (hstep.2.1 bid n hn) i hrest
      · obtain rfl := (List.mem_cons.mp hi).resolve_right hrest
        exact ((State.barsAdvance_foldl (fun t lane => t.barsAdvance_withdrawFrom bid sq lane _) l _).2.2 bid n _).1
          (s.withdrawFrom_enr bid sq i (Table.mem_keys_of_has hn))
  refine BitVec.eq_of_getLsbD_eq fun j _ => ?_
  rw [BitVec.getLsbD_and, getLsbD_threadSet]
  by_cases hj : sq * 32 ≤ j ∧ lanes.getLsbD (j - sq * 32) = true
  · have hi : j - sq * 32 ∈ lanesOf lanes := mem_lanesOf.mpr ⟨BitVec.lt_of_getLsbD hj.2, hj.2⟩
    have hbit := hlane (lanesOf lanes) s hn _ hi
    rw [← State.withdraw_eq, show sq * 32 + (j - sq * 32) = j by omega] at hbit
    simp [hbit]
  · have hno : (decide (sq * 32 ≤ j) && lanes.getLsbD (j - sq * 32)) = false := by simpa using hj
    rw [Bool.and_assoc, hno]
    simp

/-! ## The end of threads (R239) -/

/-- The end of threads changes their own squad, by its partition and what they had outstanding, and no other. -/
theorem State.endThreads_squads (s : State) (bid sq : Nat) (lanes : Lanes) : (s.endThreads bid sq lanes).squads
    = s.squads.put (squadKey bid sq) ((s.squad bid sq).endLanes lanes s.ctrl.stamp) := by
  have hwithdraw := ((s.setSquad bid sq ((s.squad bid sq).endLanes lanes s.ctrl.stamp)).barsAdvance_withdraw bid sq lanes).1
  unfold State.endThreads
  dsimp only
  split
  · exact congrArg State.squads hwithdraw
  · exact congrArg State.squads hwithdraw

theorem State.endThreads_blocks (s : State) (bid sq : Nat) (lanes : Lanes) : (s.endThreads bid sq lanes).blocks
    = ((s.setSquad bid sq ((s.squad bid sq).endLanes lanes s.ctrl.stamp)).withdraw bid sq lanes).blocks := by
  unfold State.endThreads
  dsimp only
  split <;> rfl

/-- States with the same table of blocks have the same instances. -/
theorem State.bar_of_blocks {s t : State} (h : t.blocks = s.blocks) (bid n : Nat) : t.bar bid n = s.bar bid n := by
  simp [State.bar, State.block, h]

/-- The state in which `exit` ends its threads: the other lanes have gone on, and threads that a handler ends are gone from
the kept control state too. -/
def State.exiting (s : State) (x : Ins) : State :=
  let q := s.squad x.bid x.sq
  let c := (q.ctl.removeGroup x.grp).scatter s.ctrl.stamp (x.lanes &&& ~~~x.pass) fun _ => x.next
  let s := s.setSquad x.bid x.sq { q with ctl := c }
  let b := s.block x.bid
  if b.serves x.sq then
    s.setBlock x.bid { b with handler := b.handler.map fun h => { h with kept := h.kept.endThreads x.pass } }
  else s

theorem State.exiting_bars (s : State) (x : Ins) : ((s.exiting x).block x.bid).bars = (s.block x.bid).bars := by
  unfold State.exiting
  dsimp only
  split
  · rw [State.block_setBlock]
    rfl
  · rfl

theorem exec_exit (a : Args Unit) : exec (.exit a) = issue (headOf a (.exit a) false true) fun x s =>
    .placed ((s.exiting x).endThreads x.bid x.sq x.pass) := rfl

/-- Settles O25: the passing lanes leave every sub-group, to which no release brings them back, and are withdrawn from one
barrier after another. -/
theorem exitEndsThreads : Obligations.ExitEndsThreads := by
  intro a s x hp
  refine ⟨_, exec_of_body (exec_exit a) hp rfl, ?_, fun n hn => ?_⟩
  · have hctl (t : State) (h : Hint) : ((t.issued x h).squad x.bid x.sq).ctl = (t.squad x.bid x.sq).ctl := by
      simp [State.issued, State.squad]
    rw [Result.apply, hctl, State.squad, State.endThreads_squads, Table.get_put_self]
    exact Squad.alive_endLanes _ _ _
  · have hblocks (t : State) (h : Hint) : (t.issued x h).blocks = t.blocks := by
      simp [State.issued, State.endWait_other]
    rw [Result.apply, State.bar_of_blocks (hblocks _ _), State.bar_of_blocks (State.endThreads_blocks _ _ _ _)]
    refine State.withdraw_enr _ _ _ _ ?_
    rw [State.block, State.setSquad_blocks, ← State.block, State.exiting_bars]
    exact hn

end Sys2Proof.Machine

end

section
/-!
# Barrier instructions

Each instruction is judged on its index, and then on its barrier, before it acts. The arrivals of a sub-group follow one
another, and no arrival gives another lane its second one.
-/

namespace Sys2Proof.Machine

open Sys2Proof

/-! ## The index of a barrier (R246) -/

theorem State.barCause_of_le {s : State} {x : Ins} {n : Nat} (h : (s.kernel x.bid).bars ≤ n) :
    s.barCause x n = some (0x240, n) := if_pos h

theorem State.barCause_of_lt {s : State} {x : Ins} {n : Nat} (h : n < (s.kernel x.bid).bars) : s.barCause x n = none :=
  if_neg (Nat.not_le.mpr h)

/-- A body that raises the cause of its barrier's index. -/
def JudgesIndex (body : Args SMod → Ins → State → Result) : Prop :=
  ∀ a x s e, s.barCause x a.mod.idx.toNat = some e → body a x s = .trap e.1 e.2

theorem judgesIndex_biniBody : JudgesIndex biniBody := fun a x s e h => by simp only [biniBody, h]
theorem judgesIndex_barvBody : JudgesIndex barvBody := fun a x s e h => by simp only [barvBody, h]
theorem judgesIndex_bexpBody : JudgesIndex bexpBody := fun a x s e h => by simp only [bexpBody, h]
theorem judgesIndex_bwaitBody : JudgesIndex bwaitBody := fun a x s e h => by simp only [bwaitBody, h]
theorem judgesIndex_btestBody : JudgesIndex btestBody := fun a x s e h => by simp only [btestBody, h]

/-- An index beyond the declared count raises 0x240. -/
theorem trapsWhen_index {body : Args SMod → Ins → State → Result} (hb : JudgesIndex body) {a : Args SMod} {i : Instr}
    {h : Head} (hexec : exec i = issue h (body a)) :
    TrapsWhen i h (fun x s => (s.kernel x.bid).bars ≤ a.mod.idx.toNat) 0x240 fun _ _ => a.mod.idx.toNat :=
  trapsWhen_of_trap hexec fun x s hle => hb a x s _ (State.barCause_of_le hle)

/-! ## The instructions under both maps (R51) -/

section

variable {a : Args SMod} {i : Instr}

theorem exec_bini (hi : i ∈ [Instr.bini a, .biniMap2 a]) : exec i = issue (headOf a i) (biniBody a) := by
  simp only [List.mem_cons, List.not_mem_nil, or_false] at hi
  rcases hi with rfl | rfl <;> rfl

theorem exec_barv (hi : i ∈ [Instr.barv a, .barvMap2 a]) : exec i = issue (headOf a i false true) (barvBody a) := by
  simp only [List.mem_cons, List.not_mem_nil, or_false] at hi
  rcases hi with rfl | rfl <;> rfl

theorem exec_bexp (hi : i ∈ [Instr.bexp a, .bexpMap2 a]) : exec i = issue (headOf a i) (bexpBody a) := by
  simp only [List.mem_cons, List.not_mem_nil, or_false] at hi
  rcases hi with rfl | rfl <;> rfl

theorem exec_bwait (hi : i ∈ [Instr.bwait a, .bwaitMap2 a]) : exec i = issue (headOf a i) (bwaitBody a) := by
  simp only [List.mem_cons, List.not_mem_nil, or_false] at hi
  rcases hi with rfl | rfl <;> rfl

theorem exec_btest (hi : i ∈ [Instr.btest a, .btestMap2 a]) : exec i = issue (headOf a i) (btestBody a) := by
  simp only [List.mem_cons, List.not_mem_nil, or_false] at hi
  rcases hi with rfl | rfl <;> rfl

/-- Every barrier instruction but `barv` has a body that judges its index. -/
theorem exec_judgesIndex (hi : i ∈ [Instr.bini a, .biniMap2 a, .bexp a, .bexpMap2 a, .bwait a, .bwaitMap2 a, .btest a, .btestMap2 a]) :
    ∃ body, JudgesIndex body ∧ exec i = issue (headOf a i) (body a) := by
  have hsplit : i ∈ [Instr.bini a, .biniMap2 a] ++ ([.bexp a, .bexpMap2 a] ++ ([.bwait a, .bwaitMap2 a] ++ [.btest a, .btestMap2 a])) := hi
  rcases List.mem_append.mp hsplit with h | h
  · exact ⟨_, judgesIndex_biniBody, exec_bini h⟩
  · rcases List.mem_append.mp h with h | h
    · exact ⟨_, judgesIndex_bexpBody, exec_bexp h⟩
    · rcases List.mem_append.mp h with h | h
      · exact ⟨_, judgesIndex_bwaitBody, exec_bwait h⟩
      · exact ⟨_, judgesIndex_btestBody, exec_btest h⟩

end

/-! ## Arrivals (R249) -/

theorem getLsbD_threadBit_ne {sq i j : Nat} (h : i ≠ j) : (threadBit sq i).getLsbD (sq * 32 + j) = false := by
  rw [threadBit, BitVec.getLsbD_shiftLeft, BitVec.getLsbD_one]
  by_cases hlt : sq * 32 + j < sq * 32 + i
  · simp [hlt]
  · simp [show sq * 32 + j - (sq * 32 + i) ≠ 0 by omega]

/-- The arrival of a lane gives no other its second one. -/
theorem State.arriveLane_both (s : State) (x : Ins) (n : Nat) {i j : Nat} (hij : i ≠ j)
    (h : ((s.bar x.bid n).arr0 &&& (s.bar x.bid n).arr1).getLsbD (x.sq * 32 + j) = false) :
    (((s.arriveLane x n i).bar x.bid n).arr0 &&& ((s.arriveLane x n i).bar x.bid n).arr1).getLsbD (x.sq * 32 + j) = false := by
  refine ((State.barsAdvance_checkBar _ x.bid n).2.2 x.bid n _).2 ?_
  rw [State.bar_setBar, if_pos ⟨rfl, rfl⟩]
  rw [BitVec.getLsbD_and] at h ⊢
  split
  · rw [BitVec.getLsbD_or, getLsbD_threadBit_ne hij, Bool.or_false]
    exact h
  · rw [BitVec.getLsbD_or, getLsbD_threadBit_ne hij, Bool.or_false]
    exact h

/-- Lanes of which none has arrived in both phases all arrive. -/
theorem State.arriveLanes_none_waits (x : Ins) (n : Nat) {l : List Nat} (hl : l.Nodup) (s : State)
    (h : ∀ i ∈ l, ((s.bar x.bid n).arr0 &&& (s.bar x.bid n).arr1).getLsbD (x.sq * 32 + i) = false) :
    (s.arriveLanes x n l).2 = 0 := by
  induction l generalizing s with
  | nil => rfl
  | cons i r ih =>
    obtain ⟨hnot, hr⟩ := List.nodup_cons.mp hl
    rw [State.arriveLanes]
    dsimp only
    rw [if_neg (Bool.not_eq_true _ ▸ h i List.mem_cons_self)]
    exact ih hr _ fun j hj => s.arriveLane_both x n (fun e => hnot (e ▸ hj)) (h j (List.mem_cons_of_mem i hj))

theorem barvBody_of_arrivals {a : Args SMod} {x : Ins} {s : State} (hcause : s.barCause x a.mod.idx.toNat = none)
    (hmay : ∀ k ∈ lanesOf x.pass, s.mayArrive x a.mod.idx.toNat k = true)
    (hall : (s.arriveLanes x a.mod.idx.toNat (lanesOf x.pass)).2 = 0) :
    barvBody a x s = .go (s.arriveLanes x a.mod.idx.toNat (lanesOf x.pass)).1 := by
  have hlane : (x.firstLane fun k => !s.mayArrive x a.mod.idx.toNat k) = none :=
    List.find?_eq_none.mpr fun k hk => by simp [hmay k hk]
  simp only [barvBody, hcause, hlane, hall, if_true]

/-- No passing lane has arrived in both phases where no thread of theirs has. -/
theorem State.none_arrived_twice {s : State} {x : Ins} {n : Nat}
    (h : (s.bar x.bid n).arr0 &&& (s.bar x.bid n).arr1 &&& threadSet x.sq x.pass = 0) {i : Nat} (hi : i ∈ lanesOf x.pass) :
    ((s.bar x.bid n).arr0 &&& (s.bar x.bid n).arr1).getLsbD (x.sq * 32 + i) = false := by
  by_cases hj : x.sq * 32 + i < 1024
  · have hbit := congrArg (BitVec.getLsbD · (x.sq * 32 + i)) h
    have hset : (threadSet x.sq x.pass).getLsbD (x.sq * 32 + i) = true := by
      rw [getLsbD_threadSet, Nat.add_sub_cancel_left, (mem_lanesOf.mp hi).2]
      simp [hj]
    rw [BitVec.getLsbD_and, hset, Bool.and_true] at hbit
    exact hbit.trans BitVec.getLsbD_zero
  · exact BitVec.getLsbD_of_ge _ _ (by omega)

/-- The scope of a barrier is that of its kernel, whatever a barrier or a squad of its block holds. -/
theorem State.flaskScope_setBar (s : State) (bid n sq : Nat) (q : Squad) (x : Bar) :
    ((s.setSquad bid sq q).setBar bid n x).flaskScope bid n = s.flaskScope bid n := by
  simp [State.flaskScope, State.kernel, State.pourOfBlock, State.setBar, State.flask, State.pour, State.block]

/-- An arrival at a barrier of block scope: the thread's bit of its first free phase, and the phase that it awaits. -/
theorem State.arriveLane_holds {s : State} {x : Ins} {n : Nat} (hscope : s.flaskScope x.bid n = false) (k : Nat) :
    (s.arriveLane x n k).bar x.bid n
      = Bar.checkBlock (if (s.bar x.bid n).arr0 &&& threadBit x.sq k == 0
          then { s.bar x.bid n with arr0 := (s.bar x.bid n).arr0 ||| threadBit x.sq k }
          else { s.bar x.bid n with arr1 := (s.bar x.bid n).arr1 ||| threadBit x.sq k })
    ∧ (s.arriveLane x n k).aphOf x n k
      = some (if (s.bar x.bid n).arr0 &&& threadBit x.sq k == 0 then (s.bar x.bid n).ph else (s.bar x.bid n).ph + 1) := by
  refine ⟨?_, ?_⟩
  · unfold State.arriveLane State.checkBar
    dsimp only
    rw [State.flaskScope_setBar, hscope, if_neg Bool.false_ne_true, State.bar_setBar, if_pos ⟨rfl, rfl⟩, State.bar_setBar,
      if_pos ⟨rfl, rfl⟩]
  · have hsquads : (s.arriveLane x n k).squads = _ := congrArg State.squads (State.barsAdvance_checkBar _ x.bid n).1
    rw [State.aphOf, State.squad, hsquads, State.setBar, State.setBlock_squads, ← State.squad, State.squad_setSquad, Table.get?_put_self]

/-! ## The other instructions (R248, R250, R252) -/

section

variable {a : Args SMod} {x : Ins} {s : State} (hcause : s.barCause x a.mod.idx.toNat = none)
include hcause

theorem biniBody_of_unreached (hmask : (s.get1 x a.a x.lane).toNat < 2 ^ (s.kernel x.bid).nsq)
    (h0 : (s.bar x.bid a.mod.idx.toNat).arr0 = 0) (h1 : (s.bar x.bid a.mod.idx.toNat).arr1 = 0)
    (hcb : (s.bar x.bid a.mod.idx.toNat).cb = 0) (hany : ¬(s.get1 x a.a x.lane = 0 ∧ s.get1 x a.b x.lane = 0)) :
    biniBody a x s = .go (s.setBar x.bid a.mod.idx.toNat
      { enr := s.enrolled x.bid (s.get1 x a.a x.lane), eb0 := (s.get1 x a.b x.lane).toNat
        eb := (s.get1 x a.b x.lane).toNat, ph := (s.bar x.bid a.mod.idx.toNat).ph }) := by
  have hcount : (s.get1 x a.a x.lane == 0 && (s.get1 x a.b x.lane).toNat == 0) = false := by
    rw [Bool.eq_false_iff, Ne, Bool.and_eq_true, beq_iff_eq, beq_iff_eq]
    exact fun h => hany ⟨h.1, BitVec.eq_of_toNat_eq h.2⟩
  simp only [biniBody, hcause, if_neg (Nat.not_le.mpr hmask), h0, h1, hcb, hcount, bne_self_eq_false, Bool.or_self,
    Bool.false_eq_true, if_false]

theorem bexpBody_of_fits (h : (s.bar x.bid a.mod.idx.toNat).eb + (s.get1 x a.a x.lane).toNat < 2 ^ 32) :
    bexpBody a x s = .go ((s.setBar x.bid a.mod.idx.toNat { s.bar x.bid a.mod.idx.toNat with
      eb := (s.bar x.bid a.mod.idx.toNat).eb + (s.get1 x a.a x.lane).toNat }).checkBar x.bid a.mod.idx.toNat) := by
  simp only [bexpBody, hcause, if_neg (Nat.not_le.mpr h)]

theorem bexpBody_of_overflow (h : 2 ^ 32 ≤ (s.bar x.bid a.mod.idx.toNat).eb + (s.get1 x a.a x.lane).toNat) :
    bexpBody a x s = .trap 0x243 0 := by
  simp only [bexpBody, hcause, if_pos h]

theorem bwaitBody_of_done (h : ∀ k ∈ lanesOf x.pass, (s.noteAwait x a.mod.idx.toNat).phaseDone x a.mod.idx.toNat a.mod.loc
      ((s.noteAwait x a.mod.idx.toNat).awaited x k) = true) :
    bwaitBody a x s
      = .go ((s.noteAwait x a.mod.idx.toNat).consumeAph x a.mod.idx.toNat a.mod.loc (lanesOf x.pass)) := by
  simp only [bwaitBody, hcause, if_pos (List.all_eq_true.mpr h)]

end

/-! ## Phases (R251) -/

/-- A phase that completes is the next one, and a check completes at most two. -/
theorem Bar.checkBlock_ph {b : Bar} (h : b.met = true) : b.checkBlock.ph = b.ph + 1 ∨ b.checkBlock.ph = b.ph + 2 := by
  unfold Bar.checkBlock
  dsimp only
  rw [if_pos h]
  split
  · exact .inr (BitVec.add_assoc b.ph 1 1)
  · exact .inl rfl

/-- Settles O46: each body is followed to the branch that its condition names; of the arrivals of a sub-group none waits,
since no arrival gives another lane its second one. -/
theorem barriersComplete : Obligations.BarriersComplete := by
  refine ⟨fun a i hi => completesWhen_of_go (exec_bini hi) fun x s hc => ?bini,
    fun a i hi => completesWhen_of_go (exec_barv hi) fun x s hc => ?barv, fun s x n k _ hscope => ?arrival,
    fun a i hi => completesWhen_of_go (exec_bexp hi) fun x s hc => bexpBody_of_fits hc.1 hc.2,
    fun a i hi => trapsWhen_of_trap (exec_bexp hi) fun x s hc => bexpBody_of_overflow hc.1 hc.2,
    fun a i hi => completesWhen_of_go (exec_bwait hi) fun x s hc => bwaitBody_of_done hc.1 hc.2,
    fun a i hi => completesWhen_of_go (exec_btest hi) fun x s hc => by simp only [btestBody, hc],
    fun a i hi => ?index, fun a i hi => trapsWhen_index judgesIndex_barvBody (exec_barv hi),
    fun a k i hi => trapsWhen_of_trap (exec_barv hi) fun x s hc => by
      simp only [barvBody, State.barCause_of_lt hc.1, hc.2],
    fun f b => eventIs_of_ite (fun _ => rfl) fun s => ?seam,
    fun b => ⟨rfl, rfl, rfl, rfl, fun h => if_neg (ne_true_of_eq_false h), Bar.checkBlock_ph⟩⟩
  case bini =>
    obtain ⟨hcause, hmask, h0, h1, hcb, hany⟩ := hc
    exact biniBody_of_unreached hcause hmask h0 h1 hcb hany
  case barv =>
    obtain ⟨hcause, hmay, hroom⟩ := hc
    refine barvBody_of_arrivals hcause hmay (hroom.elim (fun h => ?_) id)
    exact State.arriveLanes_none_waits x _ (List.nodup_range.filter _) s fun i hi => State.none_arrived_twice h hi
  case arrival =>
    obtain ⟨hbar, haph⟩ := State.arriveLane_holds (x := x) hscope k
    refine ⟨fun hfirst => ?_, fun hsecond => ?_⟩
    · rw [if_pos (beq_iff_eq.mpr hfirst)] at hbar haph
      exact ⟨hbar, haph⟩
    · rw [if_neg (mt beq_iff_eq.mp hsecond)] at hbar haph
      exact ⟨hbar, haph⟩
  case index =>
    obtain ⟨body, hbody, hexec⟩ := exec_judgesIndex hi
    exact trapsWhen_index hbody hexec
  case seam =>
    simp only [Bool.and_eq_true, Bool.or_eq_true, beq_iff_eq, Bool.not_eq_true', List.isEmpty_eq_false_iff,
      List.all_eq_true, and_assoc]

end Sys2Proof.Machine

end

section
/-!
# What the service of memory leaves alone

Reads and writes of device memory, whoever makes them, act at the homes, in the caches and on the fabric (R14, R171 to R177,
R315, R338, R350): they touch no squad, block, flask, pour, context or tenant, and take no time.
-/

namespace Sys2Proof.Machine

open Sys2Proof

/-- Two states with the same work: the same squads, blocks, flasks, pours, contexts and tenants, at the same cycle. -/
structure State.sameWork (s t : State) : Prop where
  squads : t.squads = s.squads
  blocks : t.blocks = s.blocks
  flasks : t.flasks = s.flasks
  pours : t.pours = s.pours
  contexts : t.contexts = s.contexts
  tenants : t.tenants = s.tenants
  now : t.ctrl.now = s.ctrl.now

namespace State.sameWork

variable {s t u : State}

theorem refl (s : State) : s.sameWork s := ⟨rfl, rfl, rfl, rfl, rfl, rfl, rfl⟩

theorem ite {c : Prop} {_ : Decidable c} (ht : s.sameWork t) (hu : s.sameWork u) : s.sameWork (if c then t else u) := by
  split
  · exact ht
  · exact hu

theorem foldl {β : Type} {f : State → β → State} {l : List β} (h : s.sameWork t)
    (hf : ∀ (t : State) b, s.sameWork t → s.sameWork (f t b)) : s.sameWork (l.foldl f t) :=
  List.foldlRecOn l f h fun t ht b _ => hf t b ht

theorem squad (h : s.sameWork t) (bid sq : Nat) : t.squad bid sq = s.squad bid sq := State.squad_of_squads h.squads bid sq

theorem block (h : s.sameWork t) (bid : Nat) : t.block bid = s.block bid := by rw [State.block, State.block, h.blocks]

theorem flask (h : s.sameWork t) (f : Nat) : t.flask f = s.flask f := by rw [State.flask, State.flask, h.flasks]

theorem pour (h : s.sameWork t) (p : Nat) : t.pour p = s.pour p := by rw [State.pour, State.pour, h.pours]

theorem context (h : s.sameWork t) (n : Nat) : t.context n = s.context n := by
  rw [State.context, State.context, h.contexts]

variable (h : s.sameWork t)
include h

/-- A state made of the work of another and of any other fields. -/
theorem update {c : Ctrl} {co : Table Core} {pr : Table Prog} {ch : Table Chain} {tk : Table TkReq} {m : Memories} {ho : Homes}
    {dv : Device} (hc : c.now = t.ctrl.now) :
    s.sameWork (State.mk c t.squads t.blocks t.flasks t.pours co pr ch tk m ho t.contexts t.tenants dv) :=
  ⟨h.squads, h.blocks, h.flasks, h.pours, h.contexts, h.tenants, hc.trans h.now⟩

/-! ## Records and corrections -/

theorem irq {tenant : Option Nat} {vec : Nat} : s.sameWork (t.irq tenant vec) := by
  obtain ⟨_, _, _, heq⟩ := t.irq_eq tenant vec
  exact heq ▸ .update h rfl

theorem record {r : ErrRec} : s.sameWork (t.record r) := by
  obtain ⟨_, _, _, _, _, heq⟩ := t.record_eq r
  exact heq ▸ .update h rfl

theorem corrected {tag struct key : Nat} : s.sameWork (t.corrected tag struct key) := by
  unfold State.corrected
  exact .ite (.irq (.record (.update h rfl))) (.record (.update h rfl))

theorem correctRead {pa n : Nat} : s.sameWork (t.correctRead pa n) := by
  unfold State.correctRead
  exact .ite h (.foldl h fun _ _ ht => .ite (.corrected (.update ht rfl)) ht)

theorem correctValue {pa n : Nat} : s.sameWork (t.correctValue pa n) := .ite h (.foldl h fun _ _ ht => .correctRead ht)

theorem correctElem {g : Range} {e : Nat} : s.sameWork (t.correctElem g e) := .ite h (.foldl h fun _ _ ht => .correctRead ht)

theorem repair {us : List (Nat × Nat)} : s.sameWork (t.repair us) := .ite h (.update h rfl)

theorem ruinTag {tag struct key : Nat} : s.sameWork (t.ruinTag tag struct key) := .ite h (.update h rfl)

theorem ruinBlock {bid struct key : Nat} : s.sameWork (t.ruinBlock bid struct key) := .ite h (.update h rfl)

theorem readRecord {r : Nat} : s.sameWork (t.readRecord r) := by
  unfold State.readRecord
  exact .ite (.ruinTag h) (.foldl h fun _ _ ht => .ite (.corrected (.repair ht)) ht)

/-! ## Lines at their homes -/

theorem l2Room {line : Nat} : s.sameWork (t.l2Room line) := by
  unfold State.l2Room
  cases t.l2Victim line with
  | none => exact h
  | some v => exact .update h rfl

theorem dirtyLine {line : Nat} : s.sameWork (t.dirtyLine line) := .ite h (.update (.l2Room h) rfl)

theorem devWrite {pa : Nat} {bytes : List Byte} : s.sameWork (t.devWrite pa bytes) := by
  have hdirty : s.sameWork (t.dirty (linesOf pa bytes.length)) := .foldl h fun _ _ ht => .dirtyLine ht
  exact .ite (.update hdirty rfl) (.repair (.update hdirty rfl))

theorem disown {line bid : Nat} {words : BitVec 16} : s.sameWork (t.disown line bid words) := by
  unfold State.disown
  dsimp only
  split
  · exact h
  · exact .update h rfl

theorem writeWords {line : Nat} {words : BitVec 16} {bytes : List Byte} : s.sameWork (t.writeWords line words bytes) :=
  .ite (.update (.dirtyLine h) rfl) (.repair (.update (.dirtyLine h) rfl))

theorem patchCache {die pa n : Nat} : s.sameWork (t.patchCache die pa n) := by
  unfold State.patchCache
  refine .ite h ?_
  split
  · exact h
  · exact .update h rfl

theorem landBack {id : Nat} : s.sameWork (t.landBack id) := by
  unfold State.landBack
  split
  · exact h
  · dsimp only
    split
    · exact .ruinBlock (.disown (.update h rfl))
    · exact .foldl (.writeWords (.disown (.update h rfl))) fun _ _ ht => .patchCache ht

theorem sendBack {line bid : Nat} : s.sameWork (t.sendBack line bid) := by
  unfold State.sendBack
  dsimp only
  split
  · exact h
  · exact .ite (.ruinBlock (.repair (.disown (.update h rfl)))) (.update h rfl)

theorem recallNow {line : Nat} : s.sameWork (t.recallNow line) :=
  .foldl (.foldl h fun _ _ ht => .sendBack ht) fun _ _ ht => .landBack ht

theorem recallLines {pa n : Nat} : s.sameWork (t.recallLines pa n) := .foldl h fun _ _ ht => .recallNow ht

theorem homeWrite {pa : Nat} {bytes : List Byte} : s.sameWork (t.homeWrite pa bytes) := .devWrite (.recallLines h)

theorem storeFrom {die pa : Nat} {bytes : List Byte} : s.sameWork (t.storeFrom die pa bytes) :=
  .foldl (.homeWrite h) fun _ _ ht => .patchCache ht

theorem loadDone {die : Option Nat} {pa n : Nat} : s.sameWork (t.loadDone die pa n) := by
  cases die with
  | none => exact .correctValue (.recallLines h)
  | some d => exact .foldl (.correctValue (.recallLines h)) fun _ _ ht => .patchCache ht

theorem landOpen {id : Nat} : s.sameWork (t.landOpen id) := by
  unfold State.landOpen
  split
  · exact .ite h (.landBack h)
  · exact h

theorem giveBack {bid : Nat} : s.sameWork (t.giveBack bid) :=
  .foldl (.foldl h fun _ _ ht => .sendBack ht) fun _ _ ht => .landOpen ht

theorem foldElement {g : Range} {e : Nat} : s.sameWork (t.foldElement g e) := by
  unfold State.foldElement
  dsimp only
  refine .foldl ?_ fun _ _ ht => .homeWrite ht
  cases t.elemAt g e with
  | none => exact h
  | some pa => exact .homeWrite h

theorem foldRange {g : Range} : s.sameWork (t.foldRange g) := .foldl h fun t e ht => by
  unfold State.foldLast
  split
  · exact .record ht
  · exact .foldElement (.correctElem ht)

/-! ## Areas of a context set to 0 -/

theorem zeroBytes {pa n : Nat} : s.sameWork (t.zeroBytes pa n) := .update (.foldl h fun _ _ ht => .recallNow ht) rfl

theorem zeroPart {tag va n : Nat} : s.sameWork (t.zeroPart tag va n) := by
  unfold State.zeroPart
  split
  · exact .ite (.ite (.zeroBytes h) h) (.ite (.update h rfl) h)
  · exact h

theorem zeroArea {tag va n : Nat} : s.sameWork (t.zeroArea tag va n) := .ite h (.foldl h fun _ _ ht => .zeroPart ht)

theorem zeroStacks {f : Nat} : s.sameWork (t.zeroStacks f) := .foldl h fun _ _ ht => .zeroArea ht

theorem clearSlots {f : Nat} : s.sameWork (t.clearSlots f) :=
  .foldl h fun _ _ ht => .foldl ht fun _ _ ht => .foldl ht fun t _ ht => by
    cases t.slotAt _ _ _ with
    | none => exact ht
    | some pa => exact .homeWrite ht

/-! ## Reads of a context's memory -/

theorem walked {die : Option Nat} {tag va : Nat} {w : Walk} : s.sameWork (t.walked die tag va w) := by
  unfold State.walked
  refine .ite h ?_
  cases w with
  | damaged k => exact .ruinTag (.foldl h fun _ _ ht => .correctValue ht)
  | leaf | absent | malformed | refused | unbacked | waits => exact .foldl h fun _ _ ht => .correctValue ht

theorem translate {core tag va : Nat} : s.sameWork (t.translate core tag va).1 := by
  unfold State.translate
  dsimp only
  split
  · split
    · exact .update h rfl
    · exact h
  · split
    · exact .update (.walked h) rfl
    · exact .walked h

theorem sendFlit {ep l cls n : Nat} : s.sameWork (t.sendFlit ep l cls n) := .update h rfl

theorem partDone {core : Option Nat} {tag va n : Nat} : s.sameWork (t.partDone core tag va n) := by
  have hfound : s.sameWork (match core with
      | none => t.walked none tag va (t.walkFor core tag va)
      | some c => (t.translate c tag va).1) := by
    cases core with
    | none => exact .walked h
    | some c => exact .translate h
  unfold State.partDone
  dsimp only
  split
  · exact .loadDone hfound
  · split
    · exact .sendFlit hfound
    · exact hfound
  · exact hfound

theorem readsMade {core : Option Nat} {tag : Nat} {reads : List (Nat × Nat)} : s.sameWork (t.readsMade core tag reads) := by
  induction reads generalizing t with
  | nil => exact h
  | cons e rest ih =>
    unfold State.readsMade
    dsimp only
    split
    · refine .ite (ih (.partDone h)) ?_
      split
      · exact ih (.partDone (.partDone h))
      · exact .partDone h
    · exact h

theorem handlerDone {bid : Nat} : s.sameWork (t.handlerDone bid) := .ite h (.readsMade h)

end State.sameWork

end Sys2Proof.Machine

end

section
/-!
# Traps and the handler

What the halt of a block leaves of its squads, what a delivered cause writes, and how the handler starts and returns (R319 to
R332).
-/

namespace Sys2Proof.Machine

open Sys2Proof

/-! ## Cause words and the halt (R65, R319, R320) -/

theorem causeWord_toNat (code sub : Nat) : (causeWord code sub).toNat = sub % 65536 * 65536 + code % 1024 := by
  rw [causeWord, BitVec.toNat_ofNat, Nat.mod_eq_of_lt]
  omega

theorem causeWord_code (code sub : Nat) : (causeWord code sub).toNat % 1024 = code % 1024 := by
  rw [causeWord_toNat]
  omega

theorem causeWord_sub (code sub : Nat) : (causeWord code sub).toNat / 65536 = sub % 65536 := by
  rw [causeWord_toNat]
  omega

/-- A change of every squad in its table that leaves an empty squad as it is changes each squad on its own. -/
theorem State.squad_map {s t : State} {f : Nat → Squad → Squad} (h : t.squads = s.squads.map fun e => (e.1, f e.1 e.2))
    {b q : Nat} : t.squad b q = s.squad b q ∨ t.squad b q = f (squadKey b q) (s.squad b q) := by
  simp only [State.squad, Table.get, h]
  rw [Table.get?_map (g := fun e : Nat × Squad => (e.1, f e.1 e.2)) fun _ => rfl]
  cases s.squads.get? (squadKey b q) with
  | none => exact .inl rfl
  | some _ => exact .inr rfl

section

variable (s : State) (bid b q : Nat)

/-- The halt starts the skid of squads and touches nothing else of them. -/
theorem State.halt_squad : ∃ skid stopped, (s.halt bid).squad b q = { s.squad b q with skid, stopped } := by
  unfold State.halt
  dsimp only
  split
  · exact ⟨_, _, rfl⟩
  · have hmap := State.squad_map (s := s.setBlock bid { s.block bid with halted := true, halting := true })
      (f := fun k x => if k / 32 == bid then { x with skid := 0, stopped := false } else x) (b := b) (q := q)
      (t := { s.setBlock bid { s.block bid with halted := true, halting := true } with
        squads := s.squads.map fun e => if e.1 / 32 == bid then (e.1, { e.2 with skid := 0, stopped := false }) else e })
      (List.map_congr_left fun e _ => by dsimp only; split <;> rfl)
    rcases hmap with hmap | hmap
    · exact ⟨_, _, hmap⟩
    · split at hmap
      · exact ⟨_, _, hmap⟩
      · exact ⟨_, _, hmap⟩

theorem State.halt_mem : (s.halt bid).mem = s.mem := by
  unfold State.halt
  dsimp only
  split <;> rfl

theorem State.halt_flasks : (s.halt bid).flasks = s.flasks := by
  unfold State.halt
  dsimp only
  split <;> rfl

theorem State.halt_halted : ((s.halt bid).block bid).halted = true := by
  unfold State.halt
  dsimp only
  split
  · assumption
  · simp [State.block]

end

/-! ## Taking a trap (R319, R320, R323, R325, R328) -/

section

variable {s : State} {bid sq code sub : Nat} {pc : Pc} {lanes : Lanes}

/-- A cause that the handler can take is saved in its squad, and the block halts. -/
theorem State.takeTrap_of_handler (hserves : (s.block bid).serves sq = false) (hhandler : s.noHandler bid = none)
    (hprio : priority2 code = false) : s.takeTrap bid sq code sub pc lanes
      = (s.halt bid).setSquad bid sq
          { (s.halt bid).squad bid sq with cause := causeWord code sub, trapPc := pc, trapLanes := lanes } := by
  simp [State.takeTrap, hserves, hhandler, hprio]

/-- A cause in the handler's squad kills its flask. -/
theorem State.takeTrap_of_serves (hserves : (s.block bid).serves sq = true)
    (hrun : (priority2 code && (s.flask (s.block bid).flask).run != .first) = false) :
    s.takeTrap bid sq code sub pc lanes = s.killFlask (s.block bid).flask true
      (s.flaskRecord (s.block bid).flask (coreOf bid) (causeWord 0x301 code)) := by
  simp only [State.takeTrap, hrun, hserves, Bool.false_eq_true, if_false, if_true]

/-- A cause that no handler can take ends its flask. -/
theorem State.takeTrap_of_noHandler {n : NoHandler} (hserves : (s.block bid).serves sq = false)
    (hhandler : s.noHandler bid = some n) (hrun : (priority2 code && (s.flask (s.block bid).flask).run != .first) = false) :
    s.takeTrap bid sq code sub pc lanes = s.endUnhandled bid (causeWord code sub) n := by
  simp only [State.takeTrap, hrun, hserves, hhandler, Bool.false_eq_true, if_false]

end

/-- Settles O26: the halt leaves each squad but for its skid, and the cause is written into the squad that raised it. -/
theorem trapSaves : Obligations.TrapSaves := by
  intro s bid sq code sub pc lanes hserves hhandler hprio
  obtain ⟨_, _, hsquad⟩ := s.halt_squad bid bid sq
  simp only [State.takeTrap_of_handler hserves hhandler hprio, State.squad_setSquad, hsquad]
  refine ⟨causeWord_code _ _, causeWord_sub _ _, trivial, trivial, trivial, trivial, s.halt_halted bid, s.halt_mem bid, s.halt_flasks bid,
    fun b q hne => ?_⟩
  obtain ⟨_, _, hother⟩ := s.halt_squad bid b q
  rw [State.squad_setSquad_ne _ _ hne, hother]

/-- Settles O27: the three ways in which no handler serves a cause. -/
theorem trapWithoutHandlerKills : Obligations.TrapWithoutHandlerKills := fun _ _ _ _ _ _ _ hrun =>
  ⟨fun hserves => State.takeTrap_of_serves hserves hrun, fun hserves hno => State.takeTrap_of_noHandler hserves hno hrun,
    fun _ _ hserves hno => State.takeTrap_of_noHandler hserves hno hrun⟩

/-! ## Software traps (R331) -/

theorem State.finish_begin_blocks (s : State) (x : Ins) (h : Hint) : ((s.begin x).finish x h).blocks = s.blocks := by
  obtain ⟨-, -, hfinish, -⟩ := (s.begin x).finish_other x h
  obtain ⟨-, -, hbegin, -⟩ := s.begin_other x
  rw [hfinish, hbegin]

theorem State.finish_begin_block (s : State) (x : Ins) (h : Hint) (b : Nat) : ((s.begin x).finish x h).block b = s.block b := by
  rw [State.block, State.block, State.finish_begin_blocks]

/-- The causes of software are not of priority 2. -/
theorem priority2_software {n : Nat} (h : 0x380 ≤ n) : priority2 n = false := by
  simp only [priority2, Bool.or_eq_false_iff, beq_eq_false_iff_ne]
  omega

theorem exec_trap (a : Args Unit) : exec (.trap a) = issue (headOf a (.trap a)) fun x s =>
    .after s a.imm.toNat ((s.get1 x a.a x.lane).toNat % 65536) := rfl

/-- Settles O28: the cause is taken in the state in which `trap` is complete. -/
theorem softwareTrap : Obligations.SoftwareTrap := by
  intro a s x hp hlo hhi
  have hprio := priority2_software hlo
  have hexec : exec (.trap a) s = .next (((s.begin x).finish x a.hint).takeTrap x.bid x.sq a.imm.toNat
      ((s.get1 x a.a x.lane).toNat % 65536) x.next x.lanes) := by
    rw [← State.begin_get1]
    exact exec_of_body (exec_trap a) hp rfl
  have hblock := s.finish_begin_block x a.hint x.bid
  refine ⟨fun hserves hhandler => ?_, fun hserves => ?_⟩
  · rw [← hblock] at hserves
    rw [State.takeTrap_of_handler hserves hhandler hprio] at hexec
    refine ⟨_, hexec, ?_⟩
    obtain ⟨_, _, hsquad⟩ := ((s.begin x).finish x a.hint).halt_squad x.bid x.bid x.sq
    simp only [State.squad_setSquad, hsquad]
    refine ⟨?_, ?_, rfl, State.halt_halted _ _, trivial⟩
    · rw [causeWord_code, Nat.mod_eq_of_lt hhi]
    · rw [causeWord_sub, Nat.mod_mod]
  · rw [← hblock] at hserves ⊢
    rw [hexec]
    exact congrArg _ (State.takeTrap_of_serves hserves (by rw [hprio]; rfl))

/-! ## The start of the handler (R326) -/

section

variable (s : State) (bid b q : Nat)

/-- The stop of its siblings leaves the threads and the cause of every squad. -/
theorem State.stopSiblings_squad : ((s.stopSiblings bid).squad b q).ctl = (s.squad b q).ctl
    ∧ ((s.stopSiblings bid).squad b q).cause = (s.squad b q).cause := by
  have hmap := State.squad_map (s := s) (t := s.stopSiblings bid) (b := b) (q := q)
    (f := fun k x => if k / 32 != bid then x
      else if x.cause == 0 then { x with trapPc := x.ctl.lastPc, trapLanes := 0, stopped := true } else { x with stopped := true })
    (List.map_congr_left fun e _ => by split <;> [rfl; split <;> rfl])
  rcases hmap with hmap | hmap
  · rw [hmap]
    exact ⟨rfl, rfl⟩
  · rw [hmap]
    split
    · exact ⟨rfl, rfl⟩
    · split <;> exact ⟨rfl, rfl⟩

/-- A squad served is one sub-group at the entry; its cause stays, and its block's handler serves it. -/
theorem State.serve_squad (entry : Pc) (lo hi : Nat) :
    ((s.serve bid q entry lo hi).squad bid q).ctl = Ctl.oneGroup (s.squad bid q).ctl.alive entry s.ctrl.stamp
    ∧ ((s.serve bid q entry lo hi).squad bid q).cause = (s.squad bid q).cause
    ∧ ((s.serve bid q entry lo hi).block bid).serves q = true := by
  simp [State.serve, State.tickStamp, State.squad, State.block, Block.serves]

theorem State.serveFrom_of_handlerOf {k : Kernel} (h : s.handlerOf bid = some k) :
    s.serveFrom bid q = (s.handlerDone bid).serve bid q (BitVec.ofNat 64 k.entry) k.codeLo k.codeHi := by
  simp [State.serveFrom, h]

end

/-- Settles O29: neither the stop of the siblings nor the reads of the handler's record touch the threads or the cause. -/
theorem handlerStarts : Obligations.HandlerStarts := by
  intro s blk q k hhas hnone hhalted hopen htrapped hhandler
  have hexec : exec (.handlerStart blk) s = .next ((s.stopSiblings blk).serveFrom blk q) := by
    change execHandlerStart blk s = _
    simp [execHandlerStart, hhas, hnone, hhalted, hopen, htrapped]
  obtain ⟨hctl, hcause⟩ := s.stopSiblings_squad blk blk q
  have hdone := (State.sameWork.handlerDone (bid := blk) (.refl (s.stopSiblings blk))).squad blk q
  obtain ⟨htctl, htcause, hserves⟩ := ((s.stopSiblings blk).handlerDone blk).serve_squad blk q (BitVec.ofNat 64 k.entry)
    k.codeLo k.codeHi
  rw [hdone, hctl] at htctl
  rw [hdone, hcause] at htcause
  refine ⟨_, hexec, ?_⟩
  rw [State.serveFrom_of_handlerOf _ _ _ hhandler, htctl]
  exact ⟨rfl, rfl, rfl, hserves, htcause⟩

/-! ## The return (R332) -/

theorem exec_rft (a : Args Unit) : exec (.rft a) = issue (headOf a (.rft a)) fun x s =>
    if !(s.block x.bid).serves x.sq then .trap 0x019 0
    else match (s.block x.bid).handler with
      | some h => .placed (s.returnFrom x h (s.get1 x a.a x.lane))
      | none => .trap 0x019 0 := rfl

theorem exec_rftAbort (a : Args Unit) : exec (.rftAbort a) = issue (headOf a (.rftAbort a)) fun x s =>
    if (s.block x.bid).serves x.sq then
      .dead (s.killFlask (s.block x.bid).flask true
        (s.flaskRecord (s.block x.bid).flask (coreOf x.bid) (s.squad x.bid x.sq).cause))
    else .trap 0x019 0 := rfl

theorem State.begin_block (s : State) (x : Ins) (b : Nat) : (s.begin x).block b = s.block b := rfl

theorem State.begin_cause (s : State) (x : Ins) : ((s.begin x).squad x.bid x.sq).cause = (s.squad x.bid x.sq).cause := by
  simp [State.begin]

theorem squadKey_ne {bid q r : Nat} (h : q ≠ r) : squadKey bid q ≠ squadKey bid r := by
  unfold squadKey
  omega

/-- With no other squad of the block trapped, the return resumes it. -/
theorem State.returnFrom_resumes {s : State} {x : Ins} (h : Handler) (lanes : Lanes)
    (hothers : ∀ q, q < 32 → q ≠ x.sq → (s.squad x.bid q).cause = 0) :
    ∃ t : State, s.returnFrom x h lanes = t.resume x.bid ∧ (t.squad x.bid x.sq).cause = 0 := by
  let u := (s.setSquad x.bid x.sq { s.squad x.bid x.sq with ctl := h.kept, cause := 0 }).endThreads x.bid x.sq (h.kept.alive &&& lanes)
  have hcause : (u.squad x.bid x.sq).cause = 0 := by
    simp only [u, State.squad, State.endThreads_squads, State.setSquad_squads, Table.get_put_self, Squad.endLanes]
  have htrapped : u.trapped x.bid = none := by
    refine List.find?_eq_none.mpr fun q hq => ?_
    by_cases hsq : q = x.sq
    · simp [hsq, hcause]
    · have hkey := squadKey_ne (bid := x.bid) hsq
      have hsame : u.squad x.bid q = s.squad x.bid q := by
        simp only [u, State.squad, State.endThreads_squads, State.setSquad_squads, Table.get_put_ne _ hkey]
      simp [hsame, hothers q (List.mem_range.mp hq) hsq]
  refine ⟨u, ?_, hcause⟩
  change u.nextTrapped x.bid = u.resume x.bid
  rw [State.nextTrapped, htrapped]

theorem State.resume_block (s : State) (bid : Nat) : ((s.resume bid).block bid).handler = none
    ∧ ((s.resume bid).block bid).halted = false := by
  simp [State.resume]

/-- Settles O30: the bodies of `rft` and `rft.abort`, and a return after which no squad of the block is trapped. -/
theorem returnFromTrap : Obligations.ReturnFromTrap := by
  refine ⟨fun a s x h hp hserves hhandler => ?_, fun a s x hp hserves => ?_, fun a => ?_, fun a => ?_,
    fun s x h lanes _ hothers => ?_⟩
  · refine exec_of_body (r := .placed ((s.begin x).returnFrom x h (s.get1 x a.a x.lane))) (exec_rft a) hp ?_
    simp only [State.begin_block, hserves, hhandler, State.begin_get1, Bool.not_true, Bool.false_eq_true, if_false]
  · have hbody := exec_of_body (exec_rftAbort a) hp (if_pos hserves)
    rwa [State.begin_cause] at hbody
  · exact trapsWhen_of_trap (exec_rft a) fun x s hno => if_pos (by rw [hno]; rfl)
  · exact trapsWhen_of_trap (exec_rftAbort a) fun x s hno => if_neg (by rw [hno]; exact Bool.false_ne_true)
  · obtain ⟨t, heq, hcause⟩ := State.returnFrom_resumes h lanes hothers
    dsimp only
    rw [heq]
    exact ⟨hcause, t.resume_block x.bid⟩

end Sys2Proof.Machine

end

section
/-!
# Tags

The tags of a mask, what `twait` finds among them, and what `tclr` leaves of one (R219 to R221).
-/

namespace Sys2Proof.Machine

open Sys2Proof

/-! ## An operand written at a completion -/

/-- The write of an operand and the advance touch neither memory nor the blocks. -/
theorem State.put_finish_other (s : State) (x : Ins) (o : Opnd) (w : Nat) (f : Nat → DWord) (h : Hint) :
    (((s.begin x).put x o w f).finish x h).blocks = s.blocks ∧ (((s.begin x).put x o w f).finish x h).mem = s.mem := by
  obtain ⟨hmem, -, hblocks, -⟩ := ((s.begin x).put x o w f).finish_other x h
  obtain ⟨hputMem, -, hputBlocks, -⟩ := (s.begin x).put_sameOutside x o w f
  exact ⟨hblocks.trans hputBlocks, hmem.trans hputMem⟩

/-! ## Tags of a mask -/

section

variable (s : State) (x : Ins)

theorem State.begin_tagBeyond (m : DWord) : (s.begin x).tagBeyond x m = s.tagBeyond x m := rfl

theorem State.begin_tag (bid n : Nat) : (s.begin x).tag bid n = s.tag bid n := rfl

theorem State.begin_failureMap (m : DWord) : (s.begin x).failureMap x m = s.failureMap x m := rfl

end

theorem maskTags_zero : maskTags 0 = [] := by
  simp [maskTags]

/-- A mask with a tag is not 0. -/
theorem beq_zero_of_mem_maskTags {m : DWord} {n : Nat} (h : n ∈ maskTags m) : (m == 0) = false := by
  rw [beq_eq_false_iff_ne]
  rintro rfl
  rw [maskTags_zero] at h
  cases h

theorem State.mem_maskTags_of_tagBeyond {s : State} {x : Ins} {m : DWord} {n : Nat} (h : s.tagBeyond x m = some n) :
    n ∈ maskTags m := List.mem_of_find?_eq_some h

/-! ## Waiting (R219) -/

section

variable {d a : Opnd} {x : Ins} {s : State}

/-- A tag beyond the declared count traps. -/
theorem twaitBody_of_beyond (all : Bool) {n : Nat} (h : s.tagBeyond x (s.get x a 2 x.lane) = some n) :
    twaitBody all d a x s = .trap 0x201 n := by
  simp only [twaitBody, h, beq_zero_of_mem_maskTags (State.mem_maskTags_of_tagBeyond h), Bool.and_false, Bool.false_eq_true,
    if_false]

/-- `twait.all` traps at the lowest tag that is IDLE. -/
theorem twaitBody_all_of_idle {n : Nat} (h : s.tagBeyond x (s.get x a 2 x.lane) = none)
    (hidle : (maskTags (s.get x a 2 x.lane)).find? (fun n => (s.tag x.bid n).st == TagState.idle) = some n) :
    twaitBody true d a x s = .trap 0x211 n := by
  simp only [twaitBody, h, hidle, Bool.not_true, Bool.false_and, Bool.false_eq_true, if_false, Bool.true_or, if_true]

/-- `twait.any` traps at its lowest tag where all are IDLE. -/
theorem twaitBody_any_of_idle {n : Nat} (h : s.tagBeyond x (s.get x a 2 x.lane) = none)
    (hidle : ∀ k ∈ maskTags (s.get x a 2 x.lane), (s.tag x.bid k).st = TagState.idle)
    (hhead : (maskTags (s.get x a 2 x.lane)).head? = some n) : twaitBody false d a x s = .trap 0x211 n := by
  obtain ⟨rest, hcons⟩ := List.head?_eq_some_iff.mp hhead
  have hall : (maskTags (s.get x a 2 x.lane)).all (fun k => (s.tag x.bid k).st == TagState.idle) = true :=
    List.all_eq_true.mpr fun k hk => by rw [hidle k hk]; rfl
  have hfind : (maskTags (s.get x a 2 x.lane)).find? (fun k => (s.tag x.bid k).st == TagState.idle) = some n := by
    have hn := hidle n (by rw [hcons]; exact List.mem_cons_self)
    rw [hcons, List.find?_cons_of_pos (by simp [hn])]
  have hne := beq_zero_of_mem_maskTags (m := s.get x a 2 x.lane) (n := n) (by rw [hcons]; exact List.mem_cons_self)
  simp only [twaitBody, h, hne, hall, hfind, Bool.and_false, Bool.false_eq_true, if_false, Bool.or_true, if_true]

/-- `twait.all` goes on once every tag is DONE. -/
theorem twaitBody_all_of_done (h : s.tagBeyond x (s.get x a 2 x.lane) = none)
    (hdone : ∀ n ∈ maskTags (s.get x a 2 x.lane), (s.tag x.bid n).st = TagState.done) :
    twaitBody true d a x s = .go (s.put x d 2 fun _ => s.failureMap x (s.get x a 2 x.lane)) := by
  have hidle : (maskTags (s.get x a 2 x.lane)).find? (fun n => (s.tag x.bid n).st == TagState.idle) = none :=
    List.find?_eq_none.mpr fun n hn => by simp [hdone n hn]
  have hall : (maskTags (s.get x a 2 x.lane)).all (fun n => (s.tag x.bid n).st == TagState.done) = true :=
    List.all_eq_true.mpr fun n hn => by rw [hdone n hn]; rfl
  simp only [twaitBody, h, hidle, hall, Bool.not_true, Bool.false_and, Bool.false_eq_true, if_false, Bool.true_or, if_true]

/-- `twait.any` goes on once some tag is DONE. -/
theorem twaitBody_any_of_done (h : s.tagBeyond x (s.get x a 2 x.lane) = none)
    (hdone : ∃ n ∈ maskTags (s.get x a 2 x.lane), (s.tag x.bid n).st = TagState.done) :
    twaitBody false d a x s = .go (s.put x d 2 fun _ => s.failureMap x (s.get x a 2 x.lane)) := by
  obtain ⟨n, hn, hst⟩ := hdone
  have hidle : (maskTags (s.get x a 2 x.lane)).all (fun n => (s.tag x.bid n).st == TagState.idle) = false :=
    List.all_eq_false.mpr ⟨n, hn, by simp [hst]⟩
  have hany : (maskTags (s.get x a 2 x.lane)).any (fun n => (s.tag x.bid n).st == TagState.done) = true :=
    List.any_eq_true.mpr ⟨n, hn, by simp [hst]⟩
  simp only [twaitBody, h, hidle, hany, beq_zero_of_mem_maskTags hn, Bool.and_false, Bool.false_eq_true, if_false, Bool.or_false,
    if_true]

end

/-- A body that goes on with the write of a pair completes with it, and touches neither the blocks nor memory. -/
theorem exec_of_put {i : Instr} {h : Head} {body : Ins → State → Result} (hexec : exec i = issue h body) {s : State} {x : Ins}
    (hp : s.prepare h = .run x) {o : Opnd} {w : Nat} (hw : w = 1 ∨ w = 2) {f : Nat → DWord}
    (hbody : body x (s.begin x) = .go ((s.begin x).put x o w f)) :
    ∃ t, exec i s = .next t ∧ t.holdsIn x o w f ∧ t.blocks = s.blocks ∧ t.mem = s.mem :=
  ⟨_, exec_of_body hexec hp hbody, s.put_finish_holdsIn hw x o f h.hint, s.put_finish_other x o w f h.hint⟩

theorem exec_twaitAll (a : Args Unit) : exec (.twaitAll a) = issue (headOf a (.twaitAll a)) (twaitBody true a.d a.a) := rfl

theorem exec_twaitAny (a : Args Unit) : exec (.twaitAny a) = issue (headOf a (.twaitAny a)) (twaitBody false a.d a.a) := rfl

/-! ## Finding and clearing (R220, R221) -/

theorem exec_tfind (a : Args Unit) : exec (.tfind a) = issue (headOf a (.tfind a)) fun x s =>
    match s.tagBeyond x (s.get x a.a 2 x.lane) with
    | some n => .trap 0x201 n
    | none => .go (s.put1 x a.d fun _ =>
        match (maskTags (s.get x a.a 2 x.lane)).find? fun n => (s.tag x.bid n).st == .done with
        | some n => BitVec.ofNat 32 (n + (s.tag x.bid n).status * 256)
        | none => 0xFFFFFFFF) := rfl

/-- `tfind` writes its result where every tag is declared. -/
theorem exec_tfind_go (a : Args Unit) {s : State} {x : Ins} (hp : s.prepare (headOf a (.tfind a)) = .run x)
    (h : (s.begin x).tagBeyond x ((s.begin x).get x a.a 2 x.lane) = none) :
    ∃ t, exec (.tfind a) s = .next t ∧ t.blocks = s.blocks
      ∧ t.holdsIn x a.d 1 fun _ =>
        (match (maskTags ((s.begin x).get x a.a 2 x.lane)).find? fun n => (s.tag x.bid n).st == TagState.done with
        | some n => BitVec.ofNat 32 (n + (s.tag x.bid n).status * 256)
        | none => 0xFFFFFFFF).setWidth 64 := by
  obtain ⟨t, hexec, hholds, hblocks, -⟩ := exec_of_put (exec_tfind a) hp (.inl rfl) (by simp only [h]; rfl)
  exact ⟨t, hexec, hblocks, hholds⟩

theorem exec_tclr (a : Args Unit) : exec (.tclr a) = issue (headOf a (.tclr a)) fun x s =>
    match s.tagBeyond x (s.get x a.a 2 x.lane) with
    | some n => .trap 0x201 n
    | none => .go ((maskTags (s.get x a.a 2 x.lane)).foldl (fun s n => s.clearTag x.bid n) s) := rfl

/-- A tag replaced. -/
theorem State.tag_setTag (s : State) (bid n : Nat) (t : Tag) : (s.setTag bid n t).tag bid n = t := by
  simp [State.tag, State.setTag]

theorem State.clearTag_of_done {s : State} {bid n : Nat} (h : (s.tag bid n).st = .done) :
    ((s.clearTag bid n).tag bid n).st = .idle := by
  have hclear : s.clearTag bid n = s.setTag bid n { s.tag bid n with st := .idle } := by
    simp only [State.clearTag, h]
  rw [hclear, State.tag_setTag]

/-- Settles O45: the branches of the bodies of `twait`, `tfind` and `tclr`. -/
theorem tagInstructions : Obligations.TagInstructions := by
  have hget (s : State) (x : Ins) (o : Opnd) : s.get x o 2 x.lane = (s.begin x).get x o 2 x.lane :=
    (s.begin_get x o 2 x.lane).symm
  refine ⟨fun a s x hp => ?_, fun a s x hp => ?_, fun a => ?_, fun a n => ?_, fun a n => ?_, fun a n => ?_, fun a n => ?_,
    fun a s x hp => ?_, fun a n => ?_, fun a n => ?_, fun a => ?_, fun s bid n => State.clearTag_of_done⟩
  · rw [hget]
    intro m hbeyond hdone
    exact exec_of_put (exec_twaitAll a) hp (.inr rfl) (twaitBody_all_of_done hbeyond hdone)
  · rw [hget]
    intro m hbeyond hdone
    exact exec_of_put (exec_twaitAny a) hp (.inr rfl) (twaitBody_any_of_done hbeyond hdone)
  · exact trapsWhen_of_trap (exec_twaitAny a) fun x s hm => by simp [twaitBody, hm]
  · exact trapsWhen_of_trap (exec_twaitAny a) fun _ _ => twaitBody_of_beyond false
  · exact trapsWhen_of_trap (exec_twaitAny a) fun _ _ ⟨hbeyond, hidle, hhead⟩ => twaitBody_any_of_idle hbeyond hidle hhead
  · exact trapsWhen_of_trap (exec_twaitAll a) fun _ _ => twaitBody_of_beyond true
  · exact trapsWhen_of_trap (exec_twaitAll a) fun _ _ ⟨hbeyond, hidle⟩ => twaitBody_all_of_idle hbeyond hidle
  · rw [hget]
    intro m hbeyond
    exact exec_tfind_go a hp hbeyond
  · exact trapsWhen_of_trap (exec_tfind a) fun x s hbeyond => by simp only [hbeyond]
  · exact trapsWhen_of_trap (exec_tclr a) fun x s hbeyond => by simp only [hbeyond]
  · exact completesWhen_of_go (exec_tclr a) fun x s hbeyond => by simp only [hbeyond]

end Sys2Proof.Machine

end

section
/-!
# The services of sys

Each service writes one register; the side-effect bit that one of them sets outlasts the advance, which touches only the
runners of the flask (R333, R343).
-/

namespace Sys2Proof.Machine

open Sys2Proof

/-! ## What an advance leaves of the flasks -/

/-- The end of a wait touches only the runners of a flask. -/
theorem State.flask_endWait (s : State) (bid sq f : Nat) :
    ∃ runners, (s.endWait bid sq).flask f = { s.flask f with runners } := by
  unfold State.endWait
  split
  · unfold State.dropPusher
    by_cases hf : f = (s.block bid).flask
    · subst hf
      exact ⟨_, Table.get_put_self _ _ _ _⟩
    · exact ⟨(s.flask f).runners, Table.get_put_ne _ hf _ _⟩
  · exact ⟨_, rfl⟩

theorem State.flask_finish (s : State) (x : Ins) (h : Hint) (f : Nat) :
    ∃ runners, (s.finish x h).flask f = { s.flask f with runners } := by
  obtain ⟨runners, heq⟩ := s.flask_endWait x.bid x.sq f
  exact ⟨runners, by rw [← heq, State.flask, State.finish_flasks_endWait, State.flask]⟩

/-- An operand written last holds what was written, once the instruction has advanced. -/
theorem State.put_then_finish_holdsIn {w : Nat} (hw : w = 1 ∨ w = 2) (s : State) (x : Ins) (o : Opnd) (f : Nat → DWord)
    (h : Hint) : ((s.put x o w f).finish x h).holdsIn x o w f :=
  State.holdsIn_of_writeNat hw (by rw [State.finish_rf, State.put_squad hw, Squad.writeNat_eq])

/-- The write of an operand and the advance touch only the runners of a flask. -/
theorem State.flask_put_finish (s : State) (x : Ins) (o : Opnd) (w : Nat) (g : Nat → DWord) (h : Hint) (f : Nat) :
    ∃ runners, ((s.put x o w g).finish x h).flask f = { s.flask f with runners } := by
  obtain ⟨runners, heq⟩ := (s.put x o w g).flask_finish x h f
  obtain ⟨-, -, -, hflasks, -⟩ := s.put_sameOutside x o w g
  exact ⟨runners, by rw [heq, State.flask, hflasks, State.flask]⟩

/-! ## The services (R333) -/

theorem exec_sysVersion (a : Args Unit) : exec (.sysVersion a) = issue (headOf a (.sysVersion a)) fun x s =>
    if a.imm = 0 then .go (s.put1 x a.d fun _ => BitVec.ofNat 32 (0x00030000 + tableMap (s.pourOfBlock x.bid).table))
    else .trap 0x016 (a.imm.toNat % 65536) := rfl

theorem exec_sysRecoveryState (a : Args Unit) : exec (.sysRecoveryState a) = alu (headOf a (.sysRecoveryState a)) fun x s _ =>
    if (s.kernel x.bid).audit then 0
    else (BitVec.ofNat 32
      ((s.flask (s.block x.bid).flask).relaunches * 2 + (s.flask (s.block x.bid).flask).side.toNat)).setWidth 64 := by
  refine congrArg (alu _) (funext fun x => funext fun s => funext fun _ => ?_)
  dsimp only
  split <;> rfl

theorem exec_sysSetSideEffect (a : Args Unit) : exec (.sysSetSideEffect a) = issue (headOf a (.sysSetSideEffect a)) fun x s =>
    if (s.flask (s.block x.bid).flask).run != .first then .dead (s.endReplay x.bid)
    else .go ((s.sideEffect (s.block x.bid).flask).put1 x a.d fun _ =>
      BitVec.ofNat 32 (s.flask (s.block x.bid).flask).side.toNat) := rfl

theorem exec_sysPourNumber (a : Args Unit) : exec (.sysPourNumber a) = alu (headOf a (.sysPourNumber a)) fun x s _ =>
    (BitVec.ofNat 32 (s.pourOfBlock x.bid).num).setWidth 64 := rfl

theorem State.flask_sideEffect (s : State) (f : Nat) : (s.sideEffect f).flask f = { s.flask f with side := true } := by
  simp [State.sideEffect, State.flask]

/-- Settles O53: each service is the write of one register; the write and the advance keep the side-effect bit. -/
theorem servicesComplete : Obligations.ServicesComplete := by
  refine ⟨fun a himm s x hp => ?_, fun a himm => ?_, fun a => ?_, fun a s x hp hrun => ?_, fun a => ?_⟩
  · obtain ⟨t, hexec, hholds, -⟩ := exec_of_put (exec_sysVersion a) hp (.inl rfl) (if_pos himm)
    exact ⟨t, hexec, hholds⟩
  · exact trapsWhen_of_trap (exec_sysVersion a) fun _ _ _ => if_neg himm
  · exact yields_alu (.inl rfl) (exec_sysRecoveryState a) fun _ _ => rfl
  · have hbody := exec_of_body (exec_sysSetSideEffect a) hp (if_neg (by
      change ¬((s.flask (s.block x.bid).flask).run != .first) = true
      simp [hrun]))
    obtain ⟨runners, hflask⟩ := State.flask_put_finish ((s.begin x).sideEffect (s.block x.bid).flask) x a.d 1 (fun _ =>
      (BitVec.ofNat 32 (s.flask (s.block x.bid).flask).side.toNat).setWidth 64) a.hint (s.block x.bid).flask
    refine ⟨_, hbody, ?_, ?_, State.put_then_finish_holdsIn (.inl rfl) _ x a.d _ a.hint⟩
    · refine (congrArg Flask.side hflask).trans ?_
      rw [State.flask_sideEffect]
    · obtain ⟨hmem, -⟩ := State.finish_other (((s.begin x).sideEffect (s.block x.bid).flask).put1 x a.d fun _ =>
        BitVec.ofNat 32 (s.flask (s.block x.bid).flask).side.toNat) x a.hint
      obtain ⟨hput, -⟩ := ((s.begin x).sideEffect (s.block x.bid).flask).put_sameOutside x a.d 1 fun _ =>
        (BitVec.ofNat 32 (s.flask (s.block x.bid).flask).side.toNat).setWidth 64
      exact hmem.trans hput
  · exact yields_alu (.inl rfl) (exec_sysPourNumber a) fun _ _ => rfl

end Sys2Proof.Machine

end

section
/-!
# Runners

A handle pushed stands as a number in the word of its ring, and a pop served leaves the number in its register (R256, R257).
-/

namespace Sys2Proof

/-! ## The bytes of a number (R5) -/

theorem leBytes_succ (n v : Nat) : leBytes (n + 1) v = BitVec.ofNat 8 v :: leBytes n (v / 256) := by
  simp [leBytes, List.range_succ_eq_map, Nat.div_div_eq_div_mul, Nat.pow_succ, Nat.mul_comm]

/-- The bytes of a number, read back, are the number. -/
theorem leNat_leBytes (n v : Nat) : leNat (leBytes n v) = v % 256 ^ n := by
  induction n generalizing v with
  | zero => simp [leBytes, leNat, Nat.mod_one]
  | succ n ih =>
    rw [leBytes_succ, leNat, ih, Nat.pow_succ', Nat.mod_mul, BitVec.toNat_ofNat]

end Sys2Proof

namespace Sys2Proof.Machine

open Sys2Proof

/-- A number written to an allocation, without skew, is read there. -/
theorem State.poolRead_poolWrite (s : State) (bid o n v : Nat) :
    (s.poolWrite bid o false (leBytes n v)).poolRead bid o n false = leBytes n v := by
  have hwrite := s.poolWrite_leBytes s.mem.pooled bid o false n v
  change s.poolWrite bid o false (leBytes n v) = _ at hwrite
  rw [hwrite]
  refine List.map_congr_left fun k hk => ?_
  refine Memory.read_writeEach_mem (key := fun k => s.poolKey bid (o + k) false) _ hk fun c _ hkey => ?_
  have hc : c = k := by
    simp only [State.poolKey, Bool.false_eq_true, if_false] at hkey
    omega
  rw [hc]

/-! ## Runners of a flask -/

section

variable (s : State) (f n : Nat) (r : Runner)

theorem State.runner_setRunner : (s.setRunner f n r).runner f n = r := by
  simp [State.runner, State.setRunner, State.flask]

theorem State.runner_of_flasks {t : State} (h : t.flasks = s.flasks) : t.runner f n = s.runner f n := by
  rw [State.runner, State.runner, State.flask, State.flask, h]

theorem State.repair_flasks (us : List (Nat × Nat)) : (s.repair us).flasks = s.flasks := by
  unfold State.repair
  split <;> rfl

/-- A raise of the device generation changes no flask but for its view. -/
theorem State.flask_raiseDgen : ∃ viewGen, s.raiseDgen.flask f = { s.flask f with viewGen } := by
  unfold State.raiseDgen
  split
  · exact ⟨_, rfl⟩
  · simp only [State.flask, Table.get]
    rw [Table.get?_map (g := fun e : Nat × Flask =>
      if e.2.status == .resident || e.2.status == .saving then (e.1, { e.2 with viewGen := 1 }) else e)
      fun e => by dsimp only; split <;> rfl]
    cases s.flasks.get? f with
    | none => exact ⟨_, rfl⟩
    | some fl =>
      dsimp only [Option.map_some, Option.getD_some]
      split <;> exact ⟨_, rfl⟩

theorem State.raiseDgen_squads : s.raiseDgen.squads = s.squads := by
  unfold State.raiseDgen
  split <;> rfl

theorem State.raiseView_squads : (s.raiseView f).squads = s.squads := s.raiseDgen_squads

theorem State.flask_raiseView : ∃ viewGen, (s.raiseView f).flask f = { s.flask f with viewGen } := by
  obtain ⟨viewGen, heq⟩ := s.flask_raiseDgen f
  refine ⟨s.raiseDgen.homes.dgen, (Table.get_put_self _ _ _ _).trans ?_⟩
  rw [heq]

/-- A pop served leaves the runner as it is, and its handle in its register, which is full. -/
theorem State.runner_popped (p : PopReq) (h : Word) : (s.popped f p h).runner f n = s.runner f n := by
  have hrepair := State.repair_flasks (s.setSquad p.bid p.sq { s.squad p.bid p.sq with
    rf := ((s.squad p.bid p.sq).rf.setScalar p.reg h).markFull (.s (BitVec.ofNat 6 p.reg)) 1 0 }) [scalarUnit p.bid p.sq p.reg]
  unfold State.popped
  dsimp only
  split
  · obtain ⟨_, heq⟩ := State.flask_raiseView (State.repair (s.setSquad p.bid p.sq { s.squad p.bid p.sq with
      rf := ((s.squad p.bid p.sq).rf.setScalar p.reg h).markFull (.s (BitVec.ofNat 6 p.reg)) 1 0 })
      [scalarUnit p.bid p.sq p.reg]) f
    rw [State.runner, heq]
    exact State.runner_of_flasks s f n hrepair
  · exact State.runner_of_flasks s f n hrepair

theorem State.popped_squad (p : PopReq) (h : Word) : (s.popped f p h).squad p.bid p.sq = { s.squad p.bid p.sq with
    rf := ((s.squad p.bid p.sq).rf.setScalar p.reg h).markFull (.s (BitVec.ofNat 6 p.reg)) 1 0 } := by
  unfold State.popped
  dsimp only
  split
  · rw [State.squad_of_squads (State.raiseView_squads _ _) p.bid p.sq, State.squad_repair, State.squad_setSquad]
  · rw [State.squad_repair, State.squad_setSquad]

end

theorem RegFile.sE_markFull_scalar (r : RegFile) {n : Nat} (hn : n < 64) :
    (r.markFull (.s (BitVec.ofNat 6 n)) 1 0).sE.getLsbD n = false := by
  have hmod : n % 64 = n := Nat.mod_eq_of_lt hn
  simp [RegFile.markFull, hmod, hn]

/-! ## Pops served in their order (R257) -/

/-- Where nothing waits or the ring is empty, no pop is served. -/
theorem State.servePops_of_idle {s : State} {f n : Nat} (k : Nat)
    (h : (s.runner f n).waiting = [] ∨ (s.runner f n).n = 0) : State.servePops f n k s = s := by
  cases k with
  | zero => rfl
  | succ k =>
    rcases h with h | h
    · simp [State.servePops, h]
    · unfold State.servePops
      cases hw : (s.runner f n).waiting <;> simp [hw, h]

/-- The first waiting pop takes the handle at the head. -/
theorem State.servePops_of_waiting {s : State} {f n : Nat} (k : Nat) {p : PopReq} {rest : List PopReq}
    (hw : (s.runner f n).waiting = p :: rest) (hn : (s.runner f n).n ≠ 0) (hd : s.dev.damage = []) :
    State.servePops f n (k + 1) s = State.servePops f n k
      ((s.setRunner f n { s.runner f n with
          waiting := rest, head := ((s.runner f n).head + 1) % (s.pour (s.flask f).pour).kern.depth n
          n := (s.runner f n).n - 1 }).popped f p
        (BitVec.ofNat 32 (leNat (s.poolRead (s.ringWord f (s.runner f n) (s.runner f n).head).1
          (s.ringWord f (s.runner f n) (s.runner f n).head).2 4 false)))) := by
  rw [State.servePops]
  simp only [hw, hn, if_false, State.damaged_of_sound hd]

/-! ## The instructions (R256, R257) -/

section

variable (a : Args SMod)

theorem exec_rinit : exec (.rinit a) = issue (headOf a (.rinit a)) fun x s =>
    let n := a.mod.idx.toNat
    let f := (s.block x.bid).flask
    let r := s.runner f n
    let k := s.kernel x.bid
    let addr := (s.get1 x a.a x.lane).toNat % 2 ^ 24
    let c := (s.get1 x a.b x.lane).toNat
    if k.runners ≤ n then .trap 0x246 0
    else if addr % 4 ≠ 0 then .trap 0x246 1
    else match s.poolAt f addr (4 * k.depth n) with
      | .cause _ => .trap 0x246 1
      | .at' b o =>
        if c = 0 ∨ k.depth n < c then .trap 0x246 2
        else if r.n != 0 || !r.waiting.isEmpty || !r.pushers.isEmpty then .trap 0x246 3
        else .go (s.setRunner f n { ring := some ((s.block b).idx * 2 ^ 19 + o), allow := c }) := rfl

theorem exec_push : exec (.push a) = issue (headOf a (.push a)) fun x s =>
    match s.runnerCause x a.mod.idx.toNat with
    | some e => .trap e.1 e.2
    | none =>
      let r := s.runner (s.block x.bid).flask a.mod.idx.toNat
      if r.allow ≤ r.n then
        .hold (s.setRunner (s.block x.bid).flask a.mod.idx.toNat { r with
          pushers := r.pushers.filter (fun e => e != squadKey x.bid x.sq) ++ [squadKey x.bid x.sq]
          pushStage := some ((s.kernel x.bid).stageOf x.sq) })
      else .go (s.pushHandle x a.mod.idx.toNat (s.get1 x a.a x.lane)) := rfl

theorem exec_pop : exec (.pop a) = issue (headOf a (.pop a)) fun x s =>
    match s.runnerCause x a.mod.idx.toNat with
    | some e => .trap e.1 e.2
    | none => .go (s.askPop x a.mod.idx.toNat a.d) := rfl

end

/-- A ring set up: the checks of R256 pass, and the runner changes. -/
theorem rinit_completes (a : Args SMod) (b o : Nat) : CompletesWhen (.rinit a) (headOf a (.rinit a))
    (fun x s =>
      let r := s.runner (s.block x.bid).flask a.mod.idx.toNat
      let depth := (s.kernel x.bid).depth a.mod.idx.toNat
      a.mod.idx.toNat < (s.kernel x.bid).runners ∧ (s.get1 x a.a x.lane).toNat % 2 ^ 24 % 4 = 0
      ∧ s.poolAt (s.block x.bid).flask ((s.get1 x a.a x.lane).toNat % 2 ^ 24) (4 * depth) = .at' b o
      ∧ 1 ≤ (s.get1 x a.b x.lane).toNat ∧ (s.get1 x a.b x.lane).toNat ≤ depth
      ∧ r.n = 0 ∧ r.waiting = [] ∧ r.pushers = [])
    fun x s => s.setRunner (s.block x.bid).flask a.mod.idx.toNat
      { ring := some ((s.block b).idx * 2 ^ 19 + o), allow := (s.get1 x a.b x.lane).toNat } := by
  refine completesWhen_of_go (exec_rinit a) fun x s ⟨hn, haddr, hat, hc, hdepth, hempty, hwaiting, hpushers⟩ => ?_
  dsimp only
  rw [if_neg (Nat.not_le.mpr hn), if_neg (not_not.mpr haddr), hat]
  simp [Nat.ne_of_gt hc, Nat.not_lt.mpr hdepth, hempty, hwaiting, hpushers]

/-- Where no pop waits, a handle pushed stands at the tail. -/
theorem State.pushHandle_of_no_pop {s : State} {x : Ins} {n : Nat} (h : Word)
    (hw : (s.runner (s.block x.bid).flask n).waiting = []) :
    let f := (s.block x.bid).flask
    let r := s.runner f n
    s.pushHandle x n h = ((s.poolWrite (s.ringWord f r r.tail).1 (s.ringWord f r r.tail).2 false (leBytes 4 h.toNat)).repair
        (s.poolUnits (s.ringWord f r r.tail).1 (s.ringWord f r r.tail).2 4 false)).setRunner f n
      { r with
        pushers := r.pushers.filter fun e => e != squadKey x.bid x.sq
        pushStage := some ((s.kernel x.bid).stageOf x.sq), tail := (r.tail + 1) % (s.kernel x.bid).depth n, n := r.n + 1 } := by
  intro f r
  refine State.servePops_of_idle 64 (.inl ?_)
  rw [State.runner_setRunner]
  exact hw

/-- Settles O47: the bodies of the instructions; a handle pushed is read back from its word, and one step of ServePops. -/
theorem runnersComplete : Obligations.RunnersComplete := by
  refine ⟨fun a s x b o hp => ?_, fun a => ?_, fun a => ?_, fun s x n h => ?_, fun s f n k => State.servePops_of_idle k,
    fun s f n k p rest hw hn hreg hd => ?_⟩
  · intro n f addr c hn haddr hat hc hdepth hempty hwaiting hpushers
    have hget (o : Opnd) : s.get1 x o x.lane = (s.begin x).get1 x o x.lane := (s.begin_get1 x o x.lane).symm
    simp only [addr, c, hget] at haddr hat hc hdepth ⊢
    exact ⟨_, rinit_completes a b o s x hp ⟨hn, haddr, hat, hc, hdepth, hempty, hwaiting, hpushers⟩,
      State.advanced_finish x _ rfl rfl rfl⟩
  · refine completesWhen_of_go (exec_push a) fun x s ⟨hcause, hroom⟩ => ?_
    simp only [hcause]
    exact if_neg (Nat.not_le.mpr hroom)
  · exact completesWhen_of_go (exec_pop a) fun x s hcause => by simp only [hcause]
  · intro f r hw t
    have hpush : t = _ := State.pushHandle_of_no_pop h hw
    clear_value t
    subst hpush
    rw [State.runner_setRunner]
    refine ⟨rfl, rfl, hw, ?_⟩
    have hmem (u : State) (us : List (Nat × Nat)) (r : Runner) (b o : Nat) :
        ((u.repair us).setRunner f n r).poolRead b o 4 false = u.poolRead b o 4 false := by
      unfold State.repair
      split <;> rfl
    rw [hmem, State.poolRead_poolWrite, leNat_leBytes]
    exact Nat.mod_eq_of_lt h.isLt
  · intro w t
    have hserve : t = _ := State.servePops_of_waiting k hw (by omega) hd
    rw [hn, State.servePops_of_idle k (.inr (by rw [State.runner_popped, State.runner_setRunner]))] at hserve
    clear_value t
    subst hserve
    rw [State.runner_popped, State.runner_setRunner, State.popped_squad]
    refine ⟨rfl, rfl, ?_, RegFile.sE_markFull_scalar _ hreg⟩
    exact (RegFile.scalar_setScalar _ _ _ _).trans (if_pos rfl)

end Sys2Proof.Machine

end

section
/-!
# Drains

The idle trees read of a squad only its combined stores and its spills, so that the beginning of an issue leaves them as they
are (R261).
-/

namespace Sys2Proof

/-- A test that does not tell a value put under a key from the one that stood there, and is false of the default, is met by
some entry of the table as before. -/
theorem Table.any_put {α : Type} {t : Table α} {n : Nat} {x d : α} {f : Nat × α → Bool} (hx : f (n, x) = f (n, t.get n d))
    (hd : f (n, d) = false) : (t.put n x).any f = t.any f := by
  induction t with
  | nil => simpa [Table.put, Table.get, Table.get?, hd] using hx
  | cons e r ih =>
    obtain ⟨k, v⟩ := e
    have hrest (hk : k ≠ n) : f (n, x) = f (n, Table.get r n d) := by simpa [Table.get, Table.get?, hk] using hx
    rw [Table.put]
    split
    · next hlt => rw [List.any_cons, List.any_cons, ih (hrest (Nat.ne_of_lt hlt))]
    · split
      · next hk =>
        have hv : f (n, x) = f (k, v) := by simpa [Table.get, Table.get?, hk] using hx
        rw [List.any_cons, List.any_cons, hv]
      · next hk =>
        rw [List.any_cons, hrest hk]
        cases hr : Table.get? r n with
        | none => simp [Table.get, hr, hd]
        | some w =>
          have hmem : (n, w) ∈ (k, v) :: r := List.mem_cons_of_mem _ (Table.mem_of_get? hr)
          rw [Table.get, hr, Option.getD_some, Bool.or_eq_right_iff_imp]
          exact fun hw => List.any_eq_true.mpr ⟨_, hmem, hw⟩

end Sys2Proof

namespace Sys2Proof.Machine

open Sys2Proof

/-! ## The idle trees -/

section

variable (s : State) (x : Ins)

/-- A squad whose combined stores and posted instructions are as before answers a test of these as before. -/
theorem State.any_setSquad {bid sq : Nat} {q : Squad} {f : Nat × Squad → Bool}
    (hq : f (squadKey bid sq, q) = f (squadKey bid sq, s.squad bid sq)) (hnone : f (squadKey bid sq, {}) = false) :
    (s.setSquad bid sq q).squads.any f = s.squads.any f := Table.any_put hq hnone

theorem State.begin_idleDie (g die : Nat) : (s.begin x).idleDie g die = s.idleDie g die := by
  have hsquads : (s.begin x).squads.any (fun q => (dieOfBlock (q.1 / 32) == die && s.groupOfBlock (q.1 / 32) == g)
        && (!q.2.combine.isEmpty || q.2.posted.any fun p => p.spill.isSome))
      = s.squads.any fun q => (dieOfBlock (q.1 / 32) == die && s.groupOfBlock (q.1 / 32) == g)
        && (!q.2.combine.isEmpty || q.2.posted.any fun p => p.spill.isSome) :=
    s.any_setSquad rfl (by simp)
  have hgroup (bid : Nat) : (s.begin x).groupOfBlock bid = s.groupOfBlock bid := rfl
  simp only [State.idleDie, hgroup, hsquads]
  rfl

theorem State.begin_idleFor (bid : Nat) (pkg : Bool) : (s.begin x).idleFor bid pkg = s.idleFor bid pkg := by
  have hgroup : (s.begin x).groupOfBlock bid = s.groupOfBlock bid := rfl
  simp only [State.idleFor, State.begin_idleDie, hgroup]

end

/-! ## The drains (R261) -/

theorem State.begin_drain (s : State) (x : Ins) : ((s.begin x).squad x.bid x.sq).drain = (s.squad x.bid x.sq).drain := by
  simp [State.begin]

/-- The state of a drain that is complete. -/
def State.drained (s : State) (x : Ins) (pkg : Bool) : State :=
  let t := s.setSquad x.bid x.sq { s.squad x.bid x.sq with drain := none }
  if pkg then t.raiseView (t.block x.bid).flask else t

section

variable {s : State} {x : Ins} {pkg : Bool}

theorem drainBody_of_done {w : DrainWait} (hw : (s.squad x.bid x.sq).drain = some w) (hd : w.done = true) :
    drainBody pkg x s = .go (s.drained x pkg) := by
  simp only [drainBody, hw, hd, if_true]
  rfl

theorem drainBody_of_none (hw : (s.squad x.bid x.sq).drain = none) : drainBody pkg x s
    = .hold (s.setSquad x.bid x.sq { s.squad x.bid x.sq with
        drain := some { pkg, since := if s.idleFor x.bid pkg then some s.ctrl.now else none } }) := by
  simp only [drainBody, hw]

theorem State.drained_squad : (s.drained x pkg).squad x.bid x.sq = { s.squad x.bid x.sq with drain := none } := by
  unfold State.drained
  dsimp only
  split
  · rw [State.squad_of_squads (State.raiseView_squads _ _) x.bid x.sq, State.squad_setSquad]
  · rw [State.squad_setSquad]

theorem State.raiseDgen_mem (s : State) : s.raiseDgen.mem = s.mem := by
  unfold State.raiseDgen
  split <;> rfl

theorem State.drained_mem : (s.drained x pkg).mem = s.mem := by
  unfold State.drained
  dsimp only
  split
  · exact State.raiseDgen_mem _
  · rfl

/-- The package form sees what the device generation has reached. -/
theorem State.drained_view (s : State) (x : Ins) :
    ((s.drained x true).flask (s.block x.bid).flask).viewGen = (s.drained x true).homes.dgen :=
  congrArg Flask.viewGen (Table.get_put_self _ _ _ _)

end

/-- A drain that is complete leaves its registers and memory, and the squad without a drain. -/
theorem exec_drain_of_done {i : Instr} {h : Head} {pkg : Bool} (hexec : exec i = issue h (drainBody pkg)) {s : State} {x : Ins}
    (hp : s.prepare h = .run x) {w : DrainWait} (hw : (s.squad x.bid x.sq).drain = some w) (hd : w.done = true) :
    ∃ t, exec i s = .next t ∧ (t.squad x.bid x.sq).drain = none ∧ t.mem = s.mem
      ∧ (t.squad x.bid x.sq).rf = (s.squad x.bid x.sq).rf
      ∧ (pkg = true → (t.flask (s.block x.bid).flask).viewGen = t.homes.dgen) := by
  rw [← State.begin_drain] at hw
  obtain ⟨hmem, hhomes, -⟩ := ((s.begin x).drained x pkg).finish_other x h.hint
  refine ⟨_, exec_of_body hexec hp (drainBody_of_done hw hd), ?_, hmem.trans State.drained_mem, ?_, ?_⟩
  · obtain ⟨-, -, -, -, -, -, -, -, -, -, -, hdrain, -⟩ := ((s.begin x).drained x pkg).finish_sameRest x h.hint
    exact hdrain.symm.trans (by rw [State.drained_squad])
  · exact (State.finish_rf _ _ _).trans (by rw [State.drained_squad, State.begin_rf])
  · rintro rfl
    obtain ⟨_, hflask⟩ := ((s.begin x).drained x true).flask_finish x h.hint (s.block x.bid).flask
    exact (congrArg Flask.viewGen hflask).trans (((s.begin x).drained_view x).trans (congrArg Homes.dgen hhomes.symm))

/-- A drain that begins waits in its place, with the cycle since which its condition holds. -/
theorem exec_drain_of_none {i : Instr} {h : Head} {pkg : Bool} (hexec : exec i = issue h (drainBody pkg)) {s : State} {x : Ins}
    (hp : s.prepare h = .run x) (hw : (s.squad x.bid x.sq).drain = none) :
    ∃ t, exec i s = .next t ∧ t.ctrl.waited = true ∧ (t.squad x.bid x.sq).ctl = (s.squad x.bid x.sq).ctl
      ∧ ∃ w, (t.squad x.bid x.sq).drain = some w ∧ w.pkg = pkg ∧ w.done = false
        ∧ (w.since = some s.ctrl.now ↔ s.idleFor x.bid pkg = true) := by
  rw [← State.begin_drain] at hw
  have hsquad (t : State) (q : Squad) : (t.setSquad x.bid x.sq q).notReady.squad x.bid x.sq = q := State.squad_setSquad _ _ _ _
  refine ⟨_, exec_of_body hexec hp (drainBody_of_none hw), rfl, ?_⟩
  rw [Result.apply, hsquad, State.squad_setSquad, State.begin_idleFor]
  refine ⟨State.begin_ctl s x, _, rfl, rfl, rfl, ?_⟩
  change (if s.idleFor x.bid pkg = true then some s.ctrl.now else none) = some s.ctrl.now ↔ _
  split <;> simp [*]

theorem exec_drainComplete_of_held {k : Nat} {s : State} {w : DrainWait} {since : Nat}
    (hw : (s.squad (k / 32) (k % 32)).drain = some w) (hs : w.since = some since)
    (hlong : since + (if w.pkg then 1400 else 600) ≤ s.ctrl.now) (hidle : s.idleFor (k / 32) w.pkg = true) :
    exec (.drainComplete k) s
      = .next (s.setSquad (k / 32) (k % 32) { s.squad (k / 32) (k % 32) with drain := some { w with done := true } }) := by
  change execDrainComplete k s = _
  simp only [execDrainComplete, hw, hs, hlong, hidle, decide_true, Bool.and_self, if_true]

/-- Settles O49: the three forms share one body, whose two cases are the begin of a drain and its completion. -/
theorem drainsComplete : Obligations.DrainsComplete := by
  refine ⟨fun a p hform s x hp => ?_, fun k s w since => exec_drainComplete_of_held⟩
  have hexec : exec p.1 = issue (headOf a p.1 false true) (drainBody p.2) := by
    simp only [List.mem_cons, List.not_mem_nil, or_false] at hform
    rcases hform with rfl | rfl | rfl <;> rfl
  exact ⟨fun w => exec_drain_of_done hexec hp, exec_drain_of_none hexec hp⟩

end Sys2Proof.Machine

end

section
/-!
# Launches

What an accepted pour leaves in the table of pours and in its queue, and the branches of a launch (R269, R272, R273).
-/

namespace Sys2Proof.Machine

open Sys2Proof

/-! ## What a raise of the device generation leaves -/

section

variable (s : State)

theorem State.raiseDgen_pours : s.raiseDgen.pours = s.pours := by
  unfold State.raiseDgen
  split <;> rfl

theorem State.raiseDgen_tenants : s.raiseDgen.tenants = s.tenants := by
  unfold State.raiseDgen
  split <;> rfl

theorem State.raiseDgen_contexts : s.raiseDgen.contexts = s.contexts := by
  unfold State.raiseDgen
  split <;> rfl

end

/-! ## An accepted pour (R269) -/

/-- The pour that an acceptance enters. -/
def State.newPour (s : State) (tag que : Nat) (d : Desc) (k : Kernel) : Pour :=
  { tag, num := (s.context tag).nextNum, que, cls := ((s.tenant (s.tenantOf tag)).queues.get que {}).cls, desc := d, kern := k
    table := (s.context tag).selected, since := s.ctrl.now, code := s.codeOf tag k }

section

variable (s : State) (tag que : Nat) (d : Desc) (k : Kernel) (overflow : Bool)

theorem State.acceptPour_num : (s.acceptPour tag que d k overflow).2 = (s.context tag).nextNum := rfl

/-- The new pour stands under the key of its number. -/
theorem State.acceptPour_pours : (s.acceptPour tag que d k overflow).1.pours.get? (pourKey tag (s.context tag).nextNum)
    = some (s.newPour tag que d k) := by
  unfold State.acceptPour
  dsimp only
  rw [State.raiseDgen_pours]
  exact Table.get?_put_self _ _ _

/-- It stands at the end of its queue, or of the queue's overflow ring. -/
theorem State.acceptPour_queue :
    let q := (s.tenant (s.tenantOf tag)).queues.get que {}
    let key := pourKey tag (s.context tag).nextNum
    (((s.acceptPour tag que d k overflow).1.tenant (s.tenantOf tag)).queues.get que {})
      = if overflow then { q with overflow := q.overflow ++ [key] } else { q with entries := q.entries ++ [key] } := by
  intro q key
  have hrecord (t : State) (r : Nat) : (t.newRecord r).tenants = t.tenants :=
    (State.sameWork.repair (.refl t)).tenants
  unfold State.acceptPour
  dsimp only
  rw [State.tenant, State.raiseDgen_tenants, State.mapQueue]
  simp [State.tenant, hrecord, q, key]

end

/-! ## The branches of a launch (R273) -/

/-- Settles O50: the checks of a launch in their order, and the two places of an accepted pour. -/
theorem launchResults : Obligations.LaunchResults := by
  intro s tag que bs i prm n q r
  let d : Desc := { descOf bs with prm := prm.getD (descOf bs).prm }
  have hr : r = if !q.en || decide ((s.tenant n).nq ≤ que) then (s, 0x80000004)
      else if s.refusedLaunch tag q bs i then (s, 0x80000002)
      else if 65536 ≤ s.pours.length then (s, 0x80000003)
      else if q.entries.length ≤ q.depthM1 ∧ q.overflow.isEmpty then
        ((s.acceptPour tag que d i.kernel false).1, BitVec.ofNat 32 (s.context tag).nextNum)
      else if q.overflow.length < q.ovfQuota then
        ((s.acceptPour tag que d i.kernel true).1, BitVec.ofNat 32 (s.context tag).nextNum)
      else (s, 0x80000001) := rfl
  clear_value r
  refine ⟨fun hoff => ?_, fun hen hque => ?_⟩
  · rw [hr, if_pos]
    rcases hoff with hoff | hoff <;> simp [hoff]
  · rw [if_neg (by simp [hen, hque])] at hr
    refine ⟨fun href => by rw [hr, if_pos href], fun href => ?_⟩
    rw [if_neg (by simp [href])] at hr
    refine ⟨fun hfull => by rw [hr, if_pos hfull], fun hroom hfull => ?_, fun hroom hentries hovf => ?_⟩
    · rw [if_neg (Nat.not_le.mpr hroom), if_neg (by
        rw [List.isEmpty_iff]
        rintro ⟨hle, hnil⟩
        exact hfull.elim (Nat.not_lt.mpr hle) (absurd hnil))] at hr
      refine ⟨fun hquota => by rw [hr, if_neg (Nat.not_lt.mpr hquota)], fun hquota => ?_⟩
      rw [if_pos hquota] at hr
      subst hr
      dsimp only
      rw [State.acceptPour_queue, Table.has, State.acceptPour_pours]
      exact ⟨rfl, rfl, rfl, rfl⟩
    · rw [if_neg (Nat.not_le.mpr hroom), if_pos ⟨hentries, List.isEmpty_iff.mpr hovf⟩] at hr
      subst hr
      dsimp only
      rw [State.acceptPour_queue]
      exact ⟨rfl, rfl, _, State.acceptPour_pours _ _ _ _ _ _, rfl, rfl, rfl, rfl, rfl, rfl, rfl⟩

end Sys2Proof.Machine

end

section
/-!
# Work instructions

A recorded instruction is fresh, or diverges; a fresh one notes its result in the replay record, which touches nothing but the
flask's record and side-effect bit and the squad's place in it (R273 to R282, R289).
-/

namespace Sys2Proof.Machine

open Sys2Proof

/-! ## Replay records (R279, R289, R324) -/

section

variable {s : State} {x : Ins} {kind : ReplayKind} {val : Word → Result} {fresh : Unit → Result}

theorem State.begin_replayed (s : State) (x : Ins) (kind : ReplayKind) : (s.begin x).replayed x kind = s.replayed x kind := by
  have hturn : ((s.begin x).squad x.bid x.sq).turn = (s.squad x.bid x.sq).turn := by simp [State.begin]
  unfold State.replayed
  rw [hturn]
  rfl

theorem State.replaying_of_fresh (h : s.replayed x kind = .fresh) : s.replaying x kind none val fresh = fresh () := by
  simp [State.replaying, h]

theorem State.replaying_of_failed_check (h : s.replayed x kind = .fresh) (c : Nat × Nat) :
    s.replaying x kind (some c) val fresh = .trap c.1 c.2 := by
  simp [State.replaying, h]

/-- A record of another kind traps before the instruction's own checks. -/
theorem State.replaying_of_diverge {n : Nat} (hbad : s.recordBad x = false) (h : s.replayed x kind = .diverge n)
    (check : Option (Nat × Nat)) : s.replaying x kind check val fresh = .trap 0x30E n := by
  simp [State.replaying, h, hbad]

end

/-- A note changes the record and the side-effect bit of its flask, and nothing else. -/
theorem State.note_eq (s : State) (f key : Nat) (kind : ReplayKind) (w : Word) :
    ∃ replay side, s.note f key kind w = s.setFlask f { s.flask f with replay, side } := by
  unfold State.note
  dsimp only
  split
  · exact ⟨_, _, rfl⟩
  · exact ⟨_, _, rfl⟩

theorem State.noteHere_eq (s : State) (x : Ins) (kind : ReplayKind) (w : Word) : ∃ replay side, s.noteHere x kind w
    = (s.setFlask (s.block x.bid).flask { s.flask (s.block x.bid).flask with replay, side }).tookTurn x := by
  obtain ⟨replay, side, heq⟩ := s.note_eq (s.block x.bid).flask (replayKey (s.block x.bid).idx x.sq (s.squad x.bid x.sq).turn) kind w
  exact ⟨replay, side, congrArg (State.tookTurn · x) heq⟩

/-! ## pour and sparm (R273, R281) -/

/-- The reads of an instruction that return their bytes. -/
theorem State.squadRead_of_bytes {s : State} {x : Ins} {b : List Byte} {reads : List (Nat × Nat)}
    {k : State → List Byte → Result} (h : s.noneDeclined x) :
    s.squadRead x (.bytes b) reads k = k (s.readsMade (some (coreOf x.bid)) (s.tagOfBlock x.bid) reads) b :=
  if_neg (Bool.eq_false_iff.mp h)

theorem exec_pour (a : Args LMod) : exec (.pour a) = issue (headOf a (.pour a)) fun x s =>
    let addr := (s.get x a.a 2 x.lane).toNat
    let kind := ReplayKind.pour a.mod.que.toNat
    s.replaying x kind (if addr % 128 ≠ 0 then some (0x260, 0) else none) (fun w => .go ((s.tookTurn x).pourResult x a w)) fun _ =>
      let (r, bs, i) := s.readLaunch (some (coreOf x.bid)) (s.tagOfBlock x.bid) addr
      s.squadRead x r (readsWith addr 128 i) fun t _ =>
        let (t, w) := t.launch (s.tagOfBlock x.bid) a.mod.que.toNat bs i none
        if s.noteEnds (s.block x.bid).flask then .dead (s.endReplay x.bid) else .go ((t.noteHere x kind w).pourResult x a w) := rfl

/-- A fresh `pour` whose reads return their bytes launches, notes its result and leaves it. -/
theorem pour_completes (a : Args LMod) (d bs : List Byte) (i : Image) : CompletesWhen (.pour a) (headOf a (.pour a))
    (fun x s => s.replayed x (.pour a.mod.que.toNat) = .fresh ∧ (s.get x a.a 2 x.lane).toNat % 128 = 0
      ∧ s.noteEnds (s.block x.bid).flask = false ∧ s.noneDeclined x
      ∧ s.readLaunch (some (coreOf x.bid)) (s.tagOfBlock x.bid) (s.get x a.a 2 x.lane).toNat = (.bytes d, bs, i))
    fun x s =>
      let r := (s.readsMade (some (coreOf x.bid)) (s.tagOfBlock x.bid) (readsWith (s.get x a.a 2 x.lane).toNat 128 i)).launch
        (s.tagOfBlock x.bid) a.mod.que.toNat bs i none
      (r.1.noteHere x (.pour a.mod.que.toNat) r.2).pourResult x a r.2 := by
  refine completesWhen_of_go (exec_pour a) fun x s ⟨hfresh, haddr, hnote, hdeclined, hread⟩ => ?_
  dsimp only
  rw [if_neg (not_not.mpr haddr), State.replaying_of_fresh hfresh, hread]
  exact (State.squadRead_of_bytes hdeclined).trans (if_neg (Bool.eq_false_iff.mp hnote))

theorem exec_sparm (a : Args Unit) : exec (.sparm a) = issue (headOf a (.sparm a)) fun x s =>
    let addr := (s.get x a.a 2 x.lane).toNat
    s.replaying x .sparm (if addr % 64 ≠ 0 then some (0x263, 0) else none) (fun w => .go ((s.tookTurn x).put1 x a.d fun _ => w)) fun _ =>
      let (r, bs, d, i) := s.readSprue (some (coreOf x.bid)) (s.tagOfBlock x.bid) addr
      s.squadRead x r (sprueReads addr bs i) fun t _ =>
        let (t, w) := t.armSprue (s.tagOfBlock x.bid) bs d i
        if s.noteEnds (s.block x.bid).flask then .dead (s.endReplay x.bid) else .go ((t.noteHere x .sparm w).put1 x a.d fun _ => w) :=
  rfl

/-- A fresh `sparm` whose reads return their bytes arms its sprue, notes its result and leaves it. -/
theorem sparm_completes (a : Args Unit) (p bs d : List Byte) (i : Image) : CompletesWhen (.sparm a) (headOf a (.sparm a))
    (fun x s => s.replayed x .sparm = .fresh ∧ (s.get x a.a 2 x.lane).toNat % 64 = 0
      ∧ s.noteEnds (s.block x.bid).flask = false ∧ s.noneDeclined x
      ∧ s.readSprue (some (coreOf x.bid)) (s.tagOfBlock x.bid) (s.get x a.a 2 x.lane).toNat = (.bytes p, bs, d, i))
    fun x s =>
      let r := (s.readsMade (some (coreOf x.bid)) (s.tagOfBlock x.bid) (sprueReads (s.get x a.a 2 x.lane).toNat bs i)).armSprue
        (s.tagOfBlock x.bid) bs d i
      (r.1.noteHere x .sparm r.2).put1 x a.d fun _ => r.2 := by
  refine completesWhen_of_go (exec_sparm a) fun x s ⟨hfresh, haddr, hnote, hdeclined, hread⟩ => ?_
  dsimp only
  rw [if_neg (not_not.mpr haddr), State.replaying_of_fresh hfresh, hread]
  exact (State.squadRead_of_bytes hdeclined).trans (if_neg (Bool.eq_false_iff.mp hnote))

/-! ## cwait (R274) -/

theorem exec_cwait (a : Args Unit) : exec (.cwait a) = issue (headOf a (.cwait a) false true) fun x s =>
    let on := s.cwaitOn x (s.get1 x a.a x.lane)
    s.replaying x .cwait on.fault (fun w => .go ((s.tookTurn x).put1 x a.d fun _ => w)) fun _ =>
      match on with
      | .bad k => .trap 0x261 k
      | .running p => .hold (s.setCwait x (some p))
      | .status w =>
        let t := (s.setCwait x none).raiseView (s.block x.bid).flask
        if s.noteEnds (s.block x.bid).flask then .dead (s.endReplay x.bid) else .go ((t.noteHere x .cwait w).put1 x a.d fun _ => w) :=
  rfl

/-- The state of a `cwait` that returns, before its result is written: the view raised and the result noted. -/
def State.awaitedPour (s : State) (x : Ins) (w : Word) : State :=
  ((s.setCwait x none).raiseView (s.block x.bid).flask).noteHere x .cwait w

section

variable (s : State) (x : Ins) (w : Word)

theorem State.raiseView_blocks (f : Nat) : (s.raiseView f).blocks = s.blocks := by
  unfold State.raiseView State.raiseDgen
  split <;> rfl

theorem State.awaitedPour_mem : (s.awaitedPour x w).mem = s.mem := by
  obtain ⟨_, _, heq⟩ := State.noteHere_eq ((s.setCwait x none).raiseView (s.block x.bid).flask) x .cwait w
  rw [State.awaitedPour, heq]
  exact State.raiseDgen_mem _

theorem State.awaitedPour_view :
    ((s.awaitedPour x w).flask (s.block x.bid).flask).viewGen = (s.awaitedPour x w).homes.dgen := by
  obtain ⟨_, _, heq⟩ := State.noteHere_eq ((s.setCwait x none).raiseView (s.block x.bid).flask) x .cwait w
  have hblock : ((s.setCwait x none).raiseView (s.block x.bid).flask).block x.bid = s.block x.bid := by
    rw [State.block, State.raiseView_blocks]
    rfl
  rw [State.awaitedPour, heq, hblock]
  refine (congrArg Flask.viewGen (Table.get_put_self _ _ _ _)).trans ?_
  exact congrArg Flask.viewGen (Table.get_put_self _ _ _ _)

theorem State.awaitedPour_cwaits : ((s.awaitedPour x w).squad x.bid x.sq).cwaits = none := by
  obtain ⟨_, _, heq⟩ := State.noteHere_eq ((s.setCwait x none).raiseView (s.block x.bid).flask) x .cwait w
  rw [State.awaitedPour, heq, State.tookTurn, State.squad_setSquad]
  change (((s.setCwait x none).raiseView (s.block x.bid).flask).squad x.bid x.sq).cwaits = none
  rw [State.squad_of_squads (State.raiseView_squads _ _), State.setCwait, State.squad_setSquad]

end

/-- The write of an operand and the advance leave memory, the homes, the view of a flask and the pour that a squad awaits. -/
theorem State.put1_finish_frame (s : State) (x : Ins) (o : Opnd) (f : Nat → Word) (h : Hint) (fl : Nat) :
    ((s.put1 x o f).finish x h).mem = s.mem ∧ ((s.put1 x o f).finish x h).homes = s.homes
    ∧ (((s.put1 x o f).finish x h).flask fl).viewGen = (s.flask fl).viewGen
    ∧ (((s.put1 x o f).finish x h).squad x.bid x.sq).cwaits = (s.squad x.bid x.sq).cwaits := by
  obtain ⟨hmem, hhomes, -⟩ := (s.put1 x o f).finish_other x h
  obtain ⟨hputMem, hputHomes, -⟩ := s.put_sameOutside x o 1 fun i => (f i).setWidth 64
  obtain ⟨_, hflask⟩ := s.flask_put_finish x o 1 (fun i => (f i).setWidth 64) h fl
  obtain ⟨-, -, -, -, -, -, -, -, -, -, -, -, hcwaits, -⟩ := (s.put1 x o f).finish_sameRest x h
  have hput : ((s.put1 x o f).squad x.bid x.sq).cwaits = (s.squad x.bid x.sq).cwaits := by
    rw [State.put1, State.put_squad (.inl rfl), Squad.writeNat_eq]
  exact ⟨hmem.trans hputMem, hhomes.trans hputHomes, (congrArg Flask.viewGen hflask :), hcwaits.symm.trans hput⟩

theorem cwait_returns (a : Args Unit) (w : Word) : CompletesWhen (.cwait a) (headOf a (.cwait a) false true)
    (fun x s => s.replayed x .cwait = .fresh ∧ s.noteEnds (s.block x.bid).flask = false
      ∧ s.cwaitOn x (s.get1 x a.a x.lane) = .status w)
    fun x s => (s.awaitedPour x w).put1 x a.d fun _ => w := by
  refine completesWhen_of_go (exec_cwait a) fun x s ⟨hfresh, hnote, hon⟩ => ?_
  dsimp only
  rw [hon]
  exact (State.replaying_of_fresh hfresh).trans (if_neg (Bool.eq_false_iff.mp hnote))

/-- A `cwait` on a pour that runs waits in its place, noted for the scheduler. -/
theorem exec_cwait_of_running (a : Args Unit) {s : State} {x : Ins} {p : Nat}
    (hp : s.prepare (headOf a (.cwait a) false true) = .run x) (hfresh : s.replayed x .cwait = .fresh)
    (hon : (s.begin x).cwaitOn x (s.get1 x a.a x.lane) = .running p) :
    ∃ t, exec (.cwait a) s = .next t ∧ t.mem = s.mem ∧ (t.squad x.bid x.sq).cwaits = some p
      ∧ (t.squad x.bid x.sq).rf = (s.squad x.bid x.sq).rf ∧ (t.squad x.bid x.sq).ctl = (s.squad x.bid x.sq).ctl := by
  rw [← State.begin_replayed] at hfresh
  rw [← State.begin_get1] at hon
  have hsquad (t : State) (q : Squad) : (t.setSquad x.bid x.sq q).notReady.squad x.bid x.sq = q := State.squad_setSquad _ _ _ _
  refine ⟨_, exec_of_body (r := .hold ((s.begin x).setCwait x (some p))) (exec_cwait a) hp ?_, rfl, ?_⟩
  · dsimp only
    rw [hon]
    exact State.replaying_of_fresh hfresh
  · rw [Result.apply, hsquad, State.setCwait, State.squad_setSquad]
    exact ⟨rfl, State.begin_rf s x, State.begin_ctl s x⟩

/-! ## tknxt (R278) -/

/-- The request of an instruction put on its way. -/
def State.requested (s : State) (x : Ins) (req : TkReq) : State :=
  ({ s with tks := s.tks.put s.ctrl.nextId { req with turn := (s.squad x.bid x.sq).turn } }).bump.tookTurn x

theorem tkIssue_of_fresh {s : State} {x : Ins} {req : TkReq} (mark : State → State) (hfresh : s.replayed x (.tknxt req.ws) = .fresh)
    (hasked : s.asked x.bid x.sq < 8) : tkIssue none req x mark s = .go ((mark s).requested x req) :=
  (State.replaying_of_fresh hfresh).trans (if_neg (Nat.not_le.mpr hasked))

/-- The place of a squad's next request is its own; the registers, the blocks and memory stay. -/
theorem State.requested_finish (s : State) (x : Ins) (req : TkReq) (h : Hint) :
    ((s.requested x req).finish x h).mem = s.mem ∧ ((s.requested x req).finish x h).blocks = s.blocks
    ∧ (((s.requested x req).finish x h).squad x.bid x.sq).rf = (s.squad x.bid x.sq).rf
    ∧ ((s.requested x req).finish x h).tks.get? s.ctrl.nextId = some { req with turn := (s.squad x.bid x.sq).turn } := by
  obtain ⟨hmem, -, hblocks, -⟩ := (s.requested x req).finish_other x h
  obtain ⟨-, -, -, -, -, -, -, -, htks, -⟩ := (s.requested x req).finish_sameOutside x h
  have hwait : ((s.requested x req).endWait x.bid x.sq).tks = (s.requested x req).tks := by
    unfold State.endWait
    split <;> rfl
  refine ⟨hmem, hblocks, ?_, ?_⟩
  · rw [State.finish_rf, State.requested, State.tookTurn, State.squad_setSquad]
    rfl
  · rw [htks, hwait]
    exact Table.get?_put_self _ _ _

/-- The register of a request, empty until its answer. -/
def State.markDest (s : State) (x : Ins) (d : Opnd) : State :=
  s.setSquad x.bid x.sq { s.squad x.bid x.sq with rf := (s.squad x.bid x.sq).rf.markEmpty d 1 x.pass }

/-- The request of a `tknxt` with a register. -/
def Args.request (a : Args Unit) (s : State) (x : Ins) : TkReq :=
  { bid := x.bid, sq := x.sq, flask := (s.block x.bid).flask, ws := a.imm.toNat % 4
    reg := some (match a.d with | .s n => n.toNat | _ => 0) }

/-- The request of a `tknxt` with a tag. -/
def Args.pooledRequest (a : Args Unit) (s : State) (x : Ins) : TkReq :=
  { bid := x.bid, sq := x.sq, flask := (s.block x.bid).flask, ws := a.imm.toNat % 4, reg := none
    addr := (s.get1 x a.a x.lane).toNat % 2 ^ 24, tag := a.imm.toNat / 8 % 64 }

/-- States with the same table of blocks have the same tags. -/
theorem State.tag_of_blocks {s t : State} (h : t.blocks = s.blocks) (bid n : Nat) : t.tag bid n = s.tag bid n := by
  simp [State.tag, State.block, h]

theorem exec_tknxt (a : Args Unit) : exec (.tknxt a) = issue (headOf a (.tknxt a)) fun x s =>
    tkIssue (if s.hasWs x.bid (a.imm.toNat % 4) then none else some (0x262, a.imm.toNat % 4)) (Args.request a s x) x
      (State.markDest · x a.d) s := rfl

theorem exec_tknxtPooled (a : Args Unit) : exec (.tknxtPooled a) = issue (headOf a (.tknxtPooled a)) fun x s =>
    tkIssue (s.tkCheck x (a.imm.toNat % 4) (a.imm.toNat / 8 % 64) ((s.get1 x a.a x.lane).toNat % 2 ^ 24))
      (Args.pooledRequest a s x) x
      (fun s => s.tagBegin x.bid (a.imm.toNat / 8 % 64)) s := rfl

/-- A request whose checks pass meets no fault. -/
theorem State.tkCheck_of_ok {s : State} {x : Ins} {ws tag addr b o : Nat} (hws : s.hasWs x.bid ws = true)
    (htag : tag < (s.kernel x.bid).tags) (haddr : addr % 4 = 0) (hat : s.poolAt (s.block x.bid).flask addr 4 = .at' b o) :
    s.tkCheck x ws tag addr = none := by
  simp [State.tkCheck, hws, Nat.not_le.mpr htag, haddr, hat]

/-! ## The distributor (R277) -/

section

variable {nx ny k : Nat} (hx : nx < 2 ^ 16) (hy : ny < 2 ^ 16)
include hx hy

/-- A tile of a work set: its row above its column, both of 16 bits, and not the answer beyond the last. -/
theorem tileAnswer_toNat (hk : k < nx * ny) :
    (tileAnswer (nx, ny) k).toNat = k / nx * 65536 + k % nx ∧ k / nx * 65536 + k % nx < 0xFFFFFFFF ∧ k % nx < 65536 := by
  have hnx : 0 < nx := Nat.pos_of_mul_pos_right (Nat.zero_lt_of_lt hk)
  have hrow : k / nx < ny := Nat.div_lt_of_lt_mul hk
  have hcol : k % nx < nx := Nat.mod_lt k hnx
  refine ⟨?_, by omega, by omega⟩
  rw [tileAnswer, if_pos hk, BitVec.toNat_ofNat]
  exact Nat.mod_eq_of_lt (by dsimp only; omega)

/-- The answers of the distributor within a work set are its tiles, each of them once. -/
theorem tileAnswer_ne {j : Nat} (hjk : j < k) (hj : j < nx * ny) : tileAnswer (nx, ny) j ≠ tileAnswer (nx, ny) k := by
  obtain ⟨hval, hlast, hcol⟩ := tileAnswer_toNat hx hy hj
  intro heq
  rw [heq] at hval
  by_cases hk : k < nx * ny
  · obtain ⟨hval', -, hcol'⟩ := tileAnswer_toNat hx hy hk
    have hdiv : j / nx = k / nx := by omega
    have hmod : j % nx = k % nx := by omega
    have hjk' : j = k := by rw [← Nat.div_add_mod j nx, ← Nat.div_add_mod k nx, hdiv, hmod]
    exact Nat.ne_of_lt hjk hjk'
  · rw [tileAnswer, if_neg hk] at hval
    exact Nat.ne_of_gt hlast hval

end

/-- The delivery of an answer touches neither the pours nor the requests. -/
theorem State.deliver_other (s : State) (r : TkReq) (w : Word) :
    (s.deliver r w).pours = s.pours ∧ (s.deliver r w).tks = s.tks := by
  have hrepair (t : State) (us : List (Nat × Nat)) : (t.repair us).pours = t.pours ∧ (t.repair us).tks = t.tks := by
    unfold State.repair
    split <;> exact ⟨rfl, rfl⟩
  unfold State.deliver State.poolAnswer
  split
  · exact hrepair _ _
  · split
    · exact hrepair _ _
    · exact ⟨rfl, rfl⟩

theorem State.deliver_reg (s : State) {r : TkReq} (w : Word) {n : Nat} (hr : r.reg = some n) (hn : n < 64) :
    ((s.deliver r w).squad r.bid r.sq).rf.scalar n = w ∧ ((s.deliver r w).squad r.bid r.sq).rf.sE.getLsbD n = false := by
  have hsquad : (s.deliver r w).squad r.bid r.sq = { s.squad r.bid r.sq with
      rf := ((s.squad r.bid r.sq).rf.setScalar n w).markFull (.s (BitVec.ofNat 6 n)) 1 0 } := by
    rw [State.deliver, hr]
    exact State.squad_setSquad _ _ _ _
  rw [hsquad]
  exact ⟨(RegFile.scalar_setScalar _ _ _ _).trans (if_pos rfl), RegFile.sE_markFull_scalar _ hn⟩

theorem State.note_pours (s : State) (f key : Nat) (kind : ReplayKind) (w : Word) : (s.note f key kind w).pours = s.pours := by
  obtain ⟨_, _, heq⟩ := s.note_eq f key kind w
  rw [heq]
  rfl

theorem State.note_tks (s : State) (f key : Nat) (kind : ReplayKind) (w : Word) : (s.note f key kind w).tks = s.tks := by
  obtain ⟨_, _, heq⟩ := s.note_eq f key kind w
  rw [heq]
  rfl

/-- The state in which the distributor delivers an answer: the launch record counts it, the request is gone, and the answer is
noted. -/
def State.answering (s : State) (req : Nat) (r : TkReq) (p : Pour) (w : Word) : State :=
  let key := (s.flask r.flask).pour
  let t := (s.readRecord (pourRecord key)).setPour key
    { p with counters := p.counters.set r.ws (((p.counters[r.ws]?).getD 0) + 1) }
  State.note { t with tks := t.tks.erase req } r.flask (replayKey (t.block r.bid).idx r.sq r.turn) (.tknxt r.ws) w

/-- A request that is the oldest of its squad is answered. -/
theorem exec_tknxtAnswer_of_oldest {req : Nat} {s : State} {r : TkReq} (hreq : s.tks.get? req = some r)
    (hold : ∀ e ∈ s.tks, e.1 < req → e.2.bid = r.bid → e.2.sq ≠ r.sq) (hnote : s.noteEnds r.flask = false) :
    let p := s.pour (s.flask r.flask).pour
    let w := tileAnswer ((p.desc.ws[r.ws]?).getD (0, 0)) ((p.counters[r.ws]?).getD 0)
    exec (.tknxtAnswer req) s = .next ((s.answering req r p w).deliver r w) := by
  have holdest : (s.tks.any fun t => decide (t.1 < req) && t.2.bid == r.bid && t.2.sq == r.sq) = false :=
    List.any_eq_false.mpr fun e he => by simpa using hold e he
  have hread := (State.sameWork.readRecord (r := pourRecord (s.flask r.flask).pour) (.refl s)).pour (s.flask r.flask).pour
  change execTknxtAnswer req s = _
  simp only [execTknxtAnswer, hreq, holdest, hnote, Bool.false_eq_true, if_false, hread]
  rfl

/-- The answer leaves the count of its work set one higher, no request under its number, and a full register. -/
theorem tknxtAnswer_counts {req : Nat} {s : State} {r : TkReq} (hreq : s.tks.get? req = some r)
    (hold : ∀ e ∈ s.tks, e.1 < req → e.2.bid = r.bid → e.2.sq ≠ r.sq) (hnote : s.noteEnds r.flask = false) :
    let key := (s.flask r.flask).pour
    let k := ((s.pour key).counters[r.ws]?).getD 0
    let w := tileAnswer (((s.pour key).desc.ws[r.ws]?).getD (0, 0)) k
    ∃ t, exec (.tknxtAnswer req) s = .next t ∧ (t.pour key).counters = (s.pour key).counters.set r.ws (k + 1)
      ∧ t.tks.get? req = none
      ∧ ∀ n, r.reg = some n → n < 64 →
          (t.squad r.bid r.sq).rf.scalar n = w ∧ (t.squad r.bid r.sq).rf.sE.getLsbD n = false := by
  intro key k w
  obtain ⟨hpours, htks⟩ := (s.answering req r (s.pour key) w).deliver_other r w
  refine ⟨_, exec_tknxtAnswer_of_oldest hreq hold hnote, ?_, ?_, fun n hr hn => State.deliver_reg _ w hr hn⟩
  · rw [State.pour, hpours, State.answering, State.note_pours]
    exact congrArg Pour.counters (Table.get_put_self _ _ _ _)
  · rw [htks, State.answering, State.note_tks]
    exact Table.get?_erase_self _ _

/-! ## prog and sprues (R276, R282) -/

theorem exec_prog (a : Args Unit) : exec (.prog a) = issue (headOf a (.prog a)) fun x s =>
    .go (s.setBlock x.bid { s.block x.bid with progress := (s.get1 x a.a x.lane).toNat % 65536 }) := rfl

section

variable {n h : Nat} {s : State} {p : Sprue} (hp : (s.tenant n).sprues.get? h = some p)
include hp

/-- A sprue that is due launches its pour, and stops at a refusal of it (R282). -/
theorem exec_sprueFire_of_launched {b : Nat} (hdue : s.sprueDue p = some b) {t : State} {w : Word}
    (hlaunch : s.launchAt p.tag p.que p.ldesc (some (if b = 0 then p.buf0 else p.buf1)) = some (t, w)) :
    exec (.sprueFire n h) s
      = .next (if w.msb then (t.setSprue n h { p with st := .fault }).irq (some n) 2
        else t.setSprue n h (p.after b (pourKey p.tag w.toNat))) := by
  change execSprueFire n h s = _
  simp only [execSprueFire, hp, hdue, hlaunch]

/-- While the reads of its launch wait, a sprue that is due waits too. -/
theorem exec_sprueFire_of_waiting {b : Nat} (hdue : s.sprueDue p = some b)
    (hwait : s.launchAt p.tag p.que p.ldesc (some (if b = 0 then p.buf0 else p.buf1)) = none) :
    exec (.sprueFire n h) s = .next s := by
  change execSprueFire n h s = _
  simp only [execSprueFire, hp, hdue, hwait]

theorem exec_sprueFire_of_not_due (hdue : s.sprueDue p = none) : exec (.sprueFire n h) s = .next s := by
  change execSprueFire n h s = _
  simp only [execSprueFire, hp, hdue]

end

theorem State.sprueDue_of_met {s : State} {p : Sprue} {b : Nat} (hst : p.st = .armed b) (hen : s.enabled p.tag = true)
    (hmet : p.met = true) (hfree : ∀ e ∈ p.fired, e.1 ≠ b) : s.sprueDue p = some b := by
  have hfired : (p.fired.any fun e => e.1 == b) = false := List.any_eq_false.mpr fun e he => by simpa using hfree e he
  simp [State.sprueDue, hst, hen, hmet, hfired]

/-- Settles O51: the bodies of the recorded instructions where their record is fresh or of another kind, the answer of the
distributor, and the branches of a sprue's event. -/
theorem workInstructionsComplete : Obligations.WorkInstructionsComplete := by
  have hget (s : State) (x : Ins) (o : Opnd) : s.get x o 2 x.lane = (s.begin x).get x o 2 x.lane :=
    (s.begin_get x o 2 x.lane).symm
  refine ⟨fun a s x d bs i hp hfresh => ?_, fun a s x w hp hfresh hnote hon => ?_,
    fun a s x p => exec_cwait_of_running a, fun a s x hp hws hfresh hasked => ?_,
    fun a s x b o hp hws htag haddr hat hfresh hasked => ?_, fun a => ?_, fun a n => ?_, fun a n => ?_, fun a n => ?_,
    fun req s r => tknxtAnswer_counts, fun nx ny j k hx hy => tileAnswer_ne hx hy, fun a s x p bs d i hp hfresh => ?_,
    fun a s x hp => ?_, fun n h s t p b w hp hst hen hmet hfree hlaunch => ?_, fun n h s p hp hdue => ?_⟩
  · rw [hget]
    rw [← State.begin_replayed] at hfresh
    exact fun haddr hnote hdeclined hread => pour_completes a d bs i s x hp ⟨hfresh, haddr, hnote, hdeclined, hread⟩
  · rw [← State.begin_replayed] at hfresh
    rw [← State.begin_get1] at hon
    obtain ⟨hmem, hhomes, hview, hcwaits⟩ := ((s.begin x).awaitedPour x w).put1_finish_frame x a.d (fun _ => w) a.hint
      (s.block x.bid).flask
    refine ⟨_, cwait_returns a w s x hp ⟨hfresh, hnote, hon⟩, State.put_then_finish_holdsIn (.inl rfl) _ x a.d _ a.hint,
      hmem.trans (State.awaitedPour_mem _ _ _), ?_, hcwaits.trans (State.awaitedPour_cwaits _ _ _)⟩
    exact hview.trans (((s.begin x).awaitedPour_view x w).trans (congrArg Homes.dgen hhomes.symm))
  · rw [← State.begin_replayed] at hfresh
    have hbody := tkIssue_of_fresh (req := Args.request a (s.begin x) x) (State.markDest · x a.d) hfresh hasked
    obtain ⟨hmem, -, hrf, htks⟩ := State.requested_finish _ x _ a.hint
    refine ⟨_, exec_of_body (exec_tknxt a) hp ((congrArg (tkIssue · _ x _ _) (if_pos hws)).trans hbody), hmem, ?_,
      _, htks, rfl, rfl, rfl, rfl, rfl⟩
    exact hrf.trans (by rw [State.markDest, State.squad_setSquad, State.begin_rf])
  · rw [← State.begin_replayed] at hfresh
    rw [← State.begin_get1] at haddr hat ⊢
    have hbody := tkIssue_of_fresh (req := Args.pooledRequest a (s.begin x) x)
      (fun s => s.tagBegin x.bid (a.imm.toNat / 8 % 64)) hfresh hasked
    obtain ⟨hmem, hblocks, hrf, htks⟩ := State.requested_finish _ x _ a.hint
    refine ⟨_, exec_of_body (exec_tknxtPooled a) hp
      ((congrArg (tkIssue · _ x _ _) (State.tkCheck_of_ok hws htag haddr hat)).trans hbody), hmem, hrf.trans (State.begin_rf s x), ?_,
      _, htks, rfl, rfl, rfl, rfl, rfl, rfl⟩
    exact (State.tag_of_blocks hblocks _ _).trans (State.tag_setTag _ _ _ _)
  · exact trapsWhen_of_trap (exec_tknxt a) fun x s ⟨hfresh, hws⟩ => by
      rw [hws]
      exact State.replaying_of_failed_check hfresh _
  · exact trapsWhen_of_trap (exec_tknxt a) fun x s ⟨hbad, hd⟩ => State.replaying_of_diverge hbad hd _
  · exact trapsWhen_of_trap (exec_pour a) fun x s ⟨hbad, hd⟩ => State.replaying_of_diverge hbad hd _
  · exact trapsWhen_of_trap (exec_sparm a) fun x s ⟨hbad, hd⟩ => State.replaying_of_diverge hbad hd _
  · rw [hget]
    rw [← State.begin_replayed] at hfresh
    exact fun haddr hnote hdeclined hread => sparm_completes a p bs d i s x hp ⟨hfresh, haddr, hnote, hdeclined, hread⟩
  · rw [← State.begin_get1]
    exact ⟨_, exec_of_body (exec_prog a) hp rfl, State.advanced_finish x _ rfl rfl rfl⟩
  · rw [exec_sprueFire_of_launched hp (State.sprueDue_of_met hst hen hmet hfree) hlaunch]
    exact ⟨fun hw => congrArg _ (if_pos hw), fun hw => congrArg _ (if_neg (Bool.eq_false_iff.mp hw))⟩
  · rcases hdue with hdue | ⟨b, hdue, hwait⟩
    · exact exec_sprueFire_of_not_due hp hdue
    · exact exec_sprueFire_of_waiting hp hdue hwait

end Sys2Proof.Machine

end

section
/-!
# Copies entering their queues

The entry of a command neither reads nor changes a squad, so that it is the same before and after the beginning of the issue
(R203, R204).
-/

namespace Sys2Proof.Machine

open Sys2Proof

/-! ## The entry of a command -/

/-- The entry of a command does not look at the squads. -/
theorem State.copyEnter_squads (s : State) (qs : Table Squad) (c : CopyCmd) :
    State.copyEnter { s with squads := qs } c = { s.copyEnter c with squads := qs } := by
  unfold State.copyEnter State.enterChain
  cases c.crc with
  | none =>
    dsimp only
    split <;> rfl
  | some w =>
    dsimp only
    split <;> rfl

theorem State.begin_copyEnter (s : State) (x : Ins) (c : CopyCmd) :
    (s.begin x).copyEnter c = { s.copyEnter c with squads := (s.begin x).squads } := s.copyEnter_squads _ c

theorem State.squads_copyEnter (s : State) (c : CopyCmd) : (s.copyEnter c).squads = s.squads :=
  (congrArg State.squads (s.copyEnter_squads s.squads c) :)

/-- A command entered and the advance of its sub-group. -/
theorem State.advanced_copyEnter (s : State) (x : Ins) (c : CopyCmd) (h : Hint) :
    s.advanced (s.copyEnter c) (((s.begin x).copyEnter c).finish x h) x :=
  State.advanced_finish x h (by rw [State.begin_copyEnter]; rfl) (s.squads_copyEnter c) (State.squads_copyEnter _ c)

theorem State.enterChain_of_none {s : State} {id : Nat} {c : CopyCmd} (h : c.crc = none) : s.enterChain id c = (s, c) := by
  simp [State.enterChain, h]

/-- A command of no chain stands in its queue under its number, with its tag BUSY; a put is a side effect. -/
theorem State.copyEnter_of_no_chain {s : State} {c : CopyCmd} (hcrc : c.crc = none) :
    ((s.copyEnter c).core (coreOf c.bid)).copies.get? s.ctrl.nextId
        = some { c with order := s.ctrl.nextId, count := c.granules.length }
      ∧ ((s.copyEnter c).tag c.bid c.tag).st = .busy ∧ (s.copyEnter c).mem = s.mem
      ∧ (c.kind = .put → ((s.copyEnter c).flask c.flask).side = true) := by
  have hbusy (t : Tag) : t.begin.st = .busy := by
    unfold Tag.begin
    split
    · assumption
    · rfl
  let k := s.core (coreOf c.bid)
  let entered := (s.bump.setCore (coreOf c.bid)
    { k with copies := k.copies.put s.ctrl.nextId { c with order := s.ctrl.nextId, count := c.granules.length } }).tagBegin c.bid c.tag
  have henter : s.copyEnter c = if c.kind = .put then entered.sideEffect c.flask else entered := by
    have hchain : s.bump.enterChain s.ctrl.nextId { c with order := s.ctrl.nextId, count := c.granules.length }
        = (s.bump, { c with order := s.ctrl.nextId, count := c.granules.length }) := State.enterChain_of_none hcrc
    unfold State.copyEnter
    simp only [hchain]
    rfl
  have hcopies : (entered.core (coreOf c.bid)).copies.get? s.ctrl.nextId
      = some { c with order := s.ctrl.nextId, count := c.granules.length } := by
    refine (congrArg (fun k : Core => k.copies.get? s.ctrl.nextId) (Table.get_put_self _ _ _ _)).trans ?_
    exact Table.get?_put_self _ _ _
  have htag : (entered.tag c.bid c.tag).st = .busy :=
    (congrArg Tag.st (State.tag_setTag _ _ _ _)).trans (hbusy _)
  rw [henter]
  split
  · exact ⟨hcopies, htag, rfl, fun _ => congrArg Flask.side (State.flask_sideEffect _ _)⟩
  · next hput => exact ⟨hcopies, htag, rfl, fun h => absurd h hput⟩

/-! ## The copies with a descriptor (R209 to R211, R213 to R215) -/

section

variable {kind : CopyKind} {a : Args CMod} {s : State} {x : Ins} (hroom : s.copyFull (coreOf x.bid) a.mod.que.toNat = false)
include hroom

theorem copyIssue_of_room {c : CopyCmd} (hfinds : copyFinds kind a s x = .ok c) (hput : s.putEnds c = false) :
    copyIssue kind a x s = .go (s.copyEnter c) := by
  unfold copyFinds at hfinds
  simp only [copyIssue, hroom, hfinds, hput, Bool.false_eq_true, if_false]

theorem copyIssue_of_fault {c k : Nat} (hfinds : copyFinds kind a s x = .bad c k) : copyIssue kind a x s = .trap c k := by
  unfold copyFinds at hfinds
  simp only [copyIssue, hroom, hfinds, Bool.false_eq_true, if_false]

end

/-- A copy with a descriptor enters its queue, or traps, as its checks find. -/
theorem copyEnters_of_exec {kind : CopyKind} {i : Instr} {a : Args CMod} (hexec : exec i = issue (headOf a i) (copyIssue kind a)) :
    CopyEnters kind i a := by
  refine ⟨fun s x c hp hroom hfinds hput => ?_, fun s x c k hp hroom hfinds => ?_⟩
  · exact ⟨_, exec_of_body hexec hp (copyIssue_of_room (s := s.begin x) hroom hfinds hput), s.advanced_copyEnter x c _⟩
  · exact exec_of_body hexec hp (copyIssue_of_fault (s := s.begin x) hroom hfinds)

/-! ## cpyl (R212) -/

theorem exec_cpyl (a : Args CMod) : exec (.cpyl a) = issue (headOf a (.cpyl a)) fun x s =>
    if s.copyFull (coreOf x.bid) a.mod.que.toNat then .hold s
    else match s.cpylCause x a with
      | some c => .trap c.1 c.2
      | none => .go (s.copyEnter { s.copyBase x.bid x.sq a.mod .cpyl none with
          lanes := (lanesOf x.pass).map fun i =>
            { src := s.laneSource x a i, n := s.laneBytes x a.b i, dst := s.laneDest x a.d i } }) := rfl

theorem State.begin_cpylCause (s : State) (x : Ins) (a : Args CMod) : (s.begin x).cpylCause x a = s.cpylCause x a := by
  simp only [State.cpylCause, State.laneDest, State.laneBytes, State.laneSource, State.begin_get1, State.begin_get]
  rfl

/-- The lanes of a `cpyl` are those of before its issue. -/
theorem State.begin_cpylCommand (s : State) (x : Ins) (a : Args CMod) :
    ({ (s.begin x).copyBase x.bid x.sq a.mod .cpyl none with
      lanes := (lanesOf x.pass).map fun i =>
        { src := (s.begin x).laneSource x a i, n := (s.begin x).laneBytes x a.b i, dst := (s.begin x).laneDest x a.d i } } : CopyCmd)
      = { s.copyBase x.bid x.sq a.mod .cpyl none with
        lanes := (lanesOf x.pass).map fun i =>
          { src := s.laneSource x a i, n := s.laneBytes x a.b i, dst := s.laneDest x a.d i } } := by
  simp only [State.laneDest, State.laneBytes, State.laneSource, State.begin_get1, State.begin_get]
  rfl

/-- Settles O43: the bodies of the copies, and the fields that the entry of a command writes. -/
theorem copiesEnterTheirQueues : Obligations.CopiesEnterTheirQueues := by
  refine ⟨fun a => copyEnters_of_exec rfl, fun a => copyEnters_of_exec rfl, fun a => copyEnters_of_exec rfl,
    fun a => copyEnters_of_exec rfl, fun a => copyEnters_of_exec rfl, fun a => copyEnters_of_exec rfl,
    fun a s x hp hroom hcause => ?_, fun a s x c hp hroom hcause => ?_, fun s c => State.copyEnter_of_no_chain⟩
  · rw [← State.begin_cpylCause] at hcause
    rw [← State.begin_cpylCommand]
    refine ⟨_, exec_of_body (r := .go ((s.begin x).copyEnter _)) (exec_cpyl a) hp
      ((if_neg (Bool.eq_false_iff.mp hroom)).trans ?_), s.advanced_copyEnter x _ a.hint⟩
    rw [hcause]
  · rw [← State.begin_cpylCause] at hcause
    refine exec_of_body (r := .trap c.1 c.2) (exec_cpyl a) hp ((if_neg (Bool.eq_false_iff.mp hroom)).trans ?_)
    rw [hcause]

end Sys2Proof.Machine

end

section
/-!
# Pre-emption by the mailbox

What a flush, a save begun and a drain leave of the flask that they act on, and that they leave every other flask alone, so that
a command acts on each flask that it names on its own (R285, R286, R375).
-/

namespace Sys2Proof.Machine

open Sys2Proof

/-! ## Operations that leave the flasks and the tenants -/

/-- The flasks and the state of the tenants are as before. -/
def State.keepsFlasks (s t : State) : Prop := t.flasks = s.flasks ∧ t.tenants = s.tenants

namespace State.keepsFlasks

variable {s t : State}

theorem refl (s : State) : s.keepsFlasks s := ⟨rfl, rfl⟩

theorem foldl {β : Type} {f : State → β → State} {l : List β} (h : s.keepsFlasks t)
    (hf : ∀ (t : State) b, s.keepsFlasks t → s.keepsFlasks (f t b)) : s.keepsFlasks (l.foldl f t) :=
  List.foldlRecOn l f h fun t ht b _ => hf t b ht

theorem sendCombines {bid sq : Nat} (h : s.keepsFlasks t) : s.keepsFlasks (t.sendCombines bid sq) := .foldl h fun _ _ ht => ht

theorem dropBlocks {f : Nat} (h : s.keepsFlasks t) : s.keepsFlasks (t.dropBlocks f) := .foldl h fun _ _ ht => ht

theorem of_sameWork {u : State} (h : s.keepsFlasks t) (hu : t.sameWork u) : s.keepsFlasks u :=
  ⟨hu.flasks.trans h.1, hu.tenants.trans h.2⟩

end State.keepsFlasks

/-! ## One flask replaced -/

section

variable (s : State) (f k : Nat) (fl : Flask)

theorem State.get?_flasks_setFlask_ne {k f : Nat} (h : k ≠ f) : (s.setFlask f fl).flasks.get? k = s.flasks.get? k :=
  Table.get?_put_ne _ h _

/-- A flask put to wait for its restart. -/
theorem State.startAgain_flasks : (s.startAgain f fl).flasks = s.flasks.put f (fl.again s.ctrl.now) := by
  unfold State.startAgain
  dsimp only
  split
  · exact (State.sameWork.zeroStacks (.refl _)).flasks
  · rfl

end

/-! ## Flush, save and drain (R286) -/

section

variable (s : State) (f : Nat)

theorem State.keepsFlasks_flushed : s.keepsFlasks ((s.dropBlocks f).clearSlots f) :=
  .of_sameWork (.dropBlocks (.refl s)) (.clearSlots (.refl _))

/-- A flush leaves its flask waiting for its restart, and every other as it is. -/
theorem State.flush_flasks : ∃ now, (s.flush f).flasks = s.flasks.put f ((s.flask f).again now) := by
  obtain ⟨hflasks, -⟩ := s.keepsFlasks_flushed f
  have hflask : ((s.dropBlocks f).clearSlots f).flask f = s.flask f := by rw [State.flask, hflasks, State.flask]
  refine ⟨((s.dropBlocks f).clearSlots f).ctrl.now, (State.startAgain_flasks _ _ _).trans ?_⟩
  rw [hflask, hflasks]

/-- A save that finds an area begins. -/
theorem State.beginSave_of_free (h : s.areaFree (s.tenantOf (s.pour (s.flask f).pour).tag) = true) :
    (s.beginSave f).flasks = s.flasks.put f { s.flask f with status := .saving }
    ∧ (s.beginSave f).tenants = s.tenants.put (s.tenantOf (s.pour (s.flask f).pour).tag)
        { s.tenant (s.tenantOf (s.pour (s.flask f).pour).tag) with
          saves := (s.tenant (s.tenantOf (s.pour (s.flask f).pour).tag)).saves + 1 } := by
  unfold State.beginSave
  dsimp only
  rw [if_pos h]
  exact State.keepsFlasks.foldl (.refl _) fun _ _ ht => .foldl ht fun _ _ ht => .sendCombines ht

/-- One that finds none drains its flask. -/
theorem State.beginSave_of_full (h : s.areaFree (s.tenantOf (s.pour (s.flask f).pour).tag) = false) :
    s.beginSave f = s.setFlask f { s.flask f with drainOnly := true } := by
  unfold State.beginSave
  dsimp only
  rw [if_neg (Bool.eq_false_iff.mp h)]

/-- The action of a trigger with a deadline. -/
theorem State.preempt_of_ends {t : Nat} (h : s.endsWithin (s.flask f) t = true) :
    s.preempt f (some t) = s.setFlask f { s.flask f with drainOnly := true } := if_pos h

theorem State.preempt_of_late {t : Nat} (h : s.endsWithin (s.flask f) t = false) :
    s.preempt f (some t) = if s.flushable f then s.flush f else s.beginSave f := if_neg (Bool.eq_false_iff.mp h)

end

/-! ## The action of a command on a flask (R375) -/

/-- The action of a command, before its flask is held. -/
def State.mailAct (s : State) (c : MailCmd) (f : Nat) : State :=
  match c.action with
  | 0 => s.preempt f (some c.deadline)
  | 1 => s.beginSave f
  | _ => if s.flushable f then s.flush f else s.beginSave f

/-- How a flask is left on which a command has acted: saved, drained or, but for a command to save, flushed. -/
def Flask.actedOn (fl : Flask) (action : Nat) : Prop :=
  fl.status = .saving ∨ fl.drainOnly = true ∨ (action ≠ 1 ∧ fl.status = .again)

section

variable (s : State) (c : MailCmd) (f : Nat)

theorem State.mailPreempt_eq : s.mailPreempt c f = (s.mailAct c f).holdFlask c f := rfl

theorem State.mailAct_of_save (h : c.action = 1) : s.mailAct c f = s.beginSave f := by
  simp only [State.mailAct, h]

theorem State.mailAct_of_drain (h : c.action = 0) (hends : s.endsWithin (s.flask f) c.deadline = true) :
    s.mailAct c f = s.setFlask f { s.flask f with drainOnly := true } := by
  simp only [State.mailAct, h]
  exact s.preempt_of_ends f hends

/-- Any other command flushes its flask where it may, and saves it where not. -/
theorem State.mailAct_of_leave (h : c.action ≠ 1) (hlate : c.action = 0 → s.endsWithin (s.flask f) c.deadline = false) :
    s.mailAct c f = if s.flushable f then s.flush f else s.beginSave f := by
  match hact : c.action with
  | 0 =>
    simp only [State.mailAct, hact]
    exact s.preempt_of_late f (hlate hact)
  | 1 => exact absurd hact h
  | n + 2 => simp only [State.mailAct, hact]

/-- The action changes one flask of the table, and leaves it in one of the states in which it is on its way out. -/
theorem State.mailAct_flasks : ∃ fl, (s.mailAct c f).flasks = s.flasks.put f fl ∧ fl.actedOn c.action := by
  have hsave : ∃ fl, (s.beginSave f).flasks = s.flasks.put f fl ∧ fl.actedOn c.action := by
    cases hfree : s.areaFree (s.tenantOf (s.pour (s.flask f).pour).tag) with
    | true => exact ⟨_, (s.beginSave_of_free f hfree).1, .inl rfl⟩
    | false => exact ⟨_, congrArg State.flasks (s.beginSave_of_full f hfree), .inr (.inl rfl)⟩
  by_cases h1 : c.action = 1
  · rwa [s.mailAct_of_save c f h1]
  · by_cases hends : c.action = 0 ∧ s.endsWithin (s.flask f) c.deadline = true
    · rw [s.mailAct_of_drain c f hends.1 hends.2]
      exact ⟨_, rfl, .inr (.inl rfl)⟩
    · rw [s.mailAct_of_leave c f h1 fun h0 => Bool.eq_false_iff.mpr fun he => hends ⟨h0, he⟩]
      split
      · obtain ⟨_, hflush⟩ := s.flush_flasks f
        exact ⟨_, hflush, .inr (.inr ⟨h1, rfl⟩)⟩
      · exact hsave

/-- A flask held differs in its hold alone. -/
theorem State.flask_holdFlask : (s.holdFlask c f).flask f = { s.flask f with hold := (s.flask f).hold || c.hold } := by
  unfold State.holdFlask
  split
  · next hhold =>
    refine (Table.get_put_self _ _ _ _).trans ?_
    rw [hhold, Bool.or_true]
  · next hhold => rw [Bool.eq_false_iff.mpr hhold, Bool.or_false]

theorem State.get?_holdFlask_ne {k : Nat} (h : k ≠ f) : (s.holdFlask c f).flasks.get? k = s.flasks.get? k := by
  unfold State.holdFlask
  split
  · exact s.get?_flasks_setFlask_ne _ h
  · rfl

theorem State.holdFlask_tenants : (s.holdFlask c f).tenants = s.tenants := by
  unfold State.holdFlask
  split <;> rfl

/-- A command leaves every flask but its own. -/
theorem State.get?_mailPreempt_ne {k : Nat} (h : k ≠ f) : (s.mailPreempt c f).flasks.get? k = s.flasks.get? k := by
  obtain ⟨_, hflasks, -⟩ := s.mailAct_flasks c f
  rw [State.mailPreempt_eq, State.get?_holdFlask_ne _ _ _ h, hflasks, Table.get?_put_ne _ h]

/-- It holds its own where it says so, and leaves it on its way out. -/
theorem State.flask_mailPreempt : (c.hold = true → ((s.mailPreempt c f).flask f).hold = true)
    ∧ ((s.mailPreempt c f).flask f).actedOn c.action := by
  obtain ⟨fl, hflasks, hacted⟩ := s.mailAct_flasks c f
  have hflask : (s.mailAct c f).flask f = fl := by rw [State.flask, hflasks, Table.get_put_self]
  rw [State.mailPreempt_eq, State.flask_holdFlask, hflask]
  exact ⟨fun hhold => by simp [hhold], hacted⟩

end

/-! ## The actions of R286 and R375, one by one -/

section

variable {s : State} {c : MailCmd} {f : Nat}

/-- A flask that a command drains. -/
theorem State.flask_mailPreempt_of_drain {fl : Flask} (h : s.mailAct c f = s.setFlask f fl) :
    (s.mailPreempt c f).flask f = { fl with hold := fl.hold || c.hold } := by
  rw [State.mailPreempt_eq, State.flask_holdFlask, h, State.flask, State.setFlask_flasks, Table.get_put_self]

/-- A flask that a command saves. -/
theorem State.flask_mailPreempt_of_save (h : s.mailAct c f = s.beginSave f)
    (hfree : s.areaFree (s.tenantOf (s.pour (s.flask f).pour).tag) = true) :
    ((s.mailPreempt c f).flask f).status = .saving
    ∧ ((s.mailPreempt c f).tenant (s.tenantOf (s.pour (s.flask f).pour).tag)).saves
        = (s.tenant (s.tenantOf (s.pour (s.flask f).pour).tag)).saves + 1 := by
  obtain ⟨hflasks, htenants⟩ := s.beginSave_of_free f hfree
  rw [State.mailPreempt_eq, State.flask_holdFlask, h, State.flask, hflasks, Table.get_put_self, State.tenant,
    State.holdFlask_tenants, htenants, Table.get_put_self]
  exact ⟨rfl, rfl⟩

/-- A flask that a command flushes. -/
theorem State.flask_mailPreempt_of_flush (h : s.mailAct c f = s.flush f) :
    ((s.mailPreempt c f).flask f).status = .again ∧ ((s.mailPreempt c f).flask f).blocks = [] := by
  obtain ⟨_, hflasks⟩ := s.flush_flasks f
  rw [State.mailPreempt_eq, State.flask_holdFlask, h, State.flask, hflasks, Table.get_put_self]
  exact ⟨rfl, rfl⟩

end

/-! ## The action of a command on all its flasks (log entry 72) -/

section

variable (c : MailCmd) (l : List Nat) (s : State)

theorem State.get?_foldl_mailPreempt {k : Nat} (h : k ∉ l) :
    (l.foldl (fun s f => s.mailPreempt c f) s).flasks.get? k = s.flasks.get? k := by
  induction l generalizing s with
  | nil => rfl
  | cons f l ih =>
    rw [List.mem_cons, not_or] at h
    exact (ih _ h.2).trans (s.get?_mailPreempt_ne c f h.1)

theorem State.get?_foldl_holdFlask {k : Nat} (h : k ∉ l) :
    (l.foldl (fun s f => s.holdFlask c f) s).flasks.get? k = s.flasks.get? k := by
  induction l generalizing s with
  | nil => rfl
  | cons f l ih =>
    rw [List.mem_cons, not_or] at h
    exact (ih _ h.2).trans (s.get?_holdFlask_ne c f h.1)

/-- Flasks with the same entry are the same. -/
theorem State.flask_of_get? {s t : State} {k : Nat} (h : t.flasks.get? k = s.flasks.get? k) : t.flask k = s.flask k := by
  rw [State.flask, State.flask, Table.get, Table.get, h]

theorem State.flask_foldl_mailPreempt {k : Nat} (h : k ∈ l) :
    (c.hold = true → ((l.foldl (fun s f => s.mailPreempt c f) s).flask k).hold = true)
    ∧ ((l.foldl (fun s f => s.mailPreempt c f) s).flask k).actedOn c.action := by
  induction l generalizing s with
  | nil => cases h
  | cons f l ih =>
    by_cases hrest : k ∈ l
    · exact ih _ hrest
    · obtain rfl := (List.mem_cons.mp h).resolve_right hrest
      rw [List.foldl_cons, State.flask_of_get? (State.get?_foldl_mailPreempt c l _ hrest)]
      exact s.flask_mailPreempt c k

theorem State.flask_foldl_holdFlask {k : Nat} (h : k ∈ l) (hhold : c.hold = true) :
    ((l.foldl (fun s f => s.holdFlask c f) s).flask k).hold = true := by
  induction l generalizing s with
  | nil => cases h
  | cons f l ih =>
    by_cases hrest : k ∈ l
    · exact ih _ hrest
    · obtain rfl := (List.mem_cons.mp h).resolve_right hrest
      rw [List.foldl_cons, State.flask_of_get? (State.get?_foldl_holdFlask c l _ hrest), State.flask_holdFlask, hhold]
      exact Bool.or_true _

end

end Sys2Proof.Machine

end

section
/-!
# The events of the scheduler

A pre-emption of the mailbox acts on the flasks that it names, each of them once; the start of a flask's blocks, the end of a
save, and the release of a launch record (R222, R266, R269, R285, R286, R375).
-/

namespace Sys2Proof.Machine

open Sys2Proof

/-! ## A command in progress (R375) -/

/-- The flasks of a command that it may act on now. -/
def State.mailReady (s : State) (c : MailCmd) : List Nat :=
  c.todo.filter fun f => s.flasks.has f && (s.flask f).status == .resident && !s.handling (s.flask f)

/-- Those that are being saved. -/
def State.mailSaving (s : State) (c : MailCmd) : List Nat := c.flasks.filter fun f => (s.flask f).status == .saving

/-- The state in which a command has acted on its flasks, before it is noted which it still awaits. -/
def State.mailActed (s : State) (c : MailCmd) : State :=
  (s.mailReady c).foldl (fun s f => s.mailPreempt c f) ((s.mailSaving c).foldl (fun s f => s.holdFlask c f) s)

/-- The command as it is then in progress. -/
def State.mailRest (s : State) (c : MailCmd) : MailCmd :=
  { c with
    flasks := c.flasks.filter (s.mailActed c).placed
    todo := c.todo.filter fun f => !(s.mailReady c).contains f && (s.mailActed c).placed f }

theorem State.advanceMail_eq (s : State) (c : MailCmd) : s.advanceMail c = (s.mailActed c).setBusy (some (s.mailRest c)) := rfl

section

variable (s : State) (c : MailCmd) {k : Nat}

theorem State.mem_mailReady : k ∈ s.mailReady c
    ↔ k ∈ c.todo ∧ s.flasks.has k = true ∧ (s.flask k).status = .resident ∧ s.handling (s.flask k) = false := by
  simp [State.mailReady, and_assoc]

theorem State.mem_mailSaving : k ∈ s.mailSaving c ↔ k ∈ c.flasks ∧ (s.flask k).status = .saving := by
  simp [State.mailSaving]

/-- A flask that a command neither acts on nor holds is as before. -/
theorem State.get?_mailActed (hready : k ∉ s.mailReady c) (hsaving : k ∉ s.mailSaving c) :
    (s.mailActed c).flasks.get? k = s.flasks.get? k :=
  (State.get?_foldl_mailPreempt c _ _ hready).trans (State.get?_foldl_holdFlask c _ _ hsaving)

/-- A flask that is being saved is held, where the command says so. -/
theorem State.mailActed_hold (hsaving : k ∈ s.mailSaving c) (hhold : c.hold = true) : ((s.mailActed c).flask k).hold = true := by
  have hready : k ∉ s.mailReady c := fun h => by
    obtain ⟨-, -, hresident, -⟩ := (s.mem_mailReady c).mp h
    rw [((s.mem_mailSaving c).mp hsaving).2] at hresident
    cases hresident
  rw [State.mailActed, State.flask_of_get? (State.get?_foldl_mailPreempt c _ _ hready)]
  exact State.flask_foldl_holdFlask c _ _ hsaving hhold

end

/-- The flasks that a pre-emption names. -/
def State.namedFlasks (s : State) (tag pour flask : Nat) : List Nat :=
  (s.flasks.filter fun f =>
    let p := s.pour f.2.pour
    (f.2.status == .resident || f.2.status == .saving) && p.tag == tag && (pour == 0 || p.num == pour)
      && (flask == 0xFFFFFFFF || f.2.idx == flask)).map (·.1)

section

variable {s : State} {tag pour flask action deadline : Nat} {hold : Bool} {k : Nat}

theorem State.mem_namedFlasks : k ∈ s.namedFlasks tag pour flask
    ↔ ∃ fl, (k, fl) ∈ s.flasks ∧ (fl.status = .resident ∨ fl.status = .saving) ∧ s.namedBy tag pour flask fl := by
  simp [State.namedFlasks, State.namedBy, and_assoc]

/-- The command that a pre-emption starts. -/
def mailCmd (named : List Nat) (action deadline : Nat) (hold : Bool) : MailCmd :=
  { flasks := named, todo := named, action, deadline, hold }

theorem exec_preEmpt_of_refused (hbusy : s.dev.mailbox.busy = none) (h : 2 < action ∨ (s.context tag).en = false) :
    exec (.preEmpt tag pour flask action deadline hold) s = .next (s.setBusy (some { result := 1 })) := by
  change Host.Outcome.next (s.cmdPreempt tag pour flask action deadline hold) = _
  simp [State.cmdPreempt, State.command, hbusy, h]

theorem exec_preEmpt_of_accepted (hbusy : s.dev.mailbox.busy = none) (haction : action ≤ 2) (hen : (s.context tag).en = true) :
    exec (.preEmpt tag pour flask action deadline hold) s
      = .next (s.advanceMail (mailCmd (s.namedFlasks tag pour flask) action deadline hold)) := by
  change Host.Outcome.next (s.cmdPreempt tag pour flask action deadline hold) = _
  have hok : ¬(action > 2 ∨ (s.context tag).en = false) := by simp [hen, haction]
  rw [State.cmdPreempt, hbusy]
  exact congrArg _ (if_neg hok)

theorem exec_preEmpt_of_busy (h : s.dev.mailbox.busy.isSome = true) :
    exec (.preEmpt tag pour flask action deadline hold) s = .next s := congrArg _ (if_pos h)

/-- What an accepted pre-emption does with a flask that it names. -/
theorem State.mailActed_named {fl : Flask} (hk : s.flasks.get? k = some fl) (hnamed : s.namedBy tag pour flask fl) :
    let c := mailCmd (s.namedFlasks tag pour flask) action deadline hold
    (fl.status = .saving → hold = true → ((s.mailActed c).flask k).hold = true)
    ∧ (fl.status = .resident → s.handling fl = true →
        k ∈ (s.mailRest c).todo ∧ k ∈ (s.mailRest c).flasks ∧ ((s.mailActed c).flask k).status = .resident)
    ∧ (fl.status = .resident → s.handling fl = false →
        (hold = true → ((s.mailActed c).flask k).hold = true) ∧ ((s.mailActed c).flask k).actedOn action) := by
  intro c
  have hflask : s.flask k = fl := by rw [State.flask, Table.get, hk, Option.getD_some]
  have hmem : (k, fl) ∈ s.flasks := Table.mem_of_get? hk
  refine ⟨fun hst hhold => ?_, fun hst hhandling => ?_, fun hst hidle => ?_⟩
  · exact s.mailActed_hold c ((s.mem_mailSaving c).mpr
      ⟨State.mem_namedFlasks.mpr ⟨fl, hmem, .inr hst, hnamed⟩, by rw [hflask, hst]⟩) hhold
  · have hin : k ∈ s.namedFlasks tag pour flask := State.mem_namedFlasks.mpr ⟨fl, hmem, .inl hst, hnamed⟩
    have hready : k ∉ s.mailReady c := fun h => by
      obtain ⟨-, -, -, hno⟩ := (s.mem_mailReady c).mp h
      rw [hflask, hhandling] at hno
      cases hno
    have hsaving : k ∉ s.mailSaving c := fun h => by
      have hno := ((s.mem_mailSaving c).mp h).2
      rw [hflask, hst] at hno
      cases hno
    have hsame := s.get?_mailActed c hready hsaving
    have hactedFlask : (s.mailActed c).flask k = fl := (State.flask_of_get? hsame).trans hflask
    have hplaced : (s.mailActed c).placed k = true := by
      simp [State.placed, Table.has, hsame, hk, hactedFlask, hst]
    refine ⟨List.mem_filter.mpr ⟨hin, ?_⟩, List.mem_filter.mpr ⟨hin, hplaced⟩, hactedFlask ▸ hst⟩
    simp [hready, hplaced]
  · have hready : k ∈ s.mailReady c := (s.mem_mailReady c).mpr
      ⟨State.mem_namedFlasks.mpr ⟨fl, hmem, .inl hst, hnamed⟩, by rw [Table.has, hk]; rfl, by rw [hflask, hst], by rw [hflask, hidle]⟩
    exact State.flask_foldl_mailPreempt c _ _ hready

/-- A pre-emption leaves the flasks that it does not name. -/
theorem State.mailActed_unnamed (h : ∀ fl, (k, fl) ∈ s.flasks → ¬s.namedBy tag pour flask fl) :
    (s.mailActed (mailCmd (s.namedFlasks tag pour flask) action deadline hold)).flask k = s.flask k := by
  have hno : k ∉ s.namedFlasks tag pour flask := fun hin => by
    obtain ⟨fl, hmem, -, hnamed⟩ := State.mem_namedFlasks.mp hin
    exact h fl hmem hnamed
  exact State.flask_of_get? (s.get?_mailActed _ (fun hr => hno ((s.mem_mailReady _).mp hr).1)
    fun hs => hno ((s.mem_mailSaving _).mp hs).1)

end

/-! ## The start of a flask (R22, R247) -/

/-- A block put into its slot: the other blocks, the flasks and the homes stay. -/
theorem State.startBlock_other (s : State) (bid : Nat) (b : Block) (p : Pour) :
    (s.startBlock bid b p).flasks = s.flasks ∧ (s.startBlock bid b p).homes = s.homes
    ∧ (s.startBlock bid b p).blocks
      = s.blocks.put bid { b with rstpc := BitVec.ofNat 64 p.kern.entry, bars := p.kern.startBars, accRc := p.kern.accRc } := by
  unfold State.startBlock
  dsimp only
  refine List.foldlRecOn (motive := fun t : State => t.flasks = s.flasks ∧ t.homes = s.homes ∧ t.blocks = _) _ _ ⟨rfl, rfl, rfl⟩
    fun _ ht _ _ => ht

/-- A block that a flask has just started. -/
def Block.startedBy (b : Block) (f : Nat) : Prop := b.flask = f ∧ b.halted = false ∧ b.retired = false

/-- The blocks of a flask started one after another. -/
def State.startBlocks (s : State) (f : Nat) (p : Pour) (l : List ((Nat × Nat × Nat) × Nat)) : State :=
  l.foldl (fun s e => s.startBlock e.1.1 { flask := f, idx := e.2, half := e.1.2.1, slot := e.1.2.2 } p) s

theorem State.startBlocks_other (s : State) (f : Nat) (p : Pour) (l : List ((Nat × Nat × Nat) × Nat)) :
    (s.startBlocks f p l).flasks = s.flasks ∧ (s.startBlocks f p l).homes = s.homes :=
  List.foldlRecOn (motive := fun t : State => t.flasks = s.flasks ∧ t.homes = s.homes) _ _ ⟨rfl, rfl⟩ fun t ht e _ => by
    obtain ⟨hflasks, hhomes, -⟩ := t.startBlock_other e.1.1 { flask := f, idx := e.2, half := e.1.2.1, slot := e.1.2.2 } p
    exact ⟨hflasks.trans ht.1, hhomes.trans ht.2⟩

theorem State.block_startBlocks {s : State} {f : Nat} {p : Pour} {b : Nat} (l : List ((Nat × Nat × Nat) × Nat))
    (h : (s.block b).startedBy f ∨ b ∈ l.map (·.1.1)) : ((s.startBlocks f p l).block b).startedBy f := by
  induction l generalizing s with
  | nil => exact h.resolve_right List.not_mem_nil
  | cons e l ih =>
    refine ih ?_
    obtain ⟨-, -, hblocks⟩ := s.startBlock_other e.1.1 { flask := f, idx := e.2, half := e.1.2.1, slot := e.1.2.2 } p
    rw [State.block, hblocks]
    by_cases hb : b = e.1.1
    · subst hb
      rw [Table.get_put_self]
      exact .inl ⟨rfl, rfl, rfl⟩
    · rw [Table.get_put_ne _ hb]
      exact h.imp id fun hmem => (List.mem_cons.mp hmem).resolve_left hb

/-- Every slot of a choice has its half and place. -/
theorem mem_slots {bids : List Nat} {b : Nat} (h : b ∈ bids) : b ∈ ((bids.zip (halfSlots bids)).zipIdx).map (·.1.1) := by
  have hlen : bids.length ≤ (halfSlots bids).length := by simp [halfSlots]
  have hmap : ((bids.zip (halfSlots bids)).zipIdx).map (·.1.1) = bids := by
    rw [show (fun e : (Nat × Nat × Nat) × Nat => e.1.1) = (·.1) ∘ (·.1) from rfl, ← List.map_map, List.zipIdx_map_fst,
      List.map_fst_zip hlen]
  rwa [hmap]

/-- A flask started is resident in its slots, sees the device generation, and its blocks run. -/
theorem State.startFlask_starts (s : State) (f : Nat) (fl : Flask) (x : Slots) :
    let t := s.startFlask f fl x
    (t.flask f).status = .resident ∧ (t.flask f).blocks = x.bids ∧ (t.flask f).viewGen = t.homes.dgen
    ∧ ∀ b ∈ x.bids, (t.block b).flask = f ∧ (t.block b).halted = false ∧ (t.block b).retired = false := by
  intro t
  let u := s.setFlask f { fl.take x s.ctrl.now with
    movedAt := if fl.status == .again then s.ctrl.stamp + 1 else 0
    viewGen := s.homes.dgen, runners := (List.range (s.pour fl.pour).kern.runners).map fun n => (n, {}) }
  have ht : t = (u.startBlocks f (s.pour fl.pour) (x.bids.zip (halfSlots x.bids)).zipIdx).tickStamp := rfl
  obtain ⟨hflasks, hhomes⟩ := u.startBlocks_other f (s.pour fl.pour) (x.bids.zip (halfSlots x.bids)).zipIdx
  have hflask : t.flask f = u.flask f := by rw [ht]; exact congrArg (fun fs : Table Flask => fs.get f Flask.absent) hflasks
  have hdgen : t.homes.dgen = s.homes.dgen := by rw [ht]; exact congrArg Homes.dgen hhomes
  rw [hflask, hdgen, State.flask_setFlask]
  refine ⟨rfl, rfl, rfl, fun b hb => ?_⟩
  rw [ht]
  exact State.block_startBlocks _ (.inr (mem_slots hb))

end Sys2Proof.Machine

end

section
/-!
# The end of a save, and retirement

The write-back of the stack caches and the move of a block to its save area take no time, so that the wait of a saved flask is
counted from the end of its save (log entry 120). The release of a launch record leaves its final status last among those that
its context keeps (R269).
-/

namespace Sys2Proof.Machine

open Sys2Proof

/-! ## Operations that take no time -/

/-- The cycle is as before. -/
def State.sameTime (s t : State) : Prop := t.ctrl.now = s.ctrl.now

namespace State.sameTime

variable {s t : State}

theorem refl (s : State) : s.sameTime s := rfl

theorem of_sameWork {u : State} (h : s.sameTime t) (hu : t.sameWork u) : s.sameTime u := Eq.trans hu.now h

theorem foldl {β : Type} {f : State → β → State} {l : List β} (h : s.sameTime t)
    (hf : ∀ (t : State) b, s.sameTime t → s.sameTime (f t b)) : s.sameTime (l.foldl f t) :=
  List.foldlRecOn l f h fun t ht b _ => hf t b ht

variable (h : s.sameTime t)
include h

theorem defer {bid sq : Nat} {byHandler : Bool} {w : Word} : s.sameTime (t.defer bid sq byHandler w) := by
  unfold State.defer
  split
  · exact h
  · exact h

theorem pageFault {tag va kind src : Nat} : s.sameTime (t.pageFault tag va kind src).1 := by
  unfold State.pageFault
  dsimp only
  split
  · exact h
  · dsimp only
    split
    · exact .of_sameWork (t := (t.setTenant _ _).bump) h (.irq (.refl _))
    · exact h

theorem spillHome {bid sq : Nat} {byHandler : Bool} {l : StackLine} {pa : Nat} :
    s.sameTime (t.spillHome bid sq byHandler l pa) := by
  unfold State.spillHome
  split
  · exact .defer h
  · split
    · exact h
    · exact .of_sameWork h (.storeFrom (.refl _))

theorem spillFar {bid sq : Nat} {byHandler : Bool} {l : StackLine} {ep ptag cls a : Nat} :
    s.sameTime (t.spillFar bid sq byHandler l ep ptag cls a) := by
  unfold State.spillFar
  split
  · exact .defer (t := t.sideEffect _) h
  · exact h
  · split
    · exact h
    · exact .of_sameWork h (.update (.sendFlit (.refl _)) rfl)

theorem spill {bid sq : Nat} {byHandler : Bool} {l : StackLine} : s.sameTime (t.spill bid sq byHandler l) := by
  unfold State.spill
  split
  · exact .of_sameWork h (.ruinBlock (.refl _))
  · split
    · exact h
    · have hfound : s.sameTime (t.translate (coreOf bid) (t.tagOfBlock bid) (t.stackLineAddr bid sq l.key)).1 :=
        .of_sameWork h (.translate (.refl _))
      dsimp only
      split
      · exact .spillHome hfound
      · exact hfound
      · exact .spillFar hfound
      · exact .defer hfound
      · exact .of_sameWork hfound (.ruinTag (.refl _))
      · exact hfound
      · exact .pageFault hfound

theorem flushStack {bid sq : Nat} : s.sameTime (t.flushStack bid sq) := by
  unfold State.flushStack
  exact .foldl h fun _ _ ht => .spill ht

theorem flushStacks {bids : List Nat} : s.sameTime (t.flushStacks bids) := .foldl h fun _ _ ht => .flushStack ht

theorem saveBlock {bid : Nat} : s.sameTime (t.saveBlock bid) := by
  have haccs : s.sameTime (t.saveAccs bid) := by
    unfold State.saveAccs
    dsimp only
    split
    · exact h
    · exact h
  exact haccs

end State.sameTime

/-! ## The end of a save (R138, R222, R262) -/

/-- A save whose work is done ends with its flask saved, which waits from then on. -/
theorem State.finishSave_saves {s : State} {f : Nat} (hhandler : s.handlerCause (s.flask f).blocks = none)
    (hheld : s.heldCause (s.flask f).blocks = none) (hdamage : s.saveDamage (s.flask f).blocks = none) :
    ((s.finishSave f).flask f).status = .saved ∧ ((s.finishSave f).flask f).waitFrom = s.ctrl.now := by
  have hnow : s.sameTime (((s.flask f).blocks.foldl State.saveBlock s).newRecord (saveRecord f)) :=
    .of_sameWork (.foldl (.refl s) fun _ _ ht => .saveBlock ht) (.repair (.refl _))
  have hsave : s.finishSave f = (((s.flask f).blocks.foldl State.saveBlock s).newRecord (saveRecord f)).setFlask f
      { (((s.flask f).blocks.foldl State.saveBlock s).newRecord (saveRecord f)).flask f with
        status := .saved
        waitFrom := (((s.flask f).blocks.foldl State.saveBlock s).newRecord (saveRecord f)).ctrl.now } := by
    unfold State.finishSave
    simp only [hhandler, hheld, hdamage]
  rw [hsave, State.flask_setFlask]
  exact ⟨rfl, hnow⟩

/-- The event ends a save once the blocks are quiet, before and after the write-backs. -/
theorem exec_saveComplete_of_quiet {f : Nat} {s : State} (hst : (s.flask f).status = .saving)
    (hhandling : s.handling (s.flask f) = false) (hquiet : ∀ b ∈ (s.flask f).blocks, s.quiet b = true) :
    let u := (s.flask f).blocks.foldl State.giveBack (s.flushStacks (s.flask f).blocks)
    (∀ b ∈ (s.flask f).blocks, u.quiet b = true ∧ u.givesBack b = false) →
    exec (.saveComplete f) s = .next (u.finishSave f) := by
  intro u hback
  have hall : (s.flask f).blocks.all s.quiet = true := List.all_eq_true.mpr hquiet
  have hallBack : (s.flask f).blocks.all u.quiet = true := List.all_eq_true.mpr fun b hb => (hback b hb).1
  have hnone : (s.flask f).blocks.any u.givesBack = false := List.any_eq_false.mpr fun b hb => by simp [(hback b hb).2]
  change Host.Outcome.next (if (s.flask f).status != .saving || s.handling (s.flask f) || !((s.flask f).blocks.all s.quiet) then s
    else if !((s.flask f).blocks.all u.quiet) || (s.flask f).blocks.any u.givesBack then u else u.finishSave f) = _
  rw [hst, hhandling, hall, hallBack, hnone]
  rfl

/-! ## Retirement (R22, R222, R269) -/

theorem exec_blockRetire_of_done {blk : Nat} {draw : BitVec 16} {s : State} (hdone : s.blockDone blk = true)
    (hcause : s.handlerCause [blk] = none) (hback : (s.giveBack blk).givesBack blk = false) :
    exec (.blockRetire blk draw) s = .next ((s.giveBack blk).retireBlock blk draw) := by
  change execBlockRetire blk draw s = _
  simp [execBlockRetire, hdone, hcause, hback]

/-- A list cut to its last entries keeps its last one. -/
theorem exists_drop_append_singleton {α : Type} (l : List α) (a : α) {n : Nat} (hn : 0 < n) :
    ∃ kept, (l ++ [a]).drop ((l ++ [a]).length - n) = kept ++ [a] :=
  ⟨l.drop ((l ++ [a]).length - n), List.drop_append_of_le_length (by simp; omega)⟩

/-- The release of a launch record leaves no pour under its key, and the pour's status last among those kept. -/
theorem State.retirePour_releases (s : State) (p : Nat) : (s.retirePour p).pours.get? p = none
    ∧ ∃ kept, ((s.retirePour p).context (s.pour p).tag).retired = kept ++ [((s.pour p).num, (s.pour p).status)] := by
  have hread := (State.sameWork.readRecord (r := pourRecord p) (.refl s)).pour p
  let u := s.readRecord (pourRecord p)
  let v := ((u.context (s.pour p).tag).ranges.filter fun g => g.pour == p).foldl State.foldRange u
  let c := v.context (s.pour p).tag
  let kept := c.retired ++ [((s.pour p).num, (s.pour p).status)]
  let w := v.setContext (s.pour p).tag { c with
    retired := kept.drop (kept.length - 1024), ranges := c.ranges.filter fun g => g.pour != p }
  let n := w.tenantOf (s.pour p).tag
  let y := w.setTenant n { w.tenant n with sprues := (w.tenant n).sprues.map fun x => (x.1, x.2.poured p) }
  let z := y.irq (some n) (if 4 + (s.pour p).que < (w.tenant n).nvec then 4 + (s.pour p).que else 3)
  have hretire : s.retirePour p = { z.raiseDgen with
      pours := z.pours.erase p, flasks := z.raiseDgen.flasks.filter fun f => f.2.pour != p } := by
    unfold State.retirePour
    dsimp only
    rw [hread]
  have hcontexts : z.raiseDgen.contexts = w.contexts :=
    (State.raiseDgen_contexts z).trans (State.sameWork.irq (.refl y)).contexts
  have hcontext : (s.retirePour p).context (s.pour p).tag = w.context (s.pour p).tag := by
    rw [hretire]
    exact congrArg (fun cs : Table Context => cs.get (s.pour p).tag {}) hcontexts
  obtain ⟨rest, hrest⟩ := exists_drop_append_singleton c.retired ((s.pour p).num, (s.pour p).status) (n := 1024) (by omega)
  refine ⟨by rw [hretire]; exact Table.get?_erase_self _ _, rest, ?_⟩
  have hkept : w.context (s.pour p).tag = { c with
      retired := kept.drop (kept.length - 1024), ranges := c.ranges.filter fun g => g.pour != p } :=
    State.context_setContext v _ _
  rw [hcontext, hkept, ← hrest]

/-! ## The events -/

theorem exec_flaskPlace_of_next {s : State} {w : Waiting} {x : Slots} {q : Option (Nat × Nat)}
    (h : s.urgentTrigger.cwaitTriggers.nextPlaced = some (w, x, q)) :
    exec .flaskPlace s = .next (s.urgentTrigger.cwaitTriggers.place w x q) := by
  change execFlaskPlace s = _
  simp only [execFlaskPlace, h]

theorem exec_hWaitTimeout_of_long {f : Nat} {s : State} {w : Waiting} (hw : s.waitingAt f = some w)
    (hcls : (s.pourWaiting w).cls = 1) (hlong : s.waitsSince w + 33000 ≤ s.ctrl.now) (hslots : s.slotsFor (s.pourWaiting w) = none) :
    exec (.hWaitTimeout f) s = .next (s.preemptClasses (s.pourWaiting w) (fun c => decide (2 ≤ c)) 33000) := by
  change execHWaitTimeout f s = _
  simp only [execHWaitTimeout, hw]
  exact congrArg _ (if_pos ⟨hcls, hlong, by rw [hslots]; rfl⟩)

/-- Settles O57: each event in the case that its statement names, from the lemmas on the operations of the scheduler. -/
theorem schedulerEvents : Obligations.SchedulerEvents := by
  refine ⟨fun s w x q => exec_flaskPlace_of_next, State.startFlask_starts, fun f s w => exec_hWaitTimeout_of_long,
    fun f s hst hhandling hquiet => ?save, fun blk draw s => exec_blockRetire_of_done, fun p => ?retire,
    State.retirePour_releases, fun tag pour flask action deadline hold s hbusy => ⟨fun hrefused => ?refused, fun haction hen => ?accepted⟩,
    fun c f s => ?act, fun _ _ _ _ _ _ _ => exec_preEmpt_of_busy⟩
  case save =>
    intro u hback hhandler hheld hdamage
    obtain ⟨hsaved, hwait⟩ := State.finishSave_saves hhandler hheld hdamage
    have hnow : s.sameTime u := .foldl (.flushStacks (.refl s)) fun _ _ ht => .of_sameWork ht (.giveBack (.refl _))
    exact ⟨_, exec_saveComplete_of_quiet hst hhandling hquiet hback, hsaved, hwait.trans hnow⟩
  case retire => exact eventIs_of_ite (fun _ => rfl) fun _ => Iff.rfl
  case refused => exact ⟨_, exec_preEmpt_of_refused hbusy hrefused, rfl, rfl⟩
  case accepted =>
    exact ⟨_, _, exec_preEmpt_of_accepted hbusy haction hen, rfl, rfl, rfl, rfl, fun k fl => State.mailActed_named,
      fun k => State.mailActed_unnamed⟩
  case act =>
    intro fl t n drained
    refine ⟨(s.flask_mailPreempt c f).1, fun h1 => ⟨fun hfree => ?_, fun hfull => ?_⟩, fun h0 hends => ?_,
      fun h0 hlate hflush => ?_, fun h2 hflush => ?_, fun h1 hlate hflush hfree => ?_⟩
    · exact State.flask_mailPreempt_of_save (s.mailAct_of_save c f h1) hfree
    · exact State.flask_mailPreempt_of_drain ((s.mailAct_of_save c f h1).trans (s.beginSave_of_full f hfull))
    · exact State.flask_mailPreempt_of_drain (s.mailAct_of_drain c f h0 hends)
    · exact State.flask_mailPreempt_of_flush
        ((s.mailAct_of_leave c f (by omega) fun _ => hlate).trans (if_pos hflush))
    · exact State.flask_mailPreempt_of_flush
        ((s.mailAct_of_leave c f (by omega) fun h0 => by omega).trans (if_pos hflush))
    · exact (State.flask_mailPreempt_of_save
        ((s.mailAct_of_leave c f h1 hlate).trans (if_neg (Bool.eq_false_iff.mp hflush))) hfree).1

end Sys2Proof.Machine

end
